-- ==== Sys2Proof/Word.lean ====
section
/-! DEFINITION. The word types of the device (00_scope.md R5, R7) and nothing else. -/

namespace Sys2Proof

/-- One byte of memory. -/
abbrev Byte := BitVec 8
/-- One 32-bit word: a general register, an instruction word, a local-store word. -/
abbrev Word := BitVec 32
/-- One 64-bit value: a uniform register, a control register, a virtual address, a logical time. -/
abbrev DWord := BitVec 64
/-- A stamp of a line (02_lines_and_homes.md R39). -/
abbrev Stamp := BitVec 32
/-- A set of lanes: bit L is lane L (15_travellers.md R346). -/
abbrev Mask := BitVec 32
/-- The 128 bytes of a line; byte i in bits [8i+7:8i] (01_main_memory.md R15, 00_scope.md R5). -/
abbrev LineData := BitVec 1024
/-- A sparse table: strictly rising keys; a key that is not listed has the default value of its use. -/
abbrev Sparse (α : Type) := List (Nat × α)

end Sys2Proof
end

