-- ==== Sys2Proof/Syntax.lean ====
section
/-! DEFINITION. The instructions and the device events of spec/opcode_table.json: one constructor of `Instr` a row.
Operand types carry the field classes of 08_encoding.md R159, R161, R162, R165, R166, R175. -/

namespace Sys2Proof

/-- A general register name `g0`-`g63` as written, before rotation (R159, R122). -/
abbrev GReg := BitVec 6
/-- A uniform register name `s0`-`s31` (R159). -/
abbrev SReg := BitVec 5
/-- A predicate name `p0`-`p15` (R159). -/
abbrev PReg := BitVec 4
/-- A tile name (R159). -/
abbrev TReg := BitVec 3
/-- An accumulator name (R159). -/
abbrev AccReg := BitVec 2

/-- The read modes of 06_registers.md R119: 00, 01 (`?`), 10 (`^`). -/
inductive ReadMode where
  | wait | test | consume
  deriving DecidableEq, Repr

/-- A source operand: a general register with its read mode, or a uniform register (R159). -/
inductive Src where
  | g (r : GReg) (m : ReadMode)
  | s (r : SReg)
  deriving DecidableEq, Repr

/-- A guard: `pGUARD` xor GNEG (R158). -/
structure Guard where
  p : PReg
  neg : Bool
  deriving DecidableEq, Repr

/-- The integer types 0x0-0x3 of R165. -/
inductive ITy where
  | i32 | n32 | i64 | n64
  deriving DecidableEq, Repr

/-- The sixteen types of R165 in the order of their codes. -/
inductive Ty where
  | i32 | n32 | i64 | n64 | i16 | n16 | i8 | n8 | f32 | f16 | bf16 | e4m3 | e5m2 | e2m1 | i4 | n4
  deriving DecidableEq, Repr

/-- The RND field of R162: `FPCTL.RM`, or a mode of its own. -/
inductive Rnd where
  | dyn | rn | rz | rd | ru
  deriving DecidableEq, Repr

/-- The modifiers of one floating source (R162): negate, absolute value. -/
structure FMod where
  neg : Bool
  abs : Bool
  deriving DecidableEq, Repr

/-- The scopes of R166. -/
inductive Scope where
  | thr | core | clu | dev | sys
  deriving DecidableEq, Repr

/-- SIZE of R166. -/
inductive Size where
  | b8 | b16 | b32 | b64 | b128
  deriving DecidableEq, Repr

/-- ORD of R157. -/
inductive Ord4 where
  | plain | acq | rel | ar
  deriving DecidableEq, Repr

/-- COND of `CMP` (10_isa_lane.md R221). -/
inductive Cond where
  | eq | ne | lt | le | gt | ge
  deriving DecidableEq, Repr

/-- COND of `FCMP` (R226). -/
inductive FCond where
  | eq | ne | lt | le | gt | ge | un | or
  deriving DecidableEq, Repr

/-- The modes of `SHFL` (R232). -/
inductive ShflMode where
  | idx | up | down | xor
  deriving DecidableEq, Repr

/-- The operations of `VOTE` (R232). -/
inductive VoteOp where
  | any | all | uni | ballot
  deriving DecidableEq, Repr

/-- OP of `REDL` and `SCANL` (R233). -/
inductive RedlOp where
  | add | min | max | and | or | xor
  deriving DecidableEq, Repr

/-- The key types of `HSIFT` and `BINS` (R235, R237). -/
inductive KeyTy where
  | i32 | n32 | f32
  deriving DecidableEq, Repr

/-- The kinds of `PROBE` (09_isa_arrival.md R198). -/
inductive ProbeKind where
  | ld | st | atom | fetch
  deriving DecidableEq, Repr

/-- KIND of `FENCE` (13_isa_return.md R300). -/
inductive FenceKind where
  | ld | st | all
  deriving DecidableEq, Repr

/-- DIR of `BAREXP` (R302). -/
inductive BarDir where
  | inb | outb | both
  deriving DecidableEq, Repr

/-- OP of `ATOM` (R296). -/
inductive AtomOp where
  | add | and | or | xor | mins | maxs | minu | maxu | xchg | cas
  deriving DecidableEq, Repr

/-- OP of `RED` (R298). -/
inductive RedOp where
  | add | and | or | xor | min | max
  deriving DecidableEq, Repr

/-- The types that `RED` takes (R298): KIND with SIZE. -/
inductive RedTy where
  | i32 | i64 | n32 | n64 | f32 | bf16
  deriving DecidableEq, Repr

/-- The operand n of `WAITT` (R207). -/
inductive WaitN where
  | imm (n : BitVec 16)
  | src (a : Src)
  deriving DecidableEq, Repr

/-- W of `MFC` with its destination (17_isa_control.md R363, R387). -/
inductive MfcDst where
  | pair (d : GReg)
  | word (d : GReg)
  | uni (d : SReg)
  deriving DecidableEq, Repr

/-- The levels of `CANCEL` (R363). -/
inductive Level where
  | launch | graph | phase | job
  deriving DecidableEq, Repr

/-- The role classes of a warp (06_registers.md R131). -/
inductive Role where
  | load | store | comp
  deriving DecidableEq, Repr

/-- The fields of `WMLEN` (12_waymark.md R284). -/
inductive WmField where
  | len | cap | total | bounds
  deriving DecidableEq, Repr

/-- The word count code of `TPACK` and `TUNPK` (11_isa_tiles.md R254). -/
inductive WordCount where
  | w1 | w2 | w4
  deriving DecidableEq, Repr

/-- The shapes of `COPY` (R201). -/
inductive CopyShape where
  | d1 | d2 | d3
  deriving DecidableEq, Repr

/-- The forms of the X96 `MOVI` (10_isa_lane.md R218). -/
inductive MoviKind where
  | word | pairSext | pairZext
  deriving DecidableEq, Repr

/-- A third or fourth register of word 2 (R200): general in mode 00, or uniform. -/
inductive Src3 where
  | g (r : GReg)
  | s (r : SReg)
  deriving DecidableEq, Repr

/-- The fields every memory instruction of the Q64 and X96 forms carries (R166): scope, base and signed byte offset. -/
structure MemArg where
  scope : Scope
  base : Src
  off : BitVec 16
  deriving DecidableEq, Repr

/-- Where a soft error is found (19_traps.md R429): a byte of memory at its home or of a cluster's copy, by physical address;
a word of a local store; a general, uniform or predicate register; a tile (0-7) or an accumulator (8-11). -/
inductive ErrPlace where
  | home (addr : Nat)
  | copy (cluster addr : Nat)
  | store (cluster core word : Nat)
  | reg (unit lane num : Nat)
  | uniform (unit num : Nat)
  | preds (unit lane : Nat)
  | tile (cluster core num : Nat)
  | link (num : Nat)
  deriving DecidableEq, Repr

/-- What a write of the host carries: bytes, and whether they are poisoned (23_host_and_links.md R469). -/
structure HostBytes where
  bytes : List Byte
  bad : Bool
  deriving DecidableEq, Repr

/-- A dirty line that the host gives back: the data and its poisoned sectors (R461, R469). -/
structure DirtyLine where
  data : LineData
  bad : BitVec 8
  deriving DecidableEq, Repr

/-- The instructions of Fomet and the events of the device (spec/opcode_table.json). A constructor with a `Guard` is a
guarded form. The events name the messages, units and places on which they act by the model's numbers. The rows without
operands stand last, because Lean's compiler limits the position of a constructor with fields. -/
inductive Instr where
  -- Z32, I32 and J32 forms
  | brJ32 (disp : BitVec 22)
  | callJ32 (disp : BitVec 22)
  | chk (disp : BitVec 22)
  | calli (a : GReg)
  | calliTail (a : GReg)
  | drainArrive (a : GReg)
  | addZ32 (t : ITy) (d a b : GReg)
  | subZ32 (t : ITy) (d a b : GReg)
  | mulZ32 (t : ITy) (d a b : GReg)
  | mulhZ32 (t : ITy) (d a b : GReg)
  | minZ32 (t : ITy) (d a b : GReg)
  | maxZ32 (t : ITy) (d a b : GReg)
  | andZ32 (t : ITy) (d a b : GReg)
  | orZ32 (t : ITy) (d a b : GReg)
  | xorZ32 (t : ITy) (d a b : GReg)
  | andnZ32 (t : ITy) (d a b : GReg)
  | shlZ32 (t : ITy) (d a b : GReg)
  | shrZ32 (t : ITy) (d a b : GReg)
  | sarZ32 (t : ITy) (d a b : GReg)
  | rotZ32 (t : ITy) (d a b : GReg)
  | selZ32 (p : PReg) (d a b : GReg)
  | movZ32 (t : ITy) (d a : GReg)
  | addI32 (d a : GReg) (imm : BitVec 10)
  | mulI32 (d a : GReg) (imm : BitVec 10)
  | minI32 (d a : GReg) (imm : BitVec 10)
  | maxI32 (d a : GReg) (imm : BitVec 10)
  | andI32 (d a : GReg) (imm : BitVec 10)
  | orI32 (d a : GReg) (imm : BitVec 10)
  | xorI32 (d a : GReg) (imm : BitVec 10)
  | shlI32 (d a : GReg) (n : BitVec 5)
  | shrI32 (d a : GReg) (n : BitVec 5)
  | sarI32 (d a : GReg) (n : BitVec 5)
  | rotI32 (d a : GReg) (n : BitVec 5)
  | moviI32 (d : GReg) (imm : BitVec 10)
  | trap (code : BitVec 8) (a : GReg)
  | ldI32 (d a : GReg) (imm : BitVec 10)
  | stI32 (d a : GReg) (imm : BitVec 10)
  | notZ32 (t : ITy) (d a : GReg)
  | negZ32 (t : ITy) (d a : GReg)
  | absZ32 (t : ITy) (d a : GReg)
  | clzZ32 (t : ITy) (d a : GReg)
  | popcZ32 (t : ITy) (d a : GReg)
  | brevZ32 (t : ITy) (d a : GReg)
  | faddZ32 (d a b : GReg)
  | fsubZ32 (d a b : GReg)
  | fmulZ32 (d a b : GReg)
  | fminZ32 (d a b : GReg)
  | fmaxZ32 (d a b : GReg)
  | pand (d a b : PReg)
  | por (d a b : PReg)
  | pxor (d a b : PReg)
  | pnot (d a : PReg)
  -- Q64, Q64C and J64 forms
  | addQ64 (g : Guard) (t : ITy) (sat : Bool) (d : GReg) (a b : Src)
  | subQ64 (g : Guard) (t : ITy) (sat : Bool) (d : GReg) (a b : Src)
  | mulQ64 (g : Guard) (t : ITy) (sat : Bool) (d : GReg) (a b : Src)
  | mulhQ64 (g : Guard) (t : ITy) (d : GReg) (a b : Src)
  | minQ64 (g : Guard) (t : ITy) (d : GReg) (a b : Src)
  | maxQ64 (g : Guard) (t : ITy) (d : GReg) (a b : Src)
  | andQ64 (g : Guard) (t : ITy) (d : GReg) (a b : Src)
  | orQ64 (g : Guard) (t : ITy) (d : GReg) (a b : Src)
  | xorQ64 (g : Guard) (t : ITy) (d : GReg) (a b : Src)
  | andnQ64 (g : Guard) (t : ITy) (d : GReg) (a b : Src)
  | shlQ64 (g : Guard) (t : ITy) (d : GReg) (a b : Src)
  | shrQ64 (g : Guard) (t : ITy) (d : GReg) (a b : Src)
  | sarQ64 (g : Guard) (t : ITy) (d : GReg) (a b : Src)
  | rotQ64 (g : Guard) (t : ITy) (d : GReg) (a b : Src)
  | div (g : Guard) (t : ITy) (d : GReg) (a b : Src)
  | rem (g : Guard) (t : ITy) (d : GReg) (a b : Src)
  | mad (g : Guard) (t : ITy) (sat : Bool) (d : GReg) (a b c : Src)
  | notQ64 (g : Guard) (t : ITy) (d : GReg) (a : Src)
  | negQ64 (g : Guard) (t : ITy) (sat : Bool) (d : GReg) (a : Src)
  | absQ64 (g : Guard) (t : ITy) (sat : Bool) (d : GReg) (a : Src)
  | clzQ64 (g : Guard) (t : ITy) (d : GReg) (a : Src)
  | popcQ64 (g : Guard) (t : ITy) (d : GReg) (a : Src)
  | brevQ64 (g : Guard) (t : ITy) (d : GReg) (a : Src)
  | bfe (g : Guard) (signed : Bool) (pos : BitVec 5) (len : BitVec 6) (d : GReg) (a : Src)
  | bfi (g : Guard) (signed : Bool) (pos : BitVec 5) (len : BitVec 6) (d : GReg) (a : Src)
  | selQ64 (g : Guard) (p : PReg) (w64 notp : Bool) (d : GReg) (a b : Src)
  | movQ64 (g : Guard) (t : ITy) (d : GReg) (a : Src)
  | movs (g : Guard) (t : ITy) (d : SReg) (a : Src)
  | leaQ64 (g : Guard) (signed : Bool) (d : GReg) (base idx : Src) (sh : BitVec 3) (disp : BitVec 13)
  | cmp (g : Guard) (t : ITy) (c : Cond) (d : PReg) (a b : Src)
  | fcmp (g : Guard) (c : FCond) (d : PReg) (a : Src) (ma : FMod) (b : Src) (mb : FMod)
  | faddQ64 (g : Guard) (r : Rnd) (sat : Bool) (d : GReg) (a : Src) (ma : FMod) (b : Src) (mb : FMod)
  | fsubQ64 (g : Guard) (r : Rnd) (sat : Bool) (d : GReg) (a : Src) (ma : FMod) (b : Src) (mb : FMod)
  | fmulQ64 (g : Guard) (r : Rnd) (sat : Bool) (d : GReg) (a : Src) (ma : FMod) (b : Src) (mb : FMod)
  | ffma (g : Guard) (r : Rnd) (sat : Bool) (d : GReg) (a : Src) (na : Bool) (b : Src) (nb : Bool) (c : Src) (nc : Bool)
  | fminQ64 (g : Guard) (d : GReg) (a : Src) (ma : FMod) (b : Src) (mb : FMod)
  | fmaxQ64 (g : Guard) (d : GReg) (a : Src) (ma : FMod) (b : Src) (mb : FMod)
  | frcp (g : Guard) (r : Rnd) (sat : Bool) (d : GReg) (a : Src) (ma : FMod)
  | frsq (g : Guard) (r : Rnd) (sat : Bool) (d : GReg) (a : Src) (ma : FMod)
  | fsqrt (g : Guard) (r : Rnd) (sat : Bool) (d : GReg) (a : Src) (ma : FMod)
  | fexp2 (g : Guard) (r : Rnd) (sat : Bool) (d : GReg) (a : Src) (ma : FMod)
  | flog2 (g : Guard) (r : Rnd) (sat : Bool) (d : GReg) (a : Src) (ma : FMod)
  | cvt (g : Guard) (dt st : Ty) (r : Rnd) (sat : Bool) (d : GReg) (a : Src) (ma : FMod)
  | pack (g : Guard) (dt : Ty) (r : Rnd) (sat : Bool) (d : GReg) (a : Src) (ma : FMod) (b : Src) (mb : FMod)
  | upk (g : Guard) (t : Ty) (raw : Bool) (idx : BitVec 3) (d : GReg) (a : Src) (ma : FMod)
  | dot4 (g : Guard) (t : Ty) (d : GReg) (a b c : Src)
  | dot8 (g : Guard) (t : Ty) (d : GReg) (a b c : Src)
  | shfl (g : Guard) (m : ShflMode) (w64 : Bool) (d : GReg) (a b : Src)
  | bcast (g : Guard) (w64 : Bool) (d : GReg) (a b : Src)
  | vote (g : Guard) (op : VoteOp) (d : GReg) (a : PReg)
  | redl (g : Guard) (op : RedlOp) (t : Ty) (r : Rnd) (d : GReg) (a : Src)
  | scanl (g : Guard) (op : RedlOp) (t : Ty) (r : Rnd) (d : GReg) (a : Src)
  | first (g : Guard) (d : GReg) (a : PReg)
  | rand (g : Guard) (f32 : Bool) (d : GReg) (a b : Src)
  | hsift (g : Guard) (t : KeyTy) (bot : Bool) (k : BitVec 6) (d : GReg) (a b : Src)
  | bins (g : Guard) (t : KeyTy) (lt : Bool) (m : BitVec 8) (lease : BitVec 3) (d : GReg) (a b : Src)
  | twalk (g : Guard) (lease : BitVec 3) (n : BitVec 16) (d : GReg) (a b : Src)
  | tmask (g : Guard) (d : GReg) (a : SReg) (b : Src) (n1 : BitVec 5)
  | ldQ64 (g : Guard) (size : Size) (sx acq : Bool) (lease : BitVec 3) (d : GReg) (m : MemArg)
  | ldu (g : Guard) (size : Size) (sx acq : Bool) (lease : BitVec 3) (d : SReg) (m : MemArg)
  | ldw (g : Guard) (size : Size) (sx : Bool) (lease : BitVec 3) (d : GReg) (m : MemArg)
  | ldf (g : Guard) (w64 acq : Bool) (d : GReg) (m : MemArg)
  | take (g : Guard) (w64 acq : Bool) (d : GReg) (m : MemArg)
  | fill (g : Guard) (w64 rel : Bool) (d : Src) (m : MemArg)
  | setf (g : Guard) (w64 rel : Bool) (d : Src) (m : MemArg)
  | clrf (g : Guard) (w64 : Bool) (m : MemArg)
  | pref (g : Guard) (lease : BitVec 3) (m : MemArg)
  | probe (g : Guard) (kind : ProbeKind) (d : GReg) (m : MemArg)
  | tinv (g : Guard) (dev : Bool) (job : GReg) (a : GReg) (am : ReadMode)
  | stQ64 (g : Guard) (size : Size) (rel : Bool) (lease : BitVec 3) (d : Src) (m : MemArg)
  | fence (g : Guard) (kind : FenceKind) (ord : Ord4) (scope : Scope)
  | barinit (g : Guard) (d : Src) (m : MemArg)
  | bararr (g : Guard) (rel : Bool) (d : GReg) (m : MemArg)
  | barwait (g : Guard) (acq : Bool) (d : Src) (m : MemArg)
  | barexp (g : Guard) (dir : BarDir) (rel : Bool) (d : Src) (scope : Scope) (base : Src) (off : BitVec 14)
  | depdec (g : Guard) (rel : Bool) (m : MemArg)
  | waitt (g : Guard) (cls : BitVec 2) (n : WaitN)
  | mfc (g : Guard) (idx : BitVec 12) (d : MfcDst)
  | mtc (g : Guard) (w32 : Bool) (idx : BitVec 12) (a : Src)
  | brc (g : Guard) (disp : BitVec 22) (join : BitVec 16)
  | bru (g : Guard) (disp : BitVec 22)
  | brkd (g : Guard) (off : BitVec 16)
  | loop (a : Src) (off : BitVec 16)
  | loopr (stages1 : BitVec 3) (a : Src) (off : BitVec 16)
  | lsave (g : Guard) (lease : BitVec 3) (m : MemArg)
  | lrest (g : Guard) (lease : BitVec 3) (m : MemArg)
  | gcall (g : Guard) (a b : Src)
  | gcalli (g : Guard) (a b : Src)
  | retg (g : Guard)
  | migrate (g : Guard) (a : Src)
  | route (g : Guard) (a b : Src)
  | rethome (g : Guard)
  | routeset (g : Guard) (a b : Src)
  | rcsnap (g : Guard) (lease : BitVec 3) (base : Src) (off : BitVec 16)
  | spawn (g : Guard) (d : GReg) (a b : Src)
  | taskmk (g : Guard) (count : BitVec 16) (d : GReg) (a b : Src)
  | cancel (g : Guard) (level : Level)
  | cntw (g : Guard) (d : GReg) (a b : Src)
  | role (g : Guard) (r : Role)
  | wmopen (g : Guard) (lmin lmax : BitVec 6) (d : GReg) (a : Src)
  | wmclose (g : Guard) (a : Src)
  | wmapp (g : Guard) (k1 : BitVec 3) (a b : Src)
  | wmprop (g : Guard) (dc1 : BitVec 3) (d : GReg) (a : Src) (b : GReg)
  | wmlen (g : Guard) (f : WmField) (d : GReg) (a : Src)
  | wmsave (g : Guard) (close : Bool) (lease : BitVec 3) (base : Src) (off : BitVec 16) (h : Src)
  | wmload (g : Guard) (lease : BitVec 3) (d : GReg) (base : Src) (off : BitVec 16)
  | wmown (g : Guard) (a b : Src)
  | tcfg (g : Guard) (t : TReg) (fmt : BitVec 4) (rows1 : BitVec 7) (rb : BitVec 7)
  | tpack (g : Guard) (wc : WordCount) (t : TReg) (a : Src) (row0 : BitVec 7) (woff : BitVec 9)
  | tunpk (g : Guard) (wc : WordCount) (d : GReg) (t : TReg) (row0 : BitVec 7) (woff : BitVec 9)
  | tzero (g : Guard) (t : TReg)
  | accz (g : Guard) (acc : AccReg)
  | cellp (g : Guard) (a : Src)
  | tsave (g : Guard) (lease : BitVec 3) (m : MemArg)
  | trest (g : Guard) (lease : BitVec 3) (m : MemArg)
  | twait (g : Guard)
  -- X96 forms
  | moviX96 (g : Guard) (k : MoviKind) (d : GReg) (imm : Word)
  | atom (g : Guard) (op : AtomOp) (w64 : Bool) (ord : Ord4) (d : GReg) (m : MemArg) (v c : Src)
  | red (g : Guard) (op : RedOp) (t : RedTy) (rel : Bool) (d : Src) (m : MemArg)
  | copy (g : Guard) (shape : CopyShape) (q : Bool) (d : GReg) (a b : Src) (bar : Option Src3)
  | gather (g : Guard) (q : Bool) (d : GReg) (a b : Src) (c e : Src3)
  | scadd (g : Guard) (q : Bool) (d : GReg) (a b : Src) (c e : Src3)
  | quant (g : Guard) (q : Bool) (d : GReg) (a b : Src)
  | tgenNew (g : Guard) (q : Bool) (d : GReg) (a b : Src) (c : GReg) (mt : BitVec 8)
  | tgenApp (g : Guard) (q : Bool) (d : GReg) (a b : Src) (c : GReg) (mt : BitVec 8)
  | tgenClose (g : Guard) (q : Bool) (d : GReg) (a : Src)
  | tld (g : Guard) (q : Bool) (lease : BitVec 3) (d : GReg) (t : TReg) (m : MemArg) (stride : Src)
  | tst (g : Guard) (q : Bool) (lease : BitVec 3) (d : GReg) (t : TReg) (m : MemArg) (stride : Src)
  | mma (g : Guard) (acc : AccReg) (ta tb : TReg) (m0 : BitVec 6) (n0 : BitVec 7)
  | mmas (g : Guard) (acc : AccReg) (ta tb sa sb : TReg) (m0 : BitVec 6) (n0 : BitVec 7)
  | mmc (g : Guard) (acc : AccReg) (ta tb : TReg) (m0 : BitVec 6) (n0 : BitVec 7)
  | accld (g : Guard) (lease : BitVec 3) (acc : AccReg) (m : MemArg) (stride : Src)
      (m0 : BitVec 6) (n0 : BitVec 7) (m1 : BitVec 6) (n1 : BitVec 7)
  | accst (g : Guard) (lease : BitVec 3) (acc : AccReg) (m : MemArg) (stride : Src)
      (m0 : BitVec 6) (n0 : BitVec 7) (m1 : BitVec 6) (n1 : BitVec 7)
  | acccvt (g : Guard) (sat sint : Bool) (t : TReg) (acc : AccReg) (m0 : BitVec 6) (n0 : BitVec 7)
  | accsend (g : Guard) (ty : Ty) (sat sint : Bool) (acc : AccReg) (a b : Src) (c : Src3) (m1 : BitVec 6) (n1 : BitVec 7)
  | brX96 (imm : Word)
  | callX96 (imm : Word)
  | leaX96 (g : Guard) (d : GReg) (base : Src) (imm : Word)
  | leaPc (g : Guard) (d : GReg) (imm : Word)
  -- an instruction that cannot be decoded or fetched (08_encoding.md R171)
  | illegalInstruction (w0 w1 : Word)
  | fetchFault (cause : BitVec 8) (addr : DWord)
  -- device events: lines, homes and logical time
  | homeRead (req : Nat)
  | homeRenewal (req : Nat)
  | homeOwnership (req : Nat)
  | homeWriteback (req : Nat)
  | homeAtomic (req : Nat)
  | homeUpdateJoin (req : Nat)
  | watchRenewal (req : Nat)
  | fillReply (rep : Nat)
  | ownershipGrant (rep : Nat)
  | confirm (rep : Nat)
  | strike (rep : Nat)
  | sweep (line : Nat)
  | sweepNotice (note : Nat)
  | timeExchange (cluster slice : Nat)
  | creep (unit lane : Nat)
  | clusterEviction (cluster line : Nat)
  | tableWalk (walk : Nat)
  | acknowledge (ack : Nat)
  | remoteAccess (rid : Nat)
  | remoteReply (rid : Nat)
  | remoteReissue (rid : Nat)
  | depdecResend (rid : Nat)
  | waitLimit (unit slot : Nat)
  -- pending producers and engines
  | divCompletion (op : Nat)
  | wmpropCompletion (op : Nat)
  | copyExecute (cmd : Nat)
  | gatherExecute (cmd : Nat)
  | scaddExecute (cmd : Nat)
  | quantExecute (cmd : Nat)
  | tgenExecute (cmd : Nat)
  | tgenPublish (cmd : Nat)
  | tgenCloseExecute (cmd : Nat)
  | tileLoadExecute (cmd : Nat)
  | tileStoreExecute (cmd : Nat)
  | commandCompletion (cmd : Nat)
  | matrixExecute (mop : Nat)
  | accsendFlag (mop : Nat)
  -- the Inn, migration and scheduling
  | roomLimit (cluster room : Nat)
  | roomDepart (cluster room core : Nat)
  | migrationArrival (mig : Nat)
  | arrivalPlacement (cluster core slot : Nat)
  | unitDispatch (launch cluster core slot : Nat)
  | codeletStart (cluster core slot : Nat)
  | launchCompletion (launch : Nat)
  | nodeRun (graph node : Nat)
  | cancelPoint (unit slot : Nat)
  | quiescence (launch : Nat)
  | quiescenceReport (cluster core : Nat)
  | warpSwap (cluster core ctxOut area : Nat)
  -- host queues
  | launch (queue : Nat)
  | graph (queue : Nat)
  | phase (queue : Nat)
  | wait (queue : Nat)
  | signal (queue : Nat)
  | hostCancel (queue : Nat)
  | hostCopy (queue : Nat)
  | hostFence (queue : Nat)
  | dbell (queue : Nat) (tail : Word)
  | queueEnable (queue : Nat) (base : DWord) (size job vector : Nat)
  | queueReset (queue : Nat)
  -- spill engine and system registers
  | spillSlot (cluster core slot : Nat)
  | restoreSlot (cluster core slot : Nat)
  | preemptWarp (cluster core ctx : Nat)
  | resumeWarp (cluster core ctx : Nat)
  | evsel (cluster k : Nat) (v : DWord)
  | ltimeWrite (unit lane : Nat) (v : DWord)
  | clgrantWrite (job : Nat) (v : DWord)
  | clmaskWrite (job : Nat) (v : DWord)
  | leasesWrite (job : Nat) (hi : Bool) (v : DWord)
  | registerWrite (unit lane : Nat) (idx : BitVec 12) (v : DWord)
  -- host and links
  | hostRead (line : Nat)
  | hostWrite (addr : Nat) (data : HostBytes)
  | hostOwnershipRequest (line : Nat)
  | backInvalidateReply (snoop : Nat) (dirty : Option DirtyLine)
  | snoopInvalidate (line : Nat)
  | snoopData (line : Nat)
  | requestFlit (link : Nat) (seq ack : Nat) (bytes : List Byte)
  | responseFlit (link : Nat) (seq ack : Nat) (bytes : List Byte)
  | dataFlit (link : Nat) (seq ack : Nat) (bytes : List Byte)
  | creditFlit (link : Nat) (seq ack : Nat) (bytes : List Byte)
  | idleFlit (link : Nat) (seq ack : Nat) (bytes : List Byte)
  | flitReplay (link : Nat)
  | windowRequestTimeout (wreq : Nat)
  -- security
  | negotiateAlgorithms (offered : Word)
  | getCertificate (slot off len : Nat)
  | challenge (slot : Nat) (nonce : Nat)
  | getMeasurements (index : BitVec 8) (nonce : Nat)
  -- reset, firmware, power, health
  | deviceReset (imageA imageB : Nat)
  | firmwareResume (unit slot : Nat) (pc : DWord)
  | firmwareJobCancel (unit slot : Nat)
  | haltRestart (unit slot : Nat)
  | clusterGate (cluster : Nat)
  | clusterUngate (cluster : Nat)
  | supplySag (die k : Nat)
  | sagRecoveryStep (die : Nat)
  | debugLevelChange (level : Nat) (authorised : Bool)
  | lifecycleChange (level : Nat)
  | logClear (whole : Bool)
  | malformedRecord (queue : Nat)
  | flitCrcFailure (link : Nat)
  | softError (place : ErrPlace) (correctable : Bool)
  | hsiftCompletion (op : Nat)
  | supplyRecovery (die : Nat)
  | supervisorStart (job cluster core : Nat) (entry : DWord)
  -- rows without operands
  | nop
  | ret
  | brk
  | yield
  | poll
  | taskend
  | innflush
  | drain
  | isync
  | eret
  | halt
  | getVersion
  | getCapabilities
  | getDigests
  | throttle
  | throttleRecovery
  | standby
  | powerOff
  | overTemperature
  | recovery
  deriving DecidableEq, Repr

/-- A row that is an instruction word; the other rows are events of the device. -/
def Instr.isEvent : Instr → Bool
  | .homeRead .. | .homeRenewal .. | .homeOwnership .. | .homeWriteback .. | .homeAtomic .. | .homeUpdateJoin ..
  | .watchRenewal .. | .fillReply .. | .ownershipGrant .. | .confirm .. | .strike .. | .sweep .. | .sweepNotice ..
  | .timeExchange .. | .creep .. | .clusterEviction .. | .tableWalk .. | .acknowledge .. | .remoteAccess ..
  | .remoteReply .. | .remoteReissue .. | .depdecResend .. | .waitLimit .. | .divCompletion .. | .wmpropCompletion ..
  | .copyExecute .. | .gatherExecute .. | .scaddExecute .. | .quantExecute .. | .tgenExecute .. | .tgenPublish ..
  | .tgenCloseExecute .. | .tileLoadExecute .. | .tileStoreExecute .. | .commandCompletion .. | .matrixExecute ..
  | .accsendFlag .. | .roomLimit .. | .roomDepart .. | .migrationArrival .. | .arrivalPlacement .. | .unitDispatch ..
  | .codeletStart .. | .launchCompletion .. | .nodeRun .. | .cancelPoint .. | .quiescence .. | .quiescenceReport ..
  | .warpSwap .. | .launch .. | .graph .. | .phase .. | .wait .. | .signal .. | .hostCancel .. | .hostCopy ..
  | .hostFence .. | .dbell .. | .queueEnable .. | .queueReset .. | .spillSlot .. | .restoreSlot .. | .preemptWarp ..
  | .resumeWarp .. | .evsel .. | .ltimeWrite .. | .clgrantWrite .. | .clmaskWrite .. | .leasesWrite ..
  | .registerWrite .. | .hostRead .. | .hostWrite .. | .hostOwnershipRequest .. | .backInvalidateReply ..
  | .snoopInvalidate .. | .snoopData .. | .requestFlit .. | .responseFlit .. | .dataFlit .. | .creditFlit ..
  | .idleFlit .. | .flitReplay .. | .windowRequestTimeout .. | .getVersion | .getCapabilities
  | .negotiateAlgorithms .. | .getDigests | .getCertificate .. | .challenge .. | .getMeasurements ..
  | .deviceReset .. | .firmwareResume .. | .firmwareJobCancel .. | .haltRestart .. | .throttle | .throttleRecovery
  | .clusterGate .. | .clusterUngate .. | .standby | .powerOff | .overTemperature | .supplySag .. | .sagRecoveryStep ..
  | .debugLevelChange .. | .lifecycleChange .. | .logClear .. | .illegalInstruction .. | .fetchFault ..
  | .malformedRecord .. | .flitCrcFailure .. | .softError .. | .hsiftCompletion .. | .supplyRecovery .. | .recovery
  | .supervisorStart .. => true
  | _ => false

end Sys2Proof
end

