-- ==== Sys2Proof/WellFormed.lean ====
section
/-! DEFINITION. Which instruction terms have an encoding: the range and value checks that are check 5 of
08_encoding.md R171 and that the types of Syntax do not already make. A term that is not well formed raises cause 0x01
when its words are met; the pair checks (cause 0x02) are of the meanings. -/

namespace Sys2Proof

/-- A floating type of R165. -/
def Ty.isFloat : Ty → Bool
  | .f32 | .f16 | .bf16 | .e4m3 | .e5m2 | .e2m1 => true
  | .i32 | .n32 | .i64 | .n64 | .i16 | .n16 | .i8 | .n8 | .i4 | .n4 => false

/-- The width in bits of a type (07_number_formats.md R134). -/
def Ty.width : Ty → Nat
  | .i32 | .n32 | .f32 => 32
  | .i64 | .n64 => 64
  | .i16 | .n16 | .f16 | .bf16 => 16
  | .i8 | .n8 | .e4m3 | .e5m2 => 8
  | .e2m1 | .i4 | .n4 => 4

/-- A modifier is present. -/
def FMod.any (m : FMod) : Bool := m.neg || m.abs

/-- The control register indices that R125 and R413 assign (06_registers.md R126). -/
def cregAssigned (i : BitVec 12) : Bool :=
  let n := i.toNat
  n ≤ 0x009 || (0x010 ≤ n && n ≤ 0x01C) || (0x020 ≤ n && n ≤ 0x028) || (0x030 ≤ n && n ≤ 0x033) || n == 0x038
    || n == 0x040 || n == 0x041 || n == 0x048 || (0x100 ≤ n && n ≤ 0x105) || (0x108 ≤ n && n ≤ 0x10D) || n == 0x200

/-- POS and LEN of `BFE` and `BFI` (10_isa_lane.md R217). -/
def fieldOk (pos : BitVec 5) (len : BitVec 6) : Bool := len != 0 && pos.toNat + len.toNat ≤ 32

/-- Type, operation and rounding of `REDL` and `SCANL` (R232, R233). -/
def redlOk (op : RedlOp) (t : Ty) (r : Rnd) : Bool :=
  match t with
  | .i32 | .n32 | .i64 | .n64 => r == .dyn
  | .f32 => op == .add || op == .min || op == .max
  | _ => false

/-- The combinations of `RED` (13_isa_return.md R298). -/
def redOk (op : RedOp) (t : RedTy) : Bool :=
  match t with
  | .i32 | .i64 | .n32 | .n64 => true
  | .f32 => op == .add || op == .min || op == .max
  | .bf16 => op == .add

/-- How many words `TPACK` and `TUNPK` move (11_isa_tiles.md R254). -/
def WordCount.n : WordCount → Nat
  | .w1 => 1 | .w2 => 2 | .w4 => 4

/-- A range of `n` sources from `a` stays within its class (R254, R279). -/
def Src.rangeOk (a : Src) (n : Nat) : Bool :=
  match a with
  | .g r _ => r.toNat + n ≤ 64
  | .s r => r.toNat + n ≤ 32

/-- The absent source: its fields are zero (R160). -/
def Src.none : Src := .g 0 .wait

/-- The checks that leave an instruction with an encoding (check 5 of R171). -/
def Instr.wf : Instr → Bool
  | .trap code _ => 0xE0 ≤ code.toNat
  | .bfe _ _ pos len _ _ | .bfi _ _ pos len _ _ => fieldOk pos len
  | .cvt _ _ st _ _ _ _ ma => !ma.any || st.isFloat
  | .pack _ dt r _ _ _ ma _ mb => dt.width ≤ 16 && (dt.isFloat || (!ma.any && !mb.any && r == .dyn))
  | .upk _ t raw idx _ _ ma => t.width ≤ 16 && idx.toNat < 32 / t.width && (!ma.any || (!raw && t.isFloat))
  | .dot4 _ t _ _ _ _ => t == .i8 || t == .n8 || t == .e4m3 || t == .e5m2
  | .dot8 _ t _ _ _ _ => t == .i4 || t == .e2m1
  | .vote _ op d _ => op == .ballot || d.toNat < 16
  | .redl _ op t r _ _ | .scanl _ op t r _ _ => redlOk op t r
  | .hsift _ _ _ k _ _ _ => 1 ≤ k.toNat && k.toNat ≤ 32
  | .bins _ _ _ m _ _ _ _ => m != 0
  | .twalk _ _ n _ _ _ => 1 ≤ n.toNat && n.toNat ≤ 16384
  | .tmask _ _ a _ _ => a.toNat % 4 == 0
  | .ldQ64 _ size sx _ _ _ _ => !sx || size == .b8 || size == .b16
  | .ldu _ size sx _ _ _ _ | .ldw _ size sx _ _ _ => size != .b128 && (!sx || size == .b8 || size == .b16)
  | .stQ64 _ size _ _ d _ => size != .b128 || (match d with | .g .. => true | .s _ => false)
  | .fence _ _ ord _ => ord != .plain
  | .mfc _ idx _ => cregAssigned idx
  | .mtc _ _ idx _ => cregAssigned idx
  | .wmopen _ lmin lmax _ _ =>
      lmin.toNat ≤ 32 && lmax.toNat ≤ 32 && (lmin == 0 || lmax == 0 || lmin.toNat ≤ lmax.toNat)
  | .wmapp _ k1 _ b => b.rangeOk (k1.toNat + 1)
  | .wmprop _ dc1 d _ b => d.toNat + dc1.toNat ≤ 63 && (b.toNat < d.toNat || d.toNat + dc1.toNat < b.toNat)
  | .tcfg _ _ fmt rows1 rb => rb.toNat ≤ 95 && (fmt != 0 || (rows1 == 0 && rb == 0))
  | .tpack _ wc _ a _ woff => woff.toNat ≤ 95 && a.rangeOk wc.n
  | .tunpk _ wc d _ _ woff => woff.toNat ≤ 95 && d.toNat + wc.n ≤ 64
  | .atom _ op _ _ _ _ _ c => op == .cas || c == .none
  | .red _ op t _ _ _ => redOk op t
  | .accsend _ ty _ _ _ _ _ _ _ _ =>
      ty == .i32 || ty == .i8 || ty == .f32 || ty == .f16 || ty == .bf16 || ty == .e4m3 || ty == .e5m2
  | _ => true

end Sys2Proof
end

