-- ==== Sys2Proof/Decode.lean ====
section
/-! DEFINITION. The encodings (08_encoding.md R155-R170 and the field tables of 09-13 and 17): `encode` lays an instruction
out in words; `decodeWords` takes the fields of words out, and accepts them exactly when the instruction is well formed and
its encoding is those words, so that every unused field is zero (R160). -/

namespace Sys2Proof

/-- Why words are no instruction; each raises cause 0x01 (R171 checks 2, 4, 5). -/
inductive Reject where
  /-- LEN = 11. -/
  | length
  /-- An unassigned or reserved opcode, or LEN not the opcode's length. -/
  | opcode
  /-- A reserved value or a non-zero unused field. -/
  | reserved
  deriving DecidableEq, Repr

/-! ### Codes of the fields -/

/-- F of an integer type (R165). -/
def ITy.code : ITy → BitVec 4
  | .i32 => 0 | .n32 => 1 | .i64 => 2 | .n64 => 3
/-- The integer type of F. -/
def ITy.ofCode (f : BitVec 4) : Option ITy :=
  match f.toNat with
  | 0 => some .i32 | 1 => some .n32 | 2 => some .i64 | 3 => some .n64 | _ => none
/-- F of a type (R165). -/
def Ty.code : Ty → BitVec 4
  | .i32 => 0 | .n32 => 1 | .i64 => 2 | .n64 => 3 | .i16 => 4 | .n16 => 5 | .i8 => 6 | .n8 => 7
  | .f32 => 8 | .f16 => 9 | .bf16 => 10 | .e4m3 => 11 | .e5m2 => 12 | .e2m1 => 13 | .i4 => 14 | .n4 => 15
/-- The type of F. -/
def Ty.ofCode (f : BitVec 4) : Ty :=
  match f.toNat with
  | 0 => .i32 | 1 => .n32 | 2 => .i64 | 3 => .n64 | 4 => .i16 | 5 => .n16 | 6 => .i8 | 7 => .n8
  | 8 => .f32 | 9 => .f16 | 10 => .bf16 | 11 => .e4m3 | 12 => .e5m2 | 13 => .e2m1 | 14 => .i4 | _ => .n4
/-- RND (R162). -/
def Rnd.code : Rnd → BitVec 3
  | .dyn => 0 | .rn => 4 | .rz => 5 | .rd => 6 | .ru => 7
/-- The rounding of RND; 001-011 are reserved. -/
def Rnd.ofCode (r : BitVec 3) : Option Rnd :=
  match r.toNat with
  | 0 => some .dyn | 4 => some .rn | 5 => some .rz | 6 => some .rd | 7 => some .ru | _ => none
/-- F[2:0] of a scope (R166). -/
def Scope.code : Scope → BitVec 4
  | .thr => 0 | .core => 1 | .clu => 2 | .dev => 3 | .sys => 4
/-- The scope of F. -/
def Scope.ofCode (f : BitVec 4) : Option Scope :=
  match f.toNat with
  | 0 => some .thr | 1 => some .core | 2 => some .clu | 3 => some .dev | 4 => some .sys | _ => none
/-- SIZE (R166). -/
def Size.code : Size → BitVec 3
  | .b8 => 0 | .b16 => 1 | .b32 => 2 | .b64 => 3 | .b128 => 4
/-- The size of SIZE. -/
def Size.ofCode (c : BitVec 3) : Option Size :=
  match c.toNat with
  | 0 => some .b8 | 1 => some .b16 | 2 => some .b32 | 3 => some .b64 | 4 => some .b128 | _ => none
/-- ORD (R157). -/
def Ord4.code : Ord4 → BitVec 2
  | .plain => 0 | .acq => 1 | .rel => 2 | .ar => 3
/-- The ordering of ORD. -/
def Ord4.ofCode (c : BitVec 2) : Ord4 :=
  match c.toNat with
  | 0 => .plain | 1 => .acq | 2 => .rel | _ => .ar
/-- COND of `CMP` (R221). -/
def Cond.code : Cond → BitVec 3
  | .eq => 0 | .ne => 1 | .lt => 2 | .le => 3 | .gt => 4 | .ge => 5
/-- The condition of `CMP`. -/
def Cond.ofCode (c : BitVec 3) : Option Cond :=
  match c.toNat with
  | 0 => some .eq | 1 => some .ne | 2 => some .lt | 3 => some .le | 4 => some .gt | 5 => some .ge | _ => none
/-- COND of `FCMP` (R226). -/
def FCond.code : FCond → BitVec 3
  | .eq => 0 | .ne => 1 | .lt => 2 | .le => 3 | .gt => 4 | .ge => 5 | .un => 6 | .or => 7
/-- The condition of `FCMP`. -/
def FCond.ofCode (c : BitVec 3) : FCond :=
  match c.toNat with
  | 0 => .eq | 1 => .ne | 2 => .lt | 3 => .le | 4 => .gt | 5 => .ge | 6 => .un | _ => .or
/-- F[2:0] of `SHFL` (R232). -/
def ShflMode.code : ShflMode → BitVec 3
  | .idx => 0 | .up => 1 | .down => 2 | .xor => 3
/-- The mode of `SHFL`. -/
def ShflMode.ofCode (c : BitVec 3) : Option ShflMode :=
  match c.toNat with
  | 0 => some .idx | 1 => some .up | 2 => some .down | 3 => some .xor | _ => none
/-- F of `VOTE` (R232). -/
def VoteOp.code : VoteOp → BitVec 4
  | .any => 0 | .all => 1 | .uni => 2 | .ballot => 3
/-- The operation of `VOTE`. -/
def VoteOp.ofCode (f : BitVec 4) : Option VoteOp :=
  match f.toNat with
  | 0 => some .any | 1 => some .all | 2 => some .uni | 3 => some .ballot | _ => none
/-- OP of `REDL` and `SCANL` (R233). -/
def RedlOp.code : RedlOp → BitVec 3
  | .add => 0 | .min => 1 | .max => 2 | .and => 3 | .or => 4 | .xor => 5
/-- The operation of `REDL` and `SCANL`. -/
def RedlOp.ofCode (c : BitVec 3) : Option RedlOp :=
  match c.toNat with
  | 0 => some .add | 1 => some .min | 2 => some .max | 3 => some .and | 4 => some .or | 5 => some .xor | _ => none
/-- F of `HSIFT` and `BINS` (R235, R237). -/
def KeyTy.code : KeyTy → BitVec 4
  | .i32 => 0 | .n32 => 1 | .f32 => 8
/-- The key type of F. -/
def KeyTy.ofCode (f : BitVec 4) : Option KeyTy :=
  match f.toNat with
  | 0 => some .i32 | 1 => some .n32 | 8 => some .f32 | _ => none
/-- B of `PROBE` (R198). -/
def ProbeKind.code : ProbeKind → BitVec 6
  | .ld => 0 | .st => 1 | .atom => 2 | .fetch => 3
/-- The kind of `PROBE`. -/
def ProbeKind.ofCode (b : BitVec 6) : Option ProbeKind :=
  match b.toNat with
  | 0 => some .ld | 1 => some .st | 2 => some .atom | 3 => some .fetch | _ => none
/-- KIND of `FENCE` (R300). -/
def FenceKind.code : FenceKind → BitVec 16
  | .ld => 1 | .st => 2 | .all => 3
/-- The kind of `FENCE`. -/
def FenceKind.ofCode (c : BitVec 16) : Option FenceKind :=
  match c.toNat with
  | 1 => some .ld | 2 => some .st | 3 => some .all | _ => none
/-- DIR of `BAREXP` (R302). -/
def BarDir.code : BarDir → BitVec 2
  | .inb => 1 | .outb => 2 | .both => 3
/-- The direction of `BAREXP`. -/
def BarDir.ofCode (c : BitVec 2) : Option BarDir :=
  match c.toNat with
  | 1 => some .inb | 2 => some .outb | 3 => some .both | _ => none
/-- OP of `ATOM` (R296). -/
def AtomOp.code : AtomOp → BitVec 4
  | .add => 0 | .and => 1 | .or => 2 | .xor => 3 | .mins => 4 | .maxs => 5 | .minu => 6 | .maxu => 7 | .xchg => 8
  | .cas => 9
/-- The operation of `ATOM`. -/
def AtomOp.ofCode (c : BitVec 4) : Option AtomOp :=
  match c.toNat with
  | 0 => some .add | 1 => some .and | 2 => some .or | 3 => some .xor | 4 => some .mins | 5 => some .maxs
  | 6 => some .minu | 7 => some .maxu | 8 => some .xchg | 9 => some .cas | _ => none
/-- OP of `RED` (R298). -/
def RedOp.code : RedOp → BitVec 4
  | .add => 0 | .and => 1 | .or => 2 | .xor => 3 | .min => 4 | .max => 5
/-- The operation of `RED`. -/
def RedOp.ofCode (c : BitVec 4) : Option RedOp :=
  match c.toNat with
  | 0 => some .add | 1 => some .and | 2 => some .or | 3 => some .xor | 4 => some .min | 5 => some .max | _ => none
/-- KIND of `RED` (R298). -/
def RedTy.kind : RedTy → BitVec 2
  | .i32 | .i64 => 0 | .n32 | .n64 => 1 | .f32 | .bf16 => 2
/-- SIZE of `RED` (R298). -/
def RedTy.size : RedTy → BitVec 6
  | .i32 | .n32 | .f32 => 2 | .i64 | .n64 => 3 | .bf16 => 1
/-- The type of KIND and MT. -/
def RedTy.ofCode (k : BitVec 2) (mt : BitVec 6) : Option RedTy :=
  match k.toNat, mt.toNat with
  | 0, 2 => some .i32 | 0, 3 => some .i64 | 1, 2 => some .n32 | 1, 3 => some .n64 | 2, 2 => some .f32
  | 2, 1 => some .bf16 | _, _ => none
/-- F of `CANCEL` (R363). -/
def Level.code : Level → BitVec 4
  | .launch => 0 | .graph => 1 | .phase => 2 | .job => 3
/-- The level of `CANCEL`. -/
def Level.ofCode (f : BitVec 4) : Option Level :=
  match f.toNat with
  | 0 => some .launch | 1 => some .graph | 2 => some .phase | 3 => some .job | _ => none
/-- F of `ROLE` (R363). -/
def Role.code : Role → BitVec 4
  | .load => 0 | .store => 1 | .comp => 2
/-- The role of F. -/
def Role.ofCode (f : BitVec 4) : Option Role :=
  match f.toNat with
  | 0 => some .load | 1 => some .store | 2 => some .comp | _ => none
/-- F of `WMLEN` (R284). -/
def WmField.code : WmField → BitVec 4
  | .len => 0 | .cap => 1 | .total => 2 | .bounds => 3
/-- The field of `WMLEN`. -/
def WmField.ofCode (f : BitVec 4) : Option WmField :=
  match f.toNat with
  | 0 => some .len | 1 => some .cap | 2 => some .total | 3 => some .bounds | _ => none
/-- F of `TPACK` and `TUNPK` (R254). -/
def WordCount.code : WordCount → BitVec 4
  | .w1 => 0 | .w2 => 1 | .w4 => 2
/-- The word count of F. -/
def WordCount.ofCode (f : BitVec 4) : Option WordCount :=
  match f.toNat with
  | 0 => some .w1 | 1 => some .w2 | 2 => some .w4 | _ => none
/-- F of `COPY` (R201). -/
def CopyShape.code : CopyShape → BitVec 4
  | .d1 => 0 | .d2 => 1 | .d3 => 2
/-- The shape of `COPY`. -/
def CopyShape.ofCode (f : BitVec 4) : Option CopyShape :=
  match f.toNat with
  | 0 => some .d1 | 1 => some .d2 | 2 => some .d3 | _ => none
/-- F of the X96 `MOVI` (R218). -/
def MoviKind.code : MoviKind → BitVec 4
  | .word => 0 | .pairSext => 1 | .pairZext => 2
/-- The form of the X96 `MOVI`. -/
def MoviKind.ofCode (f : BitVec 4) : Option MoviKind :=
  match f.toNat with
  | 0 => some .word | 1 => some .pairSext | 2 => some .pairZext | _ => none
/-- The code of a read mode (R119). -/
def ReadMode.code : ReadMode → BitVec 2
  | .wait => 0 | .test => 1 | .consume => 2
/-- The read mode of a code; 11 is refused. -/
def ReadMode.ofCode (c : BitVec 2) : Option ReadMode :=
  match c.toNat with
  | 0 => some .wait | 1 => some .test | 2 => some .consume | _ => none

/-- One bit. -/
def bit (b : Bool) : BitVec 1 := BitVec.ofBool b
/-- The register field of a source (R159). -/
def Src.v : Src → BitVec 6
  | .g r _ => r
  | .s r => r.setWidth 6
/-- AU, BU or CU of a source. -/
def Src.u : Src → BitVec 1
  | .g .. => 0
  | .s _ => 1
/-- AMODE, BMODE or CMODE of a source. -/
def Src.mode : Src → BitVec 2
  | .g _ m => m.code
  | .s _ => 0
/-- The source of its three fields; a uniform source must have mode 00 and a number of 0-31 (R116, R159). -/
def Src.ofFields (u : BitVec 1) (m : BitVec 2) (v : BitVec 6) : Option Src :=
  if u = 1 then (if m = 0 ∧ v.toNat < 32 then some (.s (v.setWidth 5)) else none)
  else (ReadMode.ofCode m).map (.g v ·)
/-- The register field of a third register (R200). -/
def Src3.v : Src3 → BitVec 6
  | .g r => r
  | .s r => r.setWidth 6
/-- CU or EU. -/
def Src3.u : Src3 → BitVec 1
  | .g _ => 0
  | .s _ => 1
/-- The third register of its fields. -/
def Src3.ofFields (u : BitVec 1) (v : BitVec 6) : Option Src3 :=
  if u = 1 then (if v.toNat < 32 then some (.s (v.setWidth 5)) else none) else some (.g v)

/-! ### The words -/

/-- Word 0 of R155. -/
def word0 (len : BitVec 2) (opc : BitVec 8) (f : BitVec 4) (d a b : BitVec 6) : Word :=
  f ++ b ++ a ++ d ++ opc ++ len
/-- Word 0 of the I32 form (R156). -/
def wordI (opc : BitVec 8) (d a : BitVec 6) (imm : BitVec 10) : Word :=
  imm ++ a ++ d ++ opc ++ (0 : BitVec 2)
/-- Word 0 of the jump forms (R156). -/
def wordJ (len : BitVec 2) (opc : BitVec 8) (disp : BitVec 22) : Word :=
  disp ++ opc ++ len
/-- The qualifier word (R157); `a` and `b` give AU, AMODE, BU and BMODE. -/
def word1 (imm : BitVec 16) (ord : BitVec 2) (lease : BitVec 3) (b a : Src) (g : Guard) : Word :=
  imm ++ ord ++ lease ++ b.u ++ a.u ++ b.mode ++ a.mode ++ bit g.neg ++ g.p

/-- A Z32 form. -/
def z32 (opc : BitVec 8) (f : BitVec 4) (d a b : BitVec 6) : List Word := [word0 0 opc f d a b]
/-- A Q64 form whose B field is `bv` and whose B qualifiers are those of `bm`. -/
def q64 (opc : BitVec 8) (g : Guard) (f : BitVec 4) (d : BitVec 6) (a : Src) (bv : BitVec 6) (bm : Src)
    (imm : BitVec 16) (ord : BitVec 2) (lease : BitVec 3) : List Word :=
  [word0 1 opc f d a.v bv, word1 imm ord lease bm a g]
/-- An X96 form, likewise. -/
def x96 (opc : BitVec 8) (g : Guard) (f : BitVec 4) (d : BitVec 6) (a : Src) (bv : BitVec 6) (bm : Src)
    (imm : BitVec 16) (ord : BitVec 2) (lease : BitVec 3) (w2 : Word) : List Word :=
  [word0 2 opc f d a.v bv, word1 imm ord lease bm a g, w2]

/-- IMM16 of the integer Q64 forms (R212). -/
def immSat (sat : Bool) : BitVec 16 := (bit sat).setWidth 16
/-- IMM16 of the floating Q64 forms (R162). -/
def immF (mb ma : FMod) (sat : Bool) (r : Rnd) : BitVec 16 :=
  (0 : BitVec 8) ++ bit mb.abs ++ bit mb.neg ++ bit ma.abs ++ bit ma.neg ++ bit sat ++ r.code
/-- IMM16 of the Q64C forms (R161). -/
def immC (nc nb na sat : Bool) (r : Rnd) (c : Src) : BitVec 16 :=
  bit nc ++ bit nb ++ bit na ++ bit sat ++ r.code ++ c.u ++ c.mode ++ c.v
/-- MT (R166). -/
def mt (sx : Bool) (s : Size) : BitVec 6 := (0 : BitVec 2) ++ bit sx ++ s.code
/-- MT of the synchronising forms (R194) and of `ATOM` (R295). -/
def mtW (w64 : Bool) : BitVec 6 := if w64 then 3 else 2
/-- ORD of a form that may acquire. -/
def ordA (acq : Bool) : BitVec 2 := if acq then 1 else 0
/-- ORD of a form that may release. -/
def ordR (rel : Bool) : BitVec 2 := if rel then 2 else 0
/-- No modifier. -/
def FMod.none : FMod := ⟨false, false⟩

/-- The fields of three words; a shorter instruction has zero in the later ones. -/
structure Fields where
  len : BitVec 2
  opc : BitVec 8
  d : BitVec 6
  a : BitVec 6
  b : BitVec 6
  f : BitVec 4
  imm10 : BitVec 10
  disp : BitVec 22
  g : Guard
  au : BitVec 1
  amode : BitVec 2
  bu : BitVec 1
  bmode : BitVec 2
  lease : BitVec 3
  ord : BitVec 2
  imm : BitVec 16
  w2 : Word
  deriving DecidableEq, Repr

/-- Taking the fields out of the words (R155-R157). -/
def Fields.of (w0 w1 w2 : Word) : Fields where
  len := w0.extractLsb' 0 2
  opc := w0.extractLsb' 2 8
  d := w0.extractLsb' 10 6
  a := w0.extractLsb' 16 6
  b := w0.extractLsb' 22 6
  f := w0.extractLsb' 28 4
  imm10 := w0.extractLsb' 22 10
  disp := w0.extractLsb' 10 22
  g := ⟨w1.extractLsb' 0 4, w1.getLsbD 4⟩
  amode := w1.extractLsb' 5 2
  bmode := w1.extractLsb' 7 2
  au := w1.extractLsb' 9 1
  bu := w1.extractLsb' 10 1
  lease := w1.extractLsb' 11 3
  ord := w1.extractLsb' 14 2
  imm := w1.extractLsb' 16 16
  w2 := w2

/-- The source A. -/
def Fields.srcA (x : Fields) : Option Src := Src.ofFields x.au x.amode x.a
/-- The source B. -/
def Fields.srcB (x : Fields) : Option Src := Src.ofFields x.bu x.bmode x.b
/-- The data register D of a store, read with BMODE and BU (R166). -/
def Fields.srcD (x : Fields) : Option Src := Src.ofFields x.bu x.bmode x.d
/-- The third source C of the Q64C forms (R161). -/
def Fields.srcC (x : Fields) : Option Src :=
  Src.ofFields (x.imm.extractLsb' 8 1) (x.imm.extractLsb' 6 2) (x.imm.extractLsb' 0 6)
/-- Scope, base and offset of a memory instruction (R166). -/
def Fields.mem (x : Fields) : Option MemArg :=
  match Scope.ofCode x.f, x.srcA with
  | some s, some a => some ⟨s, a, x.imm⟩
  | _, _ => none
/-- The modifiers of source A (R162). -/
def Fields.ma (x : Fields) : FMod := ⟨x.imm.getLsbD 4, x.imm.getLsbD 5⟩
/-- The modifiers of source B (R162). -/
def Fields.mb (x : Fields) : FMod := ⟨x.imm.getLsbD 6, x.imm.getLsbD 7⟩
/-- RND of R162. -/
def Fields.rnd (x : Fields) : Option Rnd := Rnd.ofCode (x.imm.extractLsb' 0 3)
/-- SAT of R162. -/
def Fields.sat (x : Fields) : Bool := x.imm.getLsbD 3
/-- SIZE of MT (R166). -/
def Fields.size (x : Fields) : Option Size := Size.ofCode (x.b.extractLsb' 0 3)
/-- The predicate of a field (R159). -/
def preg (v : BitVec 6) : PReg := v.setWidth 4

/-- The words of an instruction; an event of the device has none. -/
def encode : Instr → List Word
  | .nop => z32 0x00 0 0 0 0
  | .brJ32 disp => [wordJ 0 0x01 disp]
  | .callJ32 disp => [wordJ 0 0x02 disp]
  | .chk disp => [wordJ 0 0x03 disp]
  | .ret => z32 0x04 0 0 0 0
  | .calli a => z32 0x05 0 0 a 0
  | .calliTail a => z32 0x05 1 0 a 0
  | .brk => z32 0x06 0 0 0 0
  | .yield => z32 0x07 0 0 0 0
  | .poll => z32 0x08 0 0 0 0
  | .taskend => z32 0x09 0 0 0 0
  | .innflush => z32 0x0A 0 0 0 0
  | .drain => z32 0x0B 0 0 0 0
  | .drainArrive a => z32 0x0B 0 0 a 1
  | .isync => z32 0x0C 0 0 0 0
  | .eret => z32 0x0D 0 0 0 0
  | .halt => z32 0x0E 0 0 0 0
  | .addZ32 t d a b => z32 0x10 t.code d a b
  | .subZ32 t d a b => z32 0x11 t.code d a b
  | .mulZ32 t d a b => z32 0x12 t.code d a b
  | .mulhZ32 t d a b => z32 0x13 t.code d a b
  | .minZ32 t d a b => z32 0x14 t.code d a b
  | .maxZ32 t d a b => z32 0x15 t.code d a b
  | .andZ32 t d a b => z32 0x16 t.code d a b
  | .orZ32 t d a b => z32 0x17 t.code d a b
  | .xorZ32 t d a b => z32 0x18 t.code d a b
  | .andnZ32 t d a b => z32 0x19 t.code d a b
  | .shlZ32 t d a b => z32 0x1A t.code d a b
  | .shrZ32 t d a b => z32 0x1B t.code d a b
  | .sarZ32 t d a b => z32 0x1C t.code d a b
  | .rotZ32 t d a b => z32 0x1D t.code d a b
  | .selZ32 p d a b => z32 0x1E p d a b
  | .movZ32 t d a => z32 0x1F t.code d a 0
  | .addI32 d a imm => [wordI 0x20 d a imm]
  | .mulI32 d a imm => [wordI 0x21 d a imm]
  | .minI32 d a imm => [wordI 0x22 d a imm]
  | .maxI32 d a imm => [wordI 0x23 d a imm]
  | .andI32 d a imm => [wordI 0x24 d a imm]
  | .orI32 d a imm => [wordI 0x25 d a imm]
  | .xorI32 d a imm => [wordI 0x26 d a imm]
  | .shlI32 d a n => [wordI 0x27 d a (n.setWidth 10)]
  | .shrI32 d a n => [wordI 0x28 d a (n.setWidth 10)]
  | .sarI32 d a n => [wordI 0x29 d a (n.setWidth 10)]
  | .rotI32 d a n => [wordI 0x2A d a (n.setWidth 10)]
  | .moviI32 d imm => [wordI 0x2B d 0 imm]
  | .trap code a => [wordI 0x2C 0 a (code.setWidth 10)]
  | .ldI32 d a imm => [wordI 0x2D d a imm]
  | .stI32 d a imm => [wordI 0x2E d a imm]
  | .notZ32 t d a => z32 0x30 t.code d a 0
  | .negZ32 t d a => z32 0x31 t.code d a 0
  | .absZ32 t d a => z32 0x32 t.code d a 0
  | .clzZ32 t d a => z32 0x33 t.code d a 0
  | .popcZ32 t d a => z32 0x34 t.code d a 0
  | .brevZ32 t d a => z32 0x35 t.code d a 0
  | .faddZ32 d a b => z32 0x36 8 d a b
  | .fsubZ32 d a b => z32 0x37 8 d a b
  | .fmulZ32 d a b => z32 0x38 8 d a b
  | .fminZ32 d a b => z32 0x39 8 d a b
  | .fmaxZ32 d a b => z32 0x3A 8 d a b
  | .pand d a b => z32 0x3B 0 (d.setWidth 6) (a.setWidth 6) (b.setWidth 6)
  | .por d a b => z32 0x3C 0 (d.setWidth 6) (a.setWidth 6) (b.setWidth 6)
  | .pxor d a b => z32 0x3D 0 (d.setWidth 6) (a.setWidth 6) (b.setWidth 6)
  | .pnot d a => z32 0x3E 0 (d.setWidth 6) (a.setWidth 6) 0
  | .addQ64 g t sat d a b => q64 0x40 g t.code d a b.v b (immSat sat) 0 0
  | .subQ64 g t sat d a b => q64 0x41 g t.code d a b.v b (immSat sat) 0 0
  | .mulQ64 g t sat d a b => q64 0x42 g t.code d a b.v b (immSat sat) 0 0
  | .mulhQ64 g t d a b => q64 0x43 g t.code d a b.v b 0 0 0
  | .minQ64 g t d a b => q64 0x44 g t.code d a b.v b 0 0 0
  | .maxQ64 g t d a b => q64 0x45 g t.code d a b.v b 0 0 0
  | .andQ64 g t d a b => q64 0x46 g t.code d a b.v b 0 0 0
  | .orQ64 g t d a b => q64 0x47 g t.code d a b.v b 0 0 0
  | .xorQ64 g t d a b => q64 0x48 g t.code d a b.v b 0 0 0
  | .andnQ64 g t d a b => q64 0x49 g t.code d a b.v b 0 0 0
  | .shlQ64 g t d a b => q64 0x4A g t.code d a b.v b 0 0 0
  | .shrQ64 g t d a b => q64 0x4B g t.code d a b.v b 0 0 0
  | .sarQ64 g t d a b => q64 0x4C g t.code d a b.v b 0 0 0
  | .rotQ64 g t d a b => q64 0x4D g t.code d a b.v b 0 0 0
  | .div g t d a b => q64 0x4E g t.code d a b.v b 0 0 0
  | .rem g t d a b => q64 0x4F g t.code d a b.v b 0 0 0
  | .mad g t sat d a b c => q64 0x50 g t.code d a b.v b (immC false false false sat .dyn c) 0 0
  | .notQ64 g t d a => q64 0x51 g t.code d a 0 .none 0 0 0
  | .negQ64 g t sat d a => q64 0x52 g t.code d a 0 .none (immSat sat) 0 0
  | .absQ64 g t sat d a => q64 0x53 g t.code d a 0 .none (immSat sat) 0 0
  | .clzQ64 g t d a => q64 0x54 g t.code d a 0 .none 0 0 0
  | .popcQ64 g t d a => q64 0x55 g t.code d a 0 .none 0 0 0
  | .brevQ64 g t d a => q64 0x56 g t.code d a 0 .none 0 0 0
  | .bfe g sg pos len d a => q64 0x57 g (if sg then 0 else 1) d a 0 .none ((len ++ pos : BitVec 11).setWidth 16) 0 0
  | .bfi g sg pos len d a => q64 0x58 g (if sg then 0 else 1) d a 0 .none ((len ++ pos : BitVec 11).setWidth 16) 0 0
  | .selQ64 g p w64 notp d a b => q64 0x59 g p d a b.v b ((bit notp ++ bit w64 : BitVec 2).setWidth 16) 0 0
  | .movQ64 g t d a => q64 0x5A g t.code d a 0 .none 0 0 0
  | .movs g t d a => q64 0x5B g t.code (d.setWidth 6) a 0 .none 0 0 0
  | .leaQ64 g sg d a b sh disp => q64 0x5C g (if sg then 0 else 1) d a b.v b (disp ++ sh) 0 0
  | .cmp g t c d a b => q64 0x5D g t.code (d.setWidth 6) a b.v b (c.code.setWidth 16) 0 0
  | .fcmp g c d a ma b mb =>
      q64 0x5E g 8 (d.setWidth 6) a b.v b (((immF mb ma false .dyn) ||| c.code.setWidth 16)) 0 0
  | .faddQ64 g r sat d a ma b mb => q64 0x60 g 8 d a b.v b (immF mb ma sat r) 0 0
  | .fsubQ64 g r sat d a ma b mb => q64 0x61 g 8 d a b.v b (immF mb ma sat r) 0 0
  | .fmulQ64 g r sat d a ma b mb => q64 0x62 g 8 d a b.v b (immF mb ma sat r) 0 0
  | .ffma g r sat d a na b nb c nc => q64 0x63 g 8 d a b.v b (immC nc nb na sat r c) 0 0
  | .fminQ64 g d a ma b mb => q64 0x64 g 8 d a b.v b (immF mb ma false .dyn) 0 0
  | .fmaxQ64 g d a ma b mb => q64 0x65 g 8 d a b.v b (immF mb ma false .dyn) 0 0
  | .frcp g r sat d a ma => q64 0x66 g 8 d a 0 .none (immF .none ma sat r) 0 0
  | .frsq g r sat d a ma => q64 0x67 g 8 d a 0 .none (immF .none ma sat r) 0 0
  | .fsqrt g r sat d a ma => q64 0x68 g 8 d a 0 .none (immF .none ma sat r) 0 0
  | .fexp2 g r sat d a ma => q64 0x69 g 8 d a 0 .none (immF .none ma sat r) 0 0
  | .flog2 g r sat d a ma => q64 0x6A g 8 d a 0 .none (immF .none ma sat r) 0 0
  | .cvt g dt st r sat d a ma => q64 0x6B g dt.code d a (st.code.setWidth 6) .none (immF .none ma sat r) 0 0
  | .pack g dt r sat d a ma b mb => q64 0x6C g dt.code d a b.v b (immF mb ma sat r) 0 0
  | .upk g t raw idx d a ma =>
      q64 0x6D g t.code d a ((bit raw ++ idx : BitVec 4).setWidth 6) .none (immF .none ma false .dyn) 0 0
  | .dot4 g t d a b c => q64 0x6E g t.code d a b.v b (immC false false false false .dyn c) 0 0
  | .dot8 g t d a b c => q64 0x6F g t.code d a b.v b (immC false false false false .dyn c) 0 0
  | .shfl g m w64 d a b => q64 0x70 g (bit w64 ++ m.code) d a b.v b 0 0 0
  | .bcast g w64 d a b => q64 0x71 g (bit w64 ++ (0 : BitVec 3)) d a b.v b 0 0 0
  | .vote g op d a => q64 0x72 g op.code d (.g (a.setWidth 6) .wait) 0 .none 0 0 0
  | .redl g op t r d a =>
      q64 0x73 g t.code d a 0 .none ((r.code ++ (0 : BitVec 1) ++ op.code : BitVec 7).setWidth 16) 0 0
  | .scanl g op t r d a =>
      q64 0x74 g t.code d a 0 .none ((r.code ++ (0 : BitVec 1) ++ op.code : BitVec 7).setWidth 16) 0 0
  | .first g d a => q64 0x75 g 0 d (.g (a.setWidth 6) .wait) 0 .none 0 0 0
  | .rand g f32 d a b => q64 0x76 g (if f32 then 8 else 1) d a b.v b 0 0 0
  | .hsift g t bot k d a b => q64 0x77 g t.code d a b.v b ((bit bot ++ k : BitVec 7).setWidth 16) 0 0
  | .bins g t lt m l d a b => q64 0x78 g t.code d a b.v b ((bit lt ++ m : BitVec 9).setWidth 16) 0 l
  | .twalk g l n d a b => q64 0x79 g 8 d a b.v b n 0 l
  | .tmask g d a b n1 => q64 0x7A g 0 d (.s a) b.v b (n1.setWidth 16) 0 0
  | .ldQ64 g s sx acq l d m => q64 0x80 g m.scope.code d m.base (mt sx s) .none m.off (ordA acq) l
  | .ldu g s sx acq l d m => q64 0x81 g m.scope.code (d.setWidth 6) m.base (mt sx s) .none m.off (ordA acq) l
  | .ldw g s sx l d m => q64 0x82 g m.scope.code d m.base (mt sx s) .none m.off 0 l
  | .ldf g w acq d m => q64 0x83 g m.scope.code d m.base (mtW w) .none m.off (ordA acq) 0
  | .take g w acq d m => q64 0x84 g m.scope.code d m.base (mtW w) .none m.off (ordA acq) 0
  | .fill g w rel d m => q64 0x85 g m.scope.code d.v m.base (mtW w) d m.off (ordR rel) 0
  | .setf g w rel d m => q64 0x86 g m.scope.code d.v m.base (mtW w) d m.off (ordR rel) 0
  | .clrf g w m => q64 0x87 g m.scope.code 0 m.base (mtW w) .none m.off 0 0
  | .pref g l m => q64 0x88 g m.scope.code 0 m.base 0 .none m.off 0 l
  | .probe g k d m => q64 0x89 g m.scope.code d m.base k.code .none m.off 0 0
  | .tinv g dev d a am => q64 0x8A g (if dev then 3 else 2) d (.g a am) 0 .none 0 0 0
  | .stQ64 g s rel l d m => q64 0x8B g m.scope.code d.v m.base (mt false s) d m.off (ordR rel) l
  | .fence g k o s => q64 0x8C g s.code 0 .none 0 .none k.code o.code 0
  | .barinit g d m => q64 0x8D g m.scope.code d.v m.base 0 d m.off 0 0
  | .bararr g rel d m => q64 0x8E g m.scope.code d m.base 0 .none m.off (ordR rel) 0
  | .barwait g acq d m => q64 0x8F g m.scope.code d.v m.base 0 d m.off (ordA acq) 0
  | .barexp g dir rel d s a off => q64 0x90 g s.code d.v a 0 d (off ++ dir.code) (ordR rel) 0
  | .depdec g rel m => q64 0x91 g m.scope.code 0 m.base 0 .none m.off (ordR rel) 0
  | .waitt g c (.imm n) => q64 0x92 g (c.setWidth 4) 0 .none 1 .none n 0 0
  | .waitt g c (.src a) => q64 0x92 g (c.setWidth 4) 0 a 0 .none 0 0 0
  | .mfc g i (.pair d) => q64 0x93 g 0 d .none 0 .none (i.setWidth 16) 0 0
  | .mfc g i (.word d) => q64 0x93 g 1 d .none 0 .none (i.setWidth 16) 0 0
  | .mfc g i (.uni d) => q64 0x93 g 2 (d.setWidth 6) .none 0 .none (i.setWidth 16) 0 0
  | .mtc g w i a => q64 0x94 g (if w then 1 else 0) 0 a 0 .none (i.setWidth 16) 0 0
  | .brc g disp j => [wordJ 1 0x95 disp, word1 j 0 0 .none .none g]
  | .bru g disp => [wordJ 1 0x96 disp, word1 0 0 0 .none .none g]
  | .brkd g off => q64 0x97 g 0 0 .none 0 .none off 0 0
  | .loop a off => q64 0x98 ⟨0, false⟩ 0 0 a 0 .none off 0 0
  | .loopr st a off => q64 0x99 ⟨0, false⟩ (st.setWidth 4) 0 a 0 .none off 0 0
  | .lsave g l m => q64 0x9A g m.scope.code 0 m.base 0 .none m.off 0 l
  | .lrest g l m => q64 0x9B g m.scope.code 0 m.base 0 .none m.off 0 l
  | .gcall g a b => q64 0x9C g 0 0 a b.v b 0 0 0
  | .gcalli g a b => q64 0x9D g 0 0 a b.v b 0 0 0
  | .retg g => q64 0x9E g 0 0 .none 0 .none 0 0 0
  | .migrate g a => q64 0x9F g 0 0 a 0 .none 0 0 0
  | .route g a b => q64 0xA0 g 0 0 a b.v b 0 0 0
  | .rethome g => q64 0xA1 g 0 0 .none 0 .none 0 0 0
  | .routeset g a b => q64 0xA2 g 0 0 a b.v b 0 0 0
  | .rcsnap g l a off => q64 0xA3 g 0 0 a 0 .none off 0 l
  | .spawn g d a b => q64 0xA4 g 0 d a b.v b 0 0 0
  | .taskmk g n d a b => q64 0xA5 g 0 d a b.v b n 0 0
  | .cancel g l => q64 0xA6 g l.code 0 .none 0 .none 0 0 0
  | .cntw g d a b => q64 0xA7 g 0 d a b.v b 0 0 0
  | .role g r => q64 0xA8 g r.code 0 .none 0 .none 0 0 0
  | .wmopen g lo hi d a => q64 0xA9 g 0 d a 0 .none ((hi ++ lo : BitVec 12).setWidth 16) 0 0
  | .wmclose g a => q64 0xAA g 0 0 a 0 .none 0 0 0
  | .wmapp g k a b => q64 0xAB g (k.setWidth 4) 0 a b.v b 0 0 0
  | .wmprop g k d a b => q64 0xAC g (k.setWidth 4) d a b .none 0 0 0
  | .wmlen g f d a => q64 0xAD g f.code d a 0 .none 0 0 0
  | .wmsave g c l a off h => q64 0xAE g ((bit c).setWidth 4) 0 a h.v h off 0 l
  | .wmload g l d a off => q64 0xAF g 0 d a 0 .none off 0 l
  | .wmown g a b => q64 0xB0 g 0 0 a b.v b 0 0 0
  | .tcfg g t fmt rows rb => q64 0xB1 g fmt (t.setWidth 6) .none 0 .none ((rb ++ rows : BitVec 14).setWidth 16) 0 0
  | .tpack g w t a r0 wo => q64 0xB2 g w.code (t.setWidth 6) a 0 .none (wo ++ r0) 0 0
  | .tunpk g w d t r0 wo => q64 0xB3 g w.code d (.g (t.setWidth 6) .wait) 0 .none (wo ++ r0) 0 0
  | .tzero g t => q64 0xB4 g 0 (t.setWidth 6) .none 0 .none 0 0 0
  | .accz g c => q64 0xB5 g 0 (c.setWidth 6) .none 0 .none 0 0 0
  | .cellp g a => q64 0xB6 g 0 0 a 0 .none 0 0 0
  | .tsave g l m => q64 0xB7 g m.scope.code 0 m.base 0 .none m.off 0 l
  | .trest g l m => q64 0xB8 g m.scope.code 0 m.base 0 .none m.off 0 l
  | .twait g => q64 0xB9 g 0 0 .none 0 .none 0 0 0
  | .moviX96 g k d imm => x96 0xC0 g k.code d .none 0 .none 0 0 0 imm
  | .atom g op w o d m v c => x96 0xC1 g m.scope.code d m.base (mtW w) .none m.off o.code 0
      (op.code ++ v.u ++ v.mode ++ v.v ++ c.u ++ c.mode ++ c.v ++ (0 : BitVec 10))
  | .red g op t rel d m =>
      x96 0xC2 g m.scope.code d.v m.base t.size d m.off (ordR rel) 0 (op.code ++ t.kind ++ (0 : BitVec 26))
  | .copy g sh q d a b (some c) =>
      x96 0xC3 g sh.code d a b.v b 0 0 0 (bit q ++ c.u ++ c.v ++ (0 : BitVec 23) ++ (1 : BitVec 1))
  | .copy g sh q d a b none => x96 0xC3 g sh.code d a b.v b 0 0 0 (bit q ++ (0 : BitVec 31))
  | .gather g q d a b c e => x96 0xC4 g 0 d a b.v b 0 0 0 (bit q ++ c.u ++ c.v ++ e.u ++ e.v ++ (0 : BitVec 17))
  | .scadd g q d a b c e => x96 0xC5 g 0 d a b.v b 0 0 0 (bit q ++ c.u ++ c.v ++ e.u ++ e.v ++ (0 : BitVec 17))
  | .quant g q d a b => x96 0xC6 g 0 d a b.v b 0 0 0 (bit q ++ (0 : BitVec 31))
  | .tgenNew g q d a b c mt => x96 0xC7 g 0 d a b.v b 0 0 0 (bit q ++ (0 : BitVec 1) ++ c ++ (0 : BitVec 16) ++ mt)
  | .tgenApp g q d a b c mt => x96 0xC7 g 1 d a b.v b 0 0 0 (bit q ++ (0 : BitVec 1) ++ c ++ (0 : BitVec 16) ++ mt)
  | .tgenClose g q d a => x96 0xC7 g 2 d a 0 .none 0 0 0 (bit q ++ (0 : BitVec 31))
  | .tld g q l d t m b => x96 0xC8 g m.scope.code d m.base b.v b m.off 0 l (bit q ++ (0 : BitVec 28) ++ t)
  | .tst g q l d t m b => x96 0xC9 g m.scope.code d m.base b.v b m.off 0 l (bit q ++ (0 : BitVec 28) ++ t)
  | .mma g c ta tb m0 n0 =>
      x96 0xCA g 0 (c.setWidth 6) (.g (ta.setWidth 6) .wait) (tb.setWidth 6) .none 0 0 0 ((0 : BitVec 2) ++ m0 ++ (0 : BitVec 1) ++ n0 ++ (0 : BitVec 16))
  | .mmas g c ta tb sa sb m0 n0 => x96 0xCB g 0 (c.setWidth 6) (.g (ta.setWidth 6) .wait) (tb.setWidth 6) .none 0 0 0
      ((0 : BitVec 2) ++ m0 ++ (0 : BitVec 1) ++ n0 ++ (0 : BitVec 9) ++ sb ++ (0 : BitVec 1) ++ sa)
  | .mmc g c ta tb m0 n0 =>
      x96 0xCC g 0 (c.setWidth 6) (.g (ta.setWidth 6) .wait) (tb.setWidth 6) .none 0 0 0 ((0 : BitVec 2) ++ m0 ++ (0 : BitVec 1) ++ n0 ++ (0 : BitVec 16))
  | .accld g l c m b m0 n0 m1 n1 => x96 0xCD g m.scope.code (c.setWidth 6) m.base b.v b m.off 0 l
      ((0 : BitVec 2) ++ m0 ++ (0 : BitVec 1) ++ n0 ++ (0 : BitVec 2) ++ m1 ++ (0 : BitVec 1) ++ n1)
  | .accst g l c m b m0 n0 m1 n1 => x96 0xCE g m.scope.code (c.setWidth 6) m.base b.v b m.off 0 l
      ((0 : BitVec 2) ++ m0 ++ (0 : BitVec 1) ++ n0 ++ (0 : BitVec 2) ++ m1 ++ (0 : BitVec 1) ++ n1)
  | .acccvt g sat si t c m0 n0 => x96 0xCF g 0 (t.setWidth 6) (.g (c.setWidth 6) .wait) 0 .none 0 0 0
      (bit sat ++ bit si ++ m0 ++ (0 : BitVec 1) ++ n0 ++ (0 : BitVec 16))
  | .accsend g ty sat si c a b k m1 n1 => x96 0xD0 g ty.code (c.setWidth 6) a b.v b 0 0 0
      (bit sat ++ bit si ++ m1 ++ n1 ++ k.v ++ k.u ++ (0 : BitVec 10))
  | .brX96 imm => x96 0xD1 ⟨0, false⟩ 0 0 .none 0 .none 0 0 0 imm
  | .callX96 imm => x96 0xD2 ⟨0, false⟩ 0 0 .none 0 .none 0 0 0 imm
  | .leaX96 g d a imm => x96 0xD3 g 0 d a 0 .none 0 0 0 imm
  | .leaPc g d imm => x96 0xD3 g 1 d .none 0 .none 0 0 0 imm
  | _ => []

/-- The number of words of an opcode that is assigned (R168, R169); none where it is not. -/
def opcodeWords (opc : BitVec 8) : Option Nat :=
  let n := opc.toNat
  if n = 0x0F ∨ n = 0x2F ∨ n = 0x3F ∨ n = 0x5F then none
  else if n ≤ 0x3E then some 1
  else if 0x40 ≤ n ∧ n ≤ 0x7A then some 2
  else if 0x80 ≤ n ∧ n ≤ 0xB9 then some 2
  else if 0xC0 ≤ n ∧ n ≤ 0xD3 then some 3
  else none

/-- The fields of the 32-bit forms, opcode by opcode (R169, R170). -/
def extract32 (x : Fields) : Option Instr :=
  match x.opc.toNat with
  | 0x00 => some .nop
  | 0x01 => some (.brJ32 x.disp)
  | 0x02 => some (.callJ32 x.disp)
  | 0x03 => some (.chk x.disp)
  | 0x04 => some .ret
  | 0x05 => if x.f = 0 then some (.calli x.a) else some (.calliTail x.a)
  | 0x06 => some .brk
  | 0x07 => some .yield
  | 0x08 => some .poll
  | 0x09 => some .taskend
  | 0x0A => some .innflush
  | 0x0B => if x.b = 0 then some .drain else some (.drainArrive x.a)
  | 0x0C => some .isync
  | 0x0D => some .eret
  | 0x0E => some .halt
  | 0x10 => (ITy.ofCode x.f).map (.addZ32 · x.d x.a x.b)
  | 0x11 => (ITy.ofCode x.f).map (.subZ32 · x.d x.a x.b)
  | 0x12 => (ITy.ofCode x.f).map (.mulZ32 · x.d x.a x.b)
  | 0x13 => (ITy.ofCode x.f).map (.mulhZ32 · x.d x.a x.b)
  | 0x14 => (ITy.ofCode x.f).map (.minZ32 · x.d x.a x.b)
  | 0x15 => (ITy.ofCode x.f).map (.maxZ32 · x.d x.a x.b)
  | 0x16 => (ITy.ofCode x.f).map (.andZ32 · x.d x.a x.b)
  | 0x17 => (ITy.ofCode x.f).map (.orZ32 · x.d x.a x.b)
  | 0x18 => (ITy.ofCode x.f).map (.xorZ32 · x.d x.a x.b)
  | 0x19 => (ITy.ofCode x.f).map (.andnZ32 · x.d x.a x.b)
  | 0x1A => (ITy.ofCode x.f).map (.shlZ32 · x.d x.a x.b)
  | 0x1B => (ITy.ofCode x.f).map (.shrZ32 · x.d x.a x.b)
  | 0x1C => (ITy.ofCode x.f).map (.sarZ32 · x.d x.a x.b)
  | 0x1D => (ITy.ofCode x.f).map (.rotZ32 · x.d x.a x.b)
  | 0x1E => some (.selZ32 x.f x.d x.a x.b)
  | 0x1F => (ITy.ofCode x.f).map (.movZ32 · x.d x.a)
  | 0x20 => some (.addI32 x.d x.a x.imm10)
  | 0x21 => some (.mulI32 x.d x.a x.imm10)
  | 0x22 => some (.minI32 x.d x.a x.imm10)
  | 0x23 => some (.maxI32 x.d x.a x.imm10)
  | 0x24 => some (.andI32 x.d x.a x.imm10)
  | 0x25 => some (.orI32 x.d x.a x.imm10)
  | 0x26 => some (.xorI32 x.d x.a x.imm10)
  | 0x27 => some (.shlI32 x.d x.a (x.imm10.setWidth 5))
  | 0x28 => some (.shrI32 x.d x.a (x.imm10.setWidth 5))
  | 0x29 => some (.sarI32 x.d x.a (x.imm10.setWidth 5))
  | 0x2A => some (.rotI32 x.d x.a (x.imm10.setWidth 5))
  | 0x2B => some (.moviI32 x.d x.imm10)
  | 0x2C => some (.trap (x.imm10.setWidth 8) x.a)
  | 0x2D => some (.ldI32 x.d x.a x.imm10)
  | 0x2E => some (.stI32 x.d x.a x.imm10)
  | 0x30 => (ITy.ofCode x.f).map (.notZ32 · x.d x.a)
  | 0x31 => (ITy.ofCode x.f).map (.negZ32 · x.d x.a)
  | 0x32 => (ITy.ofCode x.f).map (.absZ32 · x.d x.a)
  | 0x33 => (ITy.ofCode x.f).map (.clzZ32 · x.d x.a)
  | 0x34 => (ITy.ofCode x.f).map (.popcZ32 · x.d x.a)
  | 0x35 => (ITy.ofCode x.f).map (.brevZ32 · x.d x.a)
  | 0x36 => some (.faddZ32 x.d x.a x.b)
  | 0x37 => some (.fsubZ32 x.d x.a x.b)
  | 0x38 => some (.fmulZ32 x.d x.a x.b)
  | 0x39 => some (.fminZ32 x.d x.a x.b)
  | 0x3A => some (.fmaxZ32 x.d x.a x.b)
  | 0x3B => some (.pand (preg x.d) (preg x.a) (preg x.b))
  | 0x3C => some (.por (preg x.d) (preg x.a) (preg x.b))
  | 0x3D => some (.pxor (preg x.d) (preg x.a) (preg x.b))
  | 0x3E => some (.pnot (preg x.d) (preg x.a))
  | _ => none

/-- The fields of the 64-bit lane forms, opcode by opcode. -/
def extractLane (x : Fields) : Option Instr :=
  match x.opc.toNat with
  | 0x40 => do let t ← ITy.ofCode x.f; let a ← x.srcA; let b ← x.srcB; some (.addQ64 x.g t (x.imm.getLsbD 0) x.d a b)
  | 0x41 => do let t ← ITy.ofCode x.f; let a ← x.srcA; let b ← x.srcB; some (.subQ64 x.g t (x.imm.getLsbD 0) x.d a b)
  | 0x42 => do let t ← ITy.ofCode x.f; let a ← x.srcA; let b ← x.srcB; some (.mulQ64 x.g t (x.imm.getLsbD 0) x.d a b)
  | 0x43 => do let t ← ITy.ofCode x.f; let a ← x.srcA; let b ← x.srcB; some (.mulhQ64 x.g t x.d a b)
  | 0x44 => do let t ← ITy.ofCode x.f; let a ← x.srcA; let b ← x.srcB; some (.minQ64 x.g t x.d a b)
  | 0x45 => do let t ← ITy.ofCode x.f; let a ← x.srcA; let b ← x.srcB; some (.maxQ64 x.g t x.d a b)
  | 0x46 => do let t ← ITy.ofCode x.f; let a ← x.srcA; let b ← x.srcB; some (.andQ64 x.g t x.d a b)
  | 0x47 => do let t ← ITy.ofCode x.f; let a ← x.srcA; let b ← x.srcB; some (.orQ64 x.g t x.d a b)
  | 0x48 => do let t ← ITy.ofCode x.f; let a ← x.srcA; let b ← x.srcB; some (.xorQ64 x.g t x.d a b)
  | 0x49 => do let t ← ITy.ofCode x.f; let a ← x.srcA; let b ← x.srcB; some (.andnQ64 x.g t x.d a b)
  | 0x4A => do let t ← ITy.ofCode x.f; let a ← x.srcA; let b ← x.srcB; some (.shlQ64 x.g t x.d a b)
  | 0x4B => do let t ← ITy.ofCode x.f; let a ← x.srcA; let b ← x.srcB; some (.shrQ64 x.g t x.d a b)
  | 0x4C => do let t ← ITy.ofCode x.f; let a ← x.srcA; let b ← x.srcB; some (.sarQ64 x.g t x.d a b)
  | 0x4D => do let t ← ITy.ofCode x.f; let a ← x.srcA; let b ← x.srcB; some (.rotQ64 x.g t x.d a b)
  | 0x4E => do let t ← ITy.ofCode x.f; let a ← x.srcA; let b ← x.srcB; some (.div x.g t x.d a b)
  | 0x4F => do let t ← ITy.ofCode x.f; let a ← x.srcA; let b ← x.srcB; some (.rem x.g t x.d a b)
  | 0x50 =>
      do let t ← ITy.ofCode x.f; let a ← x.srcA; let b ← x.srcB; let c ← x.srcC; some (.mad x.g t (x.imm.getLsbD 12) x.d a b c)
  | 0x51 => do let t ← ITy.ofCode x.f; let a ← x.srcA; some (.notQ64 x.g t x.d a)
  | 0x52 => do let t ← ITy.ofCode x.f; let a ← x.srcA; some (.negQ64 x.g t (x.imm.getLsbD 0) x.d a)
  | 0x53 => do let t ← ITy.ofCode x.f; let a ← x.srcA; some (.absQ64 x.g t (x.imm.getLsbD 0) x.d a)
  | 0x54 => do let t ← ITy.ofCode x.f; let a ← x.srcA; some (.clzQ64 x.g t x.d a)
  | 0x55 => do let t ← ITy.ofCode x.f; let a ← x.srcA; some (.popcQ64 x.g t x.d a)
  | 0x56 => do let t ← ITy.ofCode x.f; let a ← x.srcA; some (.brevQ64 x.g t x.d a)
  | 0x57 => do let a ← x.srcA; some (.bfe x.g (x.f == 0) (x.imm.extractLsb' 0 5) (x.imm.extractLsb' 5 6) x.d a)
  | 0x58 => do let a ← x.srcA; some (.bfi x.g (x.f == 0) (x.imm.extractLsb' 0 5) (x.imm.extractLsb' 5 6) x.d a)
  | 0x59 => do let a ← x.srcA; let b ← x.srcB; some (.selQ64 x.g x.f (x.imm.getLsbD 0) (x.imm.getLsbD 1) x.d a b)
  | 0x5A => do let t ← ITy.ofCode x.f; let a ← x.srcA; some (.movQ64 x.g t x.d a)
  | 0x5B => do let t ← ITy.ofCode x.f; let a ← x.srcA; some (.movs x.g t (x.d.setWidth 5) a)
  | 0x5C =>
      do let a ← x.srcA; let b ← x.srcB; some (.leaQ64 x.g (x.f == 0) x.d a b (x.imm.extractLsb' 0 3) (x.imm.extractLsb' 3 13))
  | 0x5D =>
      do let t ← ITy.ofCode x.f; let a ← x.srcA; let b ← x.srcB; let c ← Cond.ofCode (x.imm.extractLsb' 0 3); some (.cmp x.g t c (preg x.d) a b)
  | 0x5E =>
      do let a ← x.srcA; let b ← x.srcB; some (.fcmp x.g (FCond.ofCode (x.imm.extractLsb' 0 3)) (preg x.d) a x.ma b x.mb)
  | 0x60 => do let a ← x.srcA; let b ← x.srcB; let r ← x.rnd; some (.faddQ64 x.g r x.sat x.d a x.ma b x.mb)
  | 0x61 => do let a ← x.srcA; let b ← x.srcB; let r ← x.rnd; some (.fsubQ64 x.g r x.sat x.d a x.ma b x.mb)
  | 0x62 => do let a ← x.srcA; let b ← x.srcB; let r ← x.rnd; some (.fmulQ64 x.g r x.sat x.d a x.ma b x.mb)
  | 0x63 =>
      do let a ← x.srcA; let b ← x.srcB; let c ← x.srcC; let r ← Rnd.ofCode (x.imm.extractLsb' 9 3); some (.ffma x.g r (x.imm.getLsbD 12) x.d a (x.imm.getLsbD 13) b (x.imm.getLsbD 14) c (x.imm.getLsbD 15))
  | 0x64 => do let a ← x.srcA; let b ← x.srcB; some (.fminQ64 x.g x.d a x.ma b x.mb)
  | 0x65 => do let a ← x.srcA; let b ← x.srcB; some (.fmaxQ64 x.g x.d a x.ma b x.mb)
  | 0x66 => do let a ← x.srcA; let r ← x.rnd; some (.frcp x.g r x.sat x.d a x.ma)
  | 0x67 => do let a ← x.srcA; let r ← x.rnd; some (.frsq x.g r x.sat x.d a x.ma)
  | 0x68 => do let a ← x.srcA; let r ← x.rnd; some (.fsqrt x.g r x.sat x.d a x.ma)
  | 0x69 => do let a ← x.srcA; let r ← x.rnd; some (.fexp2 x.g r x.sat x.d a x.ma)
  | 0x6A => do let a ← x.srcA; let r ← x.rnd; some (.flog2 x.g r x.sat x.d a x.ma)
  | 0x6B =>
      do let a ← x.srcA; let r ← x.rnd; some (.cvt x.g (Ty.ofCode x.f) (Ty.ofCode (x.b.setWidth 4)) r x.sat x.d a x.ma)
  | 0x6C =>
      do let a ← x.srcA; let b ← x.srcB; let r ← x.rnd; some (.pack x.g (Ty.ofCode x.f) r x.sat x.d a x.ma b x.mb)
  | 0x6D => do let a ← x.srcA; some (.upk x.g (Ty.ofCode x.f) (x.b.getLsbD 3) (x.b.setWidth 3) x.d a x.ma)
  | 0x6E => do let a ← x.srcA; let b ← x.srcB; let c ← x.srcC; some (.dot4 x.g (Ty.ofCode x.f) x.d a b c)
  | 0x6F => do let a ← x.srcA; let b ← x.srcB; let c ← x.srcC; some (.dot8 x.g (Ty.ofCode x.f) x.d a b c)
  | 0x70 =>
      do let a ← x.srcA; let b ← x.srcB; let m ← ShflMode.ofCode (x.f.extractLsb' 0 3); some (.shfl x.g m (x.f.getLsbD 3) x.d a b)
  | 0x71 => do let a ← x.srcA; let b ← x.srcB; some (.bcast x.g (x.f.getLsbD 3) x.d a b)
  | 0x72 => (VoteOp.ofCode x.f).map (.vote x.g · x.d (preg x.a))
  | 0x73 =>
      do let a ← x.srcA; let o ← RedlOp.ofCode (x.imm.extractLsb' 0 3); let r ← Rnd.ofCode (x.imm.extractLsb' 4 3); some (.redl x.g o (Ty.ofCode x.f) r x.d a)
  | 0x74 =>
      do let a ← x.srcA; let o ← RedlOp.ofCode (x.imm.extractLsb' 0 3); let r ← Rnd.ofCode (x.imm.extractLsb' 4 3); some (.scanl x.g o (Ty.ofCode x.f) r x.d a)
  | 0x75 => some (.first x.g x.d (preg x.a))
  | 0x76 => do let a ← x.srcA; let b ← x.srcB; some (.rand x.g (x.f == 8) x.d a b)
  | 0x77 =>
      do let a ← x.srcA; let b ← x.srcB; let t ← KeyTy.ofCode x.f; some (.hsift x.g t (x.imm.getLsbD 6) (x.imm.setWidth 6) x.d a b)
  | 0x78 =>
      do let a ← x.srcA; let b ← x.srcB; let t ← KeyTy.ofCode x.f; some (.bins x.g t (x.imm.getLsbD 8) (x.imm.setWidth 8) x.lease x.d a b)
  | 0x79 => do let a ← x.srcA; let b ← x.srcB; some (.twalk x.g x.lease x.imm x.d a b)
  | 0x7A => do let b ← x.srcB; some (.tmask x.g x.d (x.a.setWidth 5) b (x.imm.setWidth 5))
  | _ => none

/-- The fields of the other 64-bit forms, opcode by opcode. -/
def extract64 (x : Fields) : Option Instr :=
  match x.opc.toNat with
  | 0x80 => do let s ← x.size; let m ← x.mem; some (.ldQ64 x.g s (x.b.getLsbD 3) (x.ord == 1) x.lease x.d m)
  | 0x81 =>
      do let s ← x.size; let m ← x.mem; some (.ldu x.g s (x.b.getLsbD 3) (x.ord == 1) x.lease (x.d.setWidth 5) m)
  | 0x82 => do let s ← x.size; let m ← x.mem; some (.ldw x.g s (x.b.getLsbD 3) x.lease x.d m)
  | 0x83 => do let m ← x.mem; some (.ldf x.g (x.b == 3) (x.ord == 1) x.d m)
  | 0x84 => do let m ← x.mem; some (.take x.g (x.b == 3) (x.ord == 1) x.d m)
  | 0x85 => do let m ← x.mem; let d ← x.srcD; some (.fill x.g (x.b == 3) (x.ord == 2) d m)
  | 0x86 => do let m ← x.mem; let d ← x.srcD; some (.setf x.g (x.b == 3) (x.ord == 2) d m)
  | 0x87 => do let m ← x.mem; some (.clrf x.g (x.b == 3) m)
  | 0x88 => do let m ← x.mem; some (.pref x.g x.lease m)
  | 0x89 => do let m ← x.mem; let k ← ProbeKind.ofCode x.b; some (.probe x.g k x.d m)
  | 0x8A => (ReadMode.ofCode x.amode).map (.tinv x.g (x.f == 3) x.d x.a ·)
  | 0x8B => do let s ← x.size; let m ← x.mem; let d ← x.srcD; some (.stQ64 x.g s (x.ord == 2) x.lease d m)
  | 0x8C => do let s ← Scope.ofCode x.f; let k ← FenceKind.ofCode x.imm; some (.fence x.g k (Ord4.ofCode x.ord) s)
  | 0x8D => do let m ← x.mem; let d ← x.srcD; some (.barinit x.g d m)
  | 0x8E => do let m ← x.mem; some (.bararr x.g (x.ord == 2) x.d m)
  | 0x8F => do let m ← x.mem; let d ← x.srcD; some (.barwait x.g (x.ord == 1) d m)
  | 0x90 =>
      do let s ← Scope.ofCode x.f; let a ← x.srcA; let d ← x.srcD; let dir ← BarDir.ofCode (x.imm.extractLsb' 0 2); some (.barexp x.g dir (x.ord == 2) d s a (x.imm.extractLsb' 2 14))
  | 0x91 => do let m ← x.mem; some (.depdec x.g (x.ord == 2) m)
  | 0x92 => do let a ← x.srcA; some (.waitt x.g (x.f.setWidth 2) (if x.b = 1 then .imm x.imm else .src a))
  | 0x93 => match x.f.toNat with
      | 0 => some (.mfc x.g (x.imm.setWidth 12) (.pair x.d))
      | 1 => some (.mfc x.g (x.imm.setWidth 12) (.word x.d))
      | 2 => some (.mfc x.g (x.imm.setWidth 12) (.uni (x.d.setWidth 5)))
      | _ => none
  | 0x94 => do let a ← x.srcA; some (.mtc x.g (x.f == 1) (x.imm.setWidth 12) a)
  | 0x95 => some (.brc x.g x.disp x.imm)
  | 0x96 => some (.bru x.g x.disp)
  | 0x97 => some (.brkd x.g x.imm)
  | 0x98 => do let a ← x.srcA; some (.loop a x.imm)
  | 0x99 => do let a ← x.srcA; some (.loopr (x.f.setWidth 3) a x.imm)
  | 0x9A => do let m ← x.mem; some (.lsave x.g x.lease m)
  | 0x9B => do let m ← x.mem; some (.lrest x.g x.lease m)
  | 0x9C => do let a ← x.srcA; let b ← x.srcB; some (.gcall x.g a b)
  | 0x9D => do let a ← x.srcA; let b ← x.srcB; some (.gcalli x.g a b)
  | 0x9E => some (.retg x.g)
  | 0x9F => do let a ← x.srcA; some (.migrate x.g a)
  | 0xA0 => do let a ← x.srcA; let b ← x.srcB; some (.route x.g a b)
  | 0xA1 => some (.rethome x.g)
  | 0xA2 => do let a ← x.srcA; let b ← x.srcB; some (.routeset x.g a b)
  | 0xA3 => do let a ← x.srcA; some (.rcsnap x.g x.lease a x.imm)
  | 0xA4 => do let a ← x.srcA; let b ← x.srcB; some (.spawn x.g x.d a b)
  | 0xA5 => do let a ← x.srcA; let b ← x.srcB; some (.taskmk x.g x.imm x.d a b)
  | 0xA6 => (Level.ofCode x.f).map (.cancel x.g ·)
  | 0xA7 => do let a ← x.srcA; let b ← x.srcB; some (.cntw x.g x.d a b)
  | 0xA8 => (Role.ofCode x.f).map (.role x.g ·)
  | 0xA9 => do let a ← x.srcA; some (.wmopen x.g (x.imm.extractLsb' 0 6) (x.imm.extractLsb' 6 6) x.d a)
  | 0xAA => do let a ← x.srcA; some (.wmclose x.g a)
  | 0xAB => do let a ← x.srcA; let b ← x.srcB; some (.wmapp x.g (x.f.setWidth 3) a b)
  | 0xAC => do let a ← x.srcA; some (.wmprop x.g (x.f.setWidth 3) x.d a x.b)
  | 0xAD => do let a ← x.srcA; let f ← WmField.ofCode x.f; some (.wmlen x.g f x.d a)
  | 0xAE => do let a ← x.srcA; let b ← x.srcB; some (.wmsave x.g (x.f.getLsbD 0) x.lease a x.imm b)
  | 0xAF => do let a ← x.srcA; some (.wmload x.g x.lease x.d a x.imm)
  | 0xB0 => do let a ← x.srcA; let b ← x.srcB; some (.wmown x.g a b)
  | 0xB1 => some (.tcfg x.g (x.d.setWidth 3) x.f (x.imm.extractLsb' 0 7) (x.imm.extractLsb' 7 7))
  | 0xB2 =>
      do let a ← x.srcA; let w ← WordCount.ofCode x.f; some (.tpack x.g w (x.d.setWidth 3) a (x.imm.extractLsb' 0 7) (x.imm.extractLsb' 7 9))
  | 0xB3 =>
      do let w ← WordCount.ofCode x.f; some (.tunpk x.g w x.d (x.a.setWidth 3) (x.imm.extractLsb' 0 7) (x.imm.extractLsb' 7 9))
  | 0xB4 => some (.tzero x.g (x.d.setWidth 3))
  | 0xB5 => some (.accz x.g (x.d.setWidth 2))
  | 0xB6 => do let a ← x.srcA; some (.cellp x.g a)
  | 0xB7 => do let m ← x.mem; some (.tsave x.g x.lease m)
  | 0xB8 => do let m ← x.mem; some (.trest x.g x.lease m)
  | 0xB9 => some (.twait x.g)
  | _ => none

/-- The fields of the 96-bit forms, opcode by opcode. -/
def extract96 (x : Fields) : Option Instr :=
  match x.opc.toNat with
  | 0xC0 => (MoviKind.ofCode x.f).map (.moviX96 x.g · x.d x.w2)
  | 0xC1 =>
      do let m ← x.mem; let o ← AtomOp.ofCode (x.w2.extractLsb' 28 4); let v ← Src.ofFields (x.w2.extractLsb' 27 1) (x.w2.extractLsb' 25 2) (x.w2.extractLsb' 19 6); let c ← Src.ofFields (x.w2.extractLsb' 18 1) (x.w2.extractLsb' 16 2) (x.w2.extractLsb' 10 6); some (.atom x.g o (x.b == 3) (Ord4.ofCode x.ord) x.d m v c)
  | 0xC2 =>
      do let m ← x.mem; let d ← x.srcD; let o ← RedOp.ofCode (x.w2.extractLsb' 28 4); let t ← RedTy.ofCode (x.w2.extractLsb' 26 2) x.b; some (.red x.g o t (x.ord == 2) d m)
  | 0xC3 =>
      do let a ← x.srcA; let b ← x.srcB; let sh ← CopyShape.ofCode x.f; let c ← Src3.ofFields (x.w2.extractLsb' 30 1) (x.w2.extractLsb' 24 6); some (.copy x.g sh (x.w2.getLsbD 31) x.d a b (if x.w2.getLsbD 0 then some c else none))
  | 0xC4 =>
      do let a ← x.srcA; let b ← x.srcB; let c ← Src3.ofFields (x.w2.extractLsb' 30 1) (x.w2.extractLsb' 24 6); let e ← Src3.ofFields (x.w2.extractLsb' 23 1) (x.w2.extractLsb' 17 6); some (.gather x.g (x.w2.getLsbD 31) x.d a b c e)
  | 0xC5 =>
      do let a ← x.srcA; let b ← x.srcB; let c ← Src3.ofFields (x.w2.extractLsb' 30 1) (x.w2.extractLsb' 24 6); let e ← Src3.ofFields (x.w2.extractLsb' 23 1) (x.w2.extractLsb' 17 6); some (.scadd x.g (x.w2.getLsbD 31) x.d a b c e)
  | 0xC6 => do let a ← x.srcA; let b ← x.srcB; some (.quant x.g (x.w2.getLsbD 31) x.d a b)
  | 0xC7 => do
      let a ← x.srcA
      let b ← x.srcB
      let q := x.w2.getLsbD 31
      let c := x.w2.extractLsb' 24 6
      let k := x.w2.extractLsb' 0 8
      if x.f = 0 then some (.tgenNew x.g q x.d a b c k)
      else if x.f = 1 then some (.tgenApp x.g q x.d a b c k) else some (.tgenClose x.g q x.d a)
  | 0xC8 => do let m ← x.mem; let b ← x.srcB; some (.tld x.g (x.w2.getLsbD 31) x.lease x.d (x.w2.extractLsb' 0 3) m b)
  | 0xC9 => do let m ← x.mem; let b ← x.srcB; some (.tst x.g (x.w2.getLsbD 31) x.lease x.d (x.w2.extractLsb' 0 3) m b)
  | 0xCA =>
      some (.mma x.g (x.d.setWidth 2) (x.a.setWidth 3) (x.b.setWidth 3) (x.w2.extractLsb' 24 6) (x.w2.extractLsb' 16 7))
  | 0xCB =>
      some (.mmas x.g (x.d.setWidth 2) (x.a.setWidth 3) (x.b.setWidth 3) (x.w2.extractLsb' 0 3) (x.w2.extractLsb' 4 3) (x.w2.extractLsb' 24 6) (x.w2.extractLsb' 16 7))
  | 0xCC =>
      some (.mmc x.g (x.d.setWidth 2) (x.a.setWidth 3) (x.b.setWidth 3) (x.w2.extractLsb' 24 6) (x.w2.extractLsb' 16 7))
  | 0xCD =>
      do let m ← x.mem; let b ← x.srcB; some (.accld x.g x.lease (x.d.setWidth 2) m b (x.w2.extractLsb' 24 6) (x.w2.extractLsb' 16 7) (x.w2.extractLsb' 8 6) (x.w2.extractLsb' 0 7))
  | 0xCE =>
      do let m ← x.mem; let b ← x.srcB; some (.accst x.g x.lease (x.d.setWidth 2) m b (x.w2.extractLsb' 24 6) (x.w2.extractLsb' 16 7) (x.w2.extractLsb' 8 6) (x.w2.extractLsb' 0 7))
  | 0xCF =>
      some (.acccvt x.g (x.w2.getLsbD 31) (x.w2.getLsbD 30) (x.d.setWidth 3) (x.a.setWidth 2) (x.w2.extractLsb' 24 6) (x.w2.extractLsb' 16 7))
  | 0xD0 =>
      do let a ← x.srcA; let b ← x.srcB; let k ← Src3.ofFields (x.w2.extractLsb' 10 1) (x.w2.extractLsb' 11 6); some (.accsend x.g (Ty.ofCode x.f) (x.w2.getLsbD 31) (x.w2.getLsbD 30) (x.d.setWidth 2) a b k
            (x.w2.extractLsb' 24 6) (x.w2.extractLsb' 17 7))
  | 0xD1 => some (.brX96 x.w2)
  | 0xD2 => some (.callX96 x.w2)
  | 0xD3 => do let a ← x.srcA; some (if x.f = 0 then .leaX96 x.g x.d a x.w2 else .leaPc x.g x.d x.w2)
  | _ => none

/-- The instruction whose fields these are, before the checks of check 5. -/
def extract (x : Fields) : Option Instr :=
  if x.opc.toNat < 0x40 then extract32 x
  else if x.opc.toNat < 0x80 then extractLane x
  else if x.opc.toNat < 0xC0 then extract64 x
  else extract96 x

/-- How many words LEN announces (R155); none for LEN = 11. -/
def lenWords (w0 : Word) : Option Nat :=
  match (w0.extractLsb' 0 2).toNat with
  | 0 => some 1 | 1 => some 2 | 2 => some 3 | _ => none

/-- The instruction of its words, as many as LEN announces; the words beyond are not looked at. Checks 2, 4 and 5 of
R171 in that order. -/
def decodeWords (w0 w1 w2 : Word) : Except Reject Instr :=
  match lenWords w0 with
  | none => .error .length
  | some n =>
    if opcodeWords (w0.extractLsb' 2 8) ≠ some n then .error .opcode
    else
      let ws := [w0, w1, w2].take n
      match extract (Fields.of w0 (ws.getD 1 0) (ws.getD 2 0)) with
      | some i => if i.wf && encode i == ws then .ok i else .error .reserved
      | none => .error .reserved

/-- The instruction that the decoder reads from bits numbered as spec/opcode_table.json numbers them; every bit above
`nbits` is 0. -/
def decodeTableWord (nbits w : Nat) : Option Instr :=
  let v := w % 2 ^ nbits
  match decodeWords (BitVec.ofNat 32 v) (BitVec.ofNat 32 (v / 2 ^ 32)) (BitVec.ofNat 32 (v / 2 ^ 64)) with
  | .ok i => some i
  | .error _ => none

end Sys2Proof
end

