-- ==== Sys2Proof/Config.lean ====
section
/-! DEFINITION. The free values of the model: what the spec leaves open is one of these constants without a body, applied
to a counter of State or to the operands it depends on. No proof can see a value of them (log entry 2). -/

namespace Sys2Proof.Config

/-- A free choice between two permitted outcomes, applied to `State.choices` (00_scope.md R11). -/
opaque choice : Nat → Bool
/-- A free choice of a number, reduced by its user modulo the count of permitted outcomes (00_scope.md R11). -/
opaque chooseNat : Nat → Nat
/-- A signed object (24_security_power_health.md R470): a firmware image by its number, the certificate chain of a slot, the
attestation measurement block. -/
inductive Signed where
  | image (n : Nat)
  | certificate (slot : Nat)
  | measurements (block : List Nat)
  deriving DecidableEq, Repr

/-- The contents of a firmware image. -/
opaque imageBytes (image : Nat) : List Nat
/-- The RSASSA-PSS signature that an image or a certificate chain carries (R470). -/
opaque rsaCarried (o : Signed) : BitVec 3072
/-- The SLH-DSA signature that an image or a certificate chain carries. -/
opaque slhCarried (o : Signed) : Nat
/-- Whether an RSASSA-PSS signature over a SHA-384 digest verifies against the fused keys, which are the package's (R470). -/
opaque rsaVerifies (digest : BitVec 384) (signature : BitVec 3072) : Bool
/-- Whether an SLH-DSA signature over a digest verifies against the fused keys. -/
opaque slhVerifies (digest : BitVec 384) (signature : Nat) : Bool
/-- The security version that a firmware image carries (R470). -/
opaque imageVersion (image : Nat) : BitVec 16
/-- The fused minimum of the security version (R470). -/
opaque minVersion : BitVec 16
/-- The SHA-384 digest of an object (R470, R471). -/
opaque sha384 (object : List Nat) : BitVec 384
/-- What a peer's request flit asks of this device's homes (23_host_and_links.md R467, R468): bytes, a write, an element
operation with its operand and comparand. -/
inductive PeerReq where
  | read (addr len : Nat)
  | write (addr : Nat) (bytes : List Byte) (bad : Bool)
  | element (addr size op : Nat) (v c : DWord)
  /-- One update of a work queue header (05_engines.md R112): a reservation, a publication or a close, by number. -/
  | header (addr kind x y : Nat)
  deriving DecidableEq, Repr

/-- The request that the 240 payload bytes of a request flit make; the spec gives the payload no layout. -/
opaque peerRequest (payload : List Byte) : Option PeerReq
/-- The number of the window request that a response or data flit answers. -/
opaque answered (payload : List Byte) : Option Nat
/-- The bytes that a data flit carries. -/
opaque flitData (payload : List Byte) : List Byte
/-- The mark of poisoned data in a flit (R469). -/
opaque flitPoisoned (payload : List Byte) : Bool
/-- The CRC of a flit over its bytes 0 to 243 (R467). -/
opaque flitCrc (bytes : List Byte) : Vector Byte 12
/-- The device's RSA signature over a SHA-384 digest (R470, R471): the device key is the package's. -/
opaque rsaSign (digest : BitVec 384) : BitVec 3072
/-- The device's SLH-DSA signature over a SHA-384 digest (R470, R471). -/
opaque slhSign (digest : BitVec 384) : Nat
/-- The bytes of the device's certificate chain (R470, R471). -/
opaque certificate (slot : Nat) : Nat

end Sys2Proof.Config
end

