-- ==== Sys2Proof/Machine/State.lean ====
section
/-! DEFINITION. The state of the device as plain data: every piece of state that the spec gives the machine
(INVENTORY.md lists them with their rules), the messages in flight between its parts, and the model's own agenda. -/

namespace Sys2Proof.Machine

/-! ### Outcomes -/

/-- Why a step stops. No meaning of this model raises one: a precise cause is a trap (R416), an event that is not enabled
leaves the state as it is. The constructor stands for an address outside the 48-bit physical space reached by the
outside world's own events, which the spec says does not exist. -/
inductive Fault where
  /-- HOST_READ, HOST_WRITE, HOST_OWNERSHIP_REQUEST of an address in no region of 01_main_memory.md R13. Safe: the
  model stops where the spec gives the device no such address. -/
  | unassignedAddress (addr : Nat)
  deriving DecidableEq, Repr

/-- Why the model gives an instruction no meaning. -/
inductive Refusal where
  /-- Raised by an arm of Dispatch that has no meaning yet. Safe: nothing is said of the instruction. -/
  | notModelled (mnemonic : String)
  deriving DecidableEq, Repr

/-! ### Lanes, paths, units -/

/-- Privilege levels (19_traps.md R411); codes as PPRIV (R414). -/
inductive Priv where
  | user | super | firmware
  deriving DecidableEq, Repr

/-- What an instruction that cannot go on waits for. -/
inductive WaitKind where
  /-- A register operand (06_registers.md R119, R120). -/
  | reg
  /-- A synchronising access (04_cluster_store.md R80, R84). -/
  | sync
  /-- `BARWAIT` (13_isa_return.md R306). -/
  | barwait
  /-- `CHK` (03_watch_table.md R63). -/
  | chk
  /-- `WAITT` (09_isa_arrival.md R207). -/
  | waitt
  /-- `TWAIT` (11_isa_tiles.md R267). -/
  | twait
  /-- `CNTW` (17_isa_control.md R383). -/
  | cntw
  /-- Parked in a room of the Inn (R334). -/
  | inn
  /-- Waiting for a room (R334). -/
  | room
  /-- A wait for a register operand that has reached `WAITLIM` (04_cluster_store.md R86). -/
  | limit
  /-- A register whose producer is pending, as a destination (06_registers.md R120), or a tag. -/
  | prod
  /-- An order of the memory model, acknowledgements, a full table, an engine, a walk, a register's load. -/
  | order
  /-- `TINV` after its removal (01_main_memory.md R33). -/
  | inval
  deriving DecidableEq, Repr

/-- A wait: what for, the cycle at which the instruction issued (R86), and the number `nextId` at which this kind of wait
began. -/
structure Wait where
  kind : WaitKind
  since : Nat
  start : Nat
  deriving DecidableEq, Repr

/-- How a path stands. -/
inductive PathMode where
  /-- In the rotation. -/
  | run
  /-- At its join, waiting for a row of 15_travellers.md R347. -/
  | stopped
  /-- Held at an instruction under R340, R351 or 19_traps.md R420. -/
  | held
  /-- Stopped by a double trap (R418) or by `HALT` (R390). -/
  | halted
  deriving DecidableEq, Repr

/-- One path of a unit: a PC slot or the device's part of a divergence-stack record (R346). -/
structure Path where
  pc : DWord
  mask : Mask
  /-- The joins the path still owes, innermost first (R347; log entry 12). The mark is that of the return address of a
  `CALLI` performed target by target (R340). -/
  joins : List (DWord × Bool)
  /-- The path has returned to the current loop's END, and its back edge is due once no path owes the join (R351): the PC of
  its `RET`. -/
  back : Option DWord
  /-- A path held at a `CALLI` (R340): the return address and the lanes of the group that must reach it. -/
  hold : Option (DWord × Mask)
  mode : PathMode
  /-- TSTATUS.ACT of the path (R414). -/
  act : Bool
  priv : Priv
  wait : Option Wait
  /-- Lanes of the waiting instruction that have already performed (R81), and lanes parked at a store. -/
  done : Mask
  parked : Mask
  /-- A precise cause whose entry waits for the path's watch entries (R416): lanes, cause, TVAL, UESRC, saved PC. -/
  trap : Option (Mask × BitVec 8 × DWord × BitVec 2 × DWord)
  /-- Words fetched ahead (R172, R389), by address. -/
  buf : List (Nat × Word)
  /-- The words of the instruction that the path issued last, by which one that waits goes on. -/
  words : List Word
  /-- The path comes from a save record that holds poison outside the registers: its next instruction takes cause 0x26 (19_traps.md
  R429; log entry 66). -/
  spoilt : Bool
  /-- The slot is not issued before this cycle (`YIELD`, R381). -/
  resume : Nat
  /-- Of a path inside a handler: how many of its joins, the last ones, it owed when it entered. -/
  base : Nat
  deriving DecidableEq, Repr

/-- One loop level (16_loops.md R349). -/
structure Loop where
  start : DWord
  stop : DWord
  frz : Bool
  stages : BitVec 4
  remain : BitVec 40
  deriving DecidableEq, Repr

/-- One due fault (06_registers.md R130). -/
structure DueFault where
  cls : Nat
  lane : Nat
  num : DWord
  cause : BitVec 8
  tval : DWord
  deriving DecidableEq, Repr

/-- A completed token that a register pair holds (05_engines.md R106): its physical registers, the command's class, number
and final time (02_lines_and_homes.md R54). -/
structure Tok where
  lo : Nat
  hi : Nat
  cls : Nat
  num : DWord
  time : DWord
  deriving DecidableEq, Repr

/-- The registers and bits of one lane. -/
structure Lane where
  /-- `g0`-`g63` by physical number (R114, R122). -/
  g : Vector Word 64
  /-- Full bits, by physical number (R118). -/
  full : BitVec 64
  /-- Registers whose producer is pending (R118, R120). -/
  pend : BitVec 64
  /-- Registers that hold poison (19_traps.md R429). -/
  bad : BitVec 64
  /-- `p0`-`p15` by physical number (R117). -/
  p : BitVec 16
  /-- Predicates that hold poison (R429). -/
  pbad : BitVec 16
  /-- `LTIME` (02_lines_and_homes.md R38). -/
  ltime : DWord
  /-- `WATCHST` counters and STRUCK (03_watch_table.md R70). -/
  wFalse : BitVec 16
  wStrikes : BitVec 16
  wFallbk : BitVec 8
  struck : Bool
  /-- SPRED and SWATCH of the trap frame (19_traps.md R414). -/
  spred : BitVec 8
  swatch : Bool
  /-- The caller of a coach lane: unit and lane (15_travellers.md R337). -/
  caller : Option (Nat × Nat)
  /-- Coach lane fault entry (06_registers.md R129 at 0x328): cause, PC, address. -/
  cfault : DWord × DWord × DWord
  /-- The gang return chain pointer (R332): SELF of the coach lane that serves the call. -/
  chain : Option (BitVec 23)
  /-- Registers that the lane's gang call consumes when it returns (R119). -/
  takes : List Nat
  /-- Cycle of the last creep step (02_lines_and_homes.md R52). -/
  crept : Nat
  /-- A coach lane whose outermost caller's level is cancelled (18_scheduling.md R405 step 4). -/
  cancelled : Bool
  toks : List Tok
  /-- Poisoned registers whose load from the scale-up window was lost, with its virtual address (23_host_and_links.md
  R469). -/
  gone : List (Nat × DWord)
  /-- What fences have made of accesses (14_memory_model.md R320; log entry 55): the time that every later access takes up
  after a `FENCE` with acquire, the release time that later writes carry after one with release, and the greatest LRT that
  plain local loads have met. -/
  fenceAcq : DWord
  fenceRel : DWord
  lrtSeen : DWord
  /-- The greatest time of the accesses that come before in the lane's program order, those of the other lanes of its path among
  them (14_memory_model.md R319; log entry 55). -/
  past : DWord
  deriving DecidableEq, Repr

/-- The kinds of unit (15_travellers.md R331, R337; 18_scheduling.md R404, R408). -/
inductive UKind where
  | traveller | codelet | supervisor | warp | coach | shadow
  deriving DecidableEq, Repr

/-- Where a unit stands (R331); `swapped` is the swap of 18_scheduling.md R409, `haltedOut` that of a warp that has double-trapped;
`retired` is a unit of a launch whose
commands, tile instructions or writes have not all completed (R401). -/
inductive UStatus where
  | issuing | inInn | travelling | arrived | spilled | swapped | halted | haltedOut | retired
  deriving DecidableEq, Repr

/-- The trap registers of a unit's frame (19_traps.md R413, R414); the lanes hold SPRED and SWATCH. -/
structure Frame where
  epc : DWord
  cause : BitVec 8
  tval : DWord
  gmask : Mask
  srrb : BitVec 4
  sdepth : BitVec 3
  uesrc : BitVec 2
  coach : Bool
  ppriv : Priv
  scratch : DWord
  deriving DecidableEq, Repr

/-- A core: cluster 0-63, core 0-31 barrel, 32-35 wide (00_scope.md R3). -/
structure CoreId where
  cluster : Nat
  core : Nat
  deriving DecidableEq, Repr

/-- A slot or context. -/
structure Place where
  cluster : Nat
  core : Nat
  ctx : Nat
  deriving DecidableEq, Repr

/-- The core of a place. -/
def Place.coreId (p : Place) : CoreId := ⟨p.cluster, p.core⟩

/-- A word of a local store with its full bit (04_cluster_store.md R75). -/
structure LWord where
  v : Word
  full : Bool
  bad : Bool
  deriving DecidableEq, Repr

/-- A traveller, codelet, supervisor, warp, coach or shadow wave. -/
structure Agent where
  uid : Nat
  kind : UKind
  job : Nat
  /-- The launch it belongs to (18_scheduling.md R399). -/
  launch : Option Nat
  place : Place
  /-- The home slot of a barrel traveller (R331). -/
  home : Place
  status : UStatus
  lanes : List Lane
  /-- Lanes that have neither retired nor left (R337, R380). -/
  live : Mask
  s : Vector DWord 32
  /-- Uniform registers that hold poison; 32 is `SCRATCH` (19_traps.md R417, R429). -/
  sBad : BitVec 33
  /-- Poisoned uniform registers whose load was lost (R469). -/
  sGone : List (Nat × DWord)
  slotA : Option Path
  slotB : Option Path
  /-- The device's part of the divergence stack, top first; PC, mask and join offset of record k lie in the wide local
  store (04_cluster_store.md R76, R346). -/
  stack : List Path
  rrb : BitVec 4
  loops : List Loop
  /-- `RRB` and the loop levels of the path that is inside a handler; `rrb` and `loops` are then held aside (R416). -/
  hrrb : BitVec 4
  hloops : List Loop
  /-- The loop levels as the trap entry saved them, which `ERET` restores (16_loops.md R359). -/
  sloops : List Loop
  fpctl : DWord
  fpflags : DWord
  thctl : DWord
  waitlim : DWord
  /-- `TL0`-`TL3` and issued counts (05_engines.md R105). -/
  tl : Vector DWord 4
  issued : Vector DWord 4
  /-- The completed commands: class, number, final time (R105, R107). -/
  finished : List (Nat × DWord × DWord)
  due : List DueFault
  dfovf : Bool
  frame : Frame
  /-- Acknowledgement count (13_isa_return.md R289). -/
  acks : Nat
  role : Role
  /-- The partner wave of a coach or shadow wave (18_scheduling.md R408). -/
  partner : Option Nat
  /-- Gang nesting depth (R334). -/
  depth : Nat
  /-- Lane count n of a coach. -/
  count : Nat
  leafdesc : DWord
  /-- FMODE and REGS of the coach's descriptor (08_encoding.md R183). -/
  fmode : Nat
  regs : Nat
  /-- LEVELIDS fields (18_scheduling.md R394). -/
  levelids : DWord
  /-- A cancel is pending for the unit: the handler PC, or zero (R405). -/
  cancel : Option DWord
  /-- The cancel has acted; a cancel point within the handler does not act again (R405). -/
  inCancel : Bool
  /-- Since which cycle the unit has not issued (R409, R410). -/
  idleSince : Nat
  /-- A scale-up store was lost: its virtual address (23_host_and_links.md R469). -/
  lost : Option DWord
  /-- Carry window shipped with a move (R342). -/
  carry : List LWord
  /-- After a `YIELD` of the warp: it stands behind the other ready warps of its class at the core's next selection
(17_isa_control.md R381). -/
  behind : Bool
  /-- The part of the swap area that holds a swapped warp's record (18_scheduling.md R409). -/
  area : Nat
  /-- The messages that an instruction of a warp has sent, by their numbers (from, up to), with the lanes of its path: whose
  program order they come in (14_memory_model.md R319, R324). -/
  flight : List (Nat × Nat × Mask)
  /-- Accesses in flight of other units of the core that an acquire of core scope has taken up; a release of a wider scope waits
  for them too (14_memory_model.md R318, R319). -/
  owed : List Nat
  /-- The greatest time of a finished tile instruction, which `TWAIT` takes up (11_isa_tiles.md R267). -/
  tileTime : DWord
  deriving DecidableEq, Repr

/-! ### Lines, homes and the messages between clusters and homes -/

/-- The element operations of reductions and atomics (13_isa_return.md R296, R298). -/
inductive EOp where
  | add | and | or | xor | mins | maxs | minu | maxu | xchg | cas | fadd | fmin | fmax
  deriving DecidableEq, Repr

/-- One per-element partial of a U copy (02_lines_and_homes.md R48, R49). -/
structure Partial where
  off : Nat
  size : Nat
  op : EOp
  val : DWord
  ty : Option RedTy
  deriving DecidableEq, Repr

/-- The state of a cluster copy (R42); I is absence. -/
inductive CopyState where
  | L (expired : Bool)
  | O
  /-- The partials, the poisoned flag aside, with the greatest issuer time of the updates. -/
  | U (ps : List Partial) (maxTime : DWord)
  deriving DecidableEq, Repr

/-- A cluster copy of a line; `rts` of a U copy is the kept one (R48). -/
structure Copy where
  cluster : Nat
  line : Nat
  st : CopyState
  data : LineData
  /-- Poisoned 16-byte sectors (19_traps.md R430). -/
  bad : BitVec 8
  wts : Stamp
  rts : Stamp
  deriving DecidableEq, Repr

/-- The record of a line at its home (R38). -/
structure Home where
  wts : Stamp
  rts : Stamp
  owner : Option Nat
  holders : BitVec 64
  /-- The slice has evicted the stamps (03_watch_table.md R62). -/
  evicted : Bool
  /-- The host holds the line through CXL.mem (23_host_and_links.md R461). -/
  host : Bool
  bad : BitVec 8
  deriving DecidableEq, Repr

/-- What an `ATOM` or a reduction does to an element: offset in its line, size in bytes, operation, operand, compare. -/
structure EAct where
  off : Nat
  size : Nat
  op : EOp
  v : DWord
  c : DWord
  /-- The element type of a reduction (02_lines_and_homes.md R49). -/
  ty : Option RedTy
  deriving DecidableEq, Repr

/-- Where a returned value goes: physical registers, low word first, with the width of the value in bytes and its sign. -/
inductive Dest where
  | regs (rs : List Nat) (size : Nat) (sx : Bool)
  | uni (r : Nat) (size : Nat) (sx : Bool)
  /-- A piece of a load that reads another core's store (10_isa_lane.md R240). -/
  | piece (load k size : Nat)
  | none
  deriving DecidableEq, Repr

/-- A part of a load within one line. -/
structure Piece where
  line : Nat
  off : Nat
  len : Nat
  /-- The bytes, once bound, and whether a poisoned sector gave them. -/
  val : Option (List Byte × Bool)
  /-- Waiting to be presented (R313, 04_cluster_store.md R72); otherwise in a miss record. -/
  queued : Bool
  /-- Lease class (01_main_memory.md R28). -/
  cls : Nat
  deriving DecidableEq, Repr

/-- What a load does with its bytes. -/
inductive LoadKind where
  | plain
  /-- A `BINS` read (10_isa_lane.md R237): key type, side, x. -/
  | bins (t : KeyTy) (lt : Bool) (x : Word)
  /-- The reads so far of an instruction whose issuer is held meanwhile (R240, 17_isa_control.md R374). -/
  | held
  deriving DecidableEq, Repr

/-- A load that has issued and not returned (R189). -/
structure Load where
  id : Nat
  uid : Nat
  lane : Nat
  kind : LoadKind
  dst : Dest
  pieces : List Piece
  acq : Bool
  /-- An acquire at system scope (23_host_and_links.md R463). -/
  sys : Bool
  va : DWord
  /-- A part that the scale-up window did not answer (23_host_and_links.md R469). -/
  lost : Bool
  deriving DecidableEq, Repr

/-- A part of a write within one line. -/
structure WPiece where
  line : Nat
  off : Nat
  bytes : List Byte
  performed : Bool
  /-- Lease class (R28); class 0 writes the line back (13_isa_return.md R293). -/
  cls : Nat
  deriving DecidableEq, Repr

/-- What a write does (R289). -/
inductive WriteKind where
  | store
  | red (a : EAct)
  deriving DecidableEq, Repr

/-- A write to translated memory that has issued and is not acknowledged. -/
structure Write where
  id : Nat
  uid : Nat
  lane : Nat
  core : CoreId
  kind : WriteKind
  pieces : List WPiece
  /-- Poisoned data (19_traps.md R429). -/
  bad : Bool
  va : DWord
  /-- The reductions of one instruction, which may reach the bank in any order (13_isa_return.md R299); 0 of a store. -/
  grp : Nat
  deriving DecidableEq, Repr

/-- What an entry of the accesses seen is kept for (log entry 55). -/
inductive SeenBy where
  /-- The memory port of a core (14_memory_model.md R313, R318). -/
  | port (c : CoreId)
  /-- A warp, all of whose lanes are one agent (R309, R316). -/
  | unit (uid : Nat)
  /-- A lane's own stores (03_watch_table.md R66). -/
  | own (uid lane : Nat)
  deriving DecidableEq, Repr

/-- The greatest time at which a port, a warp or a lane has performed an access to a line, or, of a lane's own stores, to some of
its bytes. -/
structure Seen where
  by_ : SeenBy
  line : Nat
  time : DWord
  bytes : BitVec 128
  deriving DecidableEq, Repr

/-- The requests to a home (R45, R47, R48, R60). -/
inductive ReqKind where
  | read
  | renew
  | own
  | writeback (data : LineData) (bad : BitVec 8) (wts rts : Stamp)
  | atomic (a : EAct) (dst : Dest) (acq sys : Bool) (core : CoreId) (va : DWord)
  | join
  | watch (entry : Nat)
  deriving DecidableEq, Repr

/-- A request on its way to a home. -/
structure Req where
  id : Nat
  kind : ReqKind
  cluster : Nat
  uid : Nat
  lane : Nat
  line : Nat
  time : DWord
  n : Nat
  wts : Stamp
  /-- Lease class, for the install of R43. -/
  cls : Nat
  deriving DecidableEq, Repr

/-- The replies to a cluster. -/
inductive RepKind where
  /-- A fill or renewal; no data for a renewal whose `wts` matched. -/
  | fill (data : Option LineData)
  | grant (data : LineData)
  | confirm (entry : Nat)
  | strike (entry : Nat) (data : LineData)
  /-- The value of an atomic. -/
  | atomic (val : DWord) (dst : Dest) (acq : Bool) (bad : Bool)
  deriving DecidableEq, Repr

/-- A reply on its way to a cluster. -/
structure Rep where
  id : Nat
  /-- The number of the request that it answers. -/
  num : Nat
  kind : RepKind
  cluster : Nat
  uid : Nat
  lane : Nat
  line : Nat
  wts : Stamp
  rts : Stamp
  time : DWord
  bad : BitVec 8
  cls : Nat
  deriving DecidableEq, Repr

/-- A miss record (02_lines_and_homes.md R53). -/
structure Miss where
  cluster : Nat
  line : Nat
  /-- The loads that wait, with the time at which each joined. -/
  loads : List (Nat × DWord)
  /-- A newer write became known while the fill was in flight. -/
  newer : Bool
  install : Bool
  deriving DecidableEq, Repr

/-- A watch entry (03_watch_table.md R59). -/
structure Watch where
  id : Nat
  cluster : Nat
  uid : Nat
  lane : Nat
  line : Nat
  wts : Stamp
  off : Nat
  val : List Byte
  deriving DecidableEq, Repr

/-- A sweep notice on its way (02_lines_and_homes.md R50). -/
structure Note where
  id : Nat
  cluster : Nat
  line : Nat
  deriving DecidableEq, Repr

/-- An acknowledgement on its way (13_isa_return.md R289): LEASE 0 of a store names the line to write back. -/
structure Ack where
  id : Nat
  uid : Nat
  cluster : Nat
  back : List Nat
  /-- The number of the write. -/
  write : Nat
  deriving DecidableEq, Repr

/-! ### Translation -/

/-- A cached translation (01_main_memory.md R30): the page, its leaf entry, and the physical address of the entry. -/
structure Tlb where
  job : Nat
  glob : Bool
  va : Nat
  /-- log2 of the page size: 16, 26 or 36. -/
  bits : Nat
  leaf : DWord
  entry : Nat
  deriving DecidableEq, Repr

/-- An upper-level table entry in a cluster's walk cache (01_main_memory.md R30): the job, the level, the page that it covers,
and the next table. -/
structure WalkEntry where
  cluster : Nat
  job : Nat
  level : Nat
  page : Nat
  table : Nat
  deriving DecidableEq, Repr

/-- The outcome of a walk that faulted, kept for a path whose access joined it (R32): its unit and a lane of it. -/
structure WalkFault where
  uid : Nat
  lane : Nat
  page : Nat
  cause : BitVec 8
  deriving DecidableEq, Repr

/-- How far a walk has come (R22, R27). -/
inductive WalkPhase where
  /-- It starts at `PTBASE`, as it does again where the compare of R27 failed. -/
  | start
  /-- The next entry that it reads: level and table. -/
  | reading (level table : Nat)
  /-- The compare and swap of R27: the leaf as read, its page size and its address. -/
  | swapping (leaf : DWord) (bits entry : Nat)
  deriving DecidableEq, Repr

/-- A walk waiting or running, with the paths of units, commands and prefetches whose accesses joined it, each with a lane and its
core (R32); `dirty` is the rewalk of R27. -/
structure Walk where
  id : Nat
  cluster : Nat
  job : Nat
  page : Nat
  dirty : Bool
  waiters : List (Nat × Nat × CoreId)
  phase : WalkPhase
  deriving DecidableEq, Repr

/-- A prefetch that waits for a walk (09_isa_arrival.md R197). -/
structure Pref where
  id : Nat
  uid : Nat
  lane : Nat
  core : CoreId
  job : Nat
  priv : Priv
  va : DWord
  lease : Nat
  time : DWord
  deriving DecidableEq, Repr

/-! ### Local stores -/

/-- The barrier instructions' updates (13_isa_return.md R303-R306). -/
inductive BarOp where
  | init (v : Nat)
  | arrive
  | expect (inb outb : Bool) (n : Int)
  deriving DecidableEq, Repr

/-- The accesses that a local store's port performs (R82). -/
inductive LAcc where
  | load (size : Nat)
  | store (bytes : List Byte)
  | ldf (w64 : Bool)
  | take (w64 : Bool)
  | fill (w64 : Bool) (v : DWord)
  | setf (w64 : Bool) (v : DWord)
  | clrf (w64 : Bool)
  | rmw (a : EAct)
  | bar (op : BarOp)
  | barwait (gen : Nat)
  /-- A decrement of a codelet record, with the job and the launch that its codelet would belong to (18_scheduling.md
  R392), and whether its scope is the system. -/
  | depdec (job : Nat) (launch : Option Nat) (sys : Bool)
  deriving DecidableEq, Repr

/-- An access to a local store other than the issuer's own, or a parked one. -/
structure Remote where
  id : Nat
  uid : Nat
  lane : Nat
  src : CoreId
  dst : CoreId
  off : Nat
  acc : LAcc
  dest : Dest
  rel : Bool
  acq : Bool
  sys : Bool
  time : DWord
  bad : Bool
  va : DWord
  /-- The issuer's path is held until it performs. -/
  holds : Bool
  /-- Counted in the acknowledgement count. -/
  counted : Bool
  /-- Refused at this cycle (R84, R308). -/
  refused : Option Nat
  /-- A matrix instruction whose write this is. -/
  mop : Option Nat
  /-- Registers that the access consumes when it performs, and the full bits of its destination before its issue
  (R87, 06_registers.md R129). -/
  takes : List Nat
  olds : List (Nat × Bool)
  deriving DecidableEq, Repr

/-- The answer to a remote access (R83). -/
structure RReply where
  id : Nat
  uid : Nat
  lane : Nat
  val : DWord
  hi : DWord
  dest : Dest
  acq : Bool
  lrt : DWord
  bad : Bool
  counted : Bool
  holds : Bool
  takes : List Nat
  deriving DecidableEq, Repr

/-- A pushed codelet record in its core's ready ring (18_scheduling.md R404): its offset, the LRT at the push, and the job
and launch of the decrement. -/
structure RingEntry where
  core : CoreId
  off : Nat
  time : DWord
  job : Nat
  launch : Option Nat
  sys : Bool
  deriving DecidableEq, Repr

/-- A producer other than a load: a divide, `HSIFT`, `WMPROP` (R215, R236, R283). -/
inductive PendKind where
  | value (v : DWord) (rs : List Nat)
  /-- The destination of a waiting `CNTW` (R383), with the full bit it had. -/
  | cntw (r : Nat) (old : Bool)
  | hsift (t : KeyTy) (bot : Bool) (k : Nat) (off : Nat) (key payload : Word) (rs : List Nat)
  /-- The drafts, the draft registers, the match-length register and its value. -/
  | wmprop (drafts : List Word) (rs : List Nat) (len : Nat) (match_ : Word)
  deriving DecidableEq, Repr

/-- A pending producer. -/
structure Pending where
  id : Nat
  uid : Nat
  lane : Nat
  core : CoreId
  kind : PendKind
  deriving DecidableEq, Repr

/-! ### Engines, tiles, Waymark -/

/-- An engine command with its operands as read at issue (09_isa_arrival.md R202). -/
inductive CmdOp where
  | copy (shape : Nat) (dst src : DWord) (bar : Option DWord)
  | gather (dst table idx : DWord) (n : Nat)
  | scadd (src table idx : DWord) (n : Nat)
  | quant (dst src : DWord)
  | tgen (app : Bool) (queue offs : DWord) (g gbase limit tag : Word) (mt : Nat)
  | tgenClose (queue : DWord)
  | tld (tile : Nat) (ea : DWord) (stride : Int) (td : DWord) (cls : Nat) (mop : Nat)
  | tst (tile : Nat) (ea : DWord) (stride : Int) (td : DWord) (cls : Nat) (mop : Nat)
  deriving DecidableEq, Repr

/-- What a part of a command's work does with the bytes that it has read (05_engines.md R97-R101, 11_isa_tiles.md R255). -/
inductive EPut where
  /-- They are written as they are. -/
  | copy (dst : DWord)
  /-- These bytes are written; they may be poisoned. -/
  | data (dst : DWord) (bytes : List Byte) (bad : Bool)
  /-- They are added to an element of a table of a type. -/
  | add (dst : DWord) (ty : Nat)
  /-- The scale of the block that they are, of a number, is written, for an element type and the type of the source. -/
  | scale (dst : DWord) (ty src block : Nat)
  /-- Some bytes of the codes of that block are written. -/
  | codes (dst : DWord) (ty src off len block : Nat)
  /-- They are words of a tile, from a row and a word on. -/
  | tile (row word : Nat)
  deriving DecidableEq, Repr

/-- A part of a command's work: what it reads, what it does, and the bytes that it has read but not yet used. -/
structure EPart where
  src : Option (DWord × Nat)
  put : EPut
  got : Option (List Byte)
  deriving DecidableEq, Repr

/-- The work of a command that has passed its checks (05_engines.md R97, R108, 09_isa_arrival.md R204). -/
structure EWork where
  /-- The lease classes of its reads and of its writes. -/
  rcls : Nat
  wcls : Nat
  /-- The barrier object that counts its bytes. -/
  bar : Option (CoreId × Nat)
  /-- Every part is read before any is written. -/
  buffered : Bool
  todo : List EPart
  /-- Words read for a tile: row, word. -/
  words : List (Nat × Nat × Word)
  /-- The reservation of an append: start, count. -/
  queue : Option (Nat × Nat)
  faults : List (BitVec 8 × DWord)
  /-- The ranges that it writes, row by row (19_traps.md R430). -/
  rows : List (DWord × Nat)
  /-- Aligned 4-byte elements of its sources of which a part has used some bytes: each is read once (09_isa_arrival.md R204). -/
  seen : List (DWord × List Byte)
  deriving DecidableEq, Repr

/-- How far a command has come. -/
inductive CmdPhase where
  | waiting
  /-- The checks are made, and the work goes on part by part. -/
  | working (w : EWork)
  /-- A tile load that has read memory and waits for its tile: the words with their row and place, and the fault that ended it,
  or cause 0 (11_isa_tiles.md R247). -/
  | readPart (words : List (Nat × Nat × Word)) (cause : BitVec 8) (tval : DWord)
  /-- A `TGEN` that has passed its checks and is to make its reservation: its entries (05_engines.md R112). -/
  | heading (entries : List (List Byte))
  /-- An append that holds a reservation and has not published: start, count, and the fault of an entry that it could not
  write, with its TVAL (05_engines.md R112). -/
  | reserved (start count : Nat) (cause : BitVec 8) (tval : DWord)
  /-- The work is done; cause 0 or the fault with its TVAL. -/
  | finished (cause : BitVec 8) (tval : DWord)
  deriving DecidableEq, Repr

/-- An engine command. -/
structure Cmd where
  id : Nat
  uid : Nat
  lane : Nat
  core : CoreId
  job : Nat
  priv : Priv
  cls : Nat
  num : DWord
  q : Bool
  /-- Physical registers of the token pair. -/
  tok : Nat × Nat
  op : CmdOp
  time : DWord
  phase : CmdPhase
  /-- What it has read of the scale-up window: address, and the bytes unless the request failed (23_host_and_links.md
  R468, R469). -/
  wins : List (Nat × Option (List Byte))
  deriving DecidableEq, Repr

/-- A part of an access in one place. -/
inductive Seg where
  | own (off len : Nat)
  | remote (c : CoreId) (off len : Nat)
  | mem (pa len : Nat) (leaf : DWord)
  deriving DecidableEq, Repr

/-- A tile instruction that has issued, with what it read at issue (11_isa_tiles.md R246). -/
inductive MKind where
  /-- The words of each row. -/
  | tpack (t : Nat) (woff : Nat) (ws : List (Nat × List Word))
  | tzero (t : Nat)
  | accz (a : Nat)
  | mma (acc ta tb : Nat) (tda tdb : DWord) (m0 n0 : Nat)
  | mmas (acc ta tb sa sb : Nat) (tda tdb : DWord) (m0 n0 : Nat)
  | mmc (acc ta tb : Nat) (tda tdb prog : DWord) (m0 n0 : Nat)
  /-- The places of the rows, as checked at issue (R248). -/
  | accld (acc : Nat) (rows : List (List (DWord × Seg))) (m0 n0 m n cls : Nat)
  | accst (acc : Nat) (rows : List (List (DWord × Seg))) (m0 n0 m n cls : Nat)
  | acccvt (t acc : Nat) (td : DWord) (sat sint : Bool) (m0 n0 : Nat)
  /-- How many of its elements have been read and sent (R265, 13_isa_return.md R289), and the flag's message, once it has been sent. -/
  | accsend (acc : Nat) (ty : Ty) (sat sint : Bool) (m n : Nat) (dst : CoreId) (doff foff : Nat) (v : Word)
      (sent : Nat) (flag : Option Nat)
  /-- The places of the record's parts: the head, the tiles, the accumulators, the tail. -/
  | tsave (parts : List (List (DWord × Seg))) (cls : Nat) (tds : List DWord) (prog : DWord)
  | trest (record : List Byte)
  | tload (t : Nat) (cmd : Nat)
  | tstore (t : Nat) (cmd : Nat)
  deriving DecidableEq, Repr

/-- An entry of a core's matrix pipeline order. -/
structure MOp where
  id : Nat
  uid : Nat
  core : CoreId
  priv : Priv
  job : Nat
  lane : Nat
  time : DWord
  kind : MKind
  /-- Its faults are discarded (18_scheduling.md R405 step 5). -/
  quiet : Bool
  wins : List (Nat × Option (List Byte))
  /-- The flags of an `ACCSEND`'s conversions, ORed in at its completion (11_isa_tiles.md R265). -/
  flags : BitVec 6
  deriving DecidableEq, Repr

/-- The place in matrix pipeline order of a `TUNPK` that waits for the earlier writers of its tile (11_isa_tiles.md R246,
R254): the path that it holds, by slot and PC. -/
structure Unpack where
  id : Nat
  uid : Nat
  core : CoreId
  slotB : Bool
  pc : DWord
  tile : Nat
  deriving DecidableEq, Repr

/-- What a warp's next `TWAIT` takes up from a finished tile instruction (11_isa_tiles.md R267). -/
structure MDone where
  id : Nat
  uid : Nat
  bad : Bool
  deriving DecidableEq, Repr

/-- The tile state of a wide core (R241). Tile words are numbered row × 96 + word, accumulator words row × 128 + column;
the words that are 0 are not listed. -/
structure Tiles where
  core : CoreId
  t : Vector (Sparse Word) 8
  acc : Vector (Sparse Word) 4
  td : Vector DWord 8
  prog : DWord
  held : BitVec 12
  /-- Poisoned tiles and accumulators (19_traps.md R429). -/
  bad : BitVec 12
  deriving DecidableEq, Repr

/-- A Waymark slot (12_waymark.md R268). -/
structure WmSlot where
  cluster : Nat
  slot : Nat
  isOpen : Bool
  w : Nat
  win : List Word
  total : DWord
  lmin : Nat
  lmax : Nat
  owner : Word
  job : Nat
  gen : BitVec 16
  deriving DecidableEq, Repr

/-! ### The Inn, moves, scheduling -/

/-- A caller in a room: unit, lane and the cycle at which it parked (15_travellers.md R333). -/
structure Caller where
  uid : Nat
  lane : Nat
  since : Nat
  deriving DecidableEq, Repr

/-- The fields of a leaf descriptor (08_encoding.md R183). -/
structure Leaf where
  addr : DWord
  entry : DWord
  shadow : DWord
  fmode : Nat
  regs : Nat
  role : Nat
  limit : Nat
  maxg : Nat
  depart : Nat
  sw : List Word
  deriving DecidableEq, Repr

/-- A room of an Inn (R333). -/
structure Room where
  cluster : Nat
  room : Nat
  leaf : Leaf
  key : Word
  job : Nat
  callers : List Caller
  /-- Eligible by flush or by LIMIT (R335). -/
  eligible : Bool
  deriving DecidableEq, Repr

/-- A caller that waits for a free room, with its descriptor and key. -/
structure RoomWait where
  cluster : Nat
  caller : Caller
  leaf : Leaf
  key : Word
  job : Nat
  deriving DecidableEq, Repr

/-- A move in transit (R342): the unit, its destination, its home slot if it is a `RETHOME`, the expert of a `ROUTE`. -/
structure Move where
  id : Nat
  uid : Nat
  cluster : Nat
  toHome : Bool
  expert : Option Nat
  deriving DecidableEq, Repr

/-- A unit that waits for a slot of a cluster in first-come order (R344); a child of `SPAWN` names its spawner's tag
register. -/
structure Arrival where
  cluster : Nat
  uid : Nat
  spawner : Option (Nat × Nat × Nat)
  deriving DecidableEq, Repr

/-- A job (19_traps.md R413, R479, R480; 02_lines_and_homes.md R40). -/
structure Job where
  id : Nat
  trapvec : DWord
  ptbase : DWord
  clmask : DWord
  routebase : DWord
  clgrant : DWord
  jobcnt : DWord
  leases0 : DWord
  leases1 : DWord
  cancelled : Bool
  /-- Its cancel has completed (18_scheduling.md R392). -/
  done : Bool
  deriving DecidableEq, Repr

/-- A level counter (18_scheduling.md R393). -/
structure Counter where
  num : Nat
  job : Nat
  cancelled : Bool
  count : BitVec 31
  /-- The time of the latest completion that it counts, which an acquirer takes up (R393). -/
  time : DWord
  deriving DecidableEq, Repr

/-- States of a host work queue (R395). -/
inductive QState where
  | disabled | running | waiting | error | stopped
  deriving DecidableEq, Repr

/-- A host work queue (R395). -/
structure Queue where
  num : Nat
  state : QState
  base : DWord
  size : Nat
  job : Nat
  vector : Nat
  head : Word
  tail : Word
  code : BitVec 8
  errHead : Word
  /-- Counter of the last quiescence report (23_host_and_links.md R465). -/
  quiet : Nat
  /-- The open phase (18_scheduling.md R397). -/
  phase : Option Nat
  /-- The greatest time of its completed commands (R397). -/
  time : DWord
  /-- The number under which it reads the scale-up window, and what it has read there. -/
  id : Nat
  wins : List (Nat × Option (List Byte))
  deriving DecidableEq, Repr

/-- A phase in progress (R397). -/
structure Phase where
  id : Nat
  queue : Nat
  counter : Nat
  /-- The PHASE command that ends it has started; IRQ is that command's. -/
  ended : Bool
  irq : Bool
  cancelled : Bool
  /-- The greatest time of its completed commands. -/
  time : DWord
  deriving DecidableEq, Repr

/-- A launch in progress (R398, R399). -/
structure Launch where
  id : Nat
  job : Nat
  queue : Nat
  counter : Nat
  phase : Option Nat
  /-- The graph and the node that it is. -/
  graph : Option (Nat × Nat)
  entry : DWord
  wide : Bool
  count : Nat
  clusters : DWord
  group : Nat
  args : DWord
  cancelPc : DWord
  irq : Bool
  /-- Units dispatched. -/
  sent : Nat
  /-- The cluster that took the previous unit. -/
  last : Option Nat
  /-- The greatest time of a unit that has retired. -/
  time : DWord
  cancelled : Bool
  /-- The cycle since which the conditions of R410 have held, and whether the stretch has been reported. -/
  quietSince : Option Nat
  reported : Bool
  deriving DecidableEq, Repr

/-- States of a graph node (R402): `done` says which of its four successors run (R403); `stuck` is a node whose record or predicate
could not be read, which has put its queue in ERROR. -/
inductive NodeState where
  | waiting | running | stuck | done (live : BitVec 4) | skipped | cancelled
  deriving DecidableEq, Repr

/-- A graph in progress (R402): the words of each node. -/
structure Graph where
  id : Nat
  job : Nat
  queue : Nat
  counter : Nat
  nodes : List (NodeState × List DWord)
  phase : Option Nat
  irq : Bool
  cancelled : Bool
  /-- The greatest time of its completed nodes. -/
  time : DWord
  deriving DecidableEq, Repr

/-- A host COPY in progress (R397): destination, source, byte count, and what it has read of the scale-up window. -/
structure HostCmd where
  id : Nat
  queue : Nat
  job : Nat
  phase : Option Nat
  counter : Nat
  irq : Bool
  dst : DWord
  src : DWord
  len : Nat
  wins : List (Nat × Option (List Byte))
  /-- Every byte is written; stores into the window are unanswered. -/
  performed : Bool
  /-- It has faulted and never completes. -/
  failed : Bool
  time : DWord
  /-- Its parts that are still to be done, once it has begun. -/
  work : Option EWork
  deriving DecidableEq, Repr

/-! ### Spill engine, links, security, power -/

/-- A cluster's spill engine (19_traps.md R423): the command in progress, and SPSTAT. -/
structure Spill where
  cluster : Nat
  cmd : Option (DWord × Nat)
  /-- The traveller that a spill of its home slot waits for, which travels (R424). -/
  target : Option Nat
  done : Bool
  err : Bool
  code : BitVec 8
  deriving DecidableEq, Repr

/-- A cluster's event counters (24_security_power_health.md R476). -/
structure EvCounters where
  cluster : Nat
  sel : Vector DWord 8
  cnt : Vector DWord 8
  deriving DecidableEq, Repr

/-- A flit: its type, its sequence number, the ACK that it carries, the 240 bytes of its payload and their mark of poison (R467,
R469). -/
structure Flit where
  ty : Nat
  seq : Nat
  ack : Nat
  payload : Vector Byte 240
  bad : Bool
  deriving DecidableEq, Repr

/-- A Halette link (23_host_and_links.md R467). -/
structure Link where
  num : Nat
  peer : Nat
  /-- The last SEQ accepted, which is the ACK that the device sends, and the last SEQ sent. -/
  inSeq : Nat
  outSeq : Nat
  /-- A replay has begun and nothing has been acknowledged since (log entry 18). -/
  replaying : Bool
  sent : List Flit
  deriving DecidableEq, Repr

/-- An update of a work queue header at its home (05_engines.md R112). -/
inductive HeadOp where
  /-- A reservation of some entries; `fresh` for `TGEN` new. -/
  | reserve (fresh : Bool) (count : Nat)
  /-- A reservation is published, with FAULT where an entry could not be written. -/
  | publish (start count : Nat) (fault : Bool)
  | close
  deriving DecidableEq, Repr

/-- What a request to the scale-up window is (R468): a part of a load, a store, an atomic or reduction at the owning
device. -/
inductive WinKind where
  | load (load : Nat)
  | store (bytes : List Byte) (bad : Bool)
  | atomic (a : EAct) (dst : Dest) (acq sys : Bool)
  | red (a : EAct) (bad : Bool)
  /-- Of an engine command: an update of a queue header as one atomic, a read, a write, a reduction. -/
  | ehead (cmd : Nat) (op : HeadOp)
  | eread (cmd : Nat)
  | estore (cmd : Nat) (bytes : List Byte) (bad : Bool)
  | ered (cmd : Nat) (a : EAct)
  /-- A fetched word of a path, by slot and virtual address. -/
  | fetch (slotB : Bool) (va : DWord)
  deriving DecidableEq, Repr

/-- A request to the scale-up window, unanswered (R468, R469). -/
structure WinReq where
  id : Nat
  link : Nat
  uid : Nat
  lane : Nat
  addr : Nat
  len : Nat
  kind : WinKind
  /-- The cycle at which the link failed replay, once it has. -/
  failed : Option Nat
  va : DWord
  deriving DecidableEq, Repr

/-- Power states (24_security_power_health.md R473). -/
inductive Power where
  | off | standby | active | throttled
  deriving DecidableEq, Repr

/-- Lifecycle states (R472). -/
inductive Lifecycle where
  | manufacturing | production | productionDebug | decommissioned
  deriving DecidableEq, Repr

/-- The tiers of an error (R477). -/
inductive Tier where
  | near | capacity | sram | links
  deriving DecidableEq, Repr

/-- What an entry of the error log tells of (R431, R470, R472). -/
inductive LogPlace where
  /-- An uncorrectable error of a place. -/
  | error (place : ErrPlace)
  /-- A window store that was dropped (23_host_and_links.md R469). -/
  | lostStore (link : Nat)
  /-- A firmware image that was rejected, by its bank. -/
  | badImage (bank : Nat)
  /-- A step of the bring-up that has failed (R475). -/
  | bringUp (step : Nat)
  /-- A combination of lifecycle and debug level that is refused. -/
  | refusedLevel (level : Nat)
  deriving DecidableEq, Repr

/-- An entry of the error log (R431, R477). -/
structure LogEntry where
  place : LogPlace
  tier : Tier
  addr : Nat
  job : Nat
  time : Nat
  deriving DecidableEq, Repr

/-- The lifetime records, which survive reset (R477): hours by die and temperature bin, hours by die and voltage bin,
correctable errors by tier, retries by link (24 is the CXL port), the error log. -/
structure Lifetime where
  temps : Vector (Vector Nat 16) 6
  volts : Vector (Vector Nat 16) 6
  correctable : Vector Nat 4
  linkRetries : Vector Nat 25
  log : List LogEntry
  overflow : Bool
  deriving DecidableEq, Repr

/-- What the host reads through the BARs: a level counter (23_host_and_links.md R466), bytes of BAR2 (R464), the registers of a
cluster's event counter (24_security_power_health.md R476), and the lifetime records (R477). -/
inductive HostReg where
  | counter (num : Nat)
  | bar2 (off len : Nat)
  | evsel (cluster k : Nat)
  | evcnt (cluster k : Nat)
  | temps (die : Nat)
  | volts (die : Nat)
  | correctable (tier : Tier)
  | retries (link : Nat)
  | errorLog
  deriving DecidableEq, Repr

/-- A register of a lane that management reaches at the invasive debug level (R472): a general register by its physical number,
a uniform register, the predicates, a control register. -/
inductive DebugReg where
  | general (num : Nat)
  | uniform (num : Nat)
  | preds
  | control (idx : Nat)
  deriving DecidableEq, Repr

/-- A message of the device to the host or to firmware. -/
inductive Report where
  /-- An MSI-X interrupt (23_host_and_links.md R466). -/
  | msix (vector : Nat)
  /-- A quiescence report (18_scheduling.md R410). -/
  | quiescent (queue counter : Nat)
  /-- A queue went to ERROR (R465). -/
  | queueError (queue : Nat) (code : BitVec 8)
  /-- A double trap (19_traps.md R418). -/
  | doubleTrap (uid : Nat) (self : BitVec 23) (cause : BitVec 8) (pc : DWord)
  /-- A snoop to the host (23_host_and_links.md R461). -/
  | snoop (line : Nat)
  /-- The data of a line that the host has read or taken, or that a snoop of it has returned, with its poisoned sectors
  (23_host_and_links.md R461, R462, R469). -/
  | hostData (line : Nat) (data : LineData) (bad : BitVec 8)
  /-- The device is ready (24_security_power_health.md R475). -/
  | ready
  /-- What the host has read through a BAR, as numbers; of the error log, its entries and its overflow flag. -/
  | hostValue (reg : HostReg) (value : List Nat)
  | errorLog (entries : List LogEntry) (overflow : Bool)
  /-- What management has read of a lane (R472). -/
  | debugValue (uid lane : Nat) (reg : DebugReg) (value : DWord)
  deriving DecidableEq, Repr

/-- The supply of a die (R474), the edge dies being 4 and 5: the sag step k, and the cycle since which it recovers. -/
structure Sag where
  die : Nat
  k : Nat
  since : Option Nat
  deriving DecidableEq, Repr

/-- A response of the SPDM responder (R471). -/
structure SpdmMsg where
  code : Nat
  body : List Nat
  deriving DecidableEq, Repr

/-! ### The whole state -/

/-- What a core's issue selection goes by (18_scheduling.md R406, R407): the cycle and the slot of its last issue, the cycle
of each slot's last issue, and since which cycle a path has been ready and not issued. -/
structure IssueRec where
  core : CoreId
  last : Option (Nat × Nat)
  slots : List (Nat × Nat)
  ready : List ((Nat × Bool) × Nat)
  deriving DecidableEq, Repr

/-- One turn of the agenda: which of the device's concurrent parts acts next (log entry 1). -/
inductive Turn where
  /-- The issue cycle of a core: the path that 18_scheduling.md R406 or R407 selects issues. -/
  | core (c : CoreId)
  /-- A device event of the opcode table. -/
  | event (e : Instr)
  /-- The clock of a die counts: `CYCLE` of a compute die, 0 to 3, or the periods of an edge die, 4 and 5. -/
  | clock (die n : Nat)
  /-- `TIMEBASE` advances. -/
  | timebase (n : Nat)
  /-- A path fetches a word ahead of its PC (R172). -/
  | fetchAhead (uid : Nat) (slotB : Bool) (va : DWord)
  /-- A slice evicts a line's stamps (03_watch_table.md R62). -/
  | dropStamps (line : Nat)
  /-- System software assigns a level counter to a job (18_scheduling.md R393). -/
  | assignCounter (num job : Nat)
  /-- Firmware sets the peer that a link reaches (23_host_and_links.md R467). -/
  | setPeer (link peer : Nat)
  /-- System software places the host addresses of an HDM decoder, and firmware gives the device its number (R461, R467, R468). -/
  | setDecoder (decoder base : Nat)
  | setNumber (number : Nat)
  /-- The host reads through a BAR, or writes bytes at an offset of BAR2 (R464, R466). -/
  | hostRegister (reg : HostReg)
  | bar2Write (off : Nat) (bytes : List Byte)
  /-- The 256 bytes of a flit come in on a link (R467). -/
  | flitIn (link : Nat) (raw : List Byte)
  /-- The port of CXL replays (24_security_power_health.md R477). -/
  | portRetry
  /-- A device reset whose bring-up fails in a step after the first (R475). -/
  | bringUpFails (image step : Nat)
  /-- Management stops a context, reads or writes a register of a lane (R472). -/
  | debugHalt (uid : Nat)
  | debugRead (uid lane : Nat) (reg : DebugReg)
  | debugWrite (uid lane : Nat) (reg : DebugReg) (value : DWord)
  /-- An hour passes on a die at a temperature bin and a voltage bin (24_security_power_health.md R477). -/
  | hour (die temp volt : Nat)
  deriving DecidableEq, Repr

/-- The state of the device. The lists hold records by their own keys. -/
structure State where
  -- the model's own
  agenda : List Turn
  focus : Option (Nat × Bool)
  nextId : Nat
  choices : Nat
  -- clocks
  cycle : Vector Nat 6
  timebase : Nat
  ctime : Vector DWord 64
  htime : Vector Stamp 128
  -- memory, homes, copies, messages
  mem : List Host.Cell
  homes : Sparse Home
  copies : List Copy
  misses : List Miss
  reqs : List Req
  reps : List Rep
  /-- Requests that have reached their home and wait there, in arrival order (02_lines_and_homes.md R45): line, number. -/
  homeWait : List (Nat × Nat)
  /-- Load pieces that wait for a miss record, first come first (04_cluster_store.md R72): cluster, load, piece. -/
  missWait : List (Nat × Nat × Nat)
  /-- What ports, warps and lanes have performed (log entry 55), and the accesses that a release of core scope has passed. -/
  seen : List Seen
  ported : List Nat
  loads : List Load
  writes : List Write
  acks : List Ack
  watches : List Watch
  notes : List Note
  /-- Barrel callers whose coach lane fault entry is still to be written in their record in memory (15_travellers.md R341). -/
  coachFaults : List Nat
  -- translation
  tlb : List (Nat × Tlb)
  utlb : List (CoreId × Tlb)
  /-- Walk caches (01_main_memory.md R30). -/
  wcache : List WalkEntry
  walks : List Walk
  walkFaults : List WalkFault
  /-- Prefetches that wait for a walk (09_isa_arrival.md R197). -/
  prefs : List Pref
  -- units
  agents : List Agent
  pendings : List Pending
  cores : List IssueRec
  -- local stores
  lwords : Sparse LWord
  lrt : Sparse DWord
  /-- The time of the releases to a device register, by its address (14_memory_model.md R318). -/
  regTime : Sparse DWord
  parked : List Remote
  remotes : List Remote
  rreplies : List RReply
  rings : List RingEntry
  regionJob : Sparse Nat
  -- engines, tiles, Waymark
  cmds : List Cmd
  mops : List MOp
  /-- `TUNPK` instructions that wait in the order. -/
  unpacks : List Unpack
  mdone : List MDone
  tiles : List Tiles
  wm : List WmSlot
  -- the Inn, moves
  rooms : List Room
  roomWaits : List RoomWait
  /-- The cycle in which a room of a cluster last departed, plus 1 (15_travellers.md R336). -/
  departs : Sparse Nat
  routeCnt : Sparse Word
  moves : List Move
  arrivals : List Arrival
  -- scheduling and host queues
  jobs : List Job
  counters : List Counter
  queues : List Queue
  phases : List Phase
  launches : List Launch
  graphs : List Graph
  hostCmds : List HostCmd
  reports : List Report
  quietReports : List (Nat × Nat)
  quietDropped : List Nat
  -- host and links
  hws : DWord
  snoops : List (Nat × Nat)
  links : List Link
  /-- The host addresses at which the two HDM decoders show the near and the capacity tier, once they are placed
  (23_host_and_links.md R461); the device's own number (R468). -/
  hdm : Vector (Option Nat) 2
  deviceNo : Option Nat
  winReqs : List WinReq
  -- spill, system
  spills : List Spill
  recbase : DWord
  evc : List EvCounters
  -- security, power, health
  image : Nat × Nat
  lifecycle : Lifecycle
  nextLifecycle : Option Lifecycle
  debug : Nat
  power : Power
  gated : BitVec 64
  sag : List Sag
  life : Lifetime
  spdm : List SpdmMsg
  deriving DecidableEq, Repr

/-- A home record of a line that nothing has touched (24_security_power_health.md R475 step 3). -/
def Home.fresh : Home := ⟨0, 0, none, 0, false, false, 0⟩

/-- A local-store word after reset (04_cluster_store.md R77). -/
def LWord.fresh : LWord := ⟨0, false, false⟩

/-- The device right after reset and its bring-up: no unit, no job, no message; clocks, times and stamps 0. -/
def State.reset : State where
  agenda := []
  focus := none
  nextId := 1
  choices := 0
  cycle := Vector.replicate 6 0
  timebase := 0
  ctime := Vector.replicate 64 0
  htime := Vector.replicate 128 0
  mem := []
  homes := []
  copies := []
  misses := []
  reqs := []
  reps := []
  homeWait := []
  missWait := []
  seen := []
  ported := []
  loads := []
  writes := []
  acks := []
  watches := []
  notes := []
  coachFaults := []
  tlb := []
  utlb := []
  wcache := []
  walks := []
  walkFaults := []
  prefs := []
  agents := []
  pendings := []
  cores := []
  lwords := []
  lrt := []
  regTime := []
  parked := []
  remotes := []
  rreplies := []
  rings := []
  regionJob := []
  cmds := []
  mops := []
  unpacks := []
  mdone := []
  tiles := []
  wm := []
  rooms := []
  roomWaits := []
  departs := []
  routeCnt := []
  moves := []
  arrivals := []
  jobs := []
  counters := []
  queues := []
  phases := []
  launches := []
  graphs := []
  hostCmds := []
  reports := []
  quietReports := []
  quietDropped := []
  hws := 0
  snoops := []
  links := []
  hdm := Vector.replicate 2 none
  deviceNo := none
  winReqs := []
  spills := []
  recbase := 0
  evc := []
  image := (0, 0)
  lifecycle := .production
  nextLifecycle := none
  debug := 0
  power := .active
  gated := 0
  sag := []
  life := ⟨Vector.replicate 6 (Vector.replicate 16 0), Vector.replicate 6 (Vector.replicate 16 0), Vector.replicate 4 0,
    Vector.replicate 25 0, [], false⟩
  spdm := []

end Sys2Proof.Machine
end

