-- ==== Sys2Proof/Machine/Ops.lean ====
section
/-! DEFINITION. The named operations over the state: sparse tables and memory bytes, agents, lanes, registers with
rotation, paths and the divergence stack, loop back edges, joins, taking an exception and returning from one. -/

namespace Sys2Proof.Machine

/-! ### Sparse tables: strictly rising keys, no entry at its default -/

/-- The value of a key; an unlisted key has the default. -/
def sget {α : Type} (d : α) (k : Nat) : List (Nat × α) → α
  | [] => d
  | (j, v) :: l => if k = j then v else if k < j then d else sget d k l

/-- Writing a key keeps the order, and writing the default removes the entry. -/
def sput {α : Type} [DecidableEq α] (d : α) (k : Nat) (x : α) : List (Nat × α) → List (Nat × α)
  | [] => if x = d then [] else [(k, x)]
  | (j, v) :: l =>
    if k = j then (if x = d then l else (k, x) :: l)
    else if k < j then (if x = d then (j, v) :: l else (k, x) :: (j, v) :: l)
    else (j, v) :: sput d k x l

/-- The canonical form: keys strictly rise and no entry is the default. -/
def swf {α : Type} [DecidableEq α] (d : α) : List (Nat × α) → Bool
  | [] => true
  | [(_, v)] => decide (v ≠ d)
  | (j, v) :: (k, w) :: l => decide (v ≠ d) && decide (j < k) && swf d ((k, w) :: l)

/-! ### Memory: bytes at physical addresses; a byte that nothing has written reads 0 (log entry 4) -/

/-- What an unlisted address reads as. -/
def Memory.unlisted : Byte := 0

/-- One byte of memory at its home. -/
def Memory.read (m : List Host.Cell) (a : Nat) : Byte := sget Memory.unlisted a m

/-- Writing one byte. -/
def Memory.write (m : List Host.Cell) (a : Nat) (b : Byte) : List Host.Cell := sput Memory.unlisted a b m

/-- The canonical form of memory. -/
def Memory.wf (m : List Host.Cell) : Bool := swf Memory.unlisted m

/-- Writing bytes at consecutive addresses. -/
def Memory.writeBytes (m : List Host.Cell) (a : Nat) : List Byte → List Host.Cell
  | [] => m
  | b :: bs => Memory.writeBytes (Memory.write m a b) (a + 1) bs

/-- Bytes at consecutive addresses. -/
def Memory.readBytes (m : List Host.Cell) (a n : Nat) : List Byte := (List.range n).map fun i => Memory.read m (a + i)

/-- Little-endian value of bytes (00_scope.md R5). -/
def ofBytes : List Byte → Nat
  | [] => 0
  | b :: bs => b.toNat + 256 * ofBytes bs

/-- The `n` low bytes of a value, lowest first. -/
def toBytes (n : Nat) (v : Nat) : List Byte := (List.range n).map fun i => BitVec.ofNat 8 (v / 256 ^ i)

/-- The 128 bytes of a line at its home (01_main_memory.md R15). -/
def lineAt (m : List Host.Cell) (line : Nat) : LineData := BitVec.ofNat 1024 (ofBytes (Memory.readBytes m (128 * line) 128))

/-- Writing a whole line at its home. -/
def putLine (m : List Host.Cell) (line : Nat) (d : LineData) : List Host.Cell :=
  Memory.writeBytes m (128 * line) (toBytes 128 d.toNat)

/-- Bytes of a line's data. -/
def lineBytes (d : LineData) (off n : Nat) : List Byte := (List.range n).map fun i => d.extractLsb' (8 * (off + i)) 8

/-- Replacing bytes of a line's data. -/
def setLineBytes (d : LineData) (off : Nat) : List Byte → LineData
  | [] => d
  | b :: bs =>
    setLineBytes ((d &&& ~~~((255 : LineData) <<< (8 * off))) ||| (b.setWidth 1024 <<< (8 * off))) (off + 1) bs

/-! ### Small helpers on bits -/

/-- Bit `i` of a vector replaced. -/
def setBit {w : Nat} (v : BitVec w) (i : Nat) (b : Bool) : BitVec w :=
  if b then v ||| BitVec.ofNat w (2 ^ i) else v &&& ~~~(BitVec.ofNat w (2 ^ i))

/-- The mask of one lane. -/
def laneBit (l : Nat) : Mask := BitVec.ofNat 32 (2 ^ l)

/-- The lanes of a mask, ascending. -/
def Mask.list (m : Mask) : List Nat := (List.range 32).filter fun i => m.getLsbD i

/-- The lowest lane of a mask. -/
def Mask.lowest (m : Mask) : Nat := (Mask.list m).headD 0

/-- The mask of some lanes. -/
def Mask.ofList (l : List Nat) : Mask := l.foldl (fun m i => m ||| laneBit i) 0

/-- Values laid out in a register pair: low word first (00_scope.md R5). -/
def lo32 (v : DWord) : Word := v.extractLsb' 0 32
/-- The high word of a pair. -/
def hi32 (v : DWord) : Word := v.extractLsb' 32 32
/-- A 64-bit value of its two words. -/
def cat32 (hi lo : Word) : DWord := hi ++ lo

/-- Serial-number order of stamps (02_lines_and_homes.md R39). -/
def sle (a b : Stamp) : Bool := (b - a).toNat < 2 ^ 31
/-- The later of two stamps (R39). -/
def smax (a b : Stamp) : Stamp := if sle a b then b else a
/-- Raising a time to a stamp (R39). -/
def raise (t : DWord) (s : Stamp) : DWord :=
  if sle (t.extractLsb' 0 32) s then t + ((s - t.extractLsb' 0 32).setWidth 64) else t
/-- The larger of two 64-bit times. -/
def tmax (a b : DWord) : DWord := if a.toNat ≤ b.toNat then b else a

/-! ### Agents and lanes -/

/-- A lane at the start of a unit (06_registers.md R124): every register 0 and full, `p0` true. -/
def Lane.fresh : Lane where
  g := Vector.replicate 64 0
  full := BitVec.allOnes 64
  pend := 0
  bad := 0
  p := 1
  pbad := 0
  ltime := 0
  wFalse := 0
  wStrikes := 0
  wFallbk := 0
  struck := false
  spred := 0
  swatch := false
  caller := none
  cfault := (0, 0, 0)
  chain := none
  takes := []
  crept := 0
  cancelled := false
  toks := []
  gone := []
  fenceAcq := 0
  fenceRel := 0
  lrtSeen := 0
  past := 0

/-- A trap frame before any trap; the values are the model's (log entry 5). -/
def Frame.fresh : Frame where
  epc := 0
  cause := 0
  tval := 0
  gmask := 0
  srrb := 0
  sdepth := 0
  uesrc := 0
  coach := false
  ppriv := .user
  scratch := 0

/-- A path that starts running. -/
def Path.fresh (pc : DWord) (mask : Mask) (priv : Priv) : Path where
  pc := pc
  mask := mask
  joins := []
  back := none
  hold := none
  mode := .run
  act := false
  priv := priv
  wait := none
  done := 0
  parked := 0
  trap := none
  buf := []
  words := []
  spoilt := false
  resume := 0
  base := 0

/-- A target that R365 of 17_isa_control.md accepts. -/
def targetOk (t : DWord) : Bool := t.extractLsb' 0 2 == 0 && t.extractLsb' 56 8 == 0

/-- A path that starts at a PC that comes from a record: one that R365 rejects is cause 0x05 (log entry 15). -/
def Path.begin (pc : DWord) (mask : Mask) (priv : Priv) : Path :=
  let p := Path.fresh pc mask priv
  if targetOk pc then p else { p with trap := some (mask, 0x05, pc, 0, pc) }

/-- A unit at its start (R124); its creator fills in the rest. -/
def Agent.fresh (uid job : Nat) (kind : UKind) (place : Place) (nl : Nat) (pc : DWord) (priv : Priv) : Agent where
  uid := uid
  kind := kind
  job := job
  launch := none
  place := place
  home := place
  status := .issuing
  lanes := List.replicate nl Lane.fresh
  live := BitVec.ofNat 32 (2 ^ nl - 1)
  s := Vector.replicate 32 0
  sBad := 0
  sGone := []
  slotA := some (Path.begin pc (BitVec.ofNat 32 (2 ^ nl - 1)) priv)
  slotB := none
  stack := []
  rrb := 0
  loops := []
  hrrb := 0
  hloops := []
  sloops := []
  fpctl := 0
  fpflags := 0
  thctl := 0
  waitlim := 0
  tl := Vector.replicate 4 0
  issued := Vector.replicate 4 0
  finished := []
  due := []
  dfovf := false
  frame := Frame.fresh
  acks := 0
  role := .comp
  partner := none
  depth := 0
  count := 0
  leafdesc := 0
  fmode := 0
  regs := 64
  levelids := 0
  cancel := none
  inCancel := false
  idleSince := 0
  lost := none
  carry := []
  behind := false
  area := 0
  flight := []
  owed := []
  tileTime := 0

/-- A wide core (00_scope.md R3). -/
def isWideCore (core : Nat) : Bool := 32 ≤ core

/-- The unit runs on a wide core. -/
def Agent.wide (a : Agent) : Bool := isWideCore a.place.core

/-- A unit of a barrel core by its kind: its context is of one lane. -/
def Agent.barrel (a : Agent) : Bool := a.kind != .warp && a.kind != .coach && a.kind != .shadow

/-- A faulting lane leaves the wave at once: a coach of FMODE 0 (15_travellers.md R341), a shadow wave (18_scheduling.md
R408). -/
def Agent.leaves (a : Agent) : Bool := (a.kind == .coach && a.fmode == 0) || a.kind == .shadow

/-- The unit of a number. -/
def State.agent? (s : State) (uid : Nat) : Option Agent := s.agents.find? (·.uid == uid)

/-- Replacing a unit by its new record. -/
def State.setAgent (s : State) (a : Agent) : State :=
  { s with agents := s.agents.map fun b => if b.uid = a.uid then a else b }

/-- Changing a unit; nothing where there is none of that number. -/
def State.updAgent (s : State) (uid : Nat) (f : Agent → Agent) : State :=
  { s with agents := s.agents.map fun b => if b.uid = uid then f b else b }

/-- A lane of a unit. -/
def Agent.lane (a : Agent) (l : Nat) : Lane := a.lanes.getD l Lane.fresh

/-- Changing a lane of a unit. -/
def Agent.updLane (a : Agent) (l : Nat) (f : Lane → Lane) : Agent :=
  { a with lanes := a.lanes.modify l f }

/-- Changing a lane of a unit of the state. -/
def State.updLane (s : State) (uid l : Nat) (f : Lane → Lane) : State := s.updAgent uid fun a => a.updLane l f

/-- The lanes of the path on which a lane of a unit stands: while a warp is diverged each path is one agent
(14_memory_model.md R309, R324). -/
def Agent.pathLanes (a : Agent) (l : Nat) : Mask :=
  match (a.slotA.toList ++ a.slotB.toList ++ a.stack).find? fun p => p.mask.getLsbD l with
  | some p => p.mask
  | none => BitVec.ofNat 32 (2 ^ l)

/-- Raising the lanes of a lane's path to a time: an acquire holds for every later access of its agent, in any lane (R319; log
entry 55). -/
def Agent.liftPath (a : Agent) (l : Nat) (t : DWord) : Agent :=
  let m := a.pathLanes l
  { a with lanes := a.lanes.mapIdx fun i ln => if m.getLsbD i then { ln with ltime := tmax ln.ltime t } else ln }

/-- Raising the lanes of a lane's path of a unit. -/
def State.liftPath (s : State) (uid l : Nat) (t : DWord) : State := s.updAgent uid fun a => a.liftPath l t

/-- The time of what comes before a lane's next access: its own time, that of its program order's past, and that of an acquiring
fence (14_memory_model.md R319, R320). -/
def Lane.soFar (ln : Lane) : DWord := tmax ln.ltime (tmax ln.past ln.fenceAcq)

/-- The greatest such time of the lanes of a lane's path. -/
def Agent.pathTime (a : Agent) (l : Nat) : DWord :=
  let m := a.pathLanes l
  (a.lanes.zipIdx.filter fun x => m.getLsbD x.2).foldl (fun t x => tmax t x.1.soFar) 0

/-- The greatest such time of all lanes of a unit, those that have left among them: a coach is one warp (R323). -/
def Agent.allTime (a : Agent) : DWord := a.lanes.foldl (fun t ln => tmax t ln.soFar) 0

/-- The lanes in whose program order an access of a number lies: those of the path that issued it (R319, R324). -/
def Agent.issuedBy (a : Agent) (id l : Nat) : Mask :=
  match a.flight.find? fun x => decide (x.1 ≤ id) && decide (id < x.2.1) with
  | some x => x.2.2
  | none => a.pathLanes l

/-- Raising the time of some lanes. -/
def Agent.liftMask (a : Agent) (m : Mask) (t : DWord) : Agent :=
  { a with lanes := a.lanes.mapIdx fun i ln => if m.getLsbD i then { ln with ltime := tmax ln.ltime t } else ln }

/-- An access of a number of a lane has been performed at a time: it is past for every lane of the path that issued it, and an
acquire raises their times (R319; log entry 55). -/
def Agent.settleAccess (a : Agent) (id l : Nat) (t : DWord) (acq : Bool) : Agent :=
  let m := a.issuedBy id l
  { a with lanes := a.lanes.mapIdx fun i ln =>
      if m.getLsbD i then { ln with past := tmax ln.past t, ltime := if acq then tmax ln.ltime t else ln.ltime } else ln }

/-- The numbers of a unit's accesses in flight. -/
def State.flightOf (s : State) (uid : Nat) : List Nat :=
  ((s.loads.filter (·.uid == uid)).map (·.id)) ++ ((s.writes.filter (·.uid == uid)).map (·.id))
    ++ ((s.reqs.filter fun r => r.uid == uid && match r.kind with | .atomic .. => true | _ => false).map (·.id))
    ++ ((s.reps.filter fun r => r.uid == uid && match r.kind with | .atomic .. => true | _ => false).map (·.num))
    ++ ((s.winReqs.filter (·.uid == uid)).map (·.id)) ++ ((s.remotes.filter (·.uid == uid)).map (·.id))
    ++ ((s.rreplies.filter (·.uid == uid)).map (·.id)) ++ ((s.parked.filter (·.uid == uid)).map (·.id))

/-- The accesses that an instruction of a warp has sent, from number `n` on, belong to the lanes of its path. -/
def State.noteFlight (s : State) (uid n : Nat) (m : Mask) : State :=
  match s.agent? uid with
  | none => s
  | some a =>
    if !a.wide || s.nextId = n then s
    else
      let live := s.flightOf uid
      let new := if live.any fun i => decide (n ≤ i) then [(n, s.nextId, m)] else []
      s.updAgent uid fun a =>
        { a with flight := (a.flight.filter fun x => live.any fun i => decide (x.1 ≤ i) && decide (i < x.2.1)) ++ new }

/-- An acquire of a unit takes up the accesses in flight that releases of core scope of its core's units have passed (R318). -/
def State.takeOwed (s : State) (uid : Nat) : State :=
  match s.agent? uid with
  | none => s
  | some a =>
    let peers := (s.agents.filter fun b => b.uid != uid && b.place.coreId == a.place.coreId).flatMap fun b => s.flightOf b.uid
    let new := s.ported.filter peers.contains
    if new.isEmpty then s else s.updAgent uid fun a => { a with owed := (a.owed ++ new).eraseDups }

/-- The outcome of `Agent.settleAccess` for a unit of the state; an acquire takes up what its core's releases have passed. -/
def State.settleAccess (s : State) (uid id l : Nat) (t : DWord) (acq : Bool) : State :=
  let s := s.updAgent uid fun a => a.settleAccess id l t acq
  if acq then s.takeOwed uid else s

/-- Lanes whose paths join: what any of them has done comes before what each of them does next (R324; log entry 55). -/
def Agent.level (a : Agent) (m : Mask) : Agent :=
  let ls := (a.lanes.zipIdx.filter fun x => m.getLsbD x.2).map (·.1)
  let top (f : Lane → DWord) : DWord := ls.foldl (fun t ln => tmax t (f ln)) 0
  { a with
    lanes := a.lanes.mapIdx fun i ln => if m.getLsbD i then
        { ln with ltime := top (·.ltime), fenceAcq := top (·.fenceAcq), fenceRel := top (·.fenceRel),
                  lrtSeen := top (·.lrtSeen), past := top (·.past) }
      else ln
    flight := a.flight.map fun x => if x.2.2 &&& m = 0 then x else (x.1, x.2.1, x.2.2 ||| m) }

/-- A fresh number for a message or a unit. -/
def State.fresh (s : State) : Nat × State := (s.nextId, { s with nextId := s.nextId + 1 })

/-- A free choice between two permitted outcomes (00_scope.md R11). -/
def State.choose (s : State) : Bool × State := (Config.choice s.choices, { s with choices := s.choices + 1 })

/-- A free choice among `n` permitted outcomes. -/
def State.chooseNat (s : State) (n : Nat) : Nat × State :=
  (Config.chooseNat s.choices % n, { s with choices := s.choices + 1 })

/-- A list in an order that is a free choice. -/
def State.shuffle {α : Type} : Nat → List α → State → List α × State
  | 0, xs, s => (xs, s)
  | k + 1, xs, s =>
    if xs.length ≤ 1 then (xs, s)
    else
      let r := s.chooseNat xs.length
      match xs[r.1]? with
      | none => (xs, r.2)
      | some x =>
        let q := State.shuffle k (xs.eraseIdx r.1) r.2
        (x :: q.1, q.2)

/-- The job of a number; one that does not exist reads as 0 everywhere. -/
def State.job (s : State) (j : Nat) : Job :=
  (s.jobs.find? (·.id == j)).getD ⟨j, 0, 0, 0, 0, 0, 0, 0, 0, false, false⟩

/-- Changing a job. -/
def State.updJob (s : State) (j : Nat) (f : Job → Job) : State :=
  { s with jobs := s.jobs.map fun b => if b.id = j then f b else b }

/-- The compute die of a cluster (00_scope.md R3). -/
def dieOf (cluster : Nat) : Fin 6 := Fin.ofNat 6 (cluster / 16)

/-- `CYCLE` of a cluster's die (06_registers.md R127). -/
def State.now (s : State) (cluster : Nat) : Nat := s.cycle[dieOf cluster]

/-- `ctime` of a cluster (02_lines_and_homes.md R38). Number 64 stands for the edge die, which has none of its own: the
greatest of all. -/
def State.ctimeOf (s : State) (cluster : Nat) : DWord :=
  if 64 ≤ cluster then s.ctime.toList.foldl tmax 0 else s.ctime[Fin.ofNat 64 cluster]

/-- A stamp or a time presented at a cluster raises its `ctime` (R38). -/
def State.raiseCtime (s : State) (cluster : Nat) (t : DWord) : State :=
  if 64 ≤ cluster then s
  else { s with ctime := s.ctime.set (Fin.ofNat 64 cluster).val (tmax (s.ctimeOf cluster) t) (Fin.ofNat 64 cluster).isLt }

/-! ### Registers by name (06_registers.md R114-R122) -/

/-- The physical register of a name (R122). -/
def physG (rrb : BitVec 4) (r : GReg) : Fin 64 :=
  if 32 ≤ r.toNat ∧ r.toNat ≤ 47 then Fin.ofNat 64 (32 + (r.toNat - 32 + rrb.toNat) % 16) else Fin.ofNat 64 r.toNat

/-- The physical predicate of a name (R122). -/
def physP (rrb : BitVec 4) (p : PReg) : Nat :=
  if 8 ≤ p.toNat then 8 + (p.toNat - 8 + rrb.toNat) % 8 else p.toNat

/-- Reading a predicate; `p0` reads 1 (R117). -/
def Lane.pred (ln : Lane) (rrb : BitVec 4) (p : PReg) : Bool :=
  if p = 0 then true else ln.p.getLsbD (physP rrb p)

/-- Writing a predicate; a write to `p0` is discarded (R117). -/
def Lane.setPred (ln : Lane) (rrb : BitVec 4) (p : PReg) (b : Bool) : Lane :=
  if p = 0 then ln else { ln with p := setBit ln.p (physP rrb p) b, pbad := setBit ln.pbad (physP rrb p) false }

/-- The register of a physical number. -/
def Lane.reg (ln : Lane) (i : Fin 64) : Word := ln.g[i]

/-- A register is overwritten or emptied: it holds no token any more (05_engines.md R106). -/
def Lane.dropTok (ln : Lane) (i : Fin 64) : List Tok := ln.toks.filter fun t => t.lo != i.val && t.hi != i.val

/-- Writing a register full (R118). -/
def Lane.setReg (ln : Lane) (i : Fin 64) (v : Word) : Lane :=
  { ln with g := ln.g.set i.val v i.isLt, full := setBit ln.full i.val true, pend := setBit ln.pend i.val false,
            bad := setBit ln.bad i.val false, toks := ln.dropTok i, gone := ln.gone.filter fun x => x.1 != i.val }

/-- Marking a register empty, its producer pending (R118). -/
def Lane.setPending (ln : Lane) (i : Fin 64) : Lane :=
  { ln with full := setBit ln.full i.val false, pend := setBit ln.pend i.val true, toks := ln.dropTok i }

/-- Marking a register empty by a consume (R119). -/
def Lane.setEmpty (ln : Lane) (i : Fin 64) : Lane := { ln with full := setBit ln.full i.val false, toks := ln.dropTok i }

/-- Marking a register full again, keeping its value (12_waymark.md R283). -/
def Lane.refill (ln : Lane) (i : Fin 64) : Lane :=
  { ln with full := setBit ln.full i.val true, pend := setBit ln.pend i.val false }

/-- Marking a register as poisoned (19_traps.md R429). -/
def Lane.poison (ln : Lane) (i : Fin 64) : Lane := { ln with bad := setBit ln.bad i.val true }

/-- Marking a register as the destination of a load that the scale-up window did not answer (23_host_and_links.md R469). -/
def Lane.lose (ln : Lane) (i : Fin 64) (va : DWord) : Lane := { ln.poison i with gone := ln.gone ++ [(i.val, va)] }

/-- A uniform register of a path; `s31` of a path inside a handler is `SCRATCH` (19_traps.md R417). -/
def Agent.sreg (a : Agent) (act : Bool) (r : SReg) : DWord :=
  if act && r == 31 then a.frame.scratch else a.s[Fin.ofNat 32 r.toNat]

/-- Writing a uniform register of a path (R417). -/
def Agent.setSreg (a : Agent) (act : Bool) (r : SReg) (v : DWord) : Agent :=
  let n := if act && r == 31 then 32 else r.toNat
  let a := { a with sBad := setBit a.sBad n false, sGone := a.sGone.filter fun x => x.1 != n }
  if n = 32 then { a with frame := { a.frame with scratch := v } }
  else { a with s := a.s.set (Fin.ofNat 32 r.toNat).val v (Fin.ofNat 32 r.toNat).isLt }

/-- The number of a uniform register of a path among the destinations of loads: 32 is `SCRATCH` (R417). -/
def sregNum (act : Bool) (r : SReg) : Nat := if act && r == 31 then 32 else r.toNat

/-- A destination is a uniform register. -/
def Dest.isUni (d : Dest) (n : Nat) : Bool :=
  match d with
  | .uni q _ _ => q == n
  | _ => false

/-- A load to a uniform register is in flight (06_registers.md R116). -/
def State.sregBusy (s : State) (uid : Nat) (act : Bool) (r : SReg) : Bool :=
  (s.loads.any fun l => l.uid == uid && l.dst.isUni (sregNum act r))
    || (s.remotes.any fun x => x.uid == uid && x.dest.isUni (sregNum act r))
    || (s.rreplies.any fun x => x.uid == uid && x.dest.isUni (sregNum act r))

/-- `SELF` of a lane (R127). -/
def Agent.selfId (a : Agent) (lane : Nat) : BitVec 23 :=
  (if a.wide then (1 : BitVec 1) else 0) ++ BitVec.ofNat 6 a.place.cluster ++ BitVec.ofNat 6 a.place.core
    ++ BitVec.ofNat 5 a.place.ctx ++ BitVec.ofNat 5 lane

/-! ### Paths -/

/-- The path of a slot. -/
def Agent.slot (a : Agent) (b : Bool) : Option Path := if b then a.slotB else a.slotA

/-- Replacing the path of a slot. -/
def Agent.setSlot (a : Agent) (b : Bool) (p : Option Path) : Agent :=
  if b then { a with slotB := p } else { a with slotA := p }

/-- Changing the path of a slot of a unit. -/
def State.updPath (s : State) (uid : Nat) (b : Bool) (f : Path → Path) : State :=
  s.updAgent uid fun a => a.setSlot b ((a.slot b).map f)

/-- The rotation base of a path; a handler has its own (19_traps.md R416; log entry 13). -/
def Agent.rrbOf (a : Agent) (act : Bool) : BitVec 4 := if act then a.hrrb else a.rrb

/-- The loop levels of a path, innermost first; a handler has its own (R416). -/
def Agent.loopsOf (a : Agent) (act : Bool) : List Loop := if act then a.hloops else a.loops

/-- Setting the rotation base and the loop levels of a path. -/
def Agent.setLoops (a : Agent) (act : Bool) (rrb : BitVec 4) (l : List Loop) : Agent :=
  if act then { a with hrrb := rrb, hloops := l } else { a with rrb := rrb, loops := l }

/-- The current loop: the innermost level whose FRZ is 0 (16_loops.md R349). -/
def Agent.curLoop (a : Agent) (act : Bool) : Option Loop := (a.loopsOf act).find? fun l => !l.frz

/-- The word number, in the wide store of a unit's core, of word `w` of divergence-stack record `k` (R76). -/
def stackWord (ctx k w : Nat) : Nat := (0x50000 + ctx * 512 + k * 16) / 4 + w

/-- The key of a local-store word. -/
def lkey (c : CoreId) (w : Nat) : Nat := (c.cluster * 64 + c.core) * 2 ^ 18 + w

/-- The size in bytes of a core's local store (04_cluster_store.md R75). -/
def lsize (core : Nat) : Nat := if isWideCore core then 0x80000 else 0x10000

/-- A local-store word (R75). -/
def State.lword (s : State) (c : CoreId) (w : Nat) : LWord := sget LWord.fresh (lkey c w) s.lwords

/-- Replacing a local-store word. -/
def State.setLword (s : State) (c : CoreId) (w : Nat) (x : LWord) : State :=
  { s with lwords := sput LWord.fresh (lkey c w) x s.lwords }

/-- Writing the value of a word; its bit stays, and a whole-word write clears poison, or writes that of its data (R78,
19_traps.md R429, R430). -/
def State.putLword (s : State) (c : CoreId) (w : Nat) (v : Word) (bad : Bool := false) : State :=
  s.setLword c w { s.lword c w with v := v, bad := bad }

/-- The signed join offset, in words, of a stack record (R346); 0 where the path waits or owes no join. -/
def Path.joinOff (p : Path) : Word :=
  match p.joins with
  | [] => 0
  | j :: _ => BitVec.ofInt 32 ((j.1.toInt - p.pc.toInt) / 4)

/-- Writing divergence-stack record `k` of a unit (R346). -/
def State.putRec (s : State) (a : Agent) (k : Nat) (p : Path) : State :=
  let c := a.place.coreId
  let s := s.putLword c (stackWord a.place.ctx k 0) (lo32 p.pc)
  let s := s.putLword c (stackWord a.place.ctx k 1) (hi32 p.pc)
  let s := s.putLword c (stackWord a.place.ctx k 2) p.mask
  s.putLword c (stackWord a.place.ctx k 3) p.joinOff

/-- Pushing a path on the divergence stack (R346): record `k` is the number of records held. -/
def State.pushPath (s : State) (uid : Nat) (p : Path) : State :=
  match s.agent? uid with
  | none => s
  | some a => (s.putRec a a.stack.length p).setAgent { a with stack := p :: a.stack }

/-- Record `k` as the store holds it, with the device's part `p` of it (R346). A PC whose bits [1:0] are not zero, as supervisor
software may write it there (04_cluster_store.md R76), is cause 0x05 (08_encoding.md R154; log entry 15). -/
def State.recPath (s : State) (a : Agent) (k : Nat) (p : Path) : Path :=
  let c := a.place.coreId
  let pc := cat32 (s.lword c (stackWord a.place.ctx k 1)).v (s.lword c (stackWord a.place.ctx k 0)).v
  let j := (s.lword c (stackWord a.place.ctx k 3)).v
  let m := (s.lword c (stackWord a.place.ctx k 2)).v &&& a.live
  { p with pc := pc, mask := m, trap := if pc.extractLsb' 0 2 = 0 then p.trap else p.trap.or (some (m, 0x05, pc, 0, pc)),
           joins := if j = 0 then (if p.joinOff = 0 then p.joins else p.joins.tail)
                    else (pc + (j.signExtend 64) * 4, (p.joins.head?.map (·.2)).getD false) :: p.joins.tail }

/-- The top record. -/
def State.topPath (s : State) (a : Agent) : Option Path :=
  match a.stack with
  | [] => none
  | p :: rest => some (s.recPath a rest.length p)

/-- The records of a unit, the top first. -/
def State.records (s : State) (a : Agent) : List Path :=
  a.stack.mapIdx fun i p => s.recPath a (a.stack.length - 1 - i) p

/-- A unit with these records, the top first, written to the store. -/
def State.setStack (s : State) (a : Agent) (ps : List Path) : State :=
  ((ps.zipIdx).foldl (fun s x => s.putRec a (ps.length - 1 - x.2) x.1) s).setAgent { a with stack := ps }

/-- Popping the top record into a slot that is free (R347). -/
def State.popPath (s : State) (uid : Nat) (b : Bool) : State :=
  match s.agent? uid with
  | none => s
  | some a =>
    match s.topPath a with
    | none => s
    | some p => s.setAgent ({ a with stack := a.stack.tail }.setSlot b (some p))

/-- The path is at its innermost join (R347). -/
def Path.atJoin (p : Path) : Bool :=
  match p.joins with
  | [] => false
  | j :: _ => j.1 == p.pc

/-- Two paths at one PC may merge: neither is held, halted or about to trap, and both are in a handler or neither. -/
def Path.mergeable (p q : Path) : Bool :=
  p.act == q.act && p.priv == q.priv && p.back.isSome == q.back.isSome && p.trap.isNone && q.trap.isNone
    && (p.mode == .run || p.mode == .stopped) && (q.mode == .run || q.mode == .stopped)

/-- The joins that two paths share, outermost ones. -/
def commonJoins (a b : List (DWord × Bool)) : List (DWord × Bool) :=
  ((a.reverse.zip b.reverse).takeWhile fun x => x.1 == x.2).reverse.map (·.1)

/-- The earlier of two waits. -/
def earlier (x y : Option Wait) : Option Wait :=
  match x, y with
  | some v, some w => if w.since < v.since then some w else some v
  | some v, none => some v
  | none, y => y

/-- The wait of a merged path: a `TINV` begins its wait for what has used its entries again, with the lanes that have joined. -/
def mergedWait (x y : Option Wait) : Option Wait :=
  (earlier x y).map fun w => if w.kind = .inval then { w with kind := .order } else w

/-- The merged path of two at one PC: the union of their lanes (R347); at an instruction that one of them waits at it waits on,
and the lanes that have not performed there do so. -/
def Path.merge (p q : Path) : Path :=
  { p with mask := p.mask ||| q.mask, mode := .run, joins := commonJoins p.joins q.joins, wait := mergedWait p.wait q.wait,
           done := p.done ||| q.done, parked := p.parked ||| q.parked, buf := [] }

/-- A path goes on at a PC. One whose bits [1:0] are not zero, as a loop level that software has written may give it, is cause
0x05 there (08_encoding.md R154, 17_isa_control.md R365; log entry 15). -/
def Path.goto (p : Path) (pc : DWord) : Path :=
  { p with pc := pc, trap := if pc.extractLsb' 0 2 = 0 then p.trap else some (p.mask, 0x05, pc, 0, pc) }

/-- Every path of a unit: the slots and the records. -/
def Agent.paths (a : Agent) : List Path := a.slotA.toList ++ a.slotB.toList ++ a.stack

/-- Another path of the unit still owes the join at which a path stands (R347). -/
def Agent.joinAlive (a : Agent) (p : Path) : Bool :=
  a.paths.any fun q => (q.mask &&& p.mask) == 0 && q.mask != 0 && p.joins.isSuffixOf q.joins

/-- The lanes of a group that are live and have not stopped at a return address (R340). -/
def Agent.groupOut (a : Agent) (ret : DWord) (g : Mask) : Mask :=
  a.paths.foldl (fun m q => if q.pc == ret && q.atJoin && q.hold.isNone then m &&& ~~~q.mask else m) (g &&& a.live)

/-- A path held at a `CALLI` whose group is through is released (R340). -/
def Path.unhold (a : Agent) (p : Path) : Path :=
  match p.hold with
  | some (ret, g) => if a.groupOut ret g = 0 then { p with hold := none, mode := .run, wait := none } else p
  | none => p

/-! ### Loops: the back edge (16_loops.md R351, R352) -/

/-- Replacing the current loop by another level, or popping it. -/
def replaceCur (ls : List Loop) (x : Option Loop) : List Loop :=
  match ls with
  | [] => []
  | l :: rest => if l.frz then l :: replaceCur rest x else x.toList ++ rest

/-- Writing logical `p8` in every lane of the unit (R352). -/
def Agent.setP8 (a : Agent) (rrb : BitVec 4) (b : Bool) : Agent :=
  { a with lanes := a.lanes.map fun ln => ln.setPred rrb 8 b }

/-- The back edge of R351, from a next PC by sequential flow: the unit and the PC after it. The fuel is the number of
levels held. -/
def backEdge (act : Bool) : Nat → Agent → DWord → Agent × DWord
  | 0, a, pc => (a, pc)
  | n + 1, a, pc =>
    match a.curLoop act with
    | none => (a, pc)
    | some c =>
      if c.stop ≠ pc then (a, pc)
      else if 1 < c.remain.toNat then
        let r := c.remain - 1
        let ls := replaceCur (a.loopsOf act) (some { c with remain := r })
        if c.stages = 0 then (a.setLoops act (a.rrbOf act) ls, c.start)
        else
          let rrb := a.rrbOf act - 1
          ((a.setLoops act rrb ls).setP8 rrb (c.stages.toNat ≤ r.toNat), c.start)
      else backEdge act n (a.setLoops act (a.rrbOf act) (replaceCur (a.loopsOf act) none)) c.stop

/-- The next PC by sequential flow is the current loop's END (R351). -/
def Agent.atEnd (a : Agent) (act : Bool) (npc : DWord) : Bool :=
  match a.curLoop act with
  | some c => c.stop == npc
  | none => false

/-- A path that does not count towards divergence: it waits at the current loop's END, is held at a `CALLI`, or is
stopped at that `CALLI`'s return address (R358). -/
def Agent.parted (a : Agent) (act : Bool) (p : Path) : Bool :=
  (p.atJoin && a.atEnd act p.pc && p.back.isNone) || p.hold.isSome
    || (p.atJoin && match p.joins with | j :: _ => j.2 | [] => false)

/-- The warp is diverged (R358). -/
def Agent.diverged (a : Agent) (act : Bool) : Bool :=
  a.wide && 1 < (a.paths.filter fun p => !a.parted act p).length

/-! ### Joins (R347) -/

/-- One change under R347: an empty slot frees, a free slot takes the top record, a held path is released, two paths at
one PC merge, a path at its join merges, exchanges or goes on alone. None where nothing applies. -/
def State.settle1 (s : State) (a : Agent) : Option State :=
  let gone (p : Option Path) : Bool := match p with | some q => q.mask == 0 | none => false
  if gone a.slotA then some (s.setAgent { a with slotA := none })
  else if gone a.slotB then some (s.setAgent { a with slotB := none })
  else if a.slotA.isNone && !a.stack.isEmpty then some (s.popPath a.uid false)
  else if a.slotB.isNone && !a.stack.isEmpty then some (s.popPath a.uid true)
  else
    let a' := { a with slotA := a.slotA.map (Path.unhold a), slotB := a.slotB.map (Path.unhold a),
                       stack := a.stack.map (Path.unhold a) }
    if a' ≠ a then some (s.setAgent a')
    else
      match a.slotA, a.slotB with
      | some p, some q =>
        if p.pc = q.pc ∧ p.mergeable q then
          -- in the slot of the path that has come to the other's PC
          let inB := (p.mode == .stopped && q.mode != .stopped)
            || ((p.mode == .stopped) == (q.mode == .stopped) && s.focus == some (a.uid, true))
          let a' := if inB then { a with slotA := none, slotB := some (q.merge p) }
            else { a with slotA := some (p.merge q), slotB := none }
          some (s.setAgent (a'.level (p.mask ||| q.mask)))
        else (row s a false p).or (row s a true q)
      | some p, none => row s a false p
      | none, some q => row s a true q
      | none, none => none
where
  /-- The rows of R347 for the path of one slot. -/
  row (s : State) (a : Agent) (b : Bool) (p : Path) : Option State :=
    if p.atJoin && p.mergeable p && p.wait.isNone then
      match s.topPath a with
      | some t =>
        if t.pc = p.pc ∧ t.atJoin ∧ p.mergeable t then
          some (s.setAgent (({ a with stack := a.stack.tail }.setSlot b (some (p.merge t))).level (p.mask ||| t.mask)))
        else if t.joins.head?.map (·.1) = some p.pc ∧ ¬ t.atJoin ∧ t.mode = .run then
          some ((s.setAgent ({ a with stack := a.stack.tail }.setSlot b (some t))).pushPath a.uid
            { p with mode := .stopped, buf := [] })
        else alone s a b p
      | none => alone s a b p
    else none
  /-- The last row: the path stops at its join, or goes on alone when no other path owes that join. -/
  alone (s : State) (a : Agent) (b : Bool) (p : Path) : Option State :=
    if !a.joinAlive p then
      let q := { p with joins := p.joins.tail, mode := .run, back := none }
      match p.back with
      | some ret =>
        -- the back edge of the return that waited for the others of its call (R351); in a diverged warp cause 0x1C (R358)
        if (a.setSlot b (some q)).diverged p.act then
          some (s.setAgent (a.setSlot b (some { q with trap := some (p.mask, 0x1C, 0, 0, ret) })))
        else
          let r := backEdge p.act (a.loopsOf p.act).length a p.pc
          some (s.setAgent (r.1.setSlot b (some (q.goto r.2))))
      | none =>
      if a.atEnd p.act p.pc then
        -- the last lanes have left the loop (16_loops.md R357)
        some (s.setAgent ((a.setLoops p.act (a.rrbOf p.act) (replaceCur (a.loopsOf p.act) none)).setSlot b (some q)))
      else some (s.setAgent (a.setSlot b (some q)))
    else if p.mode ≠ .stopped then some (s.setAgent (a.setSlot b (some { p with mode := .stopped })))
    else none

/-- The changes of R347 until none applies. Each removes a path, a join, a hold, or stops a path, so the bound of the
fuel is never reached (32 lanes, 34 paths). -/
def State.settleN (uid : Nat) : Nat → State → State
  | 0, s => s
  | n + 1, s =>
    match s.agent? uid with
    | none => s
    | some a =>
      match s.settle1 a with
      | none => s
      | some s' => State.settleN uid n s'

/-- Joins and slots of a warp after a path has moved, ended or split (R346, R347). A barrel unit has one path. -/
def State.settle (s : State) (uid : Nat) : State :=
  match s.agent? uid with
  | none => s
  | some a => if a.wide then State.settleN uid 400 s else s

/-! ### Taking an exception (19_traps.md R416-R420) and returning from one (R421) -/

/-- Placing a path in the other slot where it is free, else on the stack (R346). -/
def State.placePath (s : State) (uid : Nat) (b : Bool) (p : Path) : State :=
  match s.agent? uid with
  | none => s
  | some a => if (a.slot (!b)).isNone && a.stack.isEmpty then s.setAgent (a.setSlot (!b) (some p)) else s.pushPath uid p

/-- How many more paths a warp can hold (R346). -/
def Agent.room (a : Agent) (b : Bool) : Nat :=
  (if (a.slot (!b)).isNone && a.stack.isEmpty then 1 else 0) + (32 - a.stack.length)

/-- The path of the lanes that go on after a split: at `npc`, or at the instruction where it waits. -/
def Path.part (p : Path) (m : Mask) (pc : DWord) (mode : PathMode) (w : Option Wait) : Path :=
  { p with mask := m, pc := pc, mode := mode, wait := w, done := p.done &&& m, parked := p.parked &&& m, trap := none,
           buf := [] }

/-- The lanes of a path still hold watch entries (03_watch_table.md R63). -/
def State.watchesHeld (s : State) (uid : Nat) (m : Mask) : Bool :=
  s.watches.any fun w => w.uid == uid && m.getLsbD w.lane

/-- A pending `WMPROP` or `HSIFT` of some lanes: a trap, a cancel or a spill waits for it (12_waymark.md R277, 10_isa_lane.md
R236). -/
def State.propHeld (s : State) (uid : Nat) (m : Mask) : Bool :=
  s.pendings.any fun x => x.uid == uid && m.getLsbD x.lane
    && (match x.kind with | .wmprop .. | .hsift .. => true | _ => false)

/-- The context stops in every path, what is parked is withdrawn with the step (04_cluster_store.md R87), and firmware is told
(R418). -/
def State.doubleTrap (s : State) (uid : Nat) (lane : Nat) (cause : BitVec 8) (pc : DWord) : State :=
  match s.agent? uid with
  | none => s
  | some a =>
    let h (p : Path) : Path :=
      { p with mode := .halted, priv := if p.act then .firmware else p.priv, trap := none, parked := 0 }
    let s := s.setAgent { a with status := .halted, slotA := a.slotA.map h, slotB := a.slotB.map h,
                                 stack := a.stack.map fun p => { p with parked := 0 } }
    { s with reports := s.reports ++ [.doubleTrap uid (a.selfId lane) cause pc] }

/-- The saved-predicate byte: physical `p8`-`p15` (R414). -/
def Lane.p8to15 (ln : Lane) : BitVec 8 := ln.p.extractLsb' 8 8

/-- TRAP ENTRY (R416): the path of a slot enters its handler. EPC, CAUSE, TVAL and TSTATUS are saved, STRUCK is copied and
cleared, the loop levels are saved and held aside, the mode is supervisor and the PC is `TRAPVEC` + 64 × cause. -/
def State.enterTrap (s : State) (uid : Nat) (b : Bool) (cause : BitVec 8) (tval : DWord) (ue : BitVec 2)
    (epc : DWord) : State :=
  match s.agent? uid with
  | none => s
  | some a =>
    match a.slot b with
    | none => s
    | some p =>
      let f : Frame :=
        { a.frame with epc := epc, cause := cause, tval := tval, gmask := p.mask, srrb := a.rrb,
                       sdepth := BitVec.ofNat 3 a.loops.length, uesrc := ue,
                       coach := (a.kind == .coach || a.kind == .shadow), ppriv := p.priv }
      let lanes := a.lanes.mapIdx fun l ln =>
        if p.mask.getLsbD l then { ln with spred := ln.p8to15, swatch := ln.struck, struck := false } else ln
      let p' := { p with pc := (s.job a.job).trapvec + 64 * (cause.setWidth 64), act := true, priv := .super,
                         mode := .run, wait := none, done := 0, parked := 0, trap := none, buf := [], hold := none,
                         base := p.joins.length, spoilt := false }
      let s := { s with walkFaults := s.walkFaults.filter fun w => !(w.uid == uid && p.mask.getLsbD w.lane)
                        loads := s.loads.filter fun l => !(l.uid == uid && l.kind == LoadKind.held && p.mask.getLsbD l.lane) }
      s.setAgent ({ a with frame := f, lanes := lanes, hrrb := 0, hloops := [], sloops := a.loops }.setSlot b (some p'))

/-- A path takes a precise cause (R416): the entry waits until the path's watch entries have resolved, and until a unit
that is not in a slot runs again. -/
def State.takeTrap (s : State) (uid : Nat) (b : Bool) (cause : BitVec 8) (tval : DWord) (ue : BitVec 2)
    (epc : DWord) : State :=
  match s.agent? uid with
  | none => s
  | some a =>
    match a.slot b with
    | none => s
    | some p =>
      if p.act then s.doubleTrap uid (Mask.lowest p.mask) cause p.pc
      else if s.watchesHeld uid p.mask || s.propHeld uid p.mask || a.status != .issuing then
        s.updPath uid b fun p => { p with trap := some (p.mask, cause, tval, ue, epc), wait := none, done := 0,
                                          parked := 0, mode := .run }
      else s.enterTrap uid b cause tval ue epc

/-- One lane's precise fault. -/
structure LFault where
  lane : Nat
  cause : BitVec 8
  tval : DWord
  ue : BitVec 2
  /-- The due fault that it delivers, class and number; class 4 is the overflow (05_engines.md R108), class 5 the poison of a tile
  instruction (11_isa_tiles.md R267). -/
  due : Option (Nat × DWord) := none
  deriving DecidableEq, Repr

/-- Faults that are delivered are due no more (05_engines.md R108, 06_registers.md R130). -/
def State.tookDue (s : State) (uid : Nat) (fs : List LFault) : State :=
  if fs.all (·.due.isNone) then s
  else
    let s := if fs.any fun f => (match f.due with | some (5, _) => true | _ => false) then
        { s with mdone := s.mdone.map fun d => if d.uid = uid then { d with bad := false } else d }
      else s
    s.updAgent uid fun a =>
    { a with due := a.due.filter fun d => !(fs.any fun f => f.due == some (d.cls, d.num)),
             dfovf := a.dfovf && !(fs.any fun f => match f.due with | some (4, _) => true | _ => false) }

/-- Of several due faults that are met at one instruction the lowest class and number alone is delivered; the others stay due
(05_engines.md R108). -/
def dropLaterDue (fs : List LFault) : List LFault :=
  let first := fs.foldl (fun (m : Option (Nat × DWord)) f =>
    match m, f.due with
    | some x, some d => if d.1 < x.1 ∨ (d.1 = x.1 ∧ d.2.toNat < x.2.toNat) then some d else m
    | none, d => d
    | m, none => m) none
  fs.filter fun f => f.due.isNone || f.due == first

/-- The faults of the lowest cause (R419). -/
def lowestFaults (fs : List LFault) : List LFault :=
  let fs := dropLaterDue fs
  let c := fs.foldl (fun m f => if f.cause.toNat < m then f.cause.toNat else m) 256
  fs.filter fun f => f.cause.toNat == c

/-- The lanes of some faults. -/
def faultMask (fs : List LFault) : Mask := Mask.ofList (fs.map (·.lane))

/-- Another path of the warp is inside a handler (R420). -/
def Agent.otherAct (a : Agent) (b : Bool) : Bool :=
  (match a.slot (!b) with | some q => q.act || q.trap.isSome | none => false)
    || a.stack.any fun q => q.act || q.trap.isSome

/-- The records that a split needs beside the path's own slot (R419): one for the lanes that go on, one for the held ones. -/
def splitNeeds (fs : List LFault) (rest held : Mask) (busy : Bool) : Nat :=
  let hm := (faultMask fs &&& ~~~(faultMask (lowestFaults fs))) ||| held
  let hm := if busy then hm ||| faultMask (lowestFaults fs) else hm
  ((if rest = 0 then 0 else 1) + (if hm = 0 then 0 else 1)) - (if busy then 1 else 0)

/-- Lanes of one instruction of a warp fault (R419, R420): the lowest cause traps in the path's slot, lanes of other
causes are held, the rest go on at `npc` or wait. Without room for the records every active lane takes cause 0x14; beside a
path in a handler they are held instead. The lanes that take no part stay with them where no slot is left (log entry 27). -/
def State.splitTrap (s : State) (uid : Nat) (b : Bool) (fs : List LFault) (active : Mask) (rest held : Mask)
    (npc : DWord) (w : Option Wait) : State :=
  match s.agent? uid with
  | none => s
  | some a =>
    match a.slot b with
    | none => s
    | some p =>
      let low := lowestFaults fs
      let hm := (faultMask fs &&& ~~~(faultMask low)) ||| held
      let busy := a.otherAct b
      let hm := if busy then hm ||| faultMask low else hm
      let parts := (if rest = 0 then [] else [p.part rest npc .run w])
        ++ (if hm = 0 then [] else [p.part hm p.pc .held none])
      let others := if busy then parts.drop 1 else parts
      if a.room b < splitNeeds fs rest held busy then
        if busy then (s.updPath uid b fun p => { p with mode := .held, wait := none }).settle uid
        else
          let m := p.mask &&& ~~~active
          if m = 0 ∨ a.room b = 0 then s.takeTrap uid b 0x14 0 0 p.pc
          else ((s.placePath uid b (p.part m npc .run none)).updPath uid b fun p => { p with mask := active }).takeTrap uid b
            0x14 0 0 p.pc
      else
        let s := if busy then s.updAgent uid fun a => a.setSlot b (parts.head?)
          else s.updPath uid b fun p => { p.part (faultMask low) p.pc .run none with trap := none }
        let s := others.foldl (fun s q => s.placePath uid b q) s
        if busy then s.settle uid
        else
          match low with
          | [] => s
          | f :: _ => ((s.tookDue uid low).takeTrap uid b f.cause f.tval f.ue p.pc).settle uid

/-- Lanes leave a warp for good (15_travellers.md R339, R380). -/
def State.dropLanes (s : State) (uid : Nat) (m : Mask) : State :=
  let cut (p : Path) : Path := { p with mask := p.mask &&& ~~~m }
  (s.updAgent uid fun a => { a with live := a.live &&& ~~~m, slotA := a.slotA.map cut, slotB := a.slotB.map cut,
                                    stack := a.stack.map cut }).settle uid

/-- The slot in which a lane of a unit stands; none on the stack. -/
def Agent.slotOf (a : Agent) (l : Nat) : Option Bool :=
  match a.slotA, a.slotB with
  | some p, q => if p.mask.getLsbD l then some false else
      match q with
      | some q => if q.mask.getLsbD l then some true else none
      | none => none
  | none, some q => if q.mask.getLsbD l then some true else none
  | none, none => none

/-- Engine commands of a unit that have not completed. -/
def State.cmdsOf (s : State) (uid : Nat) : List Cmd := s.cmds.filter (·.uid == uid)

/-- Changing a launch. -/
def State.updLaunch (s : State) (n : Nat) (f : Launch → Launch) : State :=
  { s with launches := s.launches.map fun l => if l.id = n then f l else l }

/-- The time of everything that a unit has done so far. -/
def Agent.lastTime (a : Agent) : DWord :=
  a.finished.foldl (fun t x => tmax t x.2.2) (tmax a.allTime a.tileTime)

/-- The unit belongs to a launch; coaches and shadow waves are no units of one (18_scheduling.md R392). -/
def Agent.unitOf (a : Agent) : Option Nat := if a.kind == .coach || a.kind == .shadow then none else a.launch

/-- Commands, tile instructions or writes of a unit have not completed, the atomics and the stores of tile instructions among them
(18_scheduling.md R401, 11_isa_tiles.md R249). -/
def State.outstanding (s : State) (a : Agent) : Bool :=
  a.acks != 0 || !(s.cmdsOf a.uid).isEmpty || s.mops.any (·.uid == a.uid)
    || (s.winReqs.any fun r => r.uid == a.uid && match r.kind with | .atomic .. | .estore .. | .ered .. => true | _ => false)
    || (s.reqs.any fun r => r.uid == a.uid && match r.kind with | .atomic .. => true | _ => false)
    || (s.reps.any fun r => r.uid == a.uid && match r.kind with | .atomic .. => true | _ => false)

/-- A unit is gone from the device (17_isa_control.md R380); of a unit of a launch something stays until its commands and
writes have completed (18_scheduling.md R401). -/
def State.retire (s : State) (a : Agent) : State :=
  let s := { s with mdone := s.mdone.filter (·.uid != a.uid), walkFaults := s.walkFaults.filter (·.uid != a.uid) }
  match a.unitOf with
  | none => { s with agents := s.agents.filter fun b => b.uid != a.uid }
  | some n =>
    let s := s.updLaunch n fun l => { l with time := tmax l.time a.lastTime }
    if s.outstanding a then
      s.setAgent { a with status := .retired, live := 0, slotA := none, slotB := none, stack := [], home := ⟨64, 0, 0⟩ }
    else { s with agents := s.agents.filter fun b => b.uid != a.uid }

/-- A context with no lane left retires; the shadow wave of a coach retires with it once its engine commands have completed
(18_scheduling.md R408). -/
def State.retireIfEmpty (s : State) (uid : Nat) : State :=
  match s.agent? uid with
  | none => s
  | some a =>
    if a.live ≠ 0 then s
    else if a.kind == .shadow then
      -- an empty shadow wave keeps its context until its coach retires
      (match a.partner.bind s.agent? with
       | some _ => s
       | none => if (s.cmdsOf uid).isEmpty then s.retire a else s)
    else
      let s := s.retire a
      match (if a.kind == .coach then a.partner.bind s.agent? else none) with
      | none => s
      | some b =>
        let s := s.dropLanes b.uid b.live
        if (s.cmdsOf b.uid).isEmpty then s.retire b else s

/-- A fault that comes to a lane from outside its path's own instruction (15_travellers.md R341, 18_scheduling.md R408):
the lane becomes a path of its own, whose entry waits its turn (19_traps.md R416, R420). -/
def State.asyncFault (s : State) (uid l : Nat) (cause : BitVec 8) (tval : DWord) : State :=
  match s.agent? uid with
  | none => s
  | some a =>
    let set (p : Path) : Path :=
      { p.part (laneBit l) p.pc .run none with trap := some (laneBit l, cause, tval, 0, p.pc), hold := none }
    let full (p : Path) : Path := { p with trap := some (p.mask, 0x14, 0, 0, p.pc), wait := none, mode := .run }
    match a.slotOf l with
    | some b =>
      match a.slot b with
      | none => s
      | some p =>
        if p.act then s.doubleTrap uid l cause p.pc
        else if p.mask = laneBit l then s.setAgent (a.setSlot b (some (set p)))
        else if a.room b = 0 then s.setAgent (a.setSlot b (some (full p)))
        else (s.setAgent (a.setSlot b (some { p with mask := p.mask &&& ~~~(laneBit l) }))).placePath uid b (set p)
    | none =>
      match a.stack.findIdx? fun p => p.mask.getLsbD l with
      | none => s
      | some i =>
        let k := a.stack.length - 1 - i
        match a.stack[i]? with
        | none => s
        | some p =>
          let put (q : Path) : State := (s.putRec a k q).setAgent { a with stack := a.stack.set i q }
          if p.act then s.doubleTrap uid l cause p.pc
          else if p.mask = laneBit l then put (set p)
          else if 32 ≤ a.stack.length then put (full p)
          else (put { p with mask := p.mask &&& ~~~(laneBit l) }).pushPath uid (set p)

/-- A lane still waits for its gang call: a cancel has not taken it (15_travellers.md R371). -/
def State.awaits (s : State) (uid l : Nat) : Bool :=
  match s.agent? uid with
  | some a => (a.lane l).chain.isSome
  | none => false

/-- A coach lane's fault takes effect: with FMODE 0 it reaches its caller as cause 0x16 at its `GCALL`, with the innermost
cause, PC and address in the coach lane fault entry (R341); a barrel caller and a warp's lane take it in their turn. The
fuel bounds the nesting of gang calls (depth 8, R334). -/
def State.deliver : Nat → State → Nat → Nat → BitVec 8 → DWord → DWord → State
  | 0, s, _, _, _, _, _ => s
  | n + 1, s, cu, cl, cause, pc, addr =>
    match (if s.awaits cu cl then s.agent? cu else none) with
    | none => s
    | some c =>
      -- the innermost cause passes up unchanged
      let e := if cause = 0x16 then addr else cause.setWidth 64
      let s := s.updLane cu cl fun ln =>
        { ln with cfault := if cause = 0x16 then ln.cfault else (e, pc, addr), chain := none }
      if !c.wide then
        -- the entry in its record in memory is written with the step (`State.writeCoachFaults`)
        let s : State := { s with coachFaults := s.coachFaults ++ [cu] }
        match c.slotA with
        | none => s
        | some p =>
          let s := s.updAgent cu fun a => { a with status := if a.status = .inInn then .issuing else a.status }
          s.takeTrap cu false 0x16 e 0 p.pc
      else if c.kind == .coach && c.fmode == 0 then
        match (c.lane cl).caller with
        | none => s
        | some (cu', cl') =>
          let s := (s.dropLanes cu (laneBit cl)).retireIfEmpty cu
          if !s.awaits cu' cl' then s
          else if cause = 0x16 then
            let f := (c.lane cl).cfault
            State.deliver n (s.updLane cu' cl' fun ln => { ln with cfault := f }) cu' cl' 0x16 0 f.1
          else State.deliver n (s.updLane cu' cl' fun ln => { ln with cfault := (e, pc, addr) }) cu' cl' 0x16 0 e
      else (s.asyncFault cu cl 0x16 e).settle cu

/-- A lane of a coach leaves it with a fault (R341): the lane, its caller. -/
def State.leaveCoach (s : State) (a : Agent) (l : Nat) (cause : BitVec 8) (pc addr : DWord) : State :=
  match (a.lane l).caller with
  | none => s
  | some (cu, cl) =>
    -- a cause 0x16 carries the innermost fault of this lane's own entry
    if !s.awaits cu cl then s
    else if cause = 0x16 then
      let f := (a.lane l).cfault
      State.deliver 10 (s.updLane cu cl fun ln => { ln with cfault := f }) cu cl 0x16 0 f.1
    else State.deliver 10 s cu cl cause pc addr

/-- The lanes of a path whose faulting lanes are about to leave: they go on at `pc`, or stay at their instruction. -/
def Path.stay (q : Path) (m : Mask) (pc : DWord) (w : Option Wait) : Path :=
  let q := { q with mask := m, wait := w }
  if pc = q.pc then q else { q.goto pc with done := 0, parked := 0 }

/-- The faults of a path's instruction reach their handler: a barrel unit traps; a coach lane follows its descriptor's
FMODE (R341); a shadow lane's is one of the same-numbered coach lane (18_scheduling.md R408); a warp splits (R419). -/
def State.raiseFaults (s : State) (uid : Nat) (b : Bool) (fs : List LFault) (active rest held : Mask) (npc : DWord)
    (w : Option Wait) : State :=
  match s.agent? uid, fs with
  | none, _ => s
  | _, [] => s
  | some a, f :: _ =>
    match a.slot b with
    | none => s
    | some p =>
      if p.act then s.doubleTrap uid f.lane f.cause p.pc
      else if !a.wide then (s.tookDue uid [f]).takeTrap uid b f.cause f.tval f.ue p.pc
      else if a.kind == .coach && a.leaves then
        -- FMODE 00: the lanes leave at once, the others continue
        let s := s.updPath uid b fun q => q.stay (rest ||| held ||| faultMask fs) (if held = 0 then npc else q.pc) w
        let s := fs.foldl (fun s f => s.leaveCoach a f.lane f.cause p.pc f.tval) (s.tookDue uid fs)
        (s.dropLanes uid (faultMask fs)).retireIfEmpty uid
      else if a.kind == .shadow then
        let s := s.updPath uid b fun q => q.stay (rest ||| held ||| faultMask fs) (if held = 0 then npc else q.pc) w
        let s := ((s.tookDue uid fs).dropLanes uid (faultMask fs)).retireIfEmpty uid
        match a.partner.bind s.agent? with
        | none => s
        | some co =>
          fs.foldl (fun s f =>
            if !co.live.getLsbD f.lane then s
            else if co.fmode = 0 then
              ((s.leaveCoach co f.lane f.cause p.pc f.tval).dropLanes co.uid (laneBit f.lane)).retireIfEmpty co.uid
            else (s.asyncFault co.uid f.lane f.cause f.tval).settle co.uid) s
      else s.splitTrap uid b fs active rest held npc w

/-- RETURN FROM AN EXCEPTION (R421). The path waits until its lanes' watch entries have resolved. -/
def State.returnTrap (s : State) (uid : Nat) (b : Bool) : State :=
  match s.agent? uid with
  | none => s
  | some a =>
    match a.slot b with
    | none => s
    | some p =>
      let gm := if p.act then a.frame.gmask &&& a.live else p.mask
      if p.mask ≠ gm ∨ targetOk a.frame.epc = false then s.doubleTrap uid (Mask.lowest p.mask) 0x05 p.pc
      else if s.watchesHeld uid p.mask then
        -- the strikes that still come are those of the entries left pending (03_watch_table.md R69)
        let fresh (l : Nat) (ln : Lane) : Lane := { ln with struck := ln.struck && !gm.getLsbD l }
        let s := if p.wait.isSome then s else s.updAgent uid fun a => { a with lanes := a.lanes.mapIdx fresh }
        s.updPath uid b fun p => { p with wait := some ⟨.order, s.now a.place.cluster, s.nextId⟩ }
      else
        let lanes := a.lanes.mapIdx fun l ln =>
          if gm.getLsbD l then
            { ln with p := ln.spred ++ ln.p.extractLsb' 0 8, struck := ln.swatch || (p.wait.isSome && ln.struck) }
          else ln
        let free (q : Path) : Path := if q.mode = .held ∧ q.hold = none then { q with mode := .run } else q
        let p' := { p with pc := a.frame.epc, act := false, priv := a.frame.ppriv, mode := .run, wait := none, buf := [],
                           joins := if p.act then p.joins.drop (p.joins.length - p.base) else p.joins, base := 0 }
        -- it merges with the paths that R420 holds at its PC
        let held (q : Path) : Bool :=
          q.mode == .held && q.hold.isNone && q.pc == p'.pc && (free q).mergeable p'
        let recs := s.records a
        let met := ((a.slot (!b)).toList ++ recs).filter held
        let p'' := met.foldl (fun p q => p.merge (free q)) p'
        let a' := if p.act then { a with loops := a.sloops, hrrb := 0, hloops := [], sloops := [] } else { a with loops := [] }
        let a' := ({ a' with lanes := lanes, rrb := a.frame.srrb }.setSlot b (some p'')).setSlot (!b)
          (((a.slot (!b)).filter fun q => !held q).map free)
        let a' := if met.isEmpty then a' else a'.level p''.mask
        (if recs.any held then s.setStack a' ((recs.filter fun q => !held q).map free)
          else s.setAgent { a' with stack := a'.stack.map free }).settle uid

/-! ### An instruction on a path -/

/-- The path on which an instruction runs: unit and slot, with the unit and the path as they were at its issue. -/
structure Ctx where
  uid : Nat
  b : Bool
  a : Agent
  p : Path
  /-- Lanes that take part (08_encoding.md R158). -/
  act : Mask
  /-- The PC of the next instruction in sequence. -/
  npc : DWord
  deriving DecidableEq, Repr

/-- The cluster of the issuer. -/
def Ctx.cluster (c : Ctx) : Nat := c.a.place.cluster

/-- The rotation base of the issuing path. -/
def Ctx.rrb (c : Ctx) : BitVec 4 := c.a.rrbOf c.p.act

/-- The wait of a path for something: its time counts from the first issue of the instruction (04_cluster_store.md R86). -/
def State.waitOf (s : State) (cluster : Nat) (w : Option Wait) (k : WaitKind) : Wait :=
  match w with
  | some w => ⟨k, w.since, if w.kind = k then w.start else s.nextId⟩
  | none => ⟨k, s.now cluster, s.nextId⟩

/-- The instruction waits. -/
def State.waitFor (s : State) (c : Ctx) (k : WaitKind) : State :=
  s.updPath c.uid c.b fun p => { p with wait := some (s.waitOf c.cluster p.wait k) }

/-- A path goes on at a PC that is no sequential flow: no back edge. -/
def State.jump (s : State) (c : Ctx) (pc : DWord) : State :=
  (s.updPath c.uid c.b fun p => { p.goto pc with wait := none, done := 0, parked := 0 }).settle c.uid

/-- The instruction completes: the path goes on at the next instruction, with the back edge of R351. An `MTC` of RRB, START,
END or COUNT at the last position of the current loop has written already, and its back edge goes by the new values (DESIGN
CHOICE, log entry 74). -/
def State.complete (s : State) (c : Ctx) : State :=
  match s.agent? c.uid with
  | none => s
  | some a =>
    let (a', pc) := backEdge c.p.act ((a.loopsOf c.p.act).length) a c.npc
    (s.setAgent a').jump c pc

/-- Every active lane takes a cause together, with no split (R171, R364, R419): the lanes whose guard is false have
nothing to do with the instruction and go on. -/
def State.faultAll (s : State) (c : Ctx) (cause : BitVec 8) (tval : DWord) (ue : BitVec 2 := 0)
    (due : Option (Nat × DWord) := none) : State :=
  let fs := (Mask.list c.act).map fun l => (⟨l, cause, tval, ue, due⟩ : LFault)
  let rest := c.p.mask &&& ~~~c.act
  let last := c.a.atEnd c.p.act c.npc
  State.raiseFaults s c.uid c.b fs c.act (if last then 0 else rest) (if last then rest else 0) c.npc none

/-- Some lanes fault and the others complete or wait (R419; R351 at the last position of the current loop, where the
caller has let no lane perform). -/
def State.faultSome (s : State) (c : Ctx) (fs : List LFault) (w : Option WaitKind) : State :=
  let rest := c.p.mask &&& ~~~(faultMask fs)
  let last := c.a.atEnd c.p.act c.npc && c.a.wide
  match w with
  | some k =>
    State.raiseFaults s c.uid c.b fs c.act (if last then 0 else rest) (if last then rest else 0) c.p.pc
      (some (s.waitOf c.cluster c.p.wait k))
  | none => State.raiseFaults s c.uid c.b fs c.act (if last then 0 else rest) (if last then rest else 0) c.npc none

/-- The back edge that completing the instruction would perform falls in a diverged warp (16_loops.md R358). -/
def Ctx.clash (c : Ctx) : Bool := c.a.atEnd c.p.act c.npc && c.a.diverged c.p.act

/-- Then the lanes of its path take cause 0x1C at the instruction, which has no effect (R358). -/
def State.clashFault (s : State) (c : Ctx) : State := s.faultAll { c with act := c.p.mask } 0x1C 0

/-- The instruction completes with an effect, or takes cause 0x1C instead. -/
def State.completeWith (s : State) (c : Ctx) (f : State → State) : State :=
  if c.clash then s.clashFault c else (f s).complete c

end Sys2Proof.Machine
end

