-- ==== Sys2Proof/Machine/Operands.lean ====
section
/-! DEFINITION. Operands: the registers an instruction names with the pair and budget checks (06_registers.md R115,
08_encoding.md R171, R185), reading sources in their modes (R119-R121), writing destinations, and the two shapes in which
an instruction of lanes is performed: at once on registers, or lane by lane against the rest of the device. -/

namespace Sys2Proof

/-! ### The registers an instruction names -/

/-- A use of general registers: one, an even pair (R115), a quad (R166), or a range with no alignment (R254, R279). -/
inductive Use where
  | one (r : GReg)
  | pair (r : GReg)
  | quad (r : GReg)
  | range (r : GReg) (n : Nat)
  deriving DecidableEq, Repr

/-- The use breaks the pair or quad rule: cause 0x02. -/
def Use.odd : Use → Bool
  | .one _ => false
  | .pair r => r.toNat % 2 == 1
  | .quad r => r.toNat % 4 != 0
  | .range _ _ => false

/-- The highest register of a use. -/
def Use.top : Use → Nat
  | .one r => r.toNat
  | .pair r => r.toNat + 1
  | .quad r => r.toNat + 3
  | .range r n => r.toNat + n - 1

/-- A 64-bit integer type. -/
def ITy.is64 : ITy → Bool
  | .i32 | .n32 => false
  | .i64 | .n64 => true

/-- The use of a value of an integer type. -/
def useT (t : ITy) (r : GReg) : Use := if t.is64 then .pair r else .one r
/-- The use of a pair or of one register. -/
def useW (w64 : Bool) (r : GReg) : Use := if w64 then .pair r else .one r
/-- The uses of a source. -/
def Src.use (a : Src) (f : GReg → Use) : List Use :=
  match a with
  | .g r _ => [f r]
  | .s _ => []
/-- The uses of a third register. -/
def Src3.use (a : Src3) (f : GReg → Use) : List Use :=
  match a with
  | .g r => [f r]
  | .s _ => []
/-- The use of a value of a size. -/
def useSz (z : Size) (r : GReg) : Use :=
  match z with
  | .b8 | .b16 | .b32 => .one r
  | .b64 => .pair r
  | .b128 => .quad r
/-- A type of R165 whose values are pairs. -/
def Ty.is64 (t : Ty) : Bool := t == .i64 || t == .n64
/-- The use of a value of a type. -/
def useTy (t : Ty) (r : GReg) : Use := if t.is64 then .pair r else .one r

/-- The general registers that an instruction names, as written (R185). -/
def uses : Instr → List Use
  | .calli a | .calliTail a | .drainArrive a => [.pair a]
  | .addZ32 t d a b | .subZ32 t d a b | .mulZ32 t d a b | .mulhZ32 t d a b | .minZ32 t d a b | .maxZ32 t d a b
  | .andZ32 t d a b | .orZ32 t d a b | .xorZ32 t d a b | .andnZ32 t d a b => [useT t d, useT t a, useT t b]
  | .shlZ32 t d a b | .shrZ32 t d a b | .sarZ32 t d a b | .rotZ32 t d a b => [useT t d, useT t a, .one b]
  | .selZ32 _ d a b | .faddZ32 d a b | .fsubZ32 d a b | .fmulZ32 d a b | .fminZ32 d a b | .fmaxZ32 d a b =>
      [.one d, .one a, .one b]
  | .movZ32 t d a | .notZ32 t d a | .negZ32 t d a | .absZ32 t d a | .brevZ32 t d a => [useT t d, useT t a]
  | .clzZ32 t d a | .popcZ32 t d a => [.one d, useT t a]
  | .addI32 d a _ | .mulI32 d a _ | .minI32 d a _ | .maxI32 d a _ | .andI32 d a _ | .orI32 d a _ | .xorI32 d a _
  | .shlI32 d a _ | .shrI32 d a _ | .sarI32 d a _ | .rotI32 d a _ => [.one d, .one a]
  | .moviI32 d _ => [.one d]
  | .trap _ a => [.one a]
  | .ldI32 d a _ | .stI32 d a _ => [.one d, .pair a]
  | .addQ64 _ t _ d a b | .subQ64 _ t _ d a b | .mulQ64 _ t _ d a b | .mulhQ64 _ t d a b | .minQ64 _ t d a b
  | .maxQ64 _ t d a b | .andQ64 _ t d a b | .orQ64 _ t d a b | .xorQ64 _ t d a b | .andnQ64 _ t d a b
  | .div _ t d a b | .rem _ t d a b => [useT t d] ++ a.use (useT t) ++ b.use (useT t)
  | .shlQ64 _ t d a b | .shrQ64 _ t d a b | .sarQ64 _ t d a b | .rotQ64 _ t d a b =>
      [useT t d] ++ a.use (useT t) ++ b.use .one
  | .mad _ t _ d a b c => [useT t d] ++ a.use (useT t) ++ b.use (useT t) ++ c.use (useT t)
  | .notQ64 _ t d a | .negQ64 _ t _ d a | .absQ64 _ t _ d a | .brevQ64 _ t d a | .movQ64 _ t d a =>
      [useT t d] ++ a.use (useT t)
  | .clzQ64 _ t d a | .popcQ64 _ t d a => [.one d] ++ a.use (useT t)
  | .bfe _ _ _ _ d a | .bfi _ _ _ _ d a => [.one d] ++ a.use .one
  | .selQ64 _ _ w _ d a b => [useW w d] ++ a.use (useW w) ++ b.use (useW w)
  | .movs _ t _ a => a.use (useT t)
  | .leaQ64 _ _ d b i _ _ => [.pair d] ++ b.use .pair ++ i.use .one
  | .cmp _ t _ _ a b => a.use (useT t) ++ b.use (useT t)
  | .fcmp _ _ _ a _ b _ => a.use .one ++ b.use .one
  | .faddQ64 _ _ _ d a _ b _ | .fsubQ64 _ _ _ d a _ b _ | .fmulQ64 _ _ _ d a _ b _ => [.one d] ++ a.use .one ++ b.use .one
  | .ffma _ _ _ d a _ b _ c _ => [.one d] ++ a.use .one ++ b.use .one ++ c.use .one
  | .fminQ64 _ d a _ b _ | .fmaxQ64 _ d a _ b _ => [.one d] ++ a.use .one ++ b.use .one
  | .frcp _ _ _ d a _ | .frsq _ _ _ d a _ | .fsqrt _ _ _ d a _ | .fexp2 _ _ _ d a _ | .flog2 _ _ _ d a _ =>
      [.one d] ++ a.use .one
  | .cvt _ dt st _ _ d a _ => [useTy dt d] ++ a.use (useTy st)
  | .pack _ _ _ _ d a _ b _ => [.one d] ++ a.use .one ++ b.use .one
  | .upk _ _ _ _ d a _ => [.one d] ++ a.use .one
  | .dot4 _ _ d a b c | .dot8 _ _ d a b c => [.one d] ++ a.use .one ++ b.use .one ++ c.use .one
  | .shfl _ _ w d a b | .bcast _ w d a b => [useW w d] ++ a.use (useW w) ++ b.use .one
  | .vote _ op d _ => if op = .ballot then [.one d] else []
  | .redl _ _ t _ d a | .scanl _ _ t _ d a => [useTy t d] ++ a.use (useTy t)
  | .first _ d _ => [.one d]
  | .rand _ _ d a b => [.one d] ++ a.use .pair ++ b.use .one
  | .hsift _ _ _ _ d a b => [.pair d] ++ a.use .pair ++ b.use .pair
  | .bins _ _ _ _ _ d a b => [.one d] ++ a.use .one ++ b.use .pair
  | .twalk _ _ _ d a b => [.pair d] ++ a.use .pair ++ b.use .pair
  | .tmask _ d _ b _ => [.one d] ++ b.use .one
  | .ldQ64 _ z _ _ _ d m => [useSz z d] ++ m.base.use .pair
  | .ldu _ _ _ _ _ _ m | .clrf _ _ m | .pref _ _ m | .depdec _ _ m | .lsave _ _ m | .lrest _ _ m | .tsave _ _ m
  | .trest _ _ m => m.base.use .pair
  | .ldw _ z _ _ d m => [useSz z d] ++ m.base.use .pair
  | .ldf _ w _ d m | .take _ w _ d m => [useW w d] ++ m.base.use .pair
  | .fill _ w _ d m | .setf _ w _ d m => d.use (useW w) ++ m.base.use .pair
  | .probe _ _ d m => [.pair d] ++ m.base.use .pair
  | .tinv _ _ j a _ => [.one j, .pair a]
  | .stQ64 _ z _ _ d m => d.use (useSz z) ++ m.base.use .pair
  | .barinit _ d m | .barwait _ _ d m => d.use .one ++ m.base.use .pair
  | .bararr _ _ d m => [.one d] ++ m.base.use .pair
  | .barexp _ _ _ d _ b _ => d.use .one ++ b.use .pair
  | .waitt _ _ (.src a) => a.use .pair
  | .mfc _ _ (.pair d) => [.pair d]
  | .mfc _ _ (.word d) => [.one d]
  | .mtc _ w _ a => a.use (useW (!w))
  | .loop a _ | .loopr _ a _ | .migrate _ a => a.use .one
  | .gcall _ a b | .gcalli _ a b => a.use .pair ++ b.use .one
  | .route _ a b | .routeset _ a b => a.use .one ++ b.use .one
  | .rcsnap _ _ a _ => a.use .pair
  | .spawn _ d a b => [.one d] ++ a.use .pair ++ b.use .one
  | .taskmk _ _ d a b => [.quad d] ++ a.use .pair ++ b.use .pair
  | .cntw _ d a b => [.one d] ++ a.use .one ++ b.use .one
  | .wmopen _ _ _ d a | .wmlen _ _ d a => [.one d] ++ a.use .one
  | .wmclose _ a => a.use .one
  | .wmapp _ k a b => a.use .one ++ b.use fun r => .range r (k.toNat + 1)
  | .wmprop _ k d a b => [.range d (k.toNat + 1), .one b] ++ a.use .one
  | .wmsave _ _ _ b _ h => b.use .pair ++ h.use .one
  | .wmload _ _ d b _ => [.one d] ++ b.use .pair
  | .wmown _ a b => a.use .one ++ b.use .one
  | .tpack _ w _ a _ _ => a.use fun r => .range r w.n
  | .tunpk _ w d _ _ _ => [.range d w.n]
  | .cellp _ a => a.use .pair
  | .moviX96 _ k d _ => [useW (k != .word) d]
  | .atom _ op w _ d m v c => [useW w d] ++ m.base.use .pair ++ v.use (useW w) ++
      (if op = .cas then c.use (useW w) else [])
  | .red _ _ t _ d m => d.use (useW (t == .i64 || t == .n64)) ++ m.base.use .pair
  | .copy _ _ _ d a b bar => [.pair d] ++ a.use .pair ++ b.use .pair ++
      (match bar with | some c => c.use .pair | none => [])
  | .gather _ _ d a b c e | .scadd _ _ d a b c e => [.pair d] ++ a.use .pair ++ b.use .pair ++ c.use .pair ++ e.use .one
  | .quant _ _ d a b => [.pair d] ++ a.use .pair ++ b.use .pair
  | .tgenNew _ _ d a b c _ | .tgenApp _ _ d a b c _ => [.pair d] ++ a.use .pair ++ b.use .pair ++ [.quad c]
  | .tgenClose _ _ d a => [.pair d] ++ a.use .pair
  | .tld _ _ _ d _ m b | .tst _ _ _ d _ m b => [.pair d] ++ m.base.use .pair ++ b.use .one
  | .accld _ _ _ m b _ _ _ _ | .accst _ _ _ m b _ _ _ _ => m.base.use .pair ++ b.use .one
  | .accsend _ _ _ _ _ a b c _ _ => a.use .pair ++ b.use .pair ++ c.use .one
  | .leaX96 _ d b _ => [.pair d] ++ b.use .pair
  | .leaPc _ d _ => [.pair d]
  | _ => []

/-- The instruction does not exist on a barrel core (R114, R250, R384). -/
def wideOnly : Instr → Bool
  | .role .. | .tcfg .. | .tpack .. | .tunpk .. | .tzero .. | .accz .. | .cellp .. | .tsave .. | .trest .. | .twait ..
  | .tld .. | .tst .. | .mma .. | .mmas .. | .mmc .. | .accld .. | .accst .. | .acccvt .. | .accsend .. => true
  | .mfc _ i _ => 0x020 ≤ i.toNat && i.toNat ≤ 0x028
  | .mtc _ _ i _ => 0x020 ≤ i.toNat && i.toNat ≤ 0x028
  | _ => false

/-- The instruction does not exist on a wide core (15_travellers.md R342). -/
def barrelOnly : Instr → Bool
  | .migrate .. | .route .. | .rethome .. => true
  | _ => false

/-- The always-true guard. -/
def Guard.always : Guard := ⟨0, false⟩

/-- A source of an instruction with its width in registers: 1, or 2 for a pair. `data` marks the data of a store or a
reduction, which carries its poison along (19_traps.md R429). -/
structure Opnd where
  src : Src
  n : Nat
  data : Bool := false
  deriving DecidableEq, Repr

/-- A 32-bit source. -/
def Src.w1 (a : Src) : Opnd := ⟨a, 1, false⟩
/-- A 64-bit source. -/
def Src.w2 (a : Src) : Opnd := ⟨a, 2, false⟩
/-- A source of an integer type. -/
def Src.wT (a : Src) (t : ITy) : Opnd := ⟨a, if t.is64 then 2 else 1, false⟩
/-- A general register read in mode 00. -/
def rd (r : GReg) : Src := .g r .wait
/-- A third register, read in mode 00 (R200). -/
def Src3.src : Src3 → Src
  | .g r => .g r .wait
  | .s r => .s r

/-- The source `k` places on. -/
def Src.plus (a : Src) (k : Nat) : Src :=
  match a with
  | .g r m => .g (r + BitVec.ofNat 6 k) m
  | .s r => .s (r + BitVec.ofNat 5 k)

/-- ORD names an acquire (R157). -/
def Ord4.isAcq (o : Ord4) : Bool := o == .acq || o == .ar
/-- ORD names a release. -/
def Ord4.isRel (o : Ord4) : Bool := o == .rel || o == .ar
/-- INB and OUTB as DIR names them (13_isa_return.md R302). -/
def BarDir.counts (d : BarDir) : Bool × Bool := (d != .outb, d != .inb)

/-- The registers of an operand with its mode. -/
def Opnd.regs (o : Opnd) : List (GReg × ReadMode) :=
  match o.src with
  | .g r m => (List.range o.n).map fun i => (r + BitVec.ofNat 6 i, m)
  | .s _ => []

/-- The size in bytes of a `RED`. -/
def RedTy.bytes : RedTy → Nat
  | .i32 | .n32 | .f32 => 4
  | .i64 | .n64 => 8
  | .bf16 => 2

/-- The size in bytes of SIZE. -/
def Size.bytes : Size → Nat
  | .b8 => 1
  | .b16 => 2
  | .b32 => 4
  | .b64 => 8
  | .b128 => 16

end Sys2Proof

namespace Sys2Proof.Machine

/-! ### Checks at issue -/

/-- The privilege check of an instruction (19_traps.md R411, R125, R126, R199, R382, R390). -/
def privFault (p : Priv) : Instr → Bool
  | .eret | .tinv .. | .cancel _ .job => p == .user
  | .halt => p != .firmware
  | .mfc _ i _ => (0x200 ≤ i.toNat && p != .firmware) || (0x100 ≤ i.toNat && p == .user)
  | .mtc _ _ i _ => (0x200 ≤ i.toNat && p != .firmware) || (0x100 ≤ i.toNat && p == .user)
      || (p == .user && (i.toNat == 8 || i.toNat == 9 || (0x010 ≤ i.toNat && i.toNat ≤ 0x01B)))
  | _ => false

/-- Checks 5 to 8 of R171 that need the machine: the register budget of a coach (R185), odd pairs (0x02), the kind of
core (0x03), the privilege (0x04). -/
def preCheck (a : Agent) (p : Path) (i : Instr) : Option (BitVec 8) :=
  if a.regs < 64 && (uses i).any (fun u => a.regs ≤ u.top) then some 0x01
  else if (uses i).any Use.odd then some 0x02
  else if (!a.wide && wideOnly i) || (a.wide && barrelOnly i) then some 0x03
  else if privFault p.priv i then some 0x04
  else none

/-- TVAL of causes 0x01-0x04: word 0 and word 1 (R171). -/
def wordsTval (ws : List Word) : DWord := cat32 (ws.getD 1 0) (ws.getD 0 0)

/-- The guard of an instruction; the 32-bit forms have none (R158). -/
def guardOn (a : Agent) (p : Path) (l : Nat) (g : Guard) : Bool :=
  (a.lane l).pred (a.rrbOf p.act) g.p != g.neg

/-- The lanes of a mask that satisfy a test. -/
def Mask.filter (m : Mask) (f : Nat → Bool) : Mask := Mask.ofList ((Mask.list m).filter f)

/-- A core's record; one that has not issued has none. -/
def State.issueRec (s : State) (c : CoreId) : IssueRec := (s.cores.find? (·.core == c)).getD ⟨c, none, [], []⟩

/-- A slot of a barrel core has issued in the last 3 cycles (18_scheduling.md R406). -/
def State.justIssued (s : State) (c : CoreId) (ctx : Nat) : Bool :=
  (s.issueRec c).slots.any fun y => y.1 == ctx && decide (s.now c.cluster ≤ y.2 + 3)

/-- A slot of a barrel core is ready (18_scheduling.md R406): a path of its unit runs and waits for nothing, and it has not issued
in the last 3 cycles. -/
def State.isReady (s : State) (a : Agent) : Bool :=
  a.status == .issuing && !s.justIssued a.place.coreId a.place.ctx && (a.slotA.toList ++ a.slotB.toList).any fun p =>
    p.mode == .run && p.wait.isNone && p.resume ≤ s.now a.place.cluster

/-- The path of a barrel core holds back after a `YIELD` (17_isa_control.md R381): for 16 cycles while another slot of the core is
ready. -/
def State.yields (s : State) (a : Agent) (p : Path) : Bool :=
  !a.wide && decide (s.now a.place.cluster < p.resume) &&
    s.agents.any fun x => x.uid != a.uid && x.place.coreId == a.place.coreId && s.isReady x

/-- A unit issues: it has not been idle (18_scheduling.md R409), and the stretch of its launch's quiescence detector ends (R410).
An instruction that waits has issued already: its next attempt is no issue. -/
def State.noteIssue (s : State) (uid cluster : Nat) (p : Path) : State :=
  let n := (s.agent? uid).bind Agent.unitOf
  if p.wait.isSome then s else
  { s with
    launches := s.launches.map fun l => if n = some l.id then { l with quietSince := none, reported := false } else l
    agents := s.agents.map fun a => if a.uid = uid then { a with idleSince := s.now cluster } else a }

/-- Some lanes of an instruction fault and the others re-execute it; at the last position of the current loop they are held
(16_loops.md R351). -/
def State.faultPart (s : State) (c : Ctx) (fs : List LFault) : State :=
  let rest := c.p.mask &&& ~~~(faultMask fs)
  let last := c.a.atEnd c.p.act c.npc && c.a.wide
  s.raiseFaults c.uid c.b fs c.act (if last then 0 else rest) (if last then rest else 0) c.p.pc none

/-- The lanes whose guard is a poisoned predicate take cause 0x26 (19_traps.md R429). -/
def Ctx.badGuards (c : Ctx) (g : Guard) : List LFault :=
  if g.p = 0 then []
  else ((Mask.list c.p.mask).filter fun l => (c.a.lane l).pbad.getLsbD (physP c.rrb g.p)).map fun l => ⟨l, 0x26, 0, 2, none⟩

/-- The path that issues, if it may issue: the unit is Issuing, the path runs and no trap entry is outstanding. -/
def State.focused (s : State) : Option (Agent × Path × Bool) :=
  match s.focus with
  | none => none
  | some (uid, b) =>
    match s.agent? uid with
    | none => none
    | some a =>
      match a.slot b with
      | none => none
      | some p =>
        if (a.status == .issuing) && p.mode == .run && p.trap.isNone && !s.yields a p then some (a, p, b) else none

/-- ISSUE: the checks of R171 after the decoder's, the guard of R158; then the meaning.
With no lane that takes part the instruction only completes. With no path that may issue nothing happens. -/
def issue (i : Instr) (g : Guard) (s : State) (k : Ctx → State → State) : Host.Outcome State Fault Refusal :=
  match s.focused with
  | none => .next s
  | some (a, p, b) =>
    let ws := encode i
    let npc := p.pc + 4 * BitVec.ofNat 64 ws.length
    let all : Ctx := ⟨a.uid, b, a, p, p.mask, npc⟩
    match preCheck a p i with
    | some c => .next (s.faultAll all c (wordsTval ws))
    | none =>
      let act := Mask.filter p.mask fun l => guardOn a p l g
      let c : Ctx := { all with act := act }
      let s := s.noteIssue a.uid a.place.cluster p
      let bg := all.badGuards g
      if !bg.isEmpty then .next (s.faultPart all bg)
      else if act = 0 then .next (s.completeWith c id)
      else .next (k c s)

/-- ISSUE of an instruction that the guard does not mask as a whole: the unguarded forms and the branches whose guard is
their condition (R158, R364). A branch does its own range check. -/
def issueBranch (i : Instr) (g : Guard) (s : State) (k : Ctx → State → State) : Host.Outcome State Fault Refusal :=
  match s.focused with
  | none => .next s
  | some (a, p, b) =>
    let ws := encode i
    let c : Ctx := ⟨a.uid, b, a, p, p.mask, p.pc + 4 * BitVec.ofNat 64 ws.length⟩
    match preCheck a p i with
    | some x => .next (s.faultAll c x (wordsTval ws))
    | none =>
      let s := s.noteIssue a.uid a.place.cluster p
      let bg := c.badGuards g
      .next (if bg.isEmpty then k c s else s.faultPart c bg)

/-! ### Reading sources -/

/-- The partner lane of a window register may still fill it (06_registers.md R120, 18_scheduling.md R408). -/
def State.windowOpen (s : State) (a : Agent) (l : Nat) (r : GReg) : Bool :=
  48 ≤ r.toNat && r.toNat ≤ 55 &&
    (match a.partner with
     | some q => (match s.agent? q with | some b => b.live.getLsbD l | none => false)
     | none => false)

/-- How a lane stands with its operands. -/
inductive Ready where
  | ok
  | wait (k : WaitKind)
  | fault (cause : BitVec 8) (ue : BitVec 2) (tval : DWord := 0)
  /-- A due fault is delivered, or the overflow where there is none (05_engines.md R108). -/
  | due (d : Option DueFault)
  deriving DecidableEq, Repr

/-- The first of some due faults: the lowest class, within it the lowest number (05_engines.md R108). -/
def firstDue (ds : List DueFault) : Option DueFault :=
  ds.foldl (fun r d => match r with
    | none => some d
    | some x => if d.cls < x.cls ∨ (d.cls = x.cls ∧ d.num.toNat < x.num.toNat) then some d else r) none

/-- A delivery point that some due faults meet (R108): the first of them, else the overflow. -/
def Agent.dueAt (a : Agent) (f : DueFault → Bool) : Option (Option DueFault) :=
  match firstDue (a.due.filter f) with
  | some d => some (some d)
  | none => if a.dfovf then some none else none

/-- The lane's fault of a due fault. -/
def dueLFault (l : Nat) (d : Option DueFault) : LFault :=
  match d with
  | some d => ⟨l, d.cause, d.tval, 0, some (d.cls, d.num)⟩
  | none => ⟨l, 0x59, 0, 0, some (4, 0)⟩

/-- The completed tokens that some operands read. -/
def Lane.tokensOf (ln : Lane) (rrb : BitVec 4) (os : List Opnd) : List Tok :=
  if ln.toks.isEmpty then []
  else ln.toks.filter fun t => (os.flatMap Opnd.regs).any fun x => (physG rrb x.1).val == t.lo || (physG rrb x.1).val == t.hi

/-- A register of an operand holds poison in a lane. -/
def Ctx.opndBad (c : Ctx) (l : Nat) (o : Opnd) : Bool :=
  match o.src with
  | .g .. => o.regs.any fun x => (c.a.lane l).bad.getLsbD (physG c.rrb x.1).val
  | .s r => c.a.sBad.getLsbD (sregNum c.p.act r)

/-- The virtual address of the lost load that filled a register of an operand (23_host_and_links.md R469). -/
def Ctx.opndGone (c : Ctx) (l : Nat) (o : Opnd) : Option DWord :=
  match o.src with
  | .g .. => ((c.a.lane l).gone.find? fun x => o.regs.any fun r => (physG c.rrb r.1).val == x.1).map (·.2)
  | .s r => (c.a.sGone.find? fun x => x.1 == sregNum c.p.act r).map (·.2)

/-- The read rules of R119-R121 for one lane: mode 01 first, then registers that nothing can fill, then waits for
sources, for pending destinations (R120) and for loads to uniform registers (R116), then poison (19_traps.md R429). -/
def State.ready (s : State) (c : Ctx) (l : Nat) (os : List Opnd) (ps : List PReg) (ds : List GReg) : Ready :=
  let a := c.a
  let ln := a.lane l
  let rs := os.flatMap Opnd.regs
  let empty (r : GReg) : Bool := !ln.full.getLsbD (physG c.rrb r).val
  let stuck (r : GReg) : Bool := empty r && !ln.pend.getLsbD (physG c.rrb r).val && !s.windowOpen a l r
  if rs.any fun x => x.2 == .test && empty x.1 then .fault 0x40 0
  else if rs.any fun x => x.2 != .test && stuck x.1 then .fault 0x45 0
  else if rs.any fun x => empty x.1 then
    (if c.p.wait.map (·.kind) = some .limit then .fault 0x41 0 else .wait .reg)
  else if ds.any fun d => ln.pend.getLsbD (physG c.rrb d).val then .wait .prod
  else if os.any fun o => match o.src with | .s r => s.sregBusy c.uid c.p.act r | .g .. => false then .wait .order
  else if (let tk := ln.tokensOf c.rrb os
           !tk.isEmpty && (a.dueAt fun d => d.lane == l && tk.any fun t => t.cls == d.cls && t.num == d.num).isSome) then
    .due ((a.dueAt fun d => d.lane == l && (ln.tokensOf c.rrb os).any fun t => t.cls == d.cls && t.num == d.num).getD none)
  else if (os.any fun o => !o.data && c.opndBad l o) || (ps.any fun p => ln.pbad.getLsbD (physP c.rrb p)) then
    match (os.filter fun o => !o.data && c.opndBad l o).filterMap (c.opndGone l) with
    | va :: _ => .fault 0x26 0 va
    | [] => .fault 0x26 2
  else .ok

/-- The value of an operand in a lane: a register zero-extended, a pair, or the uniform register, of which a 32-bit
operand has bits [31:0] (R159). -/
def Ctx.value (c : Ctx) (l : Nat) (o : Opnd) : DWord :=
  match o.src with
  | .g r _ =>
    let ln := c.a.lane l
    let lo := ln.reg (physG c.rrb r)
    if o.n = 2 then cat32 (ln.reg (physG c.rrb (r + 1))) lo else lo.setWidth 64
  | .s r => if o.n = 2 then c.a.sreg c.p.act r else (lo32 (c.a.sreg c.p.act r)).setWidth 64

/-- The inputs of one lane. -/
structure LaneIn where
  vals : List DWord
  preds : List Bool
  deriving DecidableEq, Repr

/-- The value of source `k`. -/
def LaneIn.v (x : LaneIn) (k : Nat) : DWord := x.vals.getD k 0
/-- The 32-bit value of source `k`. -/
def LaneIn.w (x : LaneIn) (k : Nat) : Word := lo32 (x.v k)
/-- Predicate `k`. -/
def LaneIn.p (x : LaneIn) (k : Nat) : Bool := x.preds.getD k false

/-- The inputs of a lane. -/
def Ctx.inputs (c : Ctx) (l : Nat) (os : List Opnd) (ps : List PReg) : LaneIn :=
  ⟨os.map (c.value l), ps.map fun p => (c.a.lane l).pred c.rrb p⟩

/-- A read of a token in mode 00 or 10 acquires its command: the reader's time is raised to the command's final time
(02_lines_and_homes.md R54). -/
def Lane.tokenTimes (ln : Lane) (rrb : BitVec 4) (os : List Opnd) : Lane :=
  if ln.toks.isEmpty then ln
  else
    let rs := (os.flatMap Opnd.regs).filter fun x => x.2 != .test
    let ts := ln.toks.filter fun t => rs.any fun x => (physG rrb x.1).val == t.lo || (physG rrb x.1).val == t.hi
    { ln with ltime := ts.foldl (fun m t => tmax m t.time) ln.ltime }

/-- What reading its operands does to a lane: a token's command is acquired, and every register read in mode 10 becomes
empty, once (R119). -/
def Lane.consume (ln : Lane) (rrb : BitVec 4) (os : List Opnd) : Lane :=
  (os.flatMap Opnd.regs).foldl (fun ln x => if x.2 = .consume then ln.setEmpty (physG rrb x.1) else ln)
    (ln.tokenTimes rrb os)

/-- A token that a lane reads is acquired for every lane of its path (log entry 55). -/
def Agent.acquireTokens (a : Agent) (c : Ctx) (l : Nat) (os : List Opnd) : Agent :=
  if (c.a.lane l).toks.isEmpty then a
  else a.liftPath l (({ c.a.lane l with ltime := 0 } : Lane).tokenTimes c.rrb os).ltime

/-- The tokens that a lane of the unit reads are acquired. -/
def State.acquireTokens (s : State) (c : Ctx) (l : Nat) (os : List Opnd) : State :=
  s.updAgent c.uid fun a => a.acquireTokens c l os

/-- A lane reads its operands: what that does to the lane, and the tokens acquired. -/
def State.consumeOps (s : State) (c : Ctx) (l : Nat) (os : List Opnd) : State :=
  (s.acquireTokens c l os).updLane c.uid l fun ln => ln.consume c.rrb os

/-- The lanes of an instruction by how they stand: faults, the first wait, the lanes that are ready. -/
structure Stand where
  faults : List LFault
  wait : Option WaitKind
  deriving DecidableEq, Repr

/-- A wait to which the limit applies (04_cluster_store.md R86). -/
def WaitKind.limited : WaitKind → Bool
  | .reg | .sync | .barwait => true
  | _ => false

/-- What several lanes wait for: a wait to which the limit applies before one to which it does not, so that the path's wait is
limited where one of its lanes' is (R86), else what the lowest of them waits for. -/
def WaitKind.join (w : Option WaitKind) (k : WaitKind) : Option WaitKind :=
  match w with
  | none => some k
  | some x => if !x.limited && k.limited then some k else some x

/-- How the active lanes stand (R121). -/
def State.stand (s : State) (c : Ctx) (os : List Opnd) (ps : List PReg) (ds : List GReg) : Stand :=
  (Mask.list c.act).foldl (fun r l =>
    match s.ready c l os ps ds with
    | .ok => r
    | .wait k => { r with wait := WaitKind.join r.wait k }
    | .fault x ue t => { r with faults := r.faults ++ [⟨l, x, t, ue, none⟩] }
    | .due d => { r with faults := r.faults ++ [dueLFault l d] }) ⟨[], none⟩

/-! ### An instruction on registers alone (10_isa_lane.md R209) -/

/-- What one lane writes: registers, predicates, flags of R145, a uniform register; or its fault. -/
structure LaneOut where
  regs : List (GReg × Word) := []
  preds : List (PReg × Bool) := []
  flags : BitVec 6 := 0
  fault : Option (BitVec 8 × DWord) := none
  /-- A uniform register, written by the one lane that gives it (R116). -/
  uni : Option (SReg × DWord) := none
  deriving DecidableEq, Repr

/-- Writing a 32-bit result. -/
def out1 (d : GReg) (v : Word) : LaneOut := { regs := [(d, v)] }
/-- Writing a 64-bit result into a pair. -/
def out2 (d : GReg) (v : DWord) : LaneOut := { regs := [(d, lo32 v), (d + 1, hi32 v)] }
/-- Writing a result of an integer type. -/
def outT (t : ITy) (d : GReg) (v : DWord) : LaneOut := if t.is64 then out2 d v else out1 d (lo32 v)
/-- Writing a predicate. -/
def outP (d : PReg) (b : Bool) : LaneOut := { preds := [(d, b)] }
/-- A lane's fault. -/
def outF (cause : BitVec 8) (tval : DWord := 0) : LaneOut := { fault := some (cause, tval) }

/-- The cause of an enabled flag (07_number_formats.md R146): the first of NV, DZ, OF, UF, NX, SAT that is both raised and
enabled. -/
def flagCause (fpctl : DWord) (flags : BitVec 6) : Option (BitVec 8) :=
  ((List.range 6).find? fun i => flags.getLsbD i && fpctl.getLsbD (8 + i)).map fun i => 0x80 + BitVec.ofNat 8 i

/-- Applying a lane's writes: consumes, then destinations (R119). -/
def Lane.write (ln : Lane) (rrb : BitVec 4) (os : List Opnd) (o : LaneOut) : Lane :=
  let ln := ln.consume rrb os
  let ln := o.regs.foldl (fun ln x => ln.setReg (physG rrb x.1) x.2) ln
  o.preds.foldl (fun ln x => ln.setPred rrb x.1 x.2) ln

/-- ORing flags into `FPFLAGS` (R145). -/
def Agent.orFlags (a : Agent) (f : BitVec 6) : Agent := { a with fpflags := a.fpflags ||| f.setWidth 64 }

/-- Writing a uniform register, if any. -/
def Agent.writeUni (a : Agent) (act : Bool) (u : Option (SReg × DWord)) : Agent :=
  match u with
  | some x => a.setSreg act x.1 x.2
  | none => a

/-- A lane with no fault of its own traps by an enabled flag (R146). -/
def LaneOut.trapped (o : LaneOut) (fpctl : DWord) : LaneOut :=
  match o.fault with
  | some _ => o
  | none => match flagCause fpctl o.flags with
            | some k => { o with fault := some (k, o.flags.setWidth 64) }
            | none => o

/-- Applying a lane's result to its unit; a lane that faults writes nothing. -/
def State.putOut (s : State) (c : Ctx) (os : List Opnd) (l : Nat) (o : LaneOut) : State :=
  match o.fault with
  | some _ => s
  | none => s.updAgent c.uid fun a =>
    (((a.acquireTokens c l os).updLane l fun ln => ln.write c.rrb os o).orFlags o.flags).writeUni c.p.act o.uni

/-- Some lanes fault, and no lane of the instruction completes: it is the last of the current loop's body in a warp
(16_loops.md R351), or the split needs a stack record that is not there (19_traps.md R419). -/
def Ctx.noneCompletes (c : Ctx) (fs : List LFault) : Bool :=
  !fs.isEmpty && c.a.wide &&
    (c.a.atEnd c.p.act c.npc ||
      (!c.p.act && !c.a.leaves && decide (c.a.room c.b < splitNeeds fs (c.p.mask &&& ~~~(faultMask fs)) 0 (c.a.otherAct c.b))))

/-- A register instruction: every active lane's sources are read, then the lanes' results are written; a lane whose flag
is enabled traps and writes nothing (R146). `f` is given the inputs of the active lanes, for the cross-lane forms; an active
lane that itself faults on its operands (0x40, 0x45, 0x26) gives the others nothing, as if it were inactive (DESIGN CHOICE,
log entry 59). -/
def laneExec (os : List Opnd) (ps : List PReg) (ds : List GReg)
    (f : Ctx → List (Nat × LaneIn) → Nat → LaneIn → LaneOut) (c : Ctx) (s : State) : State :=
  let st := s.stand c os ps ds
  match st.faults, st.wait with
  | [], some k => s.waitFor c k
  | fs, some k => s.faultSome c fs (some k)
  | fs, none =>
    let good := (Mask.list c.act).filter fun l => fs.all fun x => x.lane != l
    let tbl := good.map fun l => (l, c.inputs l os ps)
    let outs := tbl.map fun x => (x.1, (f c tbl x.1 x.2).trapped c.a.fpctl)
    let fs2 := outs.filterMap fun x => x.2.fault.map fun y => (⟨x.1, y.1, y.2, 0, none⟩ : LFault)
    let all := fs ++ fs2
    let put (s : State) : State := outs.foldl (fun s x => s.putOut c os x.1 x.2) s
    if all.isEmpty then s.completeWith c put
    else (if c.noneCompletes all then s else put s).faultSome c all none

/-- An instruction that needs a uniform register to which a load is in flight (06_registers.md R116): its lanes' operands are
met first (R121), then it waits. -/
def busyExec (busy : Ctx → State → Bool) (os : List Opnd) (once : Bool) (k : Ctx → State → State) (c : Ctx) (s : State) :
    State :=
  if !busy c s then k c s
  else
    let c' := if once then { c with act := laneBit (Mask.lowest c.act) } else c
    let st := s.stand c' os [] []
    match st.faults, st.wait with
    | [], w => s.waitFor c (w.getD .order)
    | f :: fs, _ => if once then s.faultAll c f.cause f.tval f.ue f.due else s.faultSome c (f :: fs) (some .order)

/-! ### An instruction that meets the rest of the device -/

/-- What a lane's checks answer. -/
inductive Chk (β : Type) where
  | ok (b : β)
  | wait (k : WaitKind)
  | fault (cause : BitVec 8) (tval : DWord) (ue : BitVec 2)
  /-- A due fault is delivered, or the overflow where there is none (05_engines.md R108). -/
  | due (d : Option DueFault)

/-- The results of the walks of one path of a unit are used up (01_main_memory.md R32). -/
def State.clearWalkFaults (s : State) (uid : Nat) (lanes : Mask := BitVec.allOnes 32) : State :=
  { s with walkFaults := s.walkFaults.filter fun f => !(f.uid == uid && lanes.getLsbD f.lane) }

/-- What walks have answered, or will answer, to a path of which some lanes leave is kept for the lanes that stay
(01_main_memory.md R32). -/
def State.moveWalks (s : State) (uid : Nat) (m : Mask) (fs : List LFault) : State :=
  let l := Mask.lowest (m &&& ~~~(Mask.ofList (fs.map (·.lane))))
  let move (u k : Nat) : Nat := if u = uid ∧ m.getLsbD k then l else k
  { s with walkFaults := s.walkFaults.map fun f => { f with lane := move f.uid f.lane },
           walks := s.walks.map fun w => { w with waiters := w.waiters.map fun x => (x.1, move x.1 x.2.1, x.2.2) } }

/-- The checks of some lanes, one after another: the lanes that passed with what they answer, the faults, the first wait. -/
def checkLanes {β : Type} (check : State → Nat → State × Chk β) (ls : List Nat) (s : State) :
    State × List (Nat × β) × List LFault × Option WaitKind :=
  ls.foldl (fun r l =>
    match check r.1 l with
    | (s, .ok b) => (s, r.2.1 ++ [(l, b)], r.2.2.1, r.2.2.2)
    | (s, .wait k) => (s, r.2.1, r.2.2.1, WaitKind.join r.2.2.2 k)
    | (s, .fault x t u) => (s, r.2.1, r.2.2.1 ++ [⟨l, x, t, u, none⟩], r.2.2.2)
    | (s, .due d) => (s, r.2.1, r.2.2.1 ++ [dueLFault l d], r.2.2.2)) (s, [], [], none)

/-- An instruction of lanes in two phases: every active lane reads its sources and makes its checks, which may start
walks; once none has to wait, the lanes that passed perform, in ascending order (13_isa_return.md R290), and faulting
lanes go to their handler. `ds` are destinations whose pending producer is waited for. Performing consumes the sources. -/
def memExec {β : Type} (os : List Opnd) (ps : List PReg) (ds : List GReg)
    (check : Ctx → State → Nat → LaneIn → State × Chk β)
    (perform : Ctx → State → Nat → β → State) (c : Ctx) (s : State) : State :=
  let st := s.stand c os ps ds
  match st.faults, st.wait with
  | [], some k => s.waitFor c k
  | fs, some k => s.faultSome c fs (some k)
  | fs, none =>
    let good := (Mask.list c.act).filter fun l => fs.all fun x => x.lane != l
    let r := checkLanes (fun s l => check c s l (c.inputs l os ps)) good s
    let all := fs ++ r.2.2.1
    match r.2.2.2 with
    | some k => if all.isEmpty then r.1.waitFor c k else (r.1.moveWalks c.uid c.p.mask all).faultSome c all (some k)
    | none =>
      let put (s : State) : State := (r.2.1.foldl (fun s x => perform c (s.consumeOps c x.1 os) x.1 x.2) s).clearWalkFaults c.uid c.p.mask
        |>.noteFlight c.uid s.nextId c.p.mask
      if all.isEmpty then r.1.completeWith c put
      else (if c.noneCompletes all then r.1.clearWalkFaults c.uid c.p.mask else put r.1).faultSome c all none

/-- An instruction performed once for the warp, with the operands of the lowest active lane; a cause is taken by every
active lane together (17_isa_control.md R364, 11_isa_tiles.md R245). -/
def onceExec {β : Type} (os : List Opnd) (ds : List GReg)
    (check : Ctx → State → Nat → LaneIn → State × Chk β)
    (perform : Ctx → State → Nat → β → State) (c : Ctx) (s : State) : State :=
  let l := Mask.lowest c.act
  match s.ready c l os [] ds with
  | .wait k => s.waitFor c k
  | .fault x ue t => s.faultAll c x t ue
  | .due d =>
    let f := dueLFault l d
    s.faultAll c f.cause f.tval 0 f.due
  | .ok =>
    match check c s l (c.inputs l os []) with
    | (s, .wait k) => s.waitFor c k
    | (s, .fault x t ue) => (s.clearWalkFaults c.uid c.p.mask).faultAll c x t ue
    | (s, .due d) => let f := dueLFault l d; s.faultAll c f.cause f.tval 0 f.due
    | (s, .ok b) =>
      (s.clearWalkFaults c.uid c.p.mask).completeWith c fun s => perform c (s.consumeOps c l os) l b

end Sys2Proof.Machine
end

