-- ==== Sys2Proof/Machine/Formats.lean ====
section
/-! DEFINITION. The element formats of 07_number_formats.md: decoding a value, rounding an exact value into a format with
its flags, the special functions by exact comparison or by an enclosure, and the UE5M3 scale. -/

namespace Sys2Proof.Machine

/-! ### Formats (R134) -/

/-- A signed floating format: exponent bits, mantissa bits, bias, code of the largest finite magnitude, whether it has
infinities. -/
structure Fmt where
  eb : Nat
  mb : Nat
  bias : Int
  top : Nat
  inf : Bool
  deriving DecidableEq, Repr

/-- The format of a floating type (R134); the integer types are given binary32, which nothing reads. -/
def fmt : Ty → Fmt
  | .f16 => ⟨5, 10, 15, 0x7BFF, true⟩
  | .bf16 => ⟨8, 7, 127, 0x7F7F, true⟩
  | .e4m3 => ⟨4, 3, 7, 0x7E, false⟩
  | .e5m2 => ⟨5, 2, 15, 0x7B, true⟩
  | .e2m1 => ⟨2, 1, 1, 0x7, false⟩
  | _ => ⟨8, 23, 127, 0x7F7FFFFF, true⟩

/-- A value of a floating format: a finite one is (−1)^neg × m × 2^e. -/
inductive FV where
  | nan (sig : Bool)
  | inf (neg : Bool)
  | fin (neg : Bool) (m : Nat) (e : Int)
  deriving DecidableEq, Repr

/-- The value of the bits of a floating type (R134, R136, R139). -/
def decodeF (t : Ty) (bits : Nat) : FV :=
  let f := fmt t
  let mf := bits % 2 ^ f.mb
  let ef := bits / 2 ^ f.mb % 2 ^ f.eb
  let neg := bits / 2 ^ (f.mb + f.eb) % 2 == 1
  let last := ef + 1 = 2 ^ f.eb
  if f.inf ∧ last then
    if mf = 0 then .inf neg else .nan (decide (mf < 2 ^ (f.mb - 1)) && 10 ≤ f.mb + f.eb)
  else if t = .e4m3 ∧ last ∧ mf = 7 then .nan false
  else if ef = 0 then .fin neg mf (1 - f.bias - f.mb)
  else .fin neg (2 ^ f.mb + mf) (ef - f.bias - f.mb)

/-- The canonical NaN of a format (R139); E2M1 has none and gives +0 (R142). -/
def canonNaN : Ty → Nat
  | .f16 => 0x7E00
  | .bf16 => 0x7FC0
  | .e5m2 => 0x7E
  | .e4m3 => 0x7F
  | .e2m1 => 0
  | _ => 0x7FC00000

/-- The bits with a sign. -/
def withSign (t : Ty) (neg : Bool) (mag : Nat) : Nat :=
  if neg then mag + 2 ^ ((fmt t).mb + (fmt t).eb) else mag

/-- The infinity of a format that has one. -/
def infBits (t : Ty) (neg : Bool) : Nat := withSign t neg ((2 ^ (fmt t).eb - 1) * 2 ^ (fmt t).mb)

/-- The largest finite magnitude with a sign. -/
def maxBits (t : Ty) (neg : Bool) : Nat := withSign t neg (fmt t).top

/-! ### The flags of R145 -/

/-- NV. -/
def fNV : BitVec 6 := 0x01
/-- DZ. -/
def fDZ : BitVec 6 := 0x02
/-- OF. -/
def fOF : BitVec 6 := 0x04
/-- UF. -/
def fUF : BitVec 6 := 0x08
/-- NX. -/
def fNX : BitVec 6 := 0x10
/-- SAT. -/
def fSAT : BitVec 6 := 0x20

/-- A flag raised when a condition holds. -/
def flagIf (b : Bool) (f : BitVec 6) : BitVec 6 := if b then f else 0

/-! ### Rounding (R141) -/

/-- The rounding modes. -/
inductive RM where
  | ne | tz | dn | up
  deriving DecidableEq, Repr

/-- `FPCTL.RM` (R144). -/
def fpctlRM (fpctl : DWord) : RM :=
  match (fpctl.extractLsb' 0 2).toNat with
  | 0 => .ne
  | 1 => .tz
  | 2 => .dn
  | _ => .up

/-- The mode of an operation with a RND field (R141, R162). -/
def Rnd.mode (r : Rnd) (fpctl : DWord) : RM :=
  match r with
  | .dyn => fpctlRM fpctl
  | .rn => .ne
  | .rz => .tz
  | .rd => .dn
  | .ru => .up

/-- An exact non-zero magnitude, or its enclosure: with `st` false it is m × 2^e, with `st` true it lies strictly between
m × 2^e and (m + 1) × 2^e. -/
structure Mag where
  m : Nat
  e : Int
  st : Bool
  deriving DecidableEq, Repr

/-- Rounding a magnitude to a multiple of 2^q: the multiple, and whether it is inexact. Where the magnitude is finer than
its own unit (`st` with q ≤ e) the unit itself is the multiple; the callers give enough bits for this not to occur. -/
def roundAt (mode : RM) (neg : Bool) (x : Mag) (q : Int) : Nat × Bool :=
  if q ≤ x.e then (x.m * 2 ^ (x.e - q).toNat, x.st)
  else
    let sh := (q - x.e).toNat
    let n := x.m / 2 ^ sh
    let rem := x.m % 2 ^ sh
    let half := 2 ^ (sh - 1)
    let inex := decide (rem ≠ 0) || x.st
    let up := match mode with
      | .ne => decide (half < rem) || (decide (rem = half) && (x.st || n % 2 == 1))
      | .tz => false
      | .dn => neg && inex
      | .up => !neg && inex
    (if up then n + 1 else n, inex)

/-- Bits and flags of a result. -/
structure FRes where
  bits : Nat
  flags : BitVec 6
  deriving DecidableEq, Repr

/-- What overflow gives (R142). -/
def overflow (t : Ty) (mode : RM) (sat neg : Bool) : Nat :=
  if sat then maxBits t neg
  else if t = .e4m3 then canonNaN .e4m3
  else if t = .e2m1 then maxBits t neg
  else
    let toMax := match mode with
      | .ne => false
      | .tz => true
      | .dn => !neg
      | .up => neg
    if toMax then maxBits t neg else infBits t neg

/-- Rounding a non-zero exact value into a format, with the flags OF, NX, UF (R141, R142, R145). -/
def roundF (t : Ty) (mode : RM) (sat neg : Bool) (x : Mag) : FRes :=
  let f := fmt t
  let E : Int := x.e + Nat.log2 x.m
  let qmin : Int := 1 - f.bias - f.mb
  let qu : Int := E - f.mb
  let q := if qu < qmin then qmin else qu
  let r := roundAt mode neg x q
  -- the largest finite magnitude as a multiple of 2^q
  let topM := f.top % 2 ^ f.mb + 2 ^ f.mb
  let topE : Int := ((f.top / 2 ^ f.mb : Nat) : Int) - f.bias - f.mb
  let above := if q ≤ topE then decide (topM * 2 ^ (topE - q).toNat < r.1)
    else decide (topM < r.1 * 2 ^ (q - topE).toNat)
  if above then ⟨overflow t mode sat neg, fOF ||| fNX⟩
  else
    let u := roundAt mode neg x qu
    -- tiny: rounded with an unbounded exponent, below 2^(1 - bias)
    let tiny := if qu < 1 - f.bias then decide (u.1 < 2 ^ (1 - f.bias - qu).toNat) else false
    let mag := if r.1 < 2 ^ f.mb then r.1
      else if r.1 < 2 ^ (f.mb + 1) then ((q + f.mb + f.bias).toNat) * 2 ^ f.mb + (r.1 - 2 ^ f.mb)
      else ((q + 1 + f.mb + f.bias).toNat) * 2 ^ f.mb
    ⟨withSign t neg mag, flagIf r.2 fNX ||| flagIf (r.2 && tiny) fUF⟩

/-- The exact outcome of a floating operation. -/
inductive XR where
  /-- A NaN; whether NV is raised. -/
  | nan (nv : Bool)
  /-- An infinity; `dz` where it is an exact infinity of finite operands (R478). -/
  | inf (neg dz : Bool)
  | zero (neg : Bool)
  | mag (neg : Bool) (x : Mag)
  deriving DecidableEq, Repr

/-- The result of an exact outcome in a format (R139, R142, R478); `fl` are flags of the operands. -/
def finish (t : Ty) (mode : RM) (sat : Bool) (fl : BitVec 6) (r : XR) : FRes :=
  match r with
  | .nan nv => ⟨canonNaN t, fl ||| flagIf (nv || t = .e2m1) fNV⟩
  | .inf neg dz =>
    if sat then ⟨maxBits t neg, fl ||| (if dz then fDZ else fNV)⟩
    else if t = .e4m3 then ⟨canonNaN t, fl ||| fNV⟩
    else if t = .e2m1 then ⟨maxBits t neg, fl ||| fNV⟩
    else ⟨infBits t neg, fl ||| flagIf dz fDZ⟩
  | .zero neg => ⟨withSign t neg 0, fl⟩
  | .mag neg x =>
    let o := roundF t mode sat neg x
    ⟨o.bits, fl ||| o.flags⟩

/-! ### Exact arithmetic -/

/-- A signed dyadic number v × 2^e. -/
structure Dy where
  v : Int
  e : Int
  deriving DecidableEq, Repr

/-- The number of a finite value. -/
def dyOf (neg : Bool) (m : Nat) (e : Int) : Dy := ⟨if neg then -(m : Int) else m, e⟩

/-- The exact sum. -/
def Dy.add (a b : Dy) : Dy :=
  if a.e ≤ b.e then ⟨a.v + b.v * 2 ^ (b.e - a.e).toNat, a.e⟩ else ⟨a.v * 2 ^ (a.e - b.e).toNat + b.v, b.e⟩

/-- The exact product. -/
def Dy.mul (a b : Dy) : Dy := ⟨a.v * b.v, a.e + b.e⟩

/-- Comparing two numbers: negative, zero or positive as a − b. -/
def Dy.cmp (a b : Dy) : Int := (a.add ⟨-b.v, b.e⟩).v

/-- The outcome of an exact number; `zneg` is the sign of an exact zero. -/
def Dy.out (a : Dy) (zneg : Bool) : XR :=
  if a.v = 0 then .zero zneg else .mag (decide (a.v < 0)) ⟨a.v.natAbs, a.e, false⟩

/-- A signalling NaN operand. -/
def FV.isSig : FV → Bool
  | .nan s => s
  | _ => false

/-- The sign of an exact zero sum of two addends (R140). -/
def zeroSign (mode : RM) (na za nb zb : Bool) : Bool :=
  if za && zb && na == nb then na else mode == .dn

/-- a + b (R139, R140, R145). -/
def addX (mode : RM) (a b : FV) : XR :=
  match a, b with
  | .nan s, y => .nan (s || y.isSig)
  | x, .nan s => .nan (x.isSig || s)
  | .inf n, .inf k => if n == k then .inf n false else .nan true
  | .inf n, .fin .. => .inf n false
  | .fin .., .inf n => .inf n false
  | .fin na ma ea, .fin nb mb eb =>
    ((dyOf na ma ea).add (dyOf nb mb eb)).out (zeroSign mode na (ma == 0) nb (mb == 0))

/-- The negative of a value. -/
def FV.neg : FV → FV
  | .nan s => .nan s
  | .inf n => .inf (!n)
  | .fin n m e => .fin (!n) m e

/-- a × b. -/
def mulX (a b : FV) : XR :=
  match a, b with
  | .nan s, y => .nan (s || y.isSig)
  | x, .nan s => .nan (x.isSig || s)
  | .inf n, .inf k => .inf (n != k) false
  | .inf n, .fin k m _ => if m = 0 then .nan true else .inf (n != k) false
  | .fin n m _, .inf k => if m = 0 then .nan true else .inf (n != k) false
  | .fin na ma ea, .fin nb mb eb => ((dyOf na ma ea).mul (dyOf nb mb eb)).out (na != nb)

/-- a × b + c, rounded once (10_isa_lane.md R225). -/
def fmaX (mode : RM) (a b c : FV) : XR :=
  let sig := a.isSig || b.isSig || c.isSig
  match mulX a b with
  | .nan nv => .nan (nv || sig)
  | .inf n _ =>
    match c with
    | .nan s => .nan s
    | .inf k => if n == k then .inf n false else .nan true
    | .fin .. => .inf n false
  | .zero n =>
    match c with
    | .nan s => .nan s
    | .inf k => .inf k false
    | .fin k m e => (dyOf k m e).out (zeroSign mode n true k (m == 0))
  | .mag n x =>
    match c with
    | .nan s => .nan s
    | .inf k => .inf k false
    | .fin k m e => ((dyOf n x.m x.e).add (dyOf k m e)).out (mode == .dn)

/-- Total order of two non-NaN values with −0 below +0 (R140): the key to compare. -/
def FV.less (a b : FV) : Bool :=
  match a, b with
  | .nan _, _ => false
  | _, .nan _ => false
  | .inf n, .inf k => n && !k
  | .inf n, .fin .. => n
  | .fin .., .inf k => !k
  | .fin na ma ea, .fin nb mb eb =>
    let c := (dyOf na ma ea).cmp (dyOf nb mb eb)
    decide (c < 0) || (decide (c = 0) && na && !nb)

/-- Numeric comparison of two non-NaN values: −1, 0 or 1. -/
def FV.numCmp (a b : FV) : Int :=
  match a, b with
  | .nan _, _ => 0
  | _, .nan _ => 0
  | .inf n, .inf k => if n == k then 0 else if n then -1 else 1
  | .inf n, .fin .. => if n then -1 else 1
  | .fin .., .inf k => if k then 1 else -1
  | .fin na ma ea, .fin nb mb eb => ((dyOf na ma ea).cmp (dyOf nb mb eb)).sign

/-- The value is a NaN. -/
def FV.isNaN : FV → Bool
  | .nan _ => true
  | _ => false

/-- minimumNumber and maximumNumber on bits (R140, 10_isa_lane.md R224). -/
def minmaxF (t : Ty) (max : Bool) (x y : Nat) : FRes :=
  let a := decodeF t x
  let b := decodeF t y
  let fl := flagIf (a.isSig || b.isSig) fNV
  match a.isNaN, b.isNaN with
  | true, true => ⟨canonNaN t, fl⟩
  | true, false => ⟨y, fl⟩
  | false, true => ⟨x, fl⟩
  | false, false => ⟨if (a.less b) != max then x else y, fl⟩

/-! ### Quotients and roots -/

/-- The integer square root, by bits from the top: the largest r with r² ≤ n, where n < 4^fuel. -/
def isqrtAux (n : Nat) : Nat → Nat → Nat
  | 0, r => r
  | k + 1, r =>
    let c := r + 2 ^ k
    isqrtAux n k (if c * c ≤ n then c else r)

/-- The integer square root. -/
def isqrt (n : Nat) : Nat := isqrtAux n (Nat.log2 n / 2 + 1) 0

/-- The magnitude of a quotient p × 2^e / q, with at least `bits` bits. -/
def quotMag (p q : Nat) (e : Int) (bits : Nat) : Mag :=
  let sh := bits + Nat.log2 q + 1
  let n := p * 2 ^ sh
  ⟨n / q, e - sh, decide (n % q ≠ 0)⟩

/-- The magnitude of the root of m × 2^e. -/
def sqrtMag (m : Nat) (e : Int) : Mag :=
  let sh : Nat := 80 + (if (e - 80) % 2 = 0 then 0 else 1)
  let n := m * 2 ^ sh
  let r := isqrt n
  ⟨r, (e - sh) / 2, decide (r * r ≠ n)⟩

/-- 1 / a (R148). -/
def rcpX (a : FV) : XR :=
  match a with
  | .nan s => .nan s
  | .inf n => .zero n
  | .fin n m e => if m = 0 then .inf n true else .mag n (quotMag 1 m (-e) 80)

/-- √a (R148). -/
def sqrtX (a : FV) : XR :=
  match a with
  | .nan s => .nan s
  | .inf n => if n then .nan true else .inf false false
  | .fin n m e => if m = 0 then .zero n else if n then .nan true else .mag false (sqrtMag m e)

/-- 1 / √a (R148): the root of 2^k / m, taken with 200 bits so that an inexact quotient cannot reach a square. -/
def rsqX (a : FV) : XR :=
  match a with
  | .nan s => .nan s
  | .inf n => if n then .nan true else .zero false
  | .fin n m e =>
    if m = 0 then .inf n true
    else if n then .nan true
    else
      -- 1/(m·2^e) = 2^(-e)/m; choose an even shift
      let k : Nat := 240 + (if (-e - 240) % 2 = 0 then 0 else 1)
      let q := 2 ^ k / m
      let r := isqrt q
      .mag false ⟨r, (-e - k) / 2, decide (r * r * m ≠ 2 ^ k)⟩

/-! ### Base-2 exponential and logarithm by enclosure (R148)

A value between two neighbouring multiples of 2^-300 rounds to what both bounds round to; every result that is not exact is
irrational, so `st` holds. Where the bounds round apart, which no binary32 operand reaches, the lower bound is used. -/

/-- Bits of the fixed point. -/
def fpBits : Nat := 300
/-- One. -/
def fpOne : Nat := 2 ^ fpBits

/-- The terms z + z³/3 + z⁵/5 + … of atanh, each rounded down: `zk` is the power, `z2` the square. -/
def atanhSum (z2 : Nat) : Nat → Nat → Nat → Nat
  | 0, _, _ => 0
  | n + 1, k, zk => zk / (2 * k + 1) + atanhSum z2 n (k + 1) (zk * z2 / fpOne)

/-- atanh of a fixed-point number at most 1/3, low by less than 2^10 units. -/
def atanhLo (z : Nat) : Nat := atanhSum (z * z / fpOne) 110 0 z

/-- ln 2 = 2 atanh(1/3), low by less than 2^11 units. -/
def ln2Lo : Nat := 2 * atanhLo (fpOne / 3)

/-- The terms of exp from term k, each rounded down. -/
def expSum (x : Nat) : Nat → Nat → Nat → Nat
  | 0, _, _ => 0
  | n + 1, k, t => t + expSum x n (k + 1) (t * x / fpOne / (k + 1))

/-- 2^f for a fixed-point f below 1, low by less than 2^14 units. -/
def exp2Lo (f : Nat) : Nat := expSum (f * ln2Lo / fpOne) 90 0 fpOne

/-- Rounding an enclosure: both bounds are rounded and the lower is taken; they agree. -/
def enclose (lo : Nat) (e : Int) : Mag := ⟨lo, e, true⟩

/-- log2 of m × 2^(−L) in [1, 2), in units of 2^-300: ln / ln 2. The error is below 2^14 units either way. -/
def log2Frac (m L : Nat) : Nat :=
  let num := (m - 2 ^ L) * fpOne / (m + 2 ^ L)
  2 * atanhLo num * fpOne / ln2Lo

/-- 2^a (R148). -/
def exp2X (a : FV) : XR :=
  match a with
  | .nan s => .nan s
  | .inf n => if n then .zero false else .inf false false
  | .fin n m e =>
    if m = 0 then .mag false ⟨1, 0, false⟩
    else
      -- magnitudes of 2^9 and more overflow or vanish whatever the fraction
      let E := e + Nat.log2 m
      if 9 ≤ E then (if n then .mag false ⟨2 ^ 60, -460, true⟩ else .mag false ⟨2 ^ 60, 460, true⟩)
      else
        let v : Int := if n then -(m : Int) else m
        let ip : Int := if 0 ≤ e then v * 2 ^ e.toNat else v / 2 ^ (-e).toNat
        let fr : Nat := if 0 ≤ e then 0 else (v - ip * 2 ^ (-e).toNat).toNat
        if fr = 0 then .mag false ⟨1, ip, false⟩
        else
          let f := if (-e).toNat ≤ fpBits then fr * 2 ^ (fpBits - (-e).toNat) else fr / 2 ^ ((-e).toNat - fpBits)
          .mag false (enclose (exp2Lo f) (ip - fpBits))

/-- log2 a (R148). -/
def log2X (a : FV) : XR :=
  match a with
  | .nan s => .nan s
  | .inf n => if n then .nan true else .inf false false
  | .fin n m e =>
    if m = 0 then .inf true true
    else if n then .nan true
    else
      let L := Nat.log2 m
      let E : Int := e + L
      if m = 2 ^ L then (⟨E, 0⟩ : Dy).out false
      else
        let v : Int := E * fpOne + log2Frac m L
        -- v rounds toward minus infinity; the magnitude of a negative value is its bound from below plus one unit
        if 0 ≤ v then .mag false (enclose v.natAbs (-(fpBits : Int))) else .mag true (enclose (v.natAbs - 1) (-(fpBits : Int)))

/-! ### Scales and integers -/

/-- The value of a UE5M3 code other than 0x00 and 0xFF (R137). -/
def scaleVal (c : Nat) : Dy := ⟨8 + c % 8, (c / 8 : Nat) - 15 - 3⟩

/-- Clamping an integer to a range. -/
def clamp (lo hi v : Int) : Int := if v < lo then lo else if hi < v then hi else v

/-- A signed integer type of R165. -/
def Ty.signed : Ty → Bool
  | .i32 | .i64 | .i16 | .i8 | .i4 => true
  | _ => false

/-- The lowest value of an integer type. -/
def Ty.imin (t : Ty) : Int := if Ty.signed t then -(2 ^ (t.width - 1)) else 0
/-- The highest value of an integer type. -/
def Ty.imax (t : Ty) : Int := if Ty.signed t then 2 ^ (t.width - 1) - 1 else 2 ^ t.width - 1

/-- The integer of bits of an integer type. -/
def Ty.intOf (t : Ty) (bits : Nat) : Int :=
  let b := bits % 2 ^ t.width
  if Ty.signed t && decide (2 ^ (t.width - 1) ≤ b) then (b : Int) - 2 ^ t.width else b

/-- The low bits of an integer. -/
def lowBits (w : Nat) (v : Int) : Nat := (v % (2 ^ w : Nat)).toNat

end Sys2Proof.Machine
end

