-- ==== Sys2Proof/Machine/Flags.lean ====
section
/-! DEFINITION. Results with their flags: binary32 arithmetic with source modifiers and `.sat`, comparisons, conversions of
every pair of types, packed blocks and sums (07_number_formats.md R139-R152), and the integer operations with
saturation (10_isa_lane.md R211). -/

namespace Sys2Proof.Machine

/-! ### Binary32 arithmetic -/

/-- The source modifiers: bit operations on an element of a type (R139, 08_encoding.md R162). -/
def FMod.apply (m : FMod) (t : Ty) (x : Nat) : Nat :=
  let b := 2 ^ ((fmt t).mb + (fmt t).eb)
  let y := if m.abs then x % b else x
  if m.neg then (if y / b % 2 = 1 then y - b else y + b) else y

/-- A binary32 result of an exact outcome. -/
def fres (mode : RM) (sat : Bool) (r : XR) : FRes := finish .f32 mode sat 0 r

/-- `FADD` (10_isa_lane.md R223). -/
def faddR (mode : RM) (sat : Bool) (x y : Nat) : FRes := fres mode sat (addX mode (decodeF .f32 x) (decodeF .f32 y))
/-- `FSUB`. -/
def fsubR (mode : RM) (sat : Bool) (x y : Nat) : FRes := fres mode sat (addX mode (decodeF .f32 x) (decodeF .f32 y).neg)
/-- `FMUL`. -/
def fmulR (mode : RM) (sat : Bool) (x y : Nat) : FRes := fres mode sat (mulX (decodeF .f32 x) (decodeF .f32 y))
/-- `FFMA` (R225). -/
def ffmaR (mode : RM) (sat : Bool) (x y z : Nat) : FRes :=
  fres mode sat (fmaX mode (decodeF .f32 x) (decodeF .f32 y) (decodeF .f32 z))
/-- `FRCP`. -/
def frcpR (mode : RM) (sat : Bool) (x : Nat) : FRes := fres mode sat (rcpX (decodeF .f32 x))
/-- `FRSQ`. -/
def frsqR (mode : RM) (sat : Bool) (x : Nat) : FRes := fres mode sat (rsqX (decodeF .f32 x))
/-- `FSQRT`. -/
def fsqrtR (mode : RM) (sat : Bool) (x : Nat) : FRes := fres mode sat (sqrtX (decodeF .f32 x))
/-- `FEXP2`. -/
def fexp2R (mode : RM) (sat : Bool) (x : Nat) : FRes := fres mode sat (exp2X (decodeF .f32 x))
/-- `FLOG2`. -/
def flog2R (mode : RM) (sat : Bool) (x : Nat) : FRes := fres mode sat (log2X (decodeF .f32 x))

/-- `FCMP` (R226): the predicate and NV. -/
def fcmpR (c : FCond) (x y : Nat) : Bool × BitVec 6 :=
  let a := decodeF .f32 x
  let b := decodeF .f32 y
  let un := a.isNaN || b.isNaN
  let k := a.numCmp b
  let r := match c with
    | .eq => !un && decide (k = 0)
    | .ne => un || decide (k ≠ 0)
    | .lt => !un && decide (k < 0)
    | .le => !un && decide (k ≤ 0)
    | .gt => !un && decide (0 < k)
    | .ge => !un && decide (0 ≤ k)
    | .un => un
    | .or => !un
  (r, flagIf (a.isSig || b.isSig) fNV)

/-! ### Conversions (10_isa_lane.md R227, R228; R143) -/

/-- Rounding a float to an integer type (R143). -/
def toInt (dt : Ty) (mode : RM) (sat : Bool) (v : FV) : FRes :=
  let out (neg : Bool) : FRes :=
    if sat then ⟨lowBits dt.width (if neg then Ty.imin dt else Ty.imax dt), fSAT⟩
    else ⟨if Ty.signed dt then 2 ^ (dt.width - 1) else 2 ^ dt.width - 1, fNV⟩
  match v with
  | .nan _ => ⟨0, fNV⟩
  | .inf neg => out neg
  | .fin neg m e =>
    if m = 0 then ⟨0, 0⟩
    else
      let r := roundAt mode neg ⟨m, e, false⟩ 0
      let i : Int := if neg then -(r.1 : Int) else r.1
      if i < Ty.imin dt ∨ Ty.imax dt < i then out neg else ⟨lowBits dt.width i, flagIf r.2 fNX⟩

/-- A float to a float type. -/
def toFloat (dt : Ty) (mode : RM) (sat : Bool) (v : FV) : FRes :=
  finish dt mode sat 0 (match v with
    | .nan s => .nan s
    | .inf n => .inf n false
    | .fin n m e => (dyOf n m e).out n)

/-- An element of `st` converted to `dt`: its low bits and the flags (R228). The source has its modifiers applied. -/
def convert (dt st : Ty) (mode : RM) (sat : Bool) (x : Nat) : FRes :=
  if st.isFloat then
    let v := decodeF st x
    if dt.isFloat then toFloat dt mode sat v else toInt dt mode sat v
  else
    let i := Ty.intOf st x
    if dt.isFloat then finish dt mode sat 0 ((⟨i, 0⟩ : Dy).out false)
    else if Ty.imin dt ≤ i ∧ i ≤ Ty.imax dt then ⟨lowBits dt.width i, 0⟩
    else if sat then ⟨lowBits dt.width (clamp (Ty.imin dt) (Ty.imax dt) i), fSAT⟩
    else ⟨lowBits dt.width i, 0⟩

/-- A narrow result extended to a register or a pair (R227). -/
def extend (t : Ty) (bits : Nat) : DWord :=
  if Ty.signed t && t.width < 32 then ((BitVec.ofInt 32 (Ty.intOf t bits)).setWidth 64)
  else BitVec.ofNat 64 bits

/-! ### Sums in blocks (R149-R151) -/

/-- What a block of products comes to: the exact sum, or a special value (R150). -/
def blockX (xs : List (FV × FV)) : XR :=
  let sig := xs.any fun x => x.1.isSig || x.2.isSig
  let ps := xs.map fun x => mulX x.1 x.2
  let zinf := xs.any fun x => match mulX x.1 x.2 with
    | .nan _ => !x.1.isNaN && !x.2.isNaN
    | _ => false
  if xs.any fun x => x.1.isNaN || x.2.isNaN then .nan (sig || zinf)
  else if zinf then .nan true
  else
    let pinf := ps.any fun p => match p with | .inf n _ => !n | _ => false
    let ninf := ps.any fun p => match p with | .inf n _ => n | _ => false
    if pinf && ninf then .nan true
    else if pinf then .inf false false
    else if ninf then .inf true false
    else
      let sum := ps.foldl (fun (a : Dy) p => match p with
        | .mag n x => a.add (dyOf n x.m x.e)
        | _ => a) (⟨0, 0⟩ : Dy)
      sum.out (!ps.isEmpty && ps.all fun p => match p with | .zero n => n | _ => false)

/-- A block's outcome times an exact positive factor. -/
def scaleX (r : XR) (k : Dy) : XR :=
  match r with
  | .mag n x => .mag n ⟨x.m * k.v.toNat, x.e + k.e, x.st⟩
  | r => r

/-- Adding a block to a binary32 accumulator: rounded to binary32, then added and rounded, nearest-even (R149). -/
def accF (acc : Nat) (s : XR) : FRes :=
  let b := fres .ne false s
  let r := faddR .ne false acc b.bits
  ⟨r.bits, b.flags ||| r.flags⟩

/-- Adding an exact integer to an int32 accumulator (R151). -/
def accI (acc : Word) (s : Int) : Word × BitVec 6 :=
  let v := acc.toInt + s
  let c := clamp (-(2 ^ 31)) (2 ^ 31 - 1) v
  (BitVec.ofInt 32 c, flagIf (decide (c ≠ v)) fSAT)

/-- Element `i` of packed elements of a type (R135). -/
def elem (t : Ty) (x i : Nat) : Nat := x / 2 ^ (t.width * i) % 2 ^ t.width

/-- `DOT4` and `DOT8` (10_isa_lane.md R231). -/
def dotR (t : Ty) (n : Nat) (a b c : Word) : FRes :=
  if t.isFloat then
    accF c.toNat (blockX ((List.range n).map fun i => (decodeF t (elem t a.toNat i), decodeF t (elem t b.toNat i))))
  else
    let s := (List.range n).foldl (fun s i => s + Ty.intOf t (elem t a.toNat i) * Ty.intOf t (elem t b.toNat i)) 0
    let r := accI c s
    ⟨r.1.toNat, r.2⟩

/-! ### Integers (10_isa_lane.md R211-R216) -/

/-- The element type of R165 of an integer type. -/
def ITy.ty : ITy → Ty
  | .i32 => .i32
  | .n32 => .n32
  | .i64 => .i64
  | .n64 => .n64

/-- The width of an integer type. -/
def ITy.width (t : ITy) : Nat := if t.is64 then 64 else 32

/-- A signed integer type. -/
def ITy.signed : ITy → Bool
  | .i32 | .i64 => true
  | .n32 | .n64 => false

/-- The integer of a source value. -/
def ITy.int (t : ITy) (v : DWord) : Int := Ty.intOf (ITy.ty t) v.toNat

/-- An exact result: wrapped, or clamped with SAT (R211). -/
def wrapI (t : ITy) (sat : Bool) (v : Int) : DWord × BitVec 6 :=
  let c := clamp (Ty.imin (ITy.ty t)) (Ty.imax (ITy.ty t)) v
  if sat then (BitVec.ofInt 64 c, flagIf (decide (c ≠ v)) fSAT) else (BitVec.ofInt 64 v, 0)

/-- A shift count (R213). -/
def shiftN (t : ITy) (b : Word) : Nat := if t.is64 then b.toNat % 64 else b.toNat % 32

/-- The low `w` bits of a value. -/
def lowT (t : ITy) (v : DWord) : DWord := if t.is64 then v else (lo32 v).setWidth 64

/-- The two-source operations of R213. -/
inductive IOp where
  | add | sub | mul | mulh | min | max | and | or | xor | andn | shl | shr | sar | rot
  deriving DecidableEq, Repr

/-- Their results; `b` holds the count of a shift. -/
def iopR (op : IOp) (t : ITy) (sat : Bool) (a b : DWord) : DWord × BitVec 6 :=
  let x := ITy.int t a
  let y := ITy.int t b
  let n := shiftN t (lo32 b)
  let w := ITy.width t
  let lo := lowT t a
  match op with
  | .add => wrapI t sat (x + y)
  | .sub => wrapI t sat (x - y)
  | .mul => wrapI t sat (x * y)
  | .mulh => (BitVec.ofInt 64 (x * y / 2 ^ w), 0)
  | .min => (if x ≤ y then a else b, 0)
  | .max => (if x ≤ y then b else a, 0)
  | .and => (a &&& b, 0)
  | .or => (a ||| b, 0)
  | .xor => (a ^^^ b, 0)
  | .andn => (a &&& ~~~b, 0)
  | .shl => (a <<< n, 0)
  | .shr => (lo >>> n, 0)
  | .sar => (BitVec.ofInt 64 ((if t.is64 then a.toInt else (lo32 a).toInt) / 2 ^ n), 0)
  | .rot => (if t.is64 then a.rotateLeft n else ((lo32 a).rotateLeft n).setWidth 64, 0)

/-- The one-source operations of R214. -/
inductive UOp where
  | not | neg | abs | clz | popc | brev | mov
  deriving DecidableEq, Repr

/-- Set bits below `w`. -/
def popcount (v : DWord) (w : Nat) : Nat := ((List.range w).filter fun i => v.getLsbD i).length

/-- Leading zero bits of `w` bits. -/
def clzN (v : DWord) (w : Nat) : Nat :=
  match (List.range w).reverse.find? fun i => v.getLsbD i with
  | some i => w - 1 - i
  | none => w

/-- Bit i moved to bit w − 1 − i. -/
def brevN (v : DWord) (w : Nat) : DWord :=
  (List.range w).foldl (fun r i => if v.getLsbD i then r ||| BitVec.ofNat 64 (2 ^ (w - 1 - i)) else r) 0

/-- Their results. -/
def uopR (op : UOp) (t : ITy) (sat : Bool) (a : DWord) : DWord × BitVec 6 :=
  let x := ITy.int t a
  match op with
  | .not => (~~~a, 0)
  | .neg => wrapI t sat (-x)
  | .abs => if ITy.signed t then wrapI t sat x.natAbs else (a, 0)
  | .clz => (BitVec.ofNat 64 (clzN a (ITy.width t)), 0)
  | .popc => (BitVec.ofNat 64 (popcount a (ITy.width t)), 0)
  | .brev => (brevN a (ITy.width t), 0)
  | .mov => (a, 0)

/-- `MAD` (R216). -/
def madR (t : ITy) (sat : Bool) (a b c : DWord) : DWord × BitVec 6 :=
  wrapI t sat (ITy.int t a * ITy.int t b + ITy.int t c)

/-- `DIV` and `REM` (R215). -/
def divR (rem : Bool) (t : ITy) (a b : DWord) : DWord :=
  let x := ITy.int t a
  let y := ITy.int t b
  if y = 0 then (if rem then a else BitVec.allOnes 64)
  else BitVec.ofInt 64 (if rem then x.tmod y else x.tdiv y)

/-- `CMP` (R221). -/
def cmpR (c : Cond) (t : ITy) (a b : DWord) : Bool :=
  let x := ITy.int t a
  let y := ITy.int t b
  match c with
  | .eq => decide (x = y)
  | .ne => decide (x ≠ y)
  | .lt => decide (x < y)
  | .le => decide (x ≤ y)
  | .gt => decide (y < x)
  | .ge => decide (y ≤ x)

/-! ### Element operations of atomics and reductions (13_isa_return.md R296, R299) -/

/-- The type of a floating reduction by its size. -/
def floatOf (size : Nat) : Ty := if size = 2 then .bf16 else .f32

/-- The new value of an element (R296; floats per R299, nearest-even, no flag). -/
def eopR (op : EOp) (size : Nat) (m v c : DWord) : DWord :=
  let w := 8 * size
  let mn := m.toNat % 2 ^ w
  let vn := v.toNat % 2 ^ w
  let sg (x : Nat) : Int := if 2 ^ (w - 1) ≤ x then (x : Int) - 2 ^ w else x
  match op with
  | .add => BitVec.ofNat 64 ((mn + vn) % 2 ^ w)
  | .and => m &&& v
  | .or => m ||| v
  | .xor => m ^^^ v
  | .mins => if sg mn ≤ sg vn then m else v
  | .maxs => if sg mn ≤ sg vn then v else m
  | .minu => if mn ≤ vn then m else v
  | .maxu => if mn ≤ vn then v else m
  | .xchg => v
  | .cas => if mn = c.toNat % 2 ^ w then v else m
  | .fadd => BitVec.ofNat 64 (finish (floatOf size) .ne false 0
      (addX .ne (decodeF (floatOf size) mn) (decodeF (floatOf size) vn))).bits
  | .fmin => BitVec.ofNat 64 (minmaxF (floatOf size) false mn vn).bits
  | .fmax => BitVec.ofNat 64 (minmaxF (floatOf size) true mn vn).bits

/-- The operation of an `ATOM`. -/
def AtomOp.eop : AtomOp → EOp
  | .add => .add
  | .and => .and
  | .or => .or
  | .xor => .xor
  | .mins => .mins
  | .maxs => .maxs
  | .minu => .minu
  | .maxu => .maxu
  | .xchg => .xchg
  | .cas => .cas

/-- The element operation of a `RED`. -/
def redEop (op : RedOp) (t : RedTy) : EOp :=
  let fl := t == .f32 || t == .bf16
  let sg := t == .i32 || t == .i64
  match op with
  | .add => if fl then .fadd else .add
  | .and => .and
  | .or => .or
  | .xor => .xor
  | .min => if fl then .fmin else if sg then .mins else .minu
  | .max => if fl then .fmax else if sg then .maxs else .maxu

end Sys2Proof.Machine
end

