-- ==== Sys2Proof/Machine/Lines.lean ====
section
/-! DEFINITION. Lines and homes: the physical map (01_main_memory.md R13-R16), the record of a line at its home, the
copies of a cluster, and the actions of a home one request at a time (02_lines_and_homes.md R38-R51). -/

namespace Sys2Proof.Machine

/-! ### The physical map -/

/-- The regions of R13. -/
inductive Region where
  | near | capacity | window | host | device
  deriving DecidableEq, Repr

/-- The region of a physical address; none where it lies in no region. -/
def regionOf (pa : Nat) : Option Region :=
  if pa < 0x006000000000 then some .near
  else if 0x010000000000 ≤ pa ∧ pa < 0x030000000000 then some .capacity
  else if 0x400000000000 ≤ pa ∧ pa < 0x800000000000 then some .window
  else if 0x800000000000 ≤ pa ∧ pa < 0xC00000000000 then some .host
  else if 0xF00000000000 ≤ pa ∧ pa < 0x1000000000000 then some .device
  else none

/-- A region whose lines have homes in this device (R13, R16). -/
def homed (pa : Nat) : Bool :=
  match regionOf pa with
  | some .near | some .capacity | some .host => true
  | _ => false

/-- The home slice of a line (R16). -/
def sliceOf (line : Nat) : Fin 128 :=
  let f (i : Nat) : BitVec 7 := BitVec.ofNat 7 (line / 2 ^ (i - 7))
  (f 7 ^^^ f 14 ^^^ f 21 ^^^ f 28 ^^^ f 35 ^^^ (f 42 &&& 0x3F)).toFin

/-! ### Event counters (24_security_power_health.md R476) -/

/-- The counters of a cluster, zero until something selects. -/
def State.evOf (s : State) (cluster : Nat) : EvCounters :=
  (s.evc.find? (·.cluster == cluster)).getD ⟨cluster, Vector.replicate 8 0, Vector.replicate 8 0⟩

/-- `n` events of a source in a cluster: every counter that selects it counts, saturating at 2^48 − 1. -/
def State.tally (s : State) (cluster src n : Nat) : State :=
  { s with evc := s.evc.map fun e =>
      if e.cluster = cluster then
        { e with cnt := Vector.ofFn fun i : Fin 8 =>
            if e.sel[i].getLsbD 8 ∧ (e.sel[i].extractLsb' 0 8).toNat = src then
              BitVec.ofNat 64 (min (e.cnt[i].toNat + n) (2 ^ 48 - 1))
            else e.cnt[i] }
      else e }

/-! ### The record of a line at its home -/

/-- The record of a line (02_lines_and_homes.md R38); a line whose stamps the slice has evicted gets `htime` when it next
reaches the slice (03_watch_table.md R62). -/
def State.homeOf (s : State) (line : Nat) : Home :=
  let h := sget Home.fresh line s.homes
  if h.evicted then { h with wts := s.htime[sliceOf line], rts := s.htime[sliceOf line], evicted := false } else h

/-- Writing a line's record. -/
def State.setHome (s : State) (line : Nat) (h : Home) : State := { s with homes := sput Home.fresh line h s.homes }

/-- Every stamp a home writes raises `htime` (R45). -/
def State.noteStamp (s : State) (line : Nat) (x : Stamp) : State :=
  { s with htime := s.htime.set (sliceOf line).val (smax s.htime[sliceOf line] x) (sliceOf line).isLt }

/-! ### Copies of a cluster -/

/-- A stamp that a cluster receives raises its `ctime` (R38). -/
def State.gotStamp (s : State) (cluster : Nat) (x : Stamp) : State := s.raiseCtime cluster (raise (s.ctimeOf cluster) x)

/-- The copy of a line in a cluster; none is I (R42). -/
def State.copyOf (s : State) (cluster line : Nat) : Option Copy :=
  s.copies.find? fun c => c.cluster == cluster && c.line == line

/-- Removing a copy. -/
def State.dropCopy (s : State) (cluster line : Nat) : State :=
  { s with copies := s.copies.filter fun c => !(c.cluster == cluster && c.line == line) }

/-- The cluster gives up its copy: an O copy by a write-back on its way to the home, a U copy never (R46). -/
def State.evict (s : State) (cluster line : Nat) : State :=
  match s.copyOf cluster line with
  | none => s
  | some c =>
    match c.st with
    | .L _ => s.dropCopy cluster line
    | .U .. => s
    | .O =>
      { s.dropCopy cluster line with
        reqs := s.reqs ++ [⟨s.nextId, .writeback c.data c.bad c.wts c.rts, cluster, 0, 0, line, 0, 0, c.wts, 0⟩],
        nextId := s.nextId + 1 }

/-- The bank of a line (04_cluster_store.md R71). -/
def bankOf (line : Nat) : Nat := (BitVec.ofNat 4 line ^^^ BitVec.ofNat 4 (line / 16)).toNat

/-- A bank of a cluster cache holds 2,048 lines (R71, 00_scope.md R2): one that is full gives up a line in L or O before it takes
another; which one is open (R46). -/
def State.makeRoom (s : State) (cluster line : Nat) : State :=
  let bank := s.copies.filter fun c => c.cluster == cluster && bankOf c.line == bankOf line
  if bank.length < 2048 || bank.any (·.line == line) then s
  else
    let out := bank.filter fun c => match c.st with | .U .. => false | _ => true
    let r := s.chooseNat out.length
    match out[r.1]? with
    | some c => r.2.evict cluster c.line
    | none => r.2

/-- Installing or replacing a copy, the newest last. -/
def State.setCopy (s : State) (c : Copy) : State :=
  let s := s.makeRoom c.cluster c.line
  { s with copies := (s.dropCopy c.cluster c.line).copies ++ [c] }

/-- Changing a copy in place. -/
def State.updCopy (s : State) (cluster line : Nat) (f : Copy → Copy) : State :=
  { s with copies := s.copies.map fun c => if c.cluster = cluster ∧ c.line = line then f c else c }

/-- The copy is owned. -/
def Copy.isO (c : Copy) : Bool := match c.st with | .O => true | _ => false
/-- The copy is update-only. -/
def Copy.isU (c : Copy) : Bool := match c.st with | .U .. => true | _ => false

/-! ### Recalls (R45, R48) -/

/-- An O copy goes back to the home, and its cluster keeps an L copy with its stamps; a poisoned L copy is dropped
(19_traps.md R429). -/
def State.surrender (s : State) (c : Copy) : State :=
  let h := s.homeOf c.line
  let s := if c.bad = 0 then s.updCopy c.cluster c.line fun c => { c with st := .L false } else s.dropCopy c.cluster c.line
  let s := { s with mem := putLine s.mem c.line c.data }
  let s := s.setHome c.line { h with owner := none, wts := c.wts, rts := c.rts, bad := c.bad }
  (s.noteStamp c.line c.wts).noteStamp c.line c.rts

/-- The outcome of a request at a home: an answer, or the line at which the home waits. -/
abbrev AtHome (α : Type) := Except Nat α

/-- Recalling the owner. The home waits while the owner's O copy is on the way to the cluster or from it. -/
def State.recallOwner (s : State) (line : Nat) : AtHome State :=
  match (s.homeOf line).owner with
  | none => .ok s
  | some k =>
    match s.copyOf k line with
    | some c => if c.isO then .ok (s.surrender c) else .error line
    | none => .error line

/-- Combining one partial into a line (R48); poison of a partial's bytes is kept apart. -/
def applyPartial (d : LineData) (p : Partial) : LineData :=
  let m := BitVec.ofNat 64 (ofBytes (lineBytes d p.off p.size))
  setLineBytes d p.off (toBytes p.size (eopR p.op p.size m p.val 0).toNat)

/-- Recalling one cluster's U copy: its partials are combined and the copy becomes I. -/
def State.recallU1 (s : State) (line k : Nat) (t : Option DWord) : State × Option DWord :=
  match s.copyOf k line with
  | some c =>
    match c.st with
    | .U ps mt =>
      let h := s.homeOf line
      let s := { s with mem := putLine s.mem line (ps.foldl applyPartial (lineAt s.mem line)) }
      let s := (s.dropCopy k line).setHome line { h with bad := h.bad ||| c.bad }
      (s.tally k 0x0C 1, if ps.isEmpty then t else some (match t with | some x => tmax x mt | none => mt))
    | _ => (s, t)
  | none => (s, t)

/-- Recalling every U copy in ascending cluster order; `wts` and `rts` become the greatest issuing time of the updates,
raised past `rts` (R48). Where no holder has combined an update nothing is written and the stamps stay: DESIGN CHOICE, log
entry 56. -/
def State.recallU (s : State) (line : Nat) : State :=
  let h := s.homeOf line
  if h.holders = 0 then s
  else
    let r := ((List.range 64).filter fun k => h.holders.getLsbD k).foldl
      (fun (r : State × Option DWord) k => r.1.recallU1 line k r.2) (s, none)
    let h' := r.1.homeOf line
    match r.2 with
    | none => r.1.setHome line { h' with holders := 0 }
    | some t =>
      let w : Stamp := (raise t (h.rts + 1)).extractLsb' 0 32
      (r.1.setHome line { h' with holders := 0, wts := w, rts := w }).noteStamp line w

/-- What every request but a write-back does first: the host's copy is snooped back before the home goes on
(23_host_and_links.md R461), the owner and the U copies are recalled. -/
def State.recallAll (s : State) (line : Nat) : AtHome State :=
  match s.recallOwner line with
  | .error l => .error l
  | .ok s => .ok (s.recallU line)

/-! ### The requests of R45, R47, R48, R60 -/

/-- What a home answers to a read. -/
structure ReadAns where
  data : LineData
  wts : Stamp
  e : Stamp
  bad : BitVec 8
  deriving DecidableEq, Repr

/-- A request of another number for the line has reached the home before and waits there: requests are served in arrival
order (R45). `me` is the number of the one that asks. -/
def State.lineHeld (s : State) (line : Nat) (me : Option Nat) : Bool :=
  match s.homeWait.find? fun x => x.1 == line && s.reqs.any (·.id == x.2) with
  | some x => me != some x.2
  | none => false

/-- A read or renewal at time t with length n: `rts` := smax(`rts`, t + n), the lease end e := smax(`wts`, t + n). -/
def State.homeReadAt (s : State) (line : Nat) (t : DWord) (n : Nat) (me : Option Nat := none) : AtHome (State × ReadAns) :=
  match (if s.lineHeld line me then .error line else s.recallAll line) with
  | .error l => .error l
  | .ok s =>
    let h := s.homeOf line
    let e := t.extractLsb' 0 32 + BitVec.ofNat 32 n
    let rts := smax h.rts e
    let s := (s.setHome line { h with rts := rts }).noteStamp line rts
    .ok (s, ⟨lineAt s.mem line, h.wts, smax h.wts e, h.bad⟩)

/-- The host holds a copy that the home must snoop back first (R461). -/
def State.hostHolds (s : State) (line : Nat) : Bool := (s.homeOf line).host

/-- Sending a back-invalidate snoop to the host, unless one is out (R461). -/
def State.snoopHost (s : State) (line : Nat) : State :=
  if s.snoops.any (·.2 == line) then s
  else { s with snoops := s.snoops ++ [(s.nextId, line)], nextId := s.nextId + 1,
                reports := s.reports ++ [.snoop line] }

/-- Ownership (R45): none where the home waits. -/
def State.homeOwnAt (s : State) (line cluster : Nat) (me : Option Nat := none) : AtHome (State × ReadAns) :=
  if s.lineHeld line me || s.hostHolds line then .error line
  else
    match s.recallAll line with
    | .error l => .error l
    | .ok s =>
      let h := s.homeOf line
      let s := (s.setHome line { h with owner := some cluster }).tally cluster 0x0B 1
      .ok (s, ⟨lineAt s.mem line, h.wts, h.rts, h.bad⟩)

/-- A write-back of O by its owner (R45). -/
def State.homeWritebackAt (s : State) (line cluster : Nat) (data : LineData) (bad : BitVec 8) (wts rts : Stamp) :
    Option State :=
  let h := s.homeOf line
  if h.owner = some cluster then
    let s := { s with mem := putLine s.mem line data }
    let s := s.setHome line { h with owner := none, wts := wts, rts := rts, bad := bad }
    some ((s.noteStamp line wts).noteStamp line rts)
  else none

/-- The poisoned sectors that a byte range meets. -/
def sectorMask (off n : Nat) : BitVec 8 :=
  BitVec.ofNat 8 (((List.range 8).filter fun i => decide (off < 16 * i + 16 ∧ 16 * i < off + n)).foldl
    (fun m i => m + 2 ^ i) 0)

/-- An atomic or another action at the home at time raise(t, `rts` + 1) (R47): the new bytes of a range are a function of
the old. The old bytes, the time. A poisoned sector changes nothing (19_traps.md R429). -/
def State.homeActAt (s : State) (line off n : Nat) (t : DWord) (f : List Byte → List Byte) (me : Option Nat := none) :
    AtHome (State × List Byte × DWord × Bool) :=
  if s.lineHeld line me || s.hostHolds line then .error line
  else
    match s.recallAll line with
    | .error l => .error l
    | .ok s =>
      let h := s.homeOf line
      let d := lineAt s.mem line
      let old := lineBytes d off n
      let t' := raise t (h.rts + 1)
      if h.bad &&& sectorMask off n ≠ 0 then .ok (s, old, t, true)
      else
        let st : Stamp := t'.extractLsb' 0 32
        let s := { s with mem := putLine s.mem line (setLineBytes d off (f old)) }
        .ok ((s.setHome line { h with wts := st, rts := st }).noteStamp line st, old, t', false)

/-- The bytes of an element after an operation. -/
def EAct.apply (a : EAct) (old : List Byte) : List Byte :=
  toBytes a.size (eopR a.op a.size (BitVec.ofNat 64 (ofBytes old)) a.v a.c).toNat

/-- A cluster joins the update holders (R48): the owner is recalled, and the line itself where the cluster's own partials do
not take the update (R49); its copy becomes U with the home's `rts`. The oldest U
line of a bank that holds 64 is recalled first (R49); `banked` are the cluster's U lines of the bank, oldest first. -/
def State.homeJoinAt (s : State) (line cluster : Nat) (me : Option Nat := none) : AtHome State :=
  if s.lineHeld line me || s.hostHolds line then .error line
  else
    match s.recallOwner line with
    | .error l => .error l
    | .ok s =>
      let banked := s.copies.filter fun c => c.cluster == cluster && c.isU && bankOf c.line == bankOf line && c.line != line
      let s := if (s.homeOf line).holders.getLsbD cluster then s.recallU line else s
      let s := if 64 ≤ banked.length then (match banked with | c :: _ => s.recallU c.line | [] => s) else s
      let h := s.homeOf line
      let s := s.setHome line { h with holders := h.holders ||| BitVec.ofNat 64 (2 ^ cluster) }
      .ok ((s.gotStamp cluster h.rts).setCopy ⟨cluster, line, .U [] 0, 0, 0, h.wts, h.rts⟩)

/-- A U copy takes an update of an element it has not touched otherwise, or of the same operation and type (R49). -/
def unitesWith (ps : List Partial) (a : EAct) : Bool :=
  ps.all fun p => a.off + a.size ≤ p.off || p.off + p.size ≤ a.off || (p.off == a.off && p.size == a.size && p.op == a.op && p.ty == a.ty)

/-- The update combined into the copy's partials, floats to nearest-even (R48). -/
def joinPartial (ps : List Partial) (a : EAct) : List Partial :=
  if ps.any fun p => p.off == a.off && p.size == a.size then
    ps.map fun p => if p.off = a.off ∧ p.size = a.size then { p with val := eopR a.op a.size p.val a.v 0 } else p
  else ps ++ [⟨a.off, a.size, a.op, a.v, a.ty⟩]

/-- An update of a line that a cluster holds in U: the issuer's time becomes raise(t, kept `rts` + 1). None where the copy is
not U or does not take the update. -/
def State.updateU (s : State) (cluster line : Nat) (t : DWord) (a : EAct) (bad : Bool) : Option (State × DWord) :=
  match s.copyOf cluster line with
  | some c =>
    match c.st with
    | .U ps mt =>
      if unitesWith ps a then
        let t' := raise t (c.rts + 1)
        some (s.updCopy cluster line fun c =>
          { c with st := .U (joinPartial ps a) (tmax mt t'), bad := if bad then c.bad ||| sectorMask a.off a.size else c.bad },
          t')
      else none
    | _ => none
  | none => none

/-! ### Leases and the floor (R40, R43, R51) -/

/-- The length of a lease class of a job (R40). -/
def State.leaseLen (s : State) (job cls : Nat) : Nat :=
  let j := s.job job
  if cls % 8 = 0 then 0
  else if cls % 8 < 4 then (j.leases0.extractLsb' (16 * (cls % 8)) 16).toNat
  else (j.leases1.extractLsb' (16 * (cls % 8 - 4)) 16).toNat

/-- The lease table at reset (R40). -/
def leases0Reset : DWord := 0x0100004000100000
/-- The lease table at reset. -/
def leases1Reset : DWord := 0xFFFF400010000400

/-- The class that a load acts with: a class whose field is zero acts as class 0 (R40). -/
def State.effClass (s : State) (job cls : Nat) : Nat := if s.leaseLen job cls = 0 then 0 else cls % 8

/-- floor(t) (R51): at least `ctime` − 2^29. -/
def State.floorT (s : State) (cluster : Nat) (t : DWord) : DWord :=
  let c := (s.ctimeOf cluster).toNat
  if t.toNat + 2 ^ 29 < c then BitVec.ofNat 64 (c - 2 ^ 29) else t

/-- A lane's access to a local store: its time is floored (R51), after a fence with acquire at that fence's time. -/
def State.floorLane (s : State) (uid l : Nat) : State :=
  match s.agent? uid with
  | none => s
  | some a =>
    s.updLane uid l fun ln => { ln with ltime := s.floorT a.place.cluster (tmax ln.ltime ln.fenceAcq) }

/-- A lane touches memory: its time is floored and presented to its cluster (R38, R51), after a fence with acquire at that
fence's time (14_memory_model.md R320; log entry 55). The time. -/
def State.touch (s : State) (uid l : Nat) : State × DWord :=
  match s.agent? uid with
  | none => (s, 0)
  | some a =>
    let t := s.floorT a.place.cluster (tmax (a.lane l).ltime (a.lane l).fenceAcq)
    ((s.updLane uid l fun ln => { ln with ltime := t }).raiseCtime a.place.cluster t, t)

/-- Raising a lane's time to a stamp that its cluster has received (R38, R43). -/
def State.raiseLane (s : State) (uid l : Nat) (x : Stamp) : State :=
  match s.agent? uid with
  | none => s
  | some a =>
    let t := raise (a.lane l).ltime x
    (s.updLane uid l fun ln => { ln with ltime := t }).raiseCtime a.place.cluster t

/-- Raising a lane's time to a time (R47, R54, R291). -/
def State.liftLane (s : State) (uid l : Nat) (t : DWord) : State :=
  s.updLane uid l fun ln => { ln with ltime := tmax ln.ltime t }

/-- A release of a lane carries what comes before it in every lane of its path (R319): its time is raised to that. -/
def State.levelLane (s : State) (uid l : Nat) : State :=
  match s.agent? uid with
  | some a => s.liftLane uid l (a.pathTime l)
  | none => s

/-- A return from a coach carries what any lane of the coach has done, which is one warp (14_memory_model.md R323). -/
def State.levelAll (s : State) (uid l : Nat) : State :=
  match s.agent? uid with
  | some a => s.liftLane uid l a.allTime
  | none => s

/-! ### What ports, warps and lanes have performed (log entry 55) -/

/-- Every byte of a line. -/
def lineMask : BitVec 128 := BitVec.allOnes 128

/-- The bytes of a range of a line. -/
def byteMask (off n : Nat) : BitVec 128 := (BitVec.ofNat 128 (2 ^ n - 1)) <<< off

/-- The greatest time kept for a port, a warp or a lane at some bytes of a line; 0 where none is. -/
def State.seenAt (s : State) (b : SeenBy) (line : Nat) (m : BitVec 128 := lineMask) : DWord :=
  s.seen.foldl (fun t x => if x.by_ == b && x.line == line && x.bytes &&& m != 0 then tmax t x.time else t) 0

/-- Keeping the greatest time; entries that a later one of the same bytes covers go. -/
def State.noteSeen (s : State) (b : SeenBy) (line : Nat) (t : DWord) (m : BitVec 128 := lineMask) : State :=
  if s.seen.any fun x => x.by_ == b && x.line == line && x.bytes &&& m == m && decide (t.toNat ≤ x.time.toNat) then s
  else { s with seen := (s.seen.filter fun x =>
    !(x.by_ == b && x.line == line && x.bytes &&& ~~~m == 0 && decide (x.time.toNat ≤ t.toNat))) ++ [⟨b, line, t, m⟩] }

/-- A write or an atomic of a lane has been performed at a time: a store to some bytes for its own later watched loads of them
(03_watch_table.md R66), each for the later loads of a barrel core's port (14_memory_model.md R313), for a warp's own, and for its
core where a release of core scope has passed it (R318). -/
def State.noteWrite (s : State) (core : CoreId) (uid l id line : Nat) (t : DWord) (own : BitVec 128) : State :=
  let s := s.settleAccess uid id l t false
  let s := if own = 0 then s else s.noteSeen (.own uid l) line t own
  let s := if isWideCore core.core then s.noteSeen (.unit uid) line t else s
  if !isWideCore core.core || s.ported.contains id then s.noteSeen (.port core) line t else s

/-- The 64-bit time of a stamp at or before a time. -/
def stampTime (t : DWord) (x : Stamp) : DWord := t - (t.extractLsb' 0 32 - x).setWidth 64

/-- A lane has loaded a write of a stamp: later loads of its warp return no older one (R316). -/
def State.noteLoad (s : State) (uid l line : Nat) (wts : Stamp) : State :=
  match s.agent? uid with
  | none => s
  | some a =>
    let w := stampTime (raise (a.lane l).ltime wts) wts
    if a.wide && a.lanes.any fun ln => ln.ltime.toNat < w.toNat then s.noteSeen (.unit uid) line w else s

/-- The time at which a lane loads a line: its own after a fence, that of what its port or its warp has performed on the line,
and the floor (R51, R313, R316). -/
def State.loadTime (s : State) (a : Agent) (l line : Nat) : DWord :=
  s.floorT a.place.cluster (tmax (tmax (a.lane l).ltime (a.lane l).fenceAcq)
    (tmax (s.seenAt (.port a.place.coreId) line) (s.seenAt (.unit a.uid) line)))

/-- The time at which a lane writes: its own after a fence of either kind (R320), and the floor (R51). -/
def State.writeTime (s : State) (a : Agent) (l : Nat) : DWord :=
  s.floorT a.place.cluster (tmax (a.lane l).ltime (tmax (a.lane l).fenceAcq (a.lane l).fenceRel))

/-- The lanes of a unit that a mask names. -/
def State.liftLanes (s : State) (uid : Nat) (m : Mask) (t : DWord) : State :=
  (Mask.list m).foldl (fun s l => s.liftLane uid l t) s

/-- A load at a cluster cache at time t that can be answered there (R43): the data, the new time, the new state. -/
def State.hitAt (s : State) (cluster line : Nat) (t : DWord) : Option (State × LineData × BitVec 8 × DWord) :=
  match s.copyOf cluster line with
  | some c =>
    match c.st with
    | .L expired => if !expired && sle (t.extractLsb' 0 32) c.rts then some (s, c.data, 0, raise t c.wts) else none
    | .O =>
      let t' := raise t c.wts
      some (s.updCopy cluster line fun c => { c with rts := smax c.rts (t'.extractLsb' 0 32) }, c.data, c.bad, t')
    | .U .. => none
  | none => none

/-- A miss of a cluster has to wait: its 256 miss records are in use, or others have waited longer for one
(04_cluster_store.md R72). -/
def State.missFull (s : State) (cluster : Nat) : Bool :=
  decide (256 ≤ (s.misses.filter (·.cluster == cluster)).length) || s.missWait.any (·.1 == cluster)

/-- The whole of a load at a cluster at time t as one action: a hit, or a read at the home with an install for a class other
than 0 (R41, R43). It serves engine reads and fetches. None where the home waits, or the miss has to wait for a record; one that
goes on needs its record only within the action (log entry 56). -/
def State.loadNow (s : State) (cluster job line : Nat) (t : DWord) (cls : Nat) :
    AtHome (State × LineData × BitVec 8 × DWord) :=
  let t := s.floorT cluster t
  match s.hitAt cluster line t with
  | some r => .ok (r.1.raiseCtime cluster r.2.2.2, r.2)
  | none =>
    match (if s.missFull cluster then .error line else s.homeReadAt line t (s.leaseLen job cls)) with
    | .error l => .error l
    | .ok (s, r) =>
      let t' := raise t r.wts
      let s := (s.tally cluster 0x05 1).gotStamp cluster r.e
      let s := if s.effClass job cls = 0 ∨ r.bad ≠ 0 then s
        else s.setCopy ⟨cluster, line, .L false, r.data, 0, r.wts, r.e⟩
      .ok (s.raiseCtime cluster t', r.data, r.bad, t')

/-- The write into an O copy (R44); `whole`: it is the last part of an engine's write of all 16 bytes of its sector, whose poison
goes (19_traps.md R430). -/
def State.writeO (s : State) (cluster line : Nat) (t : DWord) (off : Nat) (bytes : List Byte) (bad : Bool)
    (whole : Bool := false) : State × DWord :=
  match s.copyOf cluster line with
  | none => (s, t)
  | some c =>
    let t' := raise t (c.rts + 1)
    let st : Stamp := t'.extractLsb' 0 32
    let full := (List.range 8).foldl (fun m i =>
      if off ≤ 16 * i ∧ 16 * i + 16 ≤ off + bytes.length then m ||| BitVec.ofNat 8 (2 ^ i) else m)
      (if whole then sectorMask off bytes.length else 0 : BitVec 8)
    let b := if bad then c.bad ||| sectorMask off bytes.length else c.bad &&& ~~~full
    ((s.updCopy cluster line fun c =>
      { c with data := setLineBytes c.data off bytes, wts := st, rts := st, bad := b }).raiseCtime cluster t', t')

/-- The whole of a store at a cluster at time t as one action (R44): ownership, then the bytes at raise(t, `rts` + 1). It
serves engine writes. `bad` marks the data as poisoned; poison of a sector goes with a
write of all its 16 bytes, of which this may be the last part (19_traps.md R430). None where the home waits. -/
def State.storeNow (s : State) (cluster line : Nat) (t : DWord) (off : Nat) (bytes : List Byte) (bad : Bool)
    (whole : Bool := false) : AtHome (State × DWord) :=
  let own : AtHome State :=
    match s.copyOf cluster line with
    | some c => if c.isO then .ok s else
        (s.homeOwnAt line cluster).map fun r => r.1.setCopy ⟨cluster, line, .O, r.2.data, r.2.bad, r.2.wts, r.2.e⟩
    | none => (s.homeOwnAt line cluster).map fun r => r.1.setCopy ⟨cluster, line, .O, r.2.data, r.2.bad, r.2.wts, r.2.e⟩
  match own with
  | .error l => .error l
  | .ok s => .ok (s.writeO cluster line (s.floorT cluster t) off bytes bad whole)

/-- The poison of a line as a reader at its home meets it: that of an O copy, or the home's with that of the U copies. -/
def State.badOf (s : State) (line : Nat) : BitVec 8 :=
  let h := s.homeOf line
  match h.owner with
  | some k => match s.copyOf k line with | some c => c.bad | none => h.bad
  | none => (s.copies.filter fun c => c.line == line && c.isU && h.holders.getLsbD c.cluster).foldl (fun b c => b ||| c.bad) h.bad

/-- The poison of a line that a load at time t of a cluster meets: that of the copy it hits, or what the home answers with
(19_traps.md R429). Without a time the access is one of the home. -/
def State.badSeen (s : State) (cluster : Nat) (t : Option DWord) (line : Nat) : BitVec 8 :=
  match t.bind (s.hitAt cluster line) with
  | some r => r.2.2.1
  | none => s.badOf line

/-- The write-back of a line inside one larger action: the home takes it at once, so that the action can go on with the same
line. -/
def State.writeBackNow (s : State) (cluster line : Nat) : State :=
  match s.copyOf cluster line with
  | none => s
  | some c =>
    match c.st with
    | .O => ((s.homeWritebackAt line cluster c.data c.bad c.wts c.rts).getD s).dropCopy cluster line
    | _ => s.evict cluster line

end Sys2Proof.Machine
end

