-- ==== Sys2Proof/Machine/Translate.lean ====
section
/-! DEFINITION. Virtual addresses: the classes of 01_main_memory.md R18-R21, the walk of R22-R31, the cached translations of
R30, and the checks of an access in the order of R37. -/

namespace Sys2Proof.Machine

/-! ### Classes (R18-R20, 04_cluster_store.md R76) -/

/-- Where a virtual address lies. -/
inductive VPlace where
  | own (off : Nat)
  | remote (c : CoreId) (off : Nat)
  | trans
  deriving DecidableEq, Repr

/-- Who makes an access; `lanes` are those of the path of a unit that makes it, and the result of a walk is one path's. -/
structure Who where
  uid : Nat
  core : CoreId
  job : Nat
  priv : Priv
  lanes : Mask := 1
  deriving DecidableEq, Repr

/-- The issuer of an instruction. -/
def Ctx.who (c : Ctx) : Who := ⟨c.uid, c.a.place.coreId, c.a.job, c.p.priv, c.p.mask⟩

/-- The offset is outside the core's store, or in an area that user mode may not touch (R19, R76). -/
def badOffset (core off : Nat) (priv : Priv) : Bool :=
  decide (lsize core ≤ off) || (isWideCore core && decide (0x50000 ≤ off) && priv == .user)

/-- The class of an address or its cause (R18-R20); the checks of one address in the order of R37. The edge die, which stands as
cluster 64, has no store for the own window to name (log entry 17). -/
def classify (s : State) (w : Who) (va : DWord) : Except (BitVec 8) VPlace :=
  if va.extractLsb' 56 8 ≠ 0 then .error 0x2A
  else if va.extractLsb' 20 36 = (0xFF0000000 : BitVec 36) then
    let off := (va.extractLsb' 0 20).toNat
    if 64 ≤ w.core.cluster ∨ badOffset w.core.core off w.priv then .error 0x25 else .ok (.own off)
  else if va.extractLsb' 47 9 = (0x1FF : BitVec 9) then
    let cl := (va.extractLsb' 26 6).toNat
    let co := (va.extractLsb' 20 6).toNat
    let off := (va.extractLsb' 0 20).toNat
    if va.extractLsb' 32 15 ≠ 0 ∨ 36 ≤ co ∨ badOffset co off w.priv then .error 0x25
    else if (s.job w.job).clmask.getLsbD cl then .ok (.remote ⟨cl, co⟩ off) else .error 0x27
  else if va.extractLsb' 48 8 = (0xFF : BitVec 8) then .error 0x25
  else .ok .trans

/-! ### Table entries (R23-R25) -/

/-- What a walk ends in. -/
inductive WRes where
  | fault (cause : BitVec 8)
  | leaf (v : DWord) (bits : Nat) (entry : Nat)
  deriving DecidableEq, Repr

/-- The physical page of a leaf. -/
def leafPa (v : DWord) : Nat := (v.extractLsb' 16 32).toNat * 65536

/-- A table may lie at an address (R25). -/
def tableOk (pa : Nat) : Bool := homed pa

/-- Log2 of what an entry of a level covers (R22). -/
def levelBits : Nat → Nat
  | 1 => 46
  | 2 => 36
  | 3 => 26
  | _ => 16

/-- The checks of one valid or invalid entry at a level: a fault, the next table, or a leaf. -/
inductive Entry where
  | fault (cause : BitVec 8)
  | table (pa : Nat)
  | leaf
  deriving DecidableEq, Repr

/-- R24, R25. -/
def checkEntry (level : Nat) (e : DWord) : Entry :=
  if e.getLsbD 0 = false then .fault 0x20
  else if e.getLsbD 1 = false then
    if e.extractLsb' 48 16 ≠ 0 ∨ e.extractLsb' 2 11 ≠ 0 ∨ level = 4 then .fault 0x29
    else
      let t := (e.extractLsb' 13 35).toNat * 8192
      if tableOk t then .table t else .fault 0x28
  else
    let bits := levelBits level
    if e.getLsbD 63 ∨ e.extractLsb' 48 10 ≠ 0 ∨ e.extractLsb' 10 6 ≠ 0 ∨ e.getLsbD 2
        ∨ e.extractLsb' 58 2 = 3 ∨ (e.getLsbD 4 ∧ ¬ e.getLsbD 3) ∨ level = 1 ∨ leafPa e % 2 ^ bits ≠ 0 then .fault 0x29
    else
      match regionOf (leafPa e) with
      | none => .fault 0x28
      | some .device => if e.getLsbD 5 then .fault 0x28 else .leaf
      | some _ => .leaf

/-- One entry read at its home, a class-0 load at the cluster's `ctime` (R31). -/
def State.readEntry (s : State) (cluster pa : Nat) : AtHome (State × DWord × Bool) :=
  match s.homeReadAt (pa / 128) (s.ctimeOf cluster) 0 with
  | .error l => .error l
  | .ok (s, r) =>
    .ok (s, BitVec.ofNat 64 (ofBytes (lineBytes r.data (pa % 128) 8)), decide (r.bad &&& sectorMask (pa % 128) 8 ≠ 0))

/-- The compare-and-swap of R27 at the entry's home: an atomic of R47 at the cluster's `ctime`. Whether it wrote: the
entry still held what the walk read, and no poison since then kept the write out; the walk otherwise starts again. -/
def State.swapEntry (s : State) (cluster pa : Nat) (old v : DWord) : AtHome (State × Bool) :=
  match s.homeActAt (pa / 128) (pa % 128) 8 (s.ctimeOf cluster)
    (fun bs => if ofBytes bs = old.toNat then toBytes 8 v.toNat else bs) with
  | .error l => .error l
  | .ok (s, bs, _, bad) => .ok (s, ofBytes bs == old.toNat && !bad)

/-- The walk cache of a cluster may hold an upper-level entry that memory no longer holds: a walk then goes by either, by a
free choice (R30). It holds the entry that the walk went by. -/
def State.throughCache (s : State) (cluster job level : Nat) (va : DWord) (e : Entry) : State × Entry :=
  let page := va.toNat / 2 ^ levelBits level
  let same (x : WalkEntry) : Bool := x.cluster == cluster && x.job == job && x.level == level && x.page == page
  let r : State × Entry :=
    match s.wcache.find? same with
    | some x => if e = .table x.table then (s, e) else let b := s.choose; (b.2, if b.1 then .table x.table else e)
    | none => (s, e)
  match r.2 with
  | .table t => ({ r.1 with wcache := r.1.wcache.filter (fun x => !same x) ++ [⟨cluster, job, level, page, t⟩] }, r.2)
  | _ => r

/-- One step of a walk (R22, R27, R31): it reads one entry, or sets A, and D for a rewalk on a page that may be written. Other
parts of the device act between two steps; a compare that fails sends the walk back to level 1. -/
def State.walkStep (s : State) (w : Walk) : AtHome (State × Except WalkPhase WRes) :=
  let va : DWord := BitVec.ofNat 64 (w.page * 65536)
  let read (s : State) (level tbl : Nat) : AtHome (State × Except WalkPhase WRes) :=
    let pa := tbl + 8 * (va.toNat / 2 ^ levelBits level % 1024)
    match s.readEntry w.cluster pa with
    | .error l => .error l
    | .ok (s, _, true) => .ok (s, .ok (.fault 0x26))
    | .ok (s, e, false) =>
      match s.throughCache w.cluster w.job level va (checkEntry level e) with
      | (s, .fault c) => .ok (s, .ok (.fault c))
      | (s, .table t) => .ok (s, .error (.reading (level + 1) t))
      | (s, .leaf) =>
        if (e.getLsbD 8 && (e.getLsbD 9 || !(w.dirty && e.getLsbD 4))) then .ok (s, .ok (.leaf e (levelBits level) pa))
        else .ok (s, .error (.swapping e (levelBits level) pa))
  match w.phase with
  | .start =>
    let base := ((s.job w.job).ptbase.extractLsb' 13 35).toNat * 8192
    if tableOk base = false then .ok (s, .ok (.fault 0x28)) else read (s.tally w.cluster 0x0D 1) 1 base
  | .reading level tbl => read s level tbl
  | .swapping e bits pa =>
    let e' := e ||| 0x100 ||| (if w.dirty && e.getLsbD 4 then 0x200 else 0)
    match s.swapEntry w.cluster pa e e' with
    | .error l => .error l
    | .ok (s, true) => .ok (s, .ok (.leaf e' bits pa))
    | .ok (s, false) => .ok (s, .error .start)

/-! ### Cached translations (R30) -/

/-- A cached translation matches a job and an address. -/
def Tlb.hits (t : Tlb) (job : Nat) (va : DWord) : Bool :=
  (t.glob || t.job == job) && t.va == va.toNat / 2 ^ t.bits

/-- Entries of a micro-TLB. -/
def utlbSize (core : Nat) : Nat := if isWideCore core then 64 else 32

/-- Filling a core's micro-TLB; a full one first loses an entry, which one is open. -/
def State.fillUtlb (s : State) (c : CoreId) (t : Tlb) : State :=
  let mine := s.utlb.filter (·.1 == c)
  let others := s.utlb.filter (·.1 != c)
  if utlbSize c.core ≤ mine.length then
    let r := s.chooseNat mine.length
    { r.2 with utlb := others ++ mine.eraseIdx r.1 ++ [(c, t)] }
  else { s with utlb := others ++ mine ++ [(c, t)] }

/-- Installing a translation in a cluster: it takes the place of an older one of the page there and in the micro-TLBs of the
cores whose accesses joined its walk. -/
def State.installTlb (s : State) (cluster job : Nat) (va leaf : DWord) (bits entry : Nat) (cores : List CoreId) : State :=
  let t : Tlb := ⟨job, leaf.getLsbD 7, va.toNat / 2 ^ bits, bits, leaf, entry⟩
  let mine := s.tlb.filter fun x => x.1 == cluster && !x.2.hits job va
  let others := s.tlb.filter fun x => x.1 != cluster
  let s := { s with utlb := s.utlb.filter fun x => !(cores.contains x.1 && x.2.hits job va) }
  if 2048 ≤ mine.length then
    let r := s.chooseNat mine.length
    { r.2 with tlb := others ++ mine.eraseIdx r.1 ++ [(cluster, t)] }
  else { s with tlb := others ++ mine ++ [(cluster, t)] }

/-- Looking up a translation: the core's micro-TLB, then the cluster's TLB, which fills the micro-TLB. -/
def State.findTlb (s : State) (c : CoreId) (job : Nat) (va : DWord) : State × Option Tlb :=
  match s.utlb.find? fun x => x.1 == c && x.2.hits job va with
  | some x => (s, some x.2)
  | none =>
    match s.tlb.find? fun x => x.1 == c.cluster && x.2.hits job va with
    | some x => (s.fillUtlb c x.2, some x.2)
    | none => (s, none)

/-- Removing every cached translation of a job that contains an address, in one cluster or in the device (R33). -/
def State.dropTlbs (s : State) (cluster : Option Nat) (job : Nat) (va : DWord) : State :=
  let here (k : Nat) : Bool := match cluster with | some c => c == k | none => true
  { s with tlb := s.tlb.filter fun x => !(here x.1 && x.2.hits job va),
           utlb := s.utlb.filter fun x => !(here x.1.cluster && x.2.hits job va),
           wcache := s.wcache.filter fun x => !(here x.cluster && x.job == job && x.page == va.toNat / 2 ^ levelBits x.level) }

/-- The physical address of a virtual one under a translation. -/
def Tlb.pa (t : Tlb) (va : DWord) : Nat := leafPa t.leaf / 2 ^ t.bits * 2 ^ t.bits + va.toNat % 2 ^ t.bits

/-- A miss joins the walk of its page, or starts or queues one (R32); it asks for a rewalk where D must be set (R27). -/
def State.askWalk (s : State) (w : Who) (va : DWord) (dirty : Bool) : State :=
  let page := va.toNat / 65536
  let me := (w.uid, Mask.lowest w.lanes, w.core)
  let same (x : Walk) : Bool := x.cluster == w.core.cluster && x.job == w.job && x.page == page
  if s.walks.any same then
    { s with walks := s.walks.map fun x => if same x && !x.waiters.contains me then { x with waiters := x.waiters ++ [me] } else x }
  else
    { s with walks := s.walks ++ [⟨s.nextId, w.core.cluster, w.job, page, dirty, [me], .start⟩], nextId := s.nextId + 1 }

/-- The fault of a walk that an access joined (R32). -/
def State.walkFault? (s : State) (w : Who) (va : DWord) : Option (BitVec 8) :=
  (s.walkFaults.find? fun f => f.uid == w.uid && w.lanes.getLsbD f.lane && f.page == va.toNat / 65536).map (·.cause)

/-! ### The device registers (R14, 19_traps.md R423, 24_security_power_health.md R476) -/

/-- A device register. -/
inductive DevReg where
  | spcmd (cluster : Nat)
  | spstat (cluster : Nat)
  | evsel (cluster k : Nat)
  | evcnt (cluster k : Nat)
  | unassigned
  deriving DecidableEq, Repr

/-- The register at an 8-byte aligned address of the region (R423, R476). -/
def devReg (pa : Nat) : DevReg :=
  let o := pa - 0xF00000000000
  let in1 := o - 0x01000000
  let in2 := o - 0x02000000
  if 0x01000000 ≤ o ∧ in1 < 0x40000 then
    if in1 % 0x1000 = 0 then .spcmd (in1 / 0x1000) else if in1 % 0x1000 = 8 then .spstat (in1 / 0x1000) else .unassigned
  else if 0x02000000 ≤ o ∧ in2 < 0x40000 then
    if in2 % 0x1000 < 0x40 then .evsel (in2 / 0x1000) (in2 % 0x1000 / 8)
    else if in2 % 0x1000 < 0x80 then .evcnt (in2 / 0x1000) ((in2 % 0x1000 - 0x40) / 8)
    else .unassigned
  else .unassigned

/-- Who may touch a register: the event counters of a cluster in `CLMASK`, above user mode (R476). -/
def State.regAllowed (s : State) (w : Who) (pa : Nat) : Bool :=
  match devReg (pa / 8 * 8) with
  | .evsel c _ | .evcnt c _ => w.priv == .firmware || (w.priv == .super && (s.job w.job).clmask.getLsbD c)
  | _ => true

/-! ### The checks of an access (R34-R37) -/

/-- What an access needs on its page (R26). -/
inductive Need where
  | rd | wr | rw | x
  deriving DecidableEq, Repr

/-- The permission cause of a leaf, if any (R26). -/
def permCause (n : Need) (priv : Priv) (leaf : DWord) : Option (BitVec 8) :=
  let noU := priv == .user && !leaf.getLsbD 6
  match n with
  | .rd => if noU || !leaf.getLsbD 3 then some 0x21 else none
  | .wr => if noU || !leaf.getLsbD 4 then some 0x22 else none
  | .rw => if noU || !leaf.getLsbD 3 then some 0x21 else if leaf.getLsbD 4 then none else some 0x22
  | .x => if noU || !leaf.getLsbD 5 then some 0x23 else none

/-- The access writes. -/
def Need.writes (n : Need) : Bool := n == .wr || n == .rw

/-- How an access is made, for the checks. -/
structure How where
  need : Need
  /-- The alignment that R34, R79, R88 or R307 asks for; 1 for none. -/
  align : Nat := 1
  /-- Only a local store will do (R79). -/
  localOnly : Bool := false
  /-- The register region takes this access (R14). -/
  regOk : Bool := false
  deriving DecidableEq, Repr

/-- The parts of [va, va + n) by 64 KiB block, which no class, page or limit cuts; the fuel bounds their number. -/
def blocks : Nat → DWord → Nat → List (DWord × Nat)
  | 0, _, _ => []
  | k + 1, va, n =>
    let m := min n (65536 - va.toNat % 65536)
    if n = 0 then [] else (va, m) :: blocks k (va + BitVec.ofNat 64 m) (n - m)

/-- A peer of the scale-up window takes the address (23_host_and_links.md R468). -/
def State.windowOk (s : State) (pa : Nat) : Bool :=
  let r := pa % 2 ^ 42
  s.links.any (fun l => l.peer == pa / 2 ^ 42 % 16) && s.deviceNo != some (pa / 2 ^ 42 % 16)
    && (match regionOf r with | some .near | some .capacity => true | _ => false)

/-- The checks after translation: order 8 and 9 of R37. -/
def State.checkPage (s : State) (w : Who) (h : How) (pa : Nat) (leaf : DWord) : Option (BitVec 8) :=
  match regionOf pa with
  | none => some 0x28
  | some .device => if h.regOk && s.regAllowed w pa then permCause h.need w.priv leaf else some 0x28
  | some .window => if s.windowOk pa then permCause h.need w.priv leaf else some 0x28
  | some _ => permCause h.need w.priv leaf

/-- A pending `HSIFT` of a core: later accesses of that core to its own store wait (10_isa_lane.md R236). -/
def State.hsiftBusy (s : State) (c : CoreId) : Bool :=
  s.pendings.any fun x => x.core == c && (match x.kind with | .hsift .. => true | _ => false)

/-- The unit's own decrement that a full ready ring has refused is still to be performed: later accesses to the own store wait
(13_isa_return.md R290, R308). -/
def State.decBusy (s : State) (w : Who) : Bool :=
  s.remotes.any fun r => r.uid == w.uid && r.src == w.core && r.dst == w.core

/-- An access to the own store waits: for a pending `HSIFT`, and for such a decrement. -/
def State.ownBusy (s : State) (w : Who) : Bool := s.hsiftBusy w.core || s.decBusy w

/-- An address in a local-store window, own or remote (R18). -/
def inWindow (va : DWord) : Bool :=
  va.extractLsb' 20 44 == (0x00FF0000000 : BitVec 44) || va.extractLsb' 47 17 == (0x001FF : BitVec 17)

/-- One block of an access: its place, or a fault, or a wait for a walk. -/
def State.checkBlock (s : State) (w : Who) (h : How) (va : DWord) (n : Nat) : State × Chk Seg :=
  if h.localOnly && !inWindow va then (s, .fault 0x44 va 0)
  else
    match classify s w va with
    | .error c => (s, .fault c va 0)
    | .ok (.own off) => (s, if s.ownBusy w then .wait .order else .ok (.own off n))
    | .ok (.remote c off) => (s, if c == w.core && s.ownBusy w then .wait .order else .ok (.remote c off n))
    | .ok .trans =>
      let r := s.findTlb w.core w.job va
      let s := r.1
      let walk (dirty : Bool) : State × Chk Seg :=
        match s.walkFault? w va with
        | some c => (s, .fault c va 0)
        | none => (s.askWalk w va dirty, .wait .order)
      match r.2 with
      | none => walk false
      | some t =>
        match s.checkPage w h (t.pa va) t.leaf with
        | some c => (s, .fault c va 0)
        | none => if h.need.writes && !t.leaf.getLsbD 9 then walk true else (s, .ok (.mem (t.pa va) n t.leaf))

/-- The blocks of an access in address order: the first that faults gives its cause and the lowest faulting byte (R35,
R36); otherwise a walk is waited for; otherwise the places. -/
def State.checkBlocks (w : Who) (h : How) : State → List (DWord × Nat) → State × Chk (List Seg)
  | s, [] => (s, .ok [])
  | s, (va, n) :: rest =>
    match s.checkBlock w h va n with
    | (s, .fault c t u) => (s, .fault c t u)
    | (s, .due d) => (s, .due d)
    | (s, .wait k) =>
      match State.checkBlocks w h s rest with
      | (s, _) => (s, .wait k)
    | (s, .ok x) =>
      match State.checkBlocks w h s rest with
      | (s, .ok xs) => (s, .ok (x :: xs))
      | (s, .wait k) => (s, .wait k)
      | (s, .fault c t u) => (s, .fault c t u)
      | (s, .due d) => (s, .due d)

/-- Neighbouring parts in one local store are one. -/
def mergeSegs : List Seg → List Seg
  | .own a n :: gs =>
    match mergeSegs gs with
    | .own b m :: r => if a + n = b then .own a (n + m) :: r else .own a n :: .own b m :: r
    | r => .own a n :: r
  | .remote c a n :: gs =>
    match mergeSegs gs with
    | .remote d b m :: r => if c = d ∧ a + n = b then .remote c a (n + m) :: r else .remote c a n :: .remote d b m :: r
    | r => .remote c a n :: r
  | g :: gs => g :: mergeSegs gs
  | [] => []

/-- The whole check of an access of n bytes (R35, R37): order 1, then 2 and 3, then block by block. -/
def State.checkAccess (s : State) (w : Who) (h : How) (va : DWord) (n : Nat) : State × Chk (List Seg) :=
  if va.extractLsb' 56 8 ≠ 0 then (s, .fault 0x2A va 0)
  else if va.toNat % h.align ≠ 0 then (s, .fault 0x24 va 0)
  else
    match State.checkBlocks w h s (blocks (n / 65536 + 2) va n) with
    | (s, .ok gs) => (s, .ok (mergeSegs gs))
    | r => r

/-- What holds up an action of an engine: a home, or a walk that it asks for (R32). -/
inductive Held where
  | home (line : Nat)
  | walk (va : DWord) (dirty : Bool)
  deriving DecidableEq, Repr

/-- The outcome of translating for an engine: the place or the cause, unless something holds it up. -/
abbrev Now := Except Held (State × Except (BitVec 8) Seg)

/-- One block translated for the engines and prefetches; a miss and a page without D wait for a walk (R27, R32). -/
def State.blockNow (s : State) (w : Who) (h : How) (va : DWord) (n : Nat) : Now :=
  if h.localOnly && !inWindow va then .ok (s, .error 0x44)
  else
    match classify s w va with
    | .error c => .ok (s, .error c)
    | .ok (.own off) => .ok (s, .ok (.own off n))
    | .ok (.remote c off) => .ok (s, .ok (.remote c off n))
    | .ok .trans =>
      let r := s.findTlb w.core w.job va
      let walk (dirty : Bool) : Now :=
        match r.1.walkFault? w va with
        | some c => .ok (r.1, .error c)
        | none => .error (.walk va dirty)
      match r.2 with
      | none => walk false
      | some t =>
        match r.1.checkPage w h (t.pa va) t.leaf with
        | some c => .ok (r.1, .error c)
        | none => if h.need.writes && !t.leaf.getLsbD 9 then walk true else .ok (r.1, .ok (.mem (t.pa va) n t.leaf))

end Sys2Proof.Machine
end

