-- ==== Sys2Proof/Machine/Local.lean ====
section
/-! DEFINITION. Local stores: bytes and full/empty words (04_cluster_store.md R75-R80), barrier objects (R88-R92), codelet
records (13_isa_return.md R307, R308), the owning port's actions, the scan of parked accesses, and deliveries to units. -/

namespace Sys2Proof.Machine

/-! ### Bytes and words -/

/-- A byte of a local store. -/
def State.lbyte (s : State) (c : CoreId) (off : Nat) : Byte := (s.lword c (off / 4)).v.extractLsb' (8 * (off % 4)) 8

/-- Bytes of a local store. -/
def State.lbytes (s : State) (c : CoreId) (off n : Nat) : List Byte := (List.range n).map fun i => s.lbyte c (off + i)

/-- The lowest poisoned byte of a range (19_traps.md R429). -/
def State.lbad (s : State) (c : CoreId) (off n : Nat) : Option Nat :=
  ((List.range n).map (off + ·)).find? fun o => (s.lword c (o / 4)).bad

/-- Writing one byte; the bit and the poison of the word stay. -/
def State.putLbyte (s : State) (c : CoreId) (off : Nat) (b : Byte) (bad : Bool) : State :=
  let w := s.lword c (off / 4)
  s.setLword c (off / 4) { w with v := (w.v &&& ~~~((255 : Word) <<< (8 * (off % 4)))) ||| (b.setWidth 32 <<< (8 * (off % 4))),
                                  bad := w.bad || bad }

/-- Writing bytes; a word written whole loses its poison, unless the data is poisoned (19_traps.md R430). -/
def State.putLbytes (s : State) (c : CoreId) (off : Nat) (bs : List Byte) (bad : Bool) : State :=
  let first := (off + 3) / 4
  let last := (off + bs.length) / 4
  let s := (List.range (last - first)).foldl (fun s i =>
    s.setLword c (first + i) { s.lword c (first + i) with bad := false }) s
  (List.range bs.length).foldl (fun s i => s.putLbyte c (off + i) (bs.getD i 0) bad) s

/-- The number of words of a `.32` or `.64` access. -/
def wn (w64 : Bool) : Nat := if w64 then 2 else 1

/-- A word or pair as a value. -/
def State.lval (s : State) (c : CoreId) (w : Nat) (w64 : Bool) : DWord :=
  if w64 then cat32 (s.lword c (w + 1)).v (s.lword c w).v else (s.lword c w).v.setWidth 64

/-- Every word of an access has the bit. -/
def State.lfull (s : State) (c : CoreId) (w : Nat) (w64 b : Bool) : Bool :=
  (List.range (wn w64)).all fun i => (s.lword c (w + i)).full == b

/-- Marking the words of an access. -/
def State.mark (s : State) (c : CoreId) (w : Nat) (w64 b : Bool) : State :=
  (List.range (wn w64)).foldl (fun s i => s.setLword c (w + i) { s.lword c (w + i) with full := b }) s

/-- Writing the words of an access, poisoned where its data is. -/
def State.putLval (s : State) (c : CoreId) (w : Nat) (w64 : Bool) (v : DWord) (bad : Bool) : State :=
  let s := s.putLword c w (lo32 v) bad
  if w64 then s.putLword c (w + 1) (hi32 v) bad else s

/-- The release time of a store (13_isa_return.md R291). -/
def lrtKey (c : CoreId) : Nat := c.cluster * 64 + c.core
/-- Reading LRT. -/
def State.lrtOf (s : State) (c : CoreId) : DWord := sget 0 (lrtKey c) s.lrt
/-- Raising LRT to a release's time. -/
def State.raiseLrt (s : State) (c : CoreId) (t : DWord) : State :=
  { s with lrt := sput 0 (lrtKey c) (tmax (s.lrtOf c) t) s.lrt }

/-! ### Barrier objects (R88-R92) -/

/-- A barrier object. -/
structure Bar where
  outb : Int
  inb : Int
  pend : Nat
  expd : Nat
  fault : Bool
  under : Bool
  gen : Nat
  deriving DecidableEq, Repr

/-- The fields of 128 bits. -/
def Bar.of (v : BitVec 128) : Bar where
  outb := (v.extractLsb' 88 40).toInt
  inb := (v.extractLsb' 48 40).toInt
  pend := (v.extractLsb' 28 20).toNat
  expd := (v.extractLsb' 8 20).toNat
  fault := v.getLsbD 5
  under := v.getLsbD 4
  gen := (v.extractLsb' 0 4).toNat

/-- The bits of the fields, reserved ones zero. -/
def Bar.bits (b : Bar) : BitVec 128 :=
  BitVec.ofInt 40 b.outb ++ BitVec.ofInt 40 b.inb ++ BitVec.ofNat 20 b.pend ++ BitVec.ofNat 20 b.expd
    ++ (0 : BitVec 2) ++ BitVec.ofBool b.fault ++ BitVec.ofBool b.under ++ BitVec.ofNat 4 b.gen

/-- The object at an offset. -/
def State.barAt (s : State) (c : CoreId) (off : Nat) : Bar :=
  Bar.of ((s.lword c (off / 4 + 3)).v ++ (s.lword c (off / 4 + 2)).v ++ (s.lword c (off / 4 + 1)).v ++ (s.lword c (off / 4)).v)

/-- Writing the object at an offset. -/
def State.putBar (s : State) (c : CoreId) (off : Nat) (b : Bar) : State :=
  let v := b.bits
  let s := s.putLword c (off / 4) (v.extractLsb' 0 32)
  let s := s.putLword c (off / 4 + 1) (v.extractLsb' 32 32)
  let s := s.putLword c (off / 4 + 2) (v.extractLsb' 64 32)
  s.putLword c (off / 4 + 3) (v.extractLsb' 96 32)

/-- The completion check (R90). -/
def Bar.check (b : Bar) : Bar :=
  if b.pend = 0 ∧ b.inb = 0 ∧ b.outb = 0 then { b with gen := (b.gen + 1) % 16, pend := b.expd } else b

/-- One arrival (R92). -/
def Bar.arrive (b : Bar) : Bar := if b.pend = 0 then { b with under := true } else { b with pend := b.pend - 1 }

/-- Adding to a byte count, saturating (R92): the count, and whether it left its range. -/
def addCount (x n : Int) : Int × Bool :=
  let v := x + n
  if v < -(2 ^ 39) then (-(2 ^ 39), true) else if 2 ^ 39 - 1 < v then (2 ^ 39 - 1, true) else (v, false)

/-- Adding to INB, OUTB or both. -/
def Bar.count (b : Bar) (inb outb : Bool) (n : Int) : Bar :=
  let i := if inb then addCount b.inb n else (b.inb, false)
  let o := if outb then addCount b.outb n else (b.outb, false)
  { b with inb := i.1, outb := o.1, under := b.under || i.2 || o.2 }

/-- A barrier instruction's update (13_isa_return.md R303-R305). -/
def Bar.step (b : Bar) : BarOp → Bar
  | .init v => ⟨0, 0, v, v, false, false, 0⟩
  | .arrive => b.arrive.check
  | .expect i o n => (b.count i o n).check

/-! ### The owning port's actions (R78, R82, R89) -/

/-- The writes of 14_memory_model.md R310; the others are loads. -/
def LAcc.changes : LAcc → Bool
  | .load _ | .ldf _ | .take _ => false
  | _ => true

/-- A plain load of a number of a lane has met a release time, which a later `FENCE` with acquire of a lane of its path takes up
(R320; log entry 55). -/
def State.noteLrt (s : State) (uid id l : Nat) (t : DWord) : State :=
  s.updAgent uid fun a =>
    let m := a.issuedBy id l
    { a with lanes := a.lanes.mapIdx fun i ln => if m.getLsbD i then { ln with lrtSeen := tmax ln.lrtSeen t } else ln }

/-- The time of a lane's access to a local store: after a fence with acquire, and for a write after one with release
(14_memory_model.md R320). -/
def Lane.sendTime (ln : Lane) (acc : LAcc) : DWord :=
  tmax ln.ltime (tmax ln.fenceAcq (if acc.changes then ln.fenceRel else 0))

/-- A fence with release before a lane's write makes that write a release (R320). -/
def Lane.fenced (ln : Lane) (acc : LAcc) : Bool := acc.changes && ln.fenceRel != 0

/-- The lane of a unit of the state; a fresh one where there is none. -/
def State.laneOf (s : State) (uid l : Nat) : Lane :=
  match s.agent? uid with
  | some a => a.lane l
  | none => Lane.fresh

/-- The access may be performed now (R78, R306). -/
def State.lcond (s : State) (c : CoreId) (off : Nat) : LAcc → Bool
  | .ldf w | .take w => s.lfull c (off / 4) w true
  | .fill w _ => s.lfull c (off / 4) w false
  | .barwait g => (s.barAt c off).gen != g
  | _ => true

/-- The outermost caller that a coach lane serves (15_travellers.md R332); another unit itself. The fuel bounds the nesting
of gang calls. -/
def State.outermost : Nat → State → Nat → Nat → Nat × Nat
  | 0, _, uid, l => (uid, l)
  | n + 1, s, uid, l =>
    match s.agent? uid with
    | none => (uid, l)
    | some a =>
      if a.kind == .coach then
        (match (a.lane l).caller with | some (u, m) => State.outermost n s u m | none => (uid, l))
      else if a.kind == .shadow then
        (match a.partner with | some q => State.outermost n s q l | none => (uid, l))
      else (uid, l)

/-- The job and the launch of the outermost caller of a lane (18_scheduling.md R392). -/
def State.launchOf (s : State) (uid l : Nat) : Nat × Option Nat :=
  match s.agent? (State.outermost 20 s uid l).1 with
  | some a => (a.job, a.launch)
  | none => (0, none)

/-- A decrement of a codelet record. -/
def LAcc.isDec : LAcc → Bool
  | .depdec .. => true
  | _ => false

/-- Entries of a core's ready ring. -/
def State.ringOf (s : State) (c : CoreId) : List RingEntry := s.rings.filter (·.core == c)

/-- A decrement that must be refused: COUNT is 1 and the ready ring is full (13_isa_return.md R308). -/
def State.ringFull (s : State) (c : CoreId) (off : Nat) : Bool :=
  (s.lword c (off / 4 + 2)).v == 1 && 64 ≤ (s.ringOf c).length

/-- Performing an access at its port: the value read (16 bytes at most), and the words whose bit, or whose object's
generation, may have changed. -/
def State.lperform (s : State) (c : CoreId) (off : Nat) (bad : Bool) : LAcc → State × DWord × DWord × List Nat
  | .load n =>
    let v := ofBytes (s.lbytes c off n)
    (s, BitVec.ofNat 64 v, BitVec.ofNat 64 (v / 2 ^ 64), [])
  | .store bs => (s.putLbytes c off bs bad, 0, 0, [])
  | .ldf w => (s, s.lval c (off / 4) w, 0, [])
  | .take w => (s.mark c (off / 4) w false, s.lval c (off / 4) w, 0, (List.range (wn w)).map (off / 4 + ·))
  | .fill w v => ((s.putLval c (off / 4) w v bad).mark c (off / 4) w true, 0, 0, (List.range (wn w)).map (off / 4 + ·))
  | .setf w v => ((s.putLval c (off / 4) w v bad).mark c (off / 4) w true, 0, 0, (List.range (wn w)).map (off / 4 + ·))
  | .clrf w => (s.mark c (off / 4) w false, 0, 0, (List.range (wn w)).map (off / 4 + ·))
  | .rmw a =>
    let old := s.lbytes c off a.size
    -- a poisoned word is left poisoned (19_traps.md R429)
    (if (s.lbad c off a.size).isSome then s else s.putLbytes c off (a.apply old) bad, BitVec.ofNat 64 (ofBytes old), 0, [])
  | .bar op =>
    let b := s.barAt c off
    -- poisoned words stay as they are (19_traps.md R429)
    (if (s.lbad c off 16).isSome then s else s.putBar c off (b.step op), BitVec.ofNat 64 b.gen, 0, [off / 4])
  | .barwait _ => (s, 0, 0, [])
  | .depdec job launch sys =>
    let w := off / 4
    let n := (s.lword c (w + 2)).v
    if (s.lbad c (off + 8) 8).isSome then (s, 0, 0, [])
    else if n = 0 then (s.putLword c (w + 3) ((s.lword c (w + 3)).v ||| 2), 0, 0, [])
    else
      let s := s.putLword c (w + 2) (n - 1)
      if n = 1 then
        let s := s.putLword c (w + 3) ((s.lword c (w + 3)).v ||| 1)
        -- a codelet of a cancelled launch is dropped (18_scheduling.md R405)
        let gone := match launch with | some n => s.launches.any fun x => x.id == n && x.cancelled | none => false
        (if gone then s else { s with rings := s.rings ++ [⟨c, off, s.lrtOf c, job, launch, sys⟩] }, 0, 0, [])
      else (s, 0, 0, [])

/-! ### Deliveries to a unit -/

/-- The lane's access has been performed: its path need not wait for it (R81). -/
def Path.laneDone (p : Path) (l : Nat) : Path :=
  if p.mask.getLsbD l then { p with done := p.done ||| laneBit l, parked := p.parked &&& ~~~(laneBit l) } else p

/-- The access of a parked lane has been performed. -/
def Path.laneBack (p : Path) (l : Nat) : Path := if p.parked.getLsbD l then p.laneDone l else p

/-- Changing every path of a unit. -/
def Agent.mapPaths (a : Agent) (f : Path → Path) : Agent :=
  { a with slotA := a.slotA.map f, slotB := a.slotB.map f, stack := a.stack.map f }

/-- A value of `size` bytes as the words of its destination (09_isa_arrival.md R188). -/
def destWords (size : Nat) (sx : Bool) (val hi : DWord) : List Word :=
  if size = 1 then [if sx then (val.extractLsb' 0 8).signExtend 32 else (val.extractLsb' 0 8).setWidth 32]
  else if size = 2 then [if sx then (val.extractLsb' 0 16).signExtend 32 else (val.extractLsb' 0 16).setWidth 32]
  else if size = 4 then [lo32 val]
  else if size = 8 then [lo32 val, hi32 val]
  else [lo32 val, hi32 val, lo32 hi, hi32 hi]

/-- A 64-bit uniform value of `size` bytes (R188). -/
def uniValue (size : Nat) (sx : Bool) (val : DWord) : DWord :=
  if size = 1 then (if sx then (val.extractLsb' 0 8).signExtend 64 else (val.extractLsb' 0 8).setWidth 64)
  else if size = 2 then (if sx then (val.extractLsb' 0 16).signExtend 64 else (val.extractLsb' 0 16).setWidth 64)
  else if size = 4 then (lo32 val).setWidth 64
  else val

/-- Writing the destination of a returned value full; a poisoned one is marked (19_traps.md R429). -/
def State.writeDest (s : State) (uid l : Nat) (d : Dest) (val hi : DWord) (bad : Bool) : State :=
  match d with
  | .none => s
  | .piece id k size =>
    { s with loads := s.loads.map fun x => if x.id = id then
        { x with pieces := x.pieces.modify k fun p => { p with val := some (toBytes size (hi ++ val).toNat, bad) } } else x }
  | .regs rs size sx =>
    s.updLane uid l fun ln => (rs.zip (destWords size sx val hi)).foldl (fun ln x =>
      let ln := ln.setReg (Fin.ofNat 64 x.1) x.2
      if bad then ln.poison (Fin.ofNat 64 x.1) else ln) ln
  | .uni r size sx =>
    s.updAgent uid fun a =>
      let v := uniValue size sx val
      -- s31 of a path inside a handler is SCRATCH: register 32 names it (R417)
      let a := { a with sBad := setBit a.sBad r bad, sGone := a.sGone.filter fun x => x.1 != r }
      if r = 32 then { a with frame := { a.frame with scratch := v } }
      else { a with s := a.s.set (Fin.ofNat 32 r).val v (Fin.ofNat 32 r).isLt }

/-- A local access of a unit has been performed: its value, the acquirer's time (13_isa_return.md R291), its path. -/
def State.delivered (s : State) (r : RReply) : State :=
  let s := s.updLane r.uid r.lane fun ln => r.takes.foldl (fun ln x => ln.setEmpty (Fin.ofNat 64 x)) ln
  let s := s.writeDest r.uid r.lane r.dest r.val r.hi r.bad
  let s := if r.acq then s.settleAccess r.uid r.id r.lane r.lrt true
    else if r.dest = .none then s else s.noteLrt r.uid r.id r.lane r.lrt
  let s := if r.counted then s.updAgent r.uid fun a => { a with acks := a.acks - 1 } else s
  if r.holds then s.updAgent r.uid fun a => a.mapPaths fun p => p.laneBack r.lane else s

/-- The time that an acquirer takes up: LRT, and HWS at system scope (R291, 23_host_and_links.md R463). -/
def State.acqTime (s : State) (c : CoreId) (sys : Bool) : DWord := if sys then tmax (s.lrtOf c) s.hws else s.lrtOf c

/-- The answer of a performed access. -/
def State.answer (s : State) (r : Remote) (val hi : DWord) (bad : Bool) : RReply :=
  ⟨r.id, r.uid, r.lane, val, hi, r.dest, r.acq, s.acqTime r.dst r.sys, bad, r.counted, r.holds, r.takes⟩

/-- Performing a remote or parked access at its port: a release raises LRT; the answer goes to the unit at once on the own
core, else travels. The words to scan. -/
def State.performRemote (s : State) (r : Remote) : State × List Nat :=
  let bad := match r.acc with
    | .load n => (s.lbad r.dst r.off n).isSome
    | .ldf w | .take w => (s.lbad r.dst r.off (4 * wn w)).isSome
    | .rmw a => (s.lbad r.dst r.off a.size).isSome
    | .bar _ => (s.lbad r.dst r.off 16).isSome
    | _ => false
  let s := if r.rel then s.raiseLrt r.dst r.time else s
  let (s, val, hi, ws) := s.lperform r.dst r.off r.bad r.acc
  let a := s.answer r val hi bad
  (if r.src = r.dst then s.delivered a else { s with rreplies := s.rreplies ++ [a] }, ws)

/-- A parked access waits on one of these words. -/
def Remote.onWord (r : Remote) (ws : List Nat) : Bool :=
  match r.acc with
  | .ldf w | .take w | .fill w _ => (List.range (wn w)).any fun i => ws.contains (r.off / 4 + i)
  | .barwait _ => ws.contains (r.off / 4)
  | _ => false

/-- The scan of R80: the oldest parked access of the words whose condition holds is performed, until none is left. The words that
one access changes are scanned together: DESIGN CHOICE, log entry 61. -/
def State.scanN (c : CoreId) : Nat → State → List Nat → State
  | 0, s, _ => s
  | n + 1, s, ws =>
    match s.parked.find? fun r => r.dst == c && r.onWord ws && s.lcond c r.off r.acc with
    | none => s
    | some r =>
      let (s, ws') := { s with parked := s.parked.filter (·.id != r.id) }.performRemote r
      State.scanN c n s (ws ++ ws')

/-- The scan after a change of some words of a store. -/
def State.scan (s : State) (c : CoreId) (ws : List Nat) : State :=
  if ws.isEmpty then s else State.scanN c (s.parked.length + 1) s ws

/-- An engine's count on a barrier object: one update (R91), with FAULT for a faulted copy (R93). Like an instruction's it leaves
the reserved bits 7:6 of the object 0: DESIGN CHOICE, log entry 61. A poisoned object stays as it is (19_traps.md R429). -/
def State.barCount (s : State) (c : CoreId) (off : Nat) (inb outb : Bool) (n : Int) (fault : Bool) : State :=
  let b := (s.barAt c off).count inb outb n
  if (s.lbad c off 16).isSome then s
  else (s.putBar c off ({ b with fault := b.fault || fault }).check).scan c [off / 4]

/-- Reading a plain store's words that a write changed scans nothing (R78). An access of a unit to its own core's store,
performed at issue: the value, after its scan. -/
def State.localNow (s : State) (c : CoreId) (uid l off : Nat) (acc : LAcc) (rel acq sys bad : Bool) : State × DWord × DWord :=
  let s := s.floorLane uid l
  let ln := s.laneOf uid l
  let s := if rel || ln.fenced acc then s.raiseLrt c (ln.sendTime acc) else s
  let (s, val, hi, ws) := s.lperform c off bad acc
  let s := if acq then s.settleAccess uid s.nextId l (s.acqTime c sys) true
    else if acc.changes then s else s.noteLrt uid s.nextId l (s.lrtOf c)
  (s.scan c ws, val, hi)

/-- The virtual address of an offset in the own window (01_main_memory.md R18). -/
def ownVa (off : Nat) : DWord := 0x00FF000000000000 + BitVec.ofNat 64 off

/-- Zeroing a range of a store: every word becomes 0 and empty (R77). -/
def State.zeroLocal (s : State) (c : CoreId) (off n : Nat) : State :=
  let lo := lkey c (off / 4)
  let hi := lkey c ((off + n) / 4)
  { s with lwords := s.lwords.filter fun x => !(decide (lo ≤ x.1) && decide (x.1 < hi)) }

end Sys2Proof.Machine
end

