-- ==== Sys2Proof/Machine/Memory.lean ====
section
/-! DEFINITION. Loads and writes in flight: presenting a load to the cluster cache (02_lines_and_homes.md R43, R53,
14_memory_model.md R312-R316), performing a write (R44, R48), the device registers (01_main_memory.md R14), and what a lane
sends. -/

namespace Sys2Proof.Machine

/-! ### Earlier accesses -/

/-- The core of a unit. -/
def State.coreOf (s : State) (uid : Nat) : CoreId :=
  match s.agent? uid with
  | some a => a.place.coreId
  | none => ⟨64, 0⟩

/-- An access comes through the port of another (14_memory_model.md R313, R290): from one unit, from one barrel core, or from one
wide core once a release of core scope has passed it (R311, R318; log entry 55). -/
def State.samePort (s : State) (core : CoreId) (uid : Nat) (core' : CoreId) (uid' id' : Nat) : Bool :=
  uid == uid' || (core == core' && (!isWideCore core.core || s.ported.contains id'))

/-- An earlier write or atomic of the port to a line is not yet performed (R313); the reductions of one instruction have no
order among them (13_isa_return.md R299). -/
def State.writeBefore (s : State) (core : CoreId) (uid id line : Nat) (grp : Nat := 0) : Bool :=
  (s.writes.any fun w => decide (w.id < id) && s.samePort core uid w.core w.uid w.id && (grp == 0 || w.grp != grp)
      && w.pieces.any fun p => p.line == line && !p.performed)
    || (s.reqs.any fun r => match r.kind with
        | .atomic _ _ _ _ c _ => decide (r.id < id) && s.samePort core uid c r.uid r.id && r.line == line
        | _ => false)
    || s.winReqs.any fun r => match r.kind with
        | .store .. | .atomic .. | .red .. =>
          decide (r.id < id) && s.samePort core uid (s.coreOf r.uid) r.uid r.id && decide (r.addr / 128 ≤ line)
            && decide (line ≤ (r.addr + r.len - 1) / 128)
        | _ => false

/-- An earlier load of the port from a line is not yet bound (R313). -/
def State.loadBefore (s : State) (core : CoreId) (uid id line : Nat) : Bool :=
  s.loads.any fun l => decide (l.id < id) && s.samePort core uid (s.coreOf l.uid) l.uid l.id
    && l.pieces.any fun p => p.line == line && p.val.isNone

/-- A local access that returns a value. -/
def LAcc.reads : LAcc → Bool
  | .load _ | .ldf _ | .take _ | .rmw _ => true
  | _ => false

/-- Every load of a unit before a number has been bound (R314). An access that holds its path has no later one in program
order (R324). -/
def State.loadsBound (s : State) (uid id : Nat) : Bool :=
  (s.loads.all fun l => l.uid != uid || decide (id ≤ l.id) || l.pieces.all fun p => p.val.isSome)
    && (s.reqs.all fun r => match r.kind with
        | .atomic .. => r.uid != uid || decide (id ≤ r.id)
        | _ => true)
    && (s.remotes.all fun r => r.uid != uid || decide (id ≤ r.id) || !r.acc.reads || r.holds)
    && (s.winReqs.all fun w => w.uid != uid || decide (id ≤ w.id) || match w.kind with
        | .load _ | .atomic .. => false
        | _ => true)
    && (s.pendings.all fun r => match r.kind with
        | .hsift .. => r.uid != uid || decide (id ≤ r.id)
        | _ => true)

/-- Every load of a unit has returned (13_isa_return.md R294). -/
def State.loadsReturned (s : State) (uid : Nat) : Bool :=
  (s.loads.all fun l => l.uid != uid || (l.kind == .held && l.pieces.all (·.val.isSome))) && s.loadsBound uid s.nextId
    && (s.reps.all fun r => match r.kind with | .atomic .. => r.uid != uid | _ => true)
    && s.rreplies.all fun r => r.uid != uid || r.counted || r.dest == .none

/-- An acquire of a unit has not returned yet: no later access (09_isa_arrival.md R191). -/
def State.acqHeld (s : State) (uid : Nat) : Bool :=
  (s.loads.any fun l => l.uid == uid && l.acq)
    || (s.reqs.any fun r => match r.kind with | .atomic _ _ acq _ _ _ => acq && r.uid == uid | _ => false)
    || (s.reps.any fun r => match r.kind with | .atomic _ _ acq _ => acq && r.uid == uid | _ => false)
    || (s.remotes.any fun r => r.uid == uid && r.acq)
    || (s.parked.any fun r => r.uid == uid && r.acq && !r.holds)
    || (s.rreplies.any fun r => r.uid == uid && r.acq)
    || (s.winReqs.any fun w => match w.kind with | .atomic _ _ acq _ => acq && w.uid == uid | _ => false)

/-! ### The device registers (R14, 19_traps.md R423, 24_security_power_health.md R476) -/

/-- The spill engine of a cluster. -/
def State.spillOf (s : State) (cluster : Nat) : Spill :=
  (s.spills.find? (·.cluster == cluster)).getD ⟨cluster, none, none, false, false, 0⟩

/-- Writing the spill engine's record. -/
def State.setSpill (s : State) (x : Spill) : State :=
  { s with spills := (s.spills.filter (·.cluster != x.cluster)) ++ [x] }

/-- `EVSELn` takes EN and an assigned source; its counter is cleared (R476). -/
def State.evselWrite (s : State) (cluster k : Nat) (v : DWord) : State :=
  let e := s.evOf cluster
  let src := v.extractLsb' 0 8
  let v' : DWord := (v &&& 0x100) ||| (if src.toNat < 0x10 then src.setWidth 64 else 0)
  let e' := { e with sel := e.sel.set (k % 8) v' (Nat.mod_lt _ (by decide)),
                     cnt := e.cnt.set (k % 8) 0 (Nat.mod_lt _ (by decide)) }
  { s with evc := (s.evc.filter (·.cluster != cluster)) ++ [e'] }

/-- OP, CORE, CONTEXT of `SPCMD` (R423). -/
def spFields (v : DWord) : Nat × Nat × Nat :=
  ((v.extractLsb' 62 2).toNat, (v.extractLsb' 10 6).toNat, (v.extractLsb' 5 5).toNat)

/-- The offset from `RECBASE` of the record of a barrel slot, and of a wide context (R422). -/
def travOff (cluster core slot : Nat) : Nat := 0x400 * (512 * cluster + 16 * core + slot)

/-- Of a wide context. -/
def warpOff (cluster core ctx : Nat) : Nat := 0x2000000 + 0x4000 * (128 * cluster + 32 * (core - 32) + ctx)

/-- Every line of a record lies in the near or the capacity tier (R422, R423). -/
def recordOk (pa n : Nat) : Bool :=
  (List.range (n / 128)).all fun k => match regionOf (pa + 128 * k) with
    | some .near | some .capacity => true
    | _ => false

/-- The error code of a command as it is written, if it is refused at once (R423). -/
def State.spRefuse (s : State) (cluster : Nat) (v : DWord) : Option (BitVec 8) :=
  let (op, core, ctx) := spFields v
  if 2 ≤ op then
    if core < 32 ∨ 36 ≤ core then some 0x01
    else if !recordOk (s.recbase.toNat + warpOff cluster core ctx) 9728 then some 0x28
    else none
  else if 32 ≤ core ∨ 15 ≤ ctx then some 0x01
  else if !recordOk (s.recbase.toNat + travOff cluster core ctx) 1024 then some 0x28
  else none

/-- The traveller of a job whose home is a barrel slot and which travels: a spill of the slot waits for it (R424). -/
def State.awayFrom (s : State) (cluster : Nat) (v : DWord) (job : Nat) : Option Nat :=
  let (op, core, ctx) := spFields v
  if op ≠ 0 then none
  else (s.agents.find? fun a => !a.wide && a.job == job && a.home == ⟨cluster, core, ctx⟩ && a.status == .travelling).map (·.uid)

/-- A write of `SPCMD` by a job (R423). -/
def State.spWrite (s : State) (cluster : Nat) (v : DWord) (job : Nat) : State :=
  let x := s.spillOf cluster
  match x.cmd with
  | some _ => s.setSpill { x with err := true, code := 0x01 }
  | none =>
    match s.spRefuse cluster v with
    | some c => s.setSpill { x with done := false, err := true, code := c }
    | none => s.setSpill ⟨cluster, some (v, job), s.awayFrom cluster v job, false, false, 0⟩

/-- `SPSTAT` (R423). -/
def Spill.stat (x : Spill) : DWord :=
  BitVec.ofBool x.cmd.isSome ++ BitVec.ofBool x.done ++ BitVec.ofBool x.err ++ (0 : BitVec 53) ++ x.code

/-- The 8 bytes of a register; of an unassigned one, and of `SPCMD`, which is written only, the spec states no value (log
entry 7). -/
def State.reg8 (s : State) (pa : Nat) : State × DWord :=
  match devReg pa with
  | .spstat c => (s, (s.spillOf c).stat)
  | .evsel c k => (s, (s.evOf c).sel[k % 8]'(Nat.mod_lt _ (by decide)))
  | .evcnt c k => (s, (s.evOf c).cnt[k % 8]'(Nat.mod_lt _ (by decide)))
  | .spcmd _ | .unassigned =>
    let r := s.chooseNat (2 ^ 64)
    (r.2, BitVec.ofNat 64 r.1)

/-- A load of 4 or 8 bytes. -/
def State.regRead (s : State) (pa n : Nat) : State × List Byte :=
  let r := s.reg8 (pa / 8 * 8)
  (r.1, (toBytes 8 r.2.toNat).drop (pa % 8) |>.take n)

/-- A store of 4 or 8 bytes; half a register keeps its other half as it reads. -/
def State.regWrite (s : State) (pa : Nat) (bs : List Byte) (job : Nat) : State :=
  let a := pa / 8 * 8
  let r := if bs.length = 8 then (s, 0) else s.reg8 a
  let o := toBytes 8 r.2.toNat
  let v : DWord := BitVec.ofNat 64 (ofBytes (o.take (pa % 8) ++ bs ++ o.drop (pa % 8 + bs.length)))
  match devReg a with
  | .spcmd c => r.1.spWrite c v job
  | .evsel c k => r.1.evselWrite c k v
  | _ => s

/-- What a release has written to a device register is with the register until an acquire or a fence takes it up, as LRT is for a
store (14_memory_model.md R318; log entry 62); a system-scope acquire takes HWS too (23_host_and_links.md R463). -/
def State.regLoaded (s : State) (uid l pa : Nat) (acq sys : Bool) : State :=
  let t := sget 0 (pa / 8) s.regTime
  if acq then s.settleAccess uid s.nextId l (if sys then tmax t s.hws else t) true else s.noteLrt uid s.nextId l t

/-- A store to a device register that is a release, or follows a fence with release, leaves its time there (R318, R320). -/
def State.regStored (s : State) (uid l pa : Nat) (rel : Bool) : State :=
  let ln := s.laneOf uid l
  if rel || ln.fenceRel != 0 then
    { s with regTime := sput 0 (pa / 8) (tmax (sget 0 (pa / 8) s.regTime) (tmax ln.soFar ln.fenceRel)) s.regTime }
  else s

/-! ### Loads -/

/-- Changing a load. -/
def State.updLoad (s : State) (id : Nat) (f : Load → Load) : State :=
  { s with loads := s.loads.map fun l => if l.id = id then f l else l }

/-- Changing a piece of a load. -/
def Load.updPiece (l : Load) (k : Nat) (f : Piece → Piece) : Load := { l with pieces := l.pieces.modify k f }

/-- Binding a piece: its bytes and whether a poisoned sector gave them; a system-scope acquire takes HWS (R463). -/
def State.bindPiece (s : State) (l : Load) (k : Nat) (d : LineData) (bad : BitVec 8) : State :=
  let s := s.updLoad l.id fun l => l.updPiece k fun p =>
    { p with val := some (lineBytes d p.off p.len, decide (bad &&& sectorMask p.off p.len ≠ 0)), queued := false }
  if l.acq && l.sys then s.liftLane l.uid l.lane s.hws else s

/-- The miss record of a line (R53). -/
def State.missOf (s : State) (cluster line : Nat) : Option Miss :=
  s.misses.find? fun m => m.cluster == cluster && m.line == line

/-- Changing a miss record. -/
def State.updMiss (s : State) (cluster line : Nat) (f : Miss → Miss) : State :=
  { s with misses := s.misses.map fun m => if m.cluster = cluster ∧ m.line = line then f m else m }

/-- The link to the device that owns an address of the window (23_host_and_links.md R468). -/
def State.linkOf (s : State) (pa : Nat) : Nat :=
  match s.links.find? fun l => l.peer == pa / 2 ^ 42 % 16 with
  | some l => l.num
  | none => 0

/-- Changing a link. -/
def State.updLink (s : State) (n : Nat) (f : Link → Link) : State :=
  { s with links := s.links.map fun x => if x.num = n then f x else x }

/-- The 240 bytes of a flit's payload (23_host_and_links.md R467): zeros after the bytes that it carries. -/
def flitPayload (bytes : List Byte) : Vector Byte 240 := Vector.ofFn fun i => bytes.getD i.val 0

/-- Sending a flit on a link, with the next SEQ (23_host_and_links.md R467). -/
def State.sendFlit (s : State) (link ty : Nat) (bytes : List Byte) (bad : Bool) : State :=
  s.updLink link fun x =>
    let n := (x.outSeq + 1) % 4096
    { x with outSeq := n, sent := x.sent ++ [⟨ty, n, x.inSeq, flitPayload bytes, bad⟩] }

/-- The data of a window request, with its mark of poison. -/
def WinKind.carries (k : WinKind) : List Byte × Bool :=
  match k with
  | .store bs bad | .estore _ bs bad => (bs, bad)
  | .red a bad => (toBytes a.size a.v.toNat, bad)
  | .atomic a .. | .ered _ a => (toBytes a.size a.v.toNat, false)
  | .load _ | .eread _ | .fetch .. | .ehead .. => ([], false)

/-- Sending a request to the window (R468): type 1. -/
def State.sendWin (s : State) (uid lane addr len : Nat) (kind : WinKind) (va : DWord) : State :=
  let n := s.linkOf addr
  let s := s.sendFlit n 1 kind.carries.1 kind.carries.2
  { s with winReqs := s.winReqs ++ [⟨s.nextId, n, uid, lane, addr, len, kind, none, va⟩], nextId := s.nextId + 1 }

/-- Sending a read or a renewal to the home and opening a miss record (R43, R53). -/
def State.postRead (s : State) (l : Load) (cluster line job cls : Nat) (t : DWord) : State :=
  let n := s.leaseLen job cls
  let k : ReqKind × Stamp := match s.copyOf cluster line with
    | some c => if c.isO || c.isU then (.read, 0) else (.renew, c.wts)
    | none => (.read, 0)
  let s := s.tally cluster 0x05 1
  { s with reqs := s.reqs ++ [⟨s.nextId, k.1, cluster, l.uid, l.lane, line, t, n, k.2, cls⟩],
           misses := s.misses ++ [⟨cluster, line, [(l.id, t)], false, s.effClass job cls != 0⟩], nextId := s.nextId + 1 }

/-- A piece waits for a miss record, and no other has waited longer in its cluster (04_cluster_store.md R72). -/
def State.missTurn (s : State) (cluster id k : Nat) : Bool :=
  match s.missWait.find? fun x => x.1 == cluster && (s.loads.any fun l => l.id == x.2.1
      && match l.pieces[x.2.2]? with | some p => p.queued && p.val.isNone | none => false) with
  | some x => x.2 == (id, k)
  | none => true

/-- A piece has been presented. -/
def State.leaveQueue (s : State) (id k : Nat) : State :=
  { s with missWait := s.missWait.filter fun x => x.2 != (id, k) }.updLoad id fun l => l.updPiece k fun p => { p with queued := false }

/-- Presenting one piece of a load: it waits for earlier writes of its port to the line and for earlier loads of its port;
then it hits, joins a miss record, or opens one (R43, R53, R72, R313, R316). -/
def State.present (s : State) (id k : Nat) : State :=
  match s.loads.find? (·.id == id) with
  | none => s
  | some l =>
    match l.pieces[k]?, s.agent? l.uid with
    | some p, some a =>
      let core := a.place.coreId
      let cl := core.cluster
      let earlier := s.loads.filter fun x => decide (x.id < id) && s.samePort core l.uid (s.coreOf x.uid) x.uid x.id
      if p.val.isSome || !p.queued || s.writeBefore core l.uid id p.line
          || (earlier.any fun x => x.pieces.any fun q => q.line == p.line && q.queued && q.val.isNone) then s
      else if regionOf (128 * p.line) = some .window then
        (s.leaveQueue id k).sendWin l.uid l.lane (128 * p.line + p.off) p.len (.load id) l.va
      else
        let t := s.loadTime a l.lane p.line
        let s := (s.liftLane l.uid l.lane t).raiseCtime cl t
        let follow := earlier.any fun x => x.pieces.any fun q => q.line == p.line && q.val.isNone
        match (if follow then none else s.hitAt cl p.line t) with
        | some (s, d, bad, t') =>
          let s := (s.leaveQueue id k).noteLoad l.uid l.lane p.line ((s.copyOf cl p.line).map (·.wts) |>.getD 0)
          (((s.liftLane l.uid l.lane t').raiseCtime cl t').settleAccess l.uid l.id l.lane t' false).bindPiece l k d bad
        | none =>
          match s.missOf cl p.line with
          | some _ =>
            (s.updMiss cl p.line fun m =>
              { m with loads := if m.loads.any (·.1 == id) then m.loads else m.loads ++ [(id, t)],
                       install := m.install || s.effClass a.job p.cls != 0 }).leaveQueue id k
          | none =>
            if 256 ≤ (s.misses.filter (·.cluster == cl)).length || !s.missTurn cl id k then
              (if s.missWait.contains (cl, id, k) then s else { s with missWait := s.missWait ++ [(cl, id, k)] })
            else (s.postRead l cl p.line a.job p.cls t).leaveQueue id k
    | _, _ => s

/-- Presenting every waiting piece of a load. -/
def State.presentAll (s : State) (id : Nat) : State :=
  match s.loads.find? (·.id == id) with
  | none => s
  | some l => (List.range l.pieces.length).foldl (fun s k => s.present id k) s

/-- The bytes of a load all of whose pieces are bound, and whether one was poisoned. -/
def Load.bytes? (l : Load) : Option (List Byte × Bool) :=
  l.pieces.foldl (fun r p => match r, p.val with
    | some (bs, b), some (cs, c) => some (bs ++ cs, b || c)
    | _, _ => none) (some ([], false))

/-- The numeric order of `BINS` and `HSIFT` keys: a before b, with −0 below +0 (10_isa_lane.md R235). -/
def keyLess (t : KeyTy) (a b : Word) : Bool :=
  match t with
  | .i32 => decide (a.toInt < b.toInt)
  | .n32 => decide (a.toNat < b.toNat)
  | .f32 => (decodeF .f32 a.toNat).less (decodeF .f32 b.toNat)

/-- The count of `BINS` (R237): thresholds at or below x, or below it; binary32 compares numerically, a NaN threshold is
not counted and a NaN x gives all ones. -/
def binsCount (t : KeyTy) (lt : Bool) (x : Word) (ths : List Word) : Word :=
  let nan (w : Word) : Bool := t == .f32 && (decodeF .f32 w.toNat).isNaN
  let cmp (w : Word) : Int := match t with
    | .i32 => w.toInt - x.toInt
    | .n32 => (w.toNat : Int) - x.toNat
    | .f32 => (decodeF .f32 w.toNat).numCmp (decodeF .f32 x.toNat)
  if nan x then 0xFFFFFFFF
  else BitVec.ofNat 32 (ths.filter fun w => !nan w && (if lt then decide (cmp w < 0) else decide (cmp w ≤ 0))).length

/-- The 32-bit words of bytes. -/
def wordsOf (bs : List Byte) : List Word :=
  (List.range (bs.length / 4)).map fun i => BitVec.ofNat 32 (ofBytes ((bs.drop (4 * i)).take 4))

/-- The registers of a load that the scale-up window did not answer (23_host_and_links.md R469). -/
def State.loseDest (s : State) (uid l : Nat) (d : Dest) (va : DWord) : State :=
  match d with
  | .regs rs _ _ => s.updLane uid l fun ln => rs.foldl (fun ln r => ln.lose (Fin.ofNat 64 r) va) ln
  | .uni r _ _ => s.updAgent uid fun a => { a with sBad := setBit a.sBad r true, sGone := a.sGone ++ [(r, va)] }
  | _ => s

/-- A load all of whose pieces are bound returns: its destination is written full. -/
def State.finishLoad (s : State) (id : Nat) : State :=
  match s.loads.find? (·.id == id) with
  | none => s
  | some l =>
    match l.bytes? with
    | none => s
    | some (bs, bad) =>
      let s := { s with loads := s.loads.filter (·.id != id) }
      match l.kind with
      | .plain =>
        let v := ofBytes bs
        let s := s.writeDest l.uid l.lane l.dst (BitVec.ofNat 64 v) (BitVec.ofNat 64 (v / 2 ^ 64)) bad
        let s := if l.acq then s.settleAccess l.uid l.id l.lane (s.laneOf l.uid l.lane).ltime true else s
        if l.lost then s.loseDest l.uid l.lane l.dst l.va else s
      | .bins t lt x =>
        let s := s.writeDest l.uid l.lane l.dst ((binsCount t lt x (wordsOf bs)).setWidth 64) 0 bad
        if l.lost then s.loseDest l.uid l.lane l.dst l.va else s
      | .held => { s with loads := s.loads ++ [l] }

/-! ### Writes -/

/-- Changing a write. -/
def State.updWrite (s : State) (id : Nat) (f : Write → Write) : State :=
  { s with writes := s.writes.map fun w => if w.id = id then f w else w }

/-- A write all of whose pieces are performed is acknowledged (13_isa_return.md R289). -/
def State.finishWrite (s : State) (id : Nat) : State :=
  match s.writes.find? (·.id == id) with
  | none => s
  | some w =>
    if w.pieces.all (·.performed) then
      let job := match s.agent? w.uid with | some a => a.job | none => 0
      let back := match w.kind with
        | .store => (w.pieces.filter fun p => s.effClass job p.cls == 0).map (·.line)
        | .red _ => []
      { s with writes := s.writes.filter (·.id != id), acks := s.acks ++ [⟨s.nextId, w.uid, w.core.cluster, back, id⟩],
               nextId := s.nextId + 1 }
    else s

/-- A piece of a write may be performed: every earlier load of the unit is bound (R314), and the port's earlier accesses to
the line are performed (R313, R290). -/
def State.mayWrite (s : State) (w : Write) (line : Nat) : Bool :=
  s.loadsBound w.uid w.id && !s.writeBefore w.core w.uid w.id line w.grp && !s.loadBefore w.core w.uid w.id line

/-- Performing one piece of a store in its cluster's O copy (R44), or of a reduction in its U copy (R48). -/
def State.performPiece (s : State) (id k : Nat) : State :=
  match s.writes.find? (·.id == id) with
  | none => s
  | some w =>
    match w.pieces[k]? with
    | none => s
    | some p =>
      if p.performed || !s.mayWrite w p.line then s
      else
        let t := match s.agent? w.uid with | some a => s.writeTime a w.lane | none => 0
        let own : BitVec 128 := match w.kind with | .store => byteMask p.off p.bytes.length | .red _ => 0
        let done (s : State) (t' : DWord) : State :=
          ((((s.liftLane w.uid w.lane t').raiseCtime w.core.cluster t').noteWrite w.core w.uid w.lane id p.line t' own).updWrite id fun w =>
            { w with pieces := w.pieces.modify k fun p => { p with performed := true } }).finishWrite id
        match w.kind with
        | .store =>
          match s.copyOf w.core.cluster p.line with
          | some c =>
            if c.isO then
              let r := s.writeO w.core.cluster p.line t p.off p.bytes w.bad
              done r.1 r.2
            else s
          | none => s
        | .red a =>
          match s.updateU w.core.cluster p.line t a w.bad with
          | some r => done r.1 r.2
          | none => s

/-- Performing the writes of a cluster to a line that may be performed, oldest first; where floating adds or the reductions of
one instruction are among them, in an arrival order at the bank that is a free choice (R48, 13_isa_return.md R299). -/
def State.performLine (s : State) (cluster line : Nat) : State :=
  let ws := s.writes.filter fun w => w.core.cluster == cluster && w.pieces.any (·.line == line)
  let adds := ws.filter fun w => match w.kind with
    | .red a => a.op == .fadd || a.op == .fmin || a.op == .fmax
    | .store => false
  let r := if 2 ≤ adds.length then s.shuffle ws.length ws else (ws, s)
  r.1.foldl (fun s w =>
    (List.range w.pieces.length).foldl (fun s k =>
      if (w.pieces[k]?.map (·.line)) = some line then s.performPiece w.id k else s) s) r.2

/-- A request of a kind for a line is on its way from a cluster, or its grant to it. -/
def State.asking (s : State) (cluster line : Nat) (own : Bool) : Bool :=
  (s.reqs.any fun r => r.cluster == cluster && r.line == line && (match r.kind with
      | .own => own
      | .join => !own
      | _ => false))
    || (own && s.reps.any fun r => r.cluster == cluster && r.line == line && (match r.kind with
      | .grant _ => true
      | _ => false))

/-- Asking the home for ownership, or to join the update holders, for one piece of a write whose line is not in the state
it needs (R44, R48). -/
def State.askPiece (s : State) (w : Write) (p : WPiece) : State :=
  let cl := w.core.cluster
  let own := match w.kind with | .store => true | .red _ => false
  let have_ := match s.copyOf cl p.line with
    | some c => (match w.kind with
        | .store => c.isO
        | .red a => (match c.st with | .U ps _ => unitesWith ps a | _ => false))
    | none => false
  if p.performed || have_ || s.asking cl p.line own then s
  else
    let t := match s.agent? w.uid with | some a => s.writeTime a w.lane | none => 0
    { s with reqs := s.reqs ++ [⟨s.nextId, if own then .own else .join, cl, w.uid, w.lane, p.line, t, 0, 0, p.cls⟩],
             nextId := s.nextId + 1 }

/-- A write tries again: it asks for what it lacks, and its pieces that may be performed are performed. -/
def State.tryWrite (s : State) (id : Nat) : State :=
  match s.writes.find? (·.id == id) with
  | none => s
  | some w =>
    let s := w.pieces.foldl (fun s p => s.askPiece w p) s
    (List.range w.pieces.length).foldl (fun s k => s.performPiece id k) s

/-! ### What a lane sends -/

/-- The parts of a range of physical memory within lines: line, offset, length. The fuel bounds their number. -/
def linesOf : Nat → Nat → Nat → List (Nat × Nat × Nat)
  | 0, _, _ => []
  | k + 1, pa, n =>
    let m := min n (128 - pa % 128)
    if n = 0 then [] else (pa / 128, pa % 128, m) :: linesOf k (pa + m) (n - m)

/-- The lease class of an access: the instruction's, or the page's (01_main_memory.md R28). -/
def clsOf (cls : Option Nat) (leaf : DWord) : Nat :=
  match cls with
  | some c => c
  | none => (leaf.extractLsb' 60 3).toNat

/-- A segment that lies in the device-register region. -/
def Seg.dev : Seg → Bool
  | .mem pa _ _ => regionOf pa == some .device
  | _ => false

/-- A segment that lies in the own store. -/
def Seg.isOwn : Seg → Bool
  | .own .. => true
  | _ => false

/-- The physical registers of a destination name. -/
def physRegs (rrb : BitVec 4) (d : GReg) (n : Nat) : List Nat :=
  (List.range n).map fun i => (physG rrb (d + BitVec.ofNat 6 i)).val

/-- Marking the registers of a destination empty, their producer pending (06_registers.md R118). -/
def State.pendDest (s : State) (uid l : Nat) (d : Dest) : State :=
  match d with
  | .regs rs _ _ => s.updLane uid l fun ln => rs.foldl (fun ln r => ln.setPending (Fin.ofNat 64 r)) ln
  | _ => s

/-- A load of a lane (09_isa_arrival.md R189): the own store and the device registers answer at once; a remote store is sent
an access; translated memory is presented to the cluster cache. -/
def State.sendLoad (s : State) (c : Ctx) (l : Nat) (segs : List Seg) (dst : Dest) (cls : Option Nat) (acq sys : Bool)
    (va : DWord) : State :=
  let core := c.a.place.coreId
  match segs with
  | [.own off n] =>
    let (s, v, hi) := s.localNow core c.uid l off (.load n) false acq sys false
    s.writeDest c.uid l dst v hi false
  | [.remote rc off n] =>
    if rc = core then
      let (s, v, hi) := s.localNow core c.uid l off (.load n) false acq sys false
      s.writeDest c.uid l dst v hi false
    else
      let t := (c.a.lane l).sendTime (.load n)
      { s.pendDest c.uid l dst with
        remotes := s.remotes ++ [(⟨s.nextId, c.uid, l, core, rc, off, .load n, dst, false, acq, sys, t, false, va, false,
          false, none, none, [], []⟩ : Remote)],
        nextId := s.nextId + 1 }
  | segs =>
    if segs.any Seg.dev then
      match segs with
      | .mem pa n _ :: _ =>
        let (s, bs) := s.regRead pa n
        let s := s.regLoaded c.uid l pa acq sys
        s.writeDest c.uid l dst (BitVec.ofNat 64 (ofBytes bs)) 0 false
      | _ => s
    else
      let s := (s.touch c.uid l).1
      let s := if segs.any Seg.isOwn then s.noteLrt c.uid s.nextId l (s.lrtOf core) else s
      let pieces : List Piece := segs.flatMap fun g =>
        match g with
        | .mem pa n leaf => (linesOf (n / 128 + 2) pa n).map fun x =>
            (⟨x.1, x.2.1, x.2.2, none, true, if regionOf pa = some .window then 0 else clsOf cls leaf⟩ : Piece)
        | .own off n => [⟨0, 0, n, some (s.lbytes core off n, (s.lbad core off n).isSome), false, 0⟩]
        | .remote .. => []
      let id := s.nextId
      let s := { s.pendDest c.uid l dst with
        loads := s.loads ++ [(⟨id, c.uid, l, .plain, dst, pieces, acq, sys, va, false⟩ : Load)], nextId := id + 1 }
      s.presentAll id

/-- One more unacknowledged write (13_isa_return.md R289). -/
def State.count (s : State) (uid : Nat) : State := s.updAgent uid fun a => { a with acks := a.acks + 1 }

/-- A remote write of a lane: counted until its port has performed it. -/
def State.sendRemote (s : State) (c : Ctx) (l : Nat) (rc : CoreId) (off : Nat) (acc : LAcc) (dst : Dest)
    (rel acq sys bad holds counted : Bool) (va : DWord) : State :=
  let ln := s.laneOf c.uid l
  let s := { s.pendDest c.uid l dst with
    remotes := s.remotes ++ [⟨s.nextId, c.uid, l, c.a.place.coreId, rc, off, acc, dst, rel || ln.fenced acc, acq, sys, ln.sendTime acc, bad, va,
      holds, counted, none, none, [], []⟩],
    nextId := s.nextId + 1 }
  if counted then s.count c.uid else s

/-- A store of a lane (R293): the own store at issue, a remote store by message, the device registers at once, translated
memory as a write in flight, the scale-up window as a request. -/
def State.sendStore (s : State) (c : Ctx) (l : Nat) (segs : List Seg) (bytes : List Byte) (cls : Option Nat)
    (rel bad : Bool) (va : DWord) : State :=
  let core := c.a.place.coreId
  match segs with
  | [.own off _] => (s.localNow core c.uid l off (.store bytes) rel false false bad).1
  | [.remote rc off _] =>
    if rc = core then (s.localNow core c.uid l off (.store bytes) rel false false bad).1
    else s.sendRemote c l rc off (.store bytes) .none rel false false bad false true va
  | segs =>
    if segs.any Seg.dev then
      match segs with
      | .mem pa _ _ :: _ => (s.regStored c.uid l pa rel).regWrite pa bytes c.a.job
      | _ => s
    else
      let s := (s.touch c.uid l).1
      let lens := segs.map fun g => match g with | .mem _ n _ => n | .own _ n => n | .remote _ _ n => n
      let parts := (segs.zip lens).foldl (fun (r : List (Seg × List Byte) × List Byte) x =>
        (r.1 ++ [(x.1, r.2.take x.2)], r.2.drop x.2)) ([], bytes)
      -- bytes of the own store at issue, of the window by request, the rest as one write
      let s := parts.1.foldl (fun s x => match x.1 with
        | .own off _ => (s.localNow core c.uid l off (.store x.2) rel false false bad).1
        | .mem pa n _ =>
          if regionOf pa = some .window then (s.sendWin c.uid l pa n (.store x.2 bad) va).count c.uid else s
        | .remote .. => s) s
      let pieces : List WPiece := parts.1.flatMap fun x =>
        match x.1 with
        | .mem pa n leaf =>
          if regionOf pa = some .window then []
          else (linesOf (n / 128 + 2) pa n).map fun y =>
            ⟨y.1, y.2.1, (x.2.drop (128 * y.1 + y.2.1 - pa)).take y.2.2, false, clsOf cls leaf⟩
        | _ => []
      if pieces.isEmpty then s
      else
        let id := s.nextId
        let s := { s with writes := s.writes ++ [(⟨id, c.uid, l, core, .store, pieces, bad, va, 0⟩ : Write)], nextId := id + 1 }
        let s := s.count c.uid
        match s.writes.find? (·.id == id) with
        | some w => w.pieces.foldl (fun s p => s.askPiece w p) s
        | none => s

/-- An atomic of a lane (R297). -/
def State.sendAtomic (s : State) (c : Ctx) (l : Nat) (segs : List Seg) (a : EAct) (dst : Dest) (rel acq sys : Bool)
    (va : DWord) : State :=
  let core := c.a.place.coreId
  let own (off : Nat) : State :=
    let (s, v, hi) := s.localNow core c.uid l off (.rmw a) rel acq sys false
    s.writeDest c.uid l dst v hi false
  match segs with
  | [.own off _] => own off
  | [.remote rc off _] =>
    if rc = core then own off else s.sendRemote c l rc off (.rmw a) dst rel acq sys false false true va
  | [.mem pa n _] =>
    let r := s.touch c.uid l
    let s := r.1.pendDest c.uid l dst
    if regionOf pa = some .window then s.sendWin c.uid l pa n (.atomic a dst acq sys) va
    else
      { s with reqs := s.reqs ++ [⟨s.nextId, .atomic { a with off := pa % 128 } dst acq sys core va, core.cluster, c.uid, l,
                 pa / 128, r.2, 0, 0, 0⟩],
               nextId := s.nextId + 1 }
  | _ => s

/-- A reduction of a lane (R299); `grp` is the same for the lanes of one instruction. -/
def State.sendRed (s : State) (c : Ctx) (l : Nat) (segs : List Seg) (a : EAct) (rel bad : Bool) (va : DWord) (grp : Nat) :
    State :=
  let core := c.a.place.coreId
  match segs with
  | [.own off _] => (s.localNow core c.uid l off (.rmw a) rel false false bad).1
  | [.remote rc off _] =>
    if rc = core then (s.localNow core c.uid l off (.rmw a) rel false false bad).1
    else s.sendRemote c l rc off (.rmw a) .none rel false false bad false true va
  | [.mem pa n _] =>
    let s := (s.touch c.uid l).1
    if regionOf pa = some .window then (s.sendWin c.uid l pa n (.red a bad) va).count c.uid
    else
      let id := s.nextId
      let w : Write := ⟨id, c.uid, l, core, .red { a with off := pa % 128 },
        [⟨pa / 128, pa % 128, [], false, 0⟩], bad, va, grp⟩
      ({ s with writes := s.writes ++ [w], nextId := id + 1 }.count c.uid).askPiece w ⟨pa / 128, pa % 128, [], false, 0⟩
  | _ => s

/-! ### Checks shared by the memory instructions -/

/-- The poison that a read of some places meets (19_traps.md R429): TVAL and UESRC; `t` is the time of a load. -/
def State.poisonAt (s : State) (core : CoreId) (t : Option DWord) (segs : List Seg) (va : DWord) : Option (DWord × BitVec 2) :=
  let step (r : Nat × Option (DWord × BitVec 2)) (g : Seg) : Nat × Option (DWord × BitVec 2) :=
    let hit (lo : Option Nat) (base : Nat) (u : BitVec 2) : Option (DWord × BitVec 2) :=
      r.2.or (lo.map fun o => (va + BitVec.ofNat 64 (r.1 + o - base), u))
    match g with
    | .own off n => (r.1 + n, hit (s.lbad core off n) off 1)
    | .remote c off n => (r.1 + n, hit (s.lbad c off n) off 1)
    | .mem pa n _ =>
      let lo := if homed pa then
          ((List.range n).map (pa + ·)).find? fun a => (s.badSeen core.cluster t (a / 128)).getLsbD (a % 128 / 16)
        else none
      (r.1 + n, hit lo pa 0)
  (segs.foldl step (0, none)).2

/-- The write limit of a unit (13_isa_return.md R289). -/
def Agent.writeLimit (a : Agent) : Nat := if a.wide then 1024 else 256

/-- A write of a lane counts (R289): to another core's store or to memory; an atomic of memory does not. -/
def writeCounts (core : CoreId) (atom : Bool) (segs : List Seg) : Bool :=
  segs.any fun g => match g with
    | .own .. => false
    | .remote c _ _ => c != core
    | .mem pa _ _ => !atom && regionOf pa != some .device

/-- Room for the writes of an instruction's lanes, which are sent together (R289). -/
def State.writeRoom (s : State) (c : Ctx) : Bool :=
  match s.agent? c.uid with
  | some a => a.acks + (Mask.list c.act).length ≤ a.writeLimit
  | none => true

/-- A host-memory line that a cluster holds in O with a write by a unit (R294). -/
def State.hostOwned (s : State) (uid : Nat) (c : Copy) : Bool :=
  c.isO && regionOf (128 * c.line) == some .host && s.seen.any fun x => x.line == c.line && match x.by_ with
    | .own u _ => u == uid
    | _ => false

/-- Those lines of a cluster are written back (R294). -/
def State.flushHost (s : State) (uid cluster : Nat) : State :=
  (s.copies.filter fun c => c.cluster == cluster && s.hostOwned uid c).foldl (fun s c => s.evict cluster c.line) s

/-- Such lines are still to be written back, or on their way. -/
def State.hostBack (s : State) (uid cluster : Nat) : Bool :=
  (s.copies.any fun c => c.cluster == cluster && s.hostOwned uid c)
    || s.reqs.any fun r => r.cluster == cluster && regionOf (128 * r.line) == some .host
        && (match r.kind with | .writeback .. => true | _ => false)
        && s.seen.any fun x => x.line == r.line && match x.by_ with
          | .own u _ => u == uid
          | _ => false

/-- The watch check of R67 and the loss of R469 for one lane: what a release takes before its waits. -/
def State.watchCheck (s : State) (c : Ctx) (l : Nat) : Chk Unit :=
  if s.watches.any fun w => w.uid == c.uid && w.lane == l then .wait .order
  else
    match s.agent? c.uid with
    | none => .ok ()
    | some a =>
      if (a.lane l).struck then .fault 0x42 0 0
      else
        match a.lost with
        | some va => .fault 0x26 va 0
        | none => .ok ()

/-- The accesses in flight of every unit. -/
def State.liveAccesses (s : State) : List Nat := s.agents.flatMap fun a => s.flightOf a.uid

/-- A release of core scope has been made: what the unit has sent comes, for every unit of the core, before what they send later
(14_memory_model.md R311, R318; log entry 55). -/
def State.portAll (s : State) (uid : Nat) : State :=
  let live := s.liveAccesses
  let owed := match s.agent? uid with | some a => a.owed | none => []
  { s with ported := s.ported.filter live.contains ++ s.flightOf uid ++ owed.filter live.contains }

/-- The waits of a release at a scope (R294): done, or not yet. Beyond the core it waits too for what other units of the core have
sent, where an acquire at their release of core scope puts it before this one (14_memory_model.md R319; log entry 55). -/
def State.releaseWaits (s : State) (c : Ctx) (scope : Scope) : State × Bool :=
  let acks := match s.agent? c.uid with | some a => a.acks | none => 0
  let owed := match s.agent? c.uid with | some a => a.owed | none => []
  let dev := s.loadsReturned c.uid && acks == 0 && owed.all fun i => !s.liveAccesses.contains i
  match scope with
  | .thr => (s, true)
  | .core => (s, s.loads.all fun l => l.uid != c.uid || l.pieces.all fun p => !p.queued || p.val.isSome)
  | .clu | .dev => (s, dev)
  | .sys =>
    if !dev then (s, false)
    else if s.hostBack c.uid c.cluster then (s.flushHost c.uid c.cluster, false) else (s, true)

/-- A loss that has been reported is forgotten. -/
def State.clearLost (s : State) (uid : Nat) : State := s.updAgent uid fun a => { a with lost := none }

/-- That check; a loss that it reports is forgotten. -/
def State.watchLost (s : State) (c : Ctx) (l : Nat) : State × Chk Unit :=
  match s.watchCheck c l with
  | .fault x t u => (if x = 0x26 then s.clearLost c.uid else s, .fault x t u)
  | r => (s, r)

/-- Sequencing checks. -/
def chkThen {α β : Type} (r : State × Chk α) (f : State → α → State × Chk β) : State × Chk β :=
  match r with
  | (s, .ok a) => f s a
  | (s, .wait k) => (s, .wait k)
  | (s, .fault x t u) => (s, .fault x t u)
  | (s, .due d) => (s, .due d)

/-- A release at a scope for one lane: check, then waits (R67, R294). -/
def State.releaseCheck (s : State) (c : Ctx) (l : Nat) (scope : Scope) : State × Chk Unit :=
  chkThen (s.watchLost c l) fun s _ =>
    let r := s.releaseWaits c scope
    if !r.2 then (r.1, .wait .order)
    else
      let s := r.1.levelLane c.uid l
      (if scope = .core then s.portAll c.uid else s, .ok ())

/-- `FILL` and `SETF` with release wait, whatever the scope, until the unit's earlier stores and remote accesses are
acknowledged (09_isa_arrival.md R196). -/
def State.ackedCheck (s : State) (c : Ctx) (rel : Bool) : State × Chk Unit :=
  let acks := match s.agent? c.uid with | some a => a.acks | none => 0
  (s, if rel && (acks != 0 || s.remotes.any (·.uid == c.uid) || s.rreplies.any (·.uid == c.uid)) then .wait .order else .ok ())

/-- Later accesses wait for an acquire (R191). -/
def State.acqCheck (s : State) (uid : Nat) : State × Chk Unit :=
  (s, if s.acqHeld uid then .wait .order else .ok ())

/-- The register accesses of R14 are naturally aligned and of 4 or 8 bytes. -/
def regSize (va : DWord) (n : Nat) : Bool := (n == 4 || n == 8) && va.toNat % n == 0

end Sys2Proof.Machine
end

