-- ==== Sys2Proof/Machine/Lane.lean ====
section
/-! DEFINITION. The lane instructions of 10_isa_lane.md that work on registers alone (R209-R234, R239). -/

namespace Sys2Proof.Machine

/-! ### Shapes -/

/-- The registers of a destination of an integer type. -/
def dstT (t : ITy) (d : GReg) : List GReg := if t.is64 then [d, d + 1] else [d]
/-- The registers of a pair or of one register. -/
def dstW (w64 : Bool) (d : GReg) : List GReg := if w64 then [d, d + 1] else [d]

/-- The second operand of a two-source operation is a 32-bit count. -/
def IOp.shifts : IOp → Bool
  | .shl | .shr | .sar | .rot => true
  | _ => false

/-- A two-source integer instruction (R213). -/
def int2 (i : Instr) (g : Guard) (op : IOp) (t : ITy) (sat : Bool) (d : GReg) (a b : Src) (s : State) :
    Host.Outcome State Fault Refusal :=
  issue i g s (laneExec [a.wT t, if op.shifts then b.w1 else b.wT t] [] (dstT t d) fun _ _ _ x =>
    let r := iopR op t sat (x.v 0) (x.v 1)
    { outT t d r.1 with flags := r.2 })

/-- A two-source integer instruction with an immediate, of type `.i32` (R213). -/
def intImm (i : Instr) (op : IOp) (d a : GReg) (imm : DWord) (s : State) : Host.Outcome State Fault Refusal :=
  issue i Guard.always s (laneExec [(rd a).w1] [] [d] fun _ _ _ x => out1 d (lo32 (iopR op .i32 false (x.v 0) imm).1))

/-- An immediate of 10 bits (R213, R218). -/
def sext10 (imm : BitVec 10) : DWord := (imm.signExtend 32).setWidth 64

/-- The result of a one-source integer instruction is one register in every type (R214). -/
def UOp.counts : UOp → Bool
  | .clz | .popc => true
  | _ => false

/-- A one-source integer instruction (R214, R218). -/
def int1 (i : Instr) (g : Guard) (op : UOp) (t : ITy) (sat : Bool) (d : GReg) (a : Src) (s : State) :
    Host.Outcome State Fault Refusal :=
  issue i g s (laneExec [a.wT t] [] (if op.counts then [d] else dstT t d) fun _ _ _ x =>
    let r := uopR op t sat (x.v 0)
    { (if op.counts then out1 d (lo32 r.1) else outT t d r.1) with flags := r.2 })

/-- A floating result in one register. -/
def outFl (d : GReg) (r : FRes) : LaneOut := { out1 d (BitVec.ofNat 32 r.bits) with flags := r.flags }

/-- A source of a floating instruction after its modifiers (R139). -/
def LaneIn.f (x : LaneIn) (k : Nat) (m : FMod) : Nat := FMod.apply m .f32 (x.w k).toNat

/-- No modifier. -/
def FMod.plain : FMod := ⟨false, false⟩

/-- A two-source floating instruction (R223). -/
def flt2 (i : Instr) (g : Guard) (f : RM → Bool → Nat → Nat → FRes) (r : Rnd) (sat : Bool) (d : GReg) (a : Src) (ma : FMod)
    (b : Src) (mb : FMod) (s : State) : Host.Outcome State Fault Refusal :=
  issue i g s (laneExec [a.w1, b.w1] [] [d] fun c _ _ x => outFl d (f (Rnd.mode r c.a.fpctl) sat (x.f 0 ma) (x.f 1 mb)))

/-- A one-source floating instruction (R223). -/
def flt1 (i : Instr) (g : Guard) (f : RM → Bool → Nat → FRes) (r : Rnd) (sat : Bool) (d : GReg) (a : Src) (ma : FMod)
    (s : State) : Host.Outcome State Fault Refusal :=
  issue i g s (laneExec [a.w1] [] [d] fun c _ _ x => outFl d (f (Rnd.mode r c.a.fpctl) sat (x.f 0 ma)))

/-- A predicate instruction (R222). -/
def prd2 (i : Instr) (f : Bool → Bool → Bool) (d a b : PReg) (s : State) : Host.Outcome State Fault Refusal :=
  issue i Guard.always s (laneExec [] [a, b] [] fun _ _ _ x => outP d (f (x.p 0) (x.p 1)))

/-! ### Integer instructions, 32-bit forms (R213, R214, R218, R219) -/

/-- `ADD`, Z32 form (R213). -/
def execAddZ32 (t : ITy) (d a b : GReg) (s : State) : Host.Outcome State Fault Refusal :=
  int2 (.addZ32 t d a b) Guard.always .add t false d (rd a) (rd b) s

/-- `SUB`, Z32 form (R213). -/
def execSubZ32 (t : ITy) (d a b : GReg) (s : State) : Host.Outcome State Fault Refusal :=
  int2 (.subZ32 t d a b) Guard.always .sub t false d (rd a) (rd b) s

/-- `MUL`, Z32 form (R213). -/
def execMulZ32 (t : ITy) (d a b : GReg) (s : State) : Host.Outcome State Fault Refusal :=
  int2 (.mulZ32 t d a b) Guard.always .mul t false d (rd a) (rd b) s

/-- `MULH`, Z32 form (R213). -/
def execMulhZ32 (t : ITy) (d a b : GReg) (s : State) : Host.Outcome State Fault Refusal :=
  int2 (.mulhZ32 t d a b) Guard.always .mulh t false d (rd a) (rd b) s

/-- `MIN`, Z32 form (R213). -/
def execMinZ32 (t : ITy) (d a b : GReg) (s : State) : Host.Outcome State Fault Refusal :=
  int2 (.minZ32 t d a b) Guard.always .min t false d (rd a) (rd b) s

/-- `MAX`, Z32 form (R213). -/
def execMaxZ32 (t : ITy) (d a b : GReg) (s : State) : Host.Outcome State Fault Refusal :=
  int2 (.maxZ32 t d a b) Guard.always .max t false d (rd a) (rd b) s

/-- `AND`, Z32 form (R213). -/
def execAndZ32 (t : ITy) (d a b : GReg) (s : State) : Host.Outcome State Fault Refusal :=
  int2 (.andZ32 t d a b) Guard.always .and t false d (rd a) (rd b) s

/-- `OR`, Z32 form (R213). -/
def execOrZ32 (t : ITy) (d a b : GReg) (s : State) : Host.Outcome State Fault Refusal :=
  int2 (.orZ32 t d a b) Guard.always .or t false d (rd a) (rd b) s

/-- `XOR`, Z32 form (R213). -/
def execXorZ32 (t : ITy) (d a b : GReg) (s : State) : Host.Outcome State Fault Refusal :=
  int2 (.xorZ32 t d a b) Guard.always .xor t false d (rd a) (rd b) s

/-- `ANDN`, Z32 form (R213). -/
def execAndnZ32 (t : ITy) (d a b : GReg) (s : State) : Host.Outcome State Fault Refusal :=
  int2 (.andnZ32 t d a b) Guard.always .andn t false d (rd a) (rd b) s

/-- `SHL`, Z32 form (R213). -/
def execShlZ32 (t : ITy) (d a b : GReg) (s : State) : Host.Outcome State Fault Refusal :=
  int2 (.shlZ32 t d a b) Guard.always .shl t false d (rd a) (rd b) s

/-- `SHR`, Z32 form (R213). -/
def execShrZ32 (t : ITy) (d a b : GReg) (s : State) : Host.Outcome State Fault Refusal :=
  int2 (.shrZ32 t d a b) Guard.always .shr t false d (rd a) (rd b) s

/-- `SAR`, Z32 form (R213). -/
def execSarZ32 (t : ITy) (d a b : GReg) (s : State) : Host.Outcome State Fault Refusal :=
  int2 (.sarZ32 t d a b) Guard.always .sar t false d (rd a) (rd b) s

/-- `ROT`, Z32 form (R213). -/
def execRotZ32 (t : ITy) (d a b : GReg) (s : State) : Host.Outcome State Fault Refusal :=
  int2 (.rotZ32 t d a b) Guard.always .rot t false d (rd a) (rd b) s

/-- `SEL`, Z32 form (R219). -/
def execSelZ32 (p : PReg) (d a b : GReg) (s : State) : Host.Outcome State Fault Refusal :=
  issue (.selZ32 p d a b) Guard.always s (laneExec [(rd a).w1, (rd b).w1] [p] [d] fun _ _ _ x =>
    out1 d (if x.p 0 then x.w 0 else x.w 1))

/-- `MOV`, Z32 form (R214, R218). -/
def execMovZ32 (t : ITy) (d a : GReg) (s : State) : Host.Outcome State Fault Refusal :=
  int1 (.movZ32 t d a) Guard.always .mov t false d (rd a) s

/-- `NOT`, Z32 form (R214, R218). -/
def execNotZ32 (t : ITy) (d a : GReg) (s : State) : Host.Outcome State Fault Refusal :=
  int1 (.notZ32 t d a) Guard.always .not t false d (rd a) s

/-- `NEG`, Z32 form (R214, R218). -/
def execNegZ32 (t : ITy) (d a : GReg) (s : State) : Host.Outcome State Fault Refusal :=
  int1 (.negZ32 t d a) Guard.always .neg t false d (rd a) s

/-- `ABS`, Z32 form (R214, R218). -/
def execAbsZ32 (t : ITy) (d a : GReg) (s : State) : Host.Outcome State Fault Refusal :=
  int1 (.absZ32 t d a) Guard.always .abs t false d (rd a) s

/-- `CLZ`, Z32 form (R214, R218). -/
def execClzZ32 (t : ITy) (d a : GReg) (s : State) : Host.Outcome State Fault Refusal :=
  int1 (.clzZ32 t d a) Guard.always .clz t false d (rd a) s

/-- `POPC`, Z32 form (R214, R218). -/
def execPopcZ32 (t : ITy) (d a : GReg) (s : State) : Host.Outcome State Fault Refusal :=
  int1 (.popcZ32 t d a) Guard.always .popc t false d (rd a) s

/-- `BREV`, Z32 form (R214, R218). -/
def execBrevZ32 (t : ITy) (d a : GReg) (s : State) : Host.Outcome State Fault Refusal :=
  int1 (.brevZ32 t d a) Guard.always .brev t false d (rd a) s

/-- `ADD`, I32 form (R213). -/
def execAddI32 (d a : GReg) (imm : BitVec 10) (s : State) : Host.Outcome State Fault Refusal :=
  intImm (.addI32 d a imm) .add d a (sext10 imm) s

/-- `MUL`, I32 form (R213). -/
def execMulI32 (d a : GReg) (imm : BitVec 10) (s : State) : Host.Outcome State Fault Refusal :=
  intImm (.mulI32 d a imm) .mul d a (sext10 imm) s

/-- `MIN`, I32 form (R213). -/
def execMinI32 (d a : GReg) (imm : BitVec 10) (s : State) : Host.Outcome State Fault Refusal :=
  intImm (.minI32 d a imm) .min d a (sext10 imm) s

/-- `MAX`, I32 form (R213). -/
def execMaxI32 (d a : GReg) (imm : BitVec 10) (s : State) : Host.Outcome State Fault Refusal :=
  intImm (.maxI32 d a imm) .max d a (sext10 imm) s

/-- `AND`, I32 form (R213). -/
def execAndI32 (d a : GReg) (imm : BitVec 10) (s : State) : Host.Outcome State Fault Refusal :=
  intImm (.andI32 d a imm) .and d a (sext10 imm) s

/-- `OR`, I32 form (R213). -/
def execOrI32 (d a : GReg) (imm : BitVec 10) (s : State) : Host.Outcome State Fault Refusal :=
  intImm (.orI32 d a imm) .or d a (sext10 imm) s

/-- `XOR`, I32 form (R213). -/
def execXorI32 (d a : GReg) (imm : BitVec 10) (s : State) : Host.Outcome State Fault Refusal :=
  intImm (.xorI32 d a imm) .xor d a (sext10 imm) s

/-- `SHL`, I32 form (R213). -/
def execShlI32 (d a : GReg) (n : BitVec 5) (s : State) : Host.Outcome State Fault Refusal :=
  intImm (.shlI32 d a n) .shl d a (n.setWidth 64) s

/-- `SHR`, I32 form (R213). -/
def execShrI32 (d a : GReg) (n : BitVec 5) (s : State) : Host.Outcome State Fault Refusal :=
  intImm (.shrI32 d a n) .shr d a (n.setWidth 64) s

/-- `SAR`, I32 form (R213). -/
def execSarI32 (d a : GReg) (n : BitVec 5) (s : State) : Host.Outcome State Fault Refusal :=
  intImm (.sarI32 d a n) .sar d a (n.setWidth 64) s

/-- `ROT`, I32 form (R213). -/
def execRotI32 (d a : GReg) (n : BitVec 5) (s : State) : Host.Outcome State Fault Refusal :=
  intImm (.rotI32 d a n) .rot d a (n.setWidth 64) s

/-- `MOVI`, I32 form (R218). -/
def execMoviI32 (d : GReg) (imm : BitVec 10) (s : State) : Host.Outcome State Fault Refusal :=
  issue (.moviI32 d imm) Guard.always s (laneExec [] [] [d] fun _ _ _ _ => out1 d (imm.signExtend 32))

/-! ### Floating and predicate instructions, 32-bit forms (R222, R223) -/

/-- `FADD`, Z32 form (R223). -/
def execFaddZ32 (d a b : GReg) (s : State) : Host.Outcome State Fault Refusal :=
  flt2 (.faddZ32 d a b) Guard.always faddR .dyn false d (rd a) FMod.plain (rd b) FMod.plain s

/-- `FSUB`, Z32 form (R223). -/
def execFsubZ32 (d a b : GReg) (s : State) : Host.Outcome State Fault Refusal :=
  flt2 (.fsubZ32 d a b) Guard.always fsubR .dyn false d (rd a) FMod.plain (rd b) FMod.plain s

/-- `FMUL`, Z32 form (R223). -/
def execFmulZ32 (d a b : GReg) (s : State) : Host.Outcome State Fault Refusal :=
  flt2 (.fmulZ32 d a b) Guard.always fmulR .dyn false d (rd a) FMod.plain (rd b) FMod.plain s

/-- `FMIN`, Z32 form (R224). -/
def execFminZ32 (d a b : GReg) (s : State) : Host.Outcome State Fault Refusal :=
  flt2 (.fminZ32 d a b) Guard.always (fun _ _ => minmaxF .f32 false) .dyn false d (rd a) FMod.plain (rd b) FMod.plain s

/-- `FMAX`, Z32 form (R224). -/
def execFmaxZ32 (d a b : GReg) (s : State) : Host.Outcome State Fault Refusal :=
  flt2 (.fmaxZ32 d a b) Guard.always (fun _ _ => minmaxF .f32 true) .dyn false d (rd a) FMod.plain (rd b) FMod.plain s

/-- `PAND` (R222). -/
def execPand (d a b : PReg) (s : State) : Host.Outcome State Fault Refusal :=
  prd2 (.pand d a b) (fun p q => p && q) d a b s

/-- `POR` (R222). -/
def execPor (d a b : PReg) (s : State) : Host.Outcome State Fault Refusal :=
  prd2 (.por d a b) (fun p q => p || q) d a b s

/-- `PXOR` (R222). -/
def execPxor (d a b : PReg) (s : State) : Host.Outcome State Fault Refusal :=
  prd2 (.pxor d a b) (fun p q => p != q) d a b s

/-- `PNOT` (R222). -/
def execPnot (d a : PReg) (s : State) : Host.Outcome State Fault Refusal :=
  prd2 (.pnot d a) (fun p _ => !p) d a 0 s

/-! ### Integer instructions, 64-bit forms (R213-R221) -/

/-- `ADD`, Q64 form (R213). -/
def execAddQ64 (g : Guard) (t : ITy) (sat : Bool) (d : GReg) (a b : Src) (s : State) : Host.Outcome State Fault Refusal :=
  int2 (.addQ64 g t sat d a b) g .add t sat d a b s

/-- `SUB`, Q64 form (R213). -/
def execSubQ64 (g : Guard) (t : ITy) (sat : Bool) (d : GReg) (a b : Src) (s : State) : Host.Outcome State Fault Refusal :=
  int2 (.subQ64 g t sat d a b) g .sub t sat d a b s

/-- `MUL`, Q64 form (R213). -/
def execMulQ64 (g : Guard) (t : ITy) (sat : Bool) (d : GReg) (a b : Src) (s : State) : Host.Outcome State Fault Refusal :=
  int2 (.mulQ64 g t sat d a b) g .mul t sat d a b s

/-- `MULH`, Q64 form (R213). -/
def execMulhQ64 (g : Guard) (t : ITy) (d : GReg) (a b : Src) (s : State) : Host.Outcome State Fault Refusal :=
  int2 (.mulhQ64 g t d a b) g .mulh t false d a b s

/-- `MIN`, Q64 form (R213). -/
def execMinQ64 (g : Guard) (t : ITy) (d : GReg) (a b : Src) (s : State) : Host.Outcome State Fault Refusal :=
  int2 (.minQ64 g t d a b) g .min t false d a b s

/-- `MAX`, Q64 form (R213). -/
def execMaxQ64 (g : Guard) (t : ITy) (d : GReg) (a b : Src) (s : State) : Host.Outcome State Fault Refusal :=
  int2 (.maxQ64 g t d a b) g .max t false d a b s

/-- `AND`, Q64 form (R213). -/
def execAndQ64 (g : Guard) (t : ITy) (d : GReg) (a b : Src) (s : State) : Host.Outcome State Fault Refusal :=
  int2 (.andQ64 g t d a b) g .and t false d a b s

/-- `OR`, Q64 form (R213). -/
def execOrQ64 (g : Guard) (t : ITy) (d : GReg) (a b : Src) (s : State) : Host.Outcome State Fault Refusal :=
  int2 (.orQ64 g t d a b) g .or t false d a b s

/-- `XOR`, Q64 form (R213). -/
def execXorQ64 (g : Guard) (t : ITy) (d : GReg) (a b : Src) (s : State) : Host.Outcome State Fault Refusal :=
  int2 (.xorQ64 g t d a b) g .xor t false d a b s

/-- `ANDN`, Q64 form (R213). -/
def execAndnQ64 (g : Guard) (t : ITy) (d : GReg) (a b : Src) (s : State) : Host.Outcome State Fault Refusal :=
  int2 (.andnQ64 g t d a b) g .andn t false d a b s

/-- `SHL`, Q64 form (R213). -/
def execShlQ64 (g : Guard) (t : ITy) (d : GReg) (a b : Src) (s : State) : Host.Outcome State Fault Refusal :=
  int2 (.shlQ64 g t d a b) g .shl t false d a b s

/-- `SHR`, Q64 form (R213). -/
def execShrQ64 (g : Guard) (t : ITy) (d : GReg) (a b : Src) (s : State) : Host.Outcome State Fault Refusal :=
  int2 (.shrQ64 g t d a b) g .shr t false d a b s

/-- `SAR`, Q64 form (R213). -/
def execSarQ64 (g : Guard) (t : ITy) (d : GReg) (a b : Src) (s : State) : Host.Outcome State Fault Refusal :=
  int2 (.sarQ64 g t d a b) g .sar t false d a b s

/-- `ROT`, Q64 form (R213). -/
def execRotQ64 (g : Guard) (t : ITy) (d : GReg) (a b : Src) (s : State) : Host.Outcome State Fault Refusal :=
  int2 (.rotQ64 g t d a b) g .rot t false d a b s

/-- A new producer of a lane: its registers are empty until its completion (06_registers.md R118). -/
def State.produce (s : State) (c : Ctx) (l : Nat) (rs : List Nat) (k : PendKind) : State :=
  let s := s.updLane c.uid l fun ln => rs.foldl (fun ln r => ln.setPending (Fin.ofNat 64 r)) ln
  { s with pendings := s.pendings ++ [⟨s.nextId, c.uid, l, c.a.place.coreId, k⟩], nextId := s.nextId + 1 }

/-- A divide: the destination is empty until `DIV_COMPLETION` (R215). -/
def divide (i : Instr) (g : Guard) (rem : Bool) (t : ITy) (d : GReg) (a b : Src) (s : State) :
    Host.Outcome State Fault Refusal :=
  issue i g s (memExec [a.wT t, b.wT t] [] (dstT t d) (fun _ s _ x => (s, .ok (divR rem t (x.v 0) (x.v 1))))
    fun c s l v => s.produce c l (physRegs c.rrb d (if t.is64 then 2 else 1)) (.value v (physRegs c.rrb d (if t.is64 then 2 else 1))))

/-- `DIV` (R215). -/
def execDiv (g : Guard) (t : ITy) (d : GReg) (a b : Src) (s : State) : Host.Outcome State Fault Refusal :=
  divide (.div g t d a b) g false t d a b s

/-- `REM` (R215). -/
def execRem (g : Guard) (t : ITy) (d : GReg) (a b : Src) (s : State) : Host.Outcome State Fault Refusal :=
  divide (.rem g t d a b) g true t d a b s

/-- A pending producer by number. -/
def State.pendingOf (s : State) (id : Nat) : Option Pending := s.pendings.find? (·.id == id)

/-- The words of a completed value. -/
def valueWords (v : DWord) (rs : List Nat) : List (Nat × Word) := rs.zip [lo32 v, hi32 v]

/-- Writing words to physical registers of a lane, full. -/
def State.fillRegs (s : State) (uid l : Nat) (ws : List (Nat × Word)) : State :=
  s.updLane uid l fun ln => ws.foldl (fun ln x => ln.setReg (Fin.ofNat 64 x.1) x.2) ln

/-- `DIV_COMPLETION`: a divide, or another producer that only has to return its value, fills its destination (R215, R118). -/
def execDivCompletion (op : Nat) (s : State) : Host.Outcome State Fault Refusal :=
  match s.pendingOf op with
  | some p =>
    match p.kind with
    | .value v rs => .next ({ s with pendings := s.pendings.filter (·.id != op) }.fillRegs p.uid p.lane (valueWords v rs))
    | _ => .next s
  | none => .next s

/-- `MAD` (R216). -/
def execMad (g : Guard) (t : ITy) (sat : Bool) (d : GReg) (a b c : Src) (s : State) : Host.Outcome State Fault Refusal :=
  issue (.mad g t sat d a b c) g s (laneExec [a.wT t, b.wT t, c.wT t] [] (dstT t d) fun _ _ _ x =>
    let r := madR t sat (x.v 0) (x.v 1) (x.v 2)
    { outT t d r.1 with flags := r.2 })

/-- `NOT`, Q64 form (R214, R218). -/
def execNotQ64 (g : Guard) (t : ITy) (d : GReg) (a : Src) (s : State) : Host.Outcome State Fault Refusal :=
  int1 (.notQ64 g t d a) g .not t false d a s

/-- `CLZ`, Q64 form (R214, R218). -/
def execClzQ64 (g : Guard) (t : ITy) (d : GReg) (a : Src) (s : State) : Host.Outcome State Fault Refusal :=
  int1 (.clzQ64 g t d a) g .clz t false d a s

/-- `POPC`, Q64 form (R214, R218). -/
def execPopcQ64 (g : Guard) (t : ITy) (d : GReg) (a : Src) (s : State) : Host.Outcome State Fault Refusal :=
  int1 (.popcQ64 g t d a) g .popc t false d a s

/-- `BREV`, Q64 form (R214, R218). -/
def execBrevQ64 (g : Guard) (t : ITy) (d : GReg) (a : Src) (s : State) : Host.Outcome State Fault Refusal :=
  int1 (.brevQ64 g t d a) g .brev t false d a s

/-- `MOV`, Q64 form (R214, R218). -/
def execMovQ64 (g : Guard) (t : ITy) (d : GReg) (a : Src) (s : State) : Host.Outcome State Fault Refusal :=
  int1 (.movQ64 g t d a) g .mov t false d a s

/-- `NEG`, Q64 form (R214). -/
def execNegQ64 (g : Guard) (t : ITy) (sat : Bool) (d : GReg) (a : Src) (s : State) : Host.Outcome State Fault Refusal :=
  int1 (.negQ64 g t sat d a) g .neg t sat d a s

/-- `ABS`, Q64 form (R214). -/
def execAbsQ64 (g : Guard) (t : ITy) (sat : Bool) (d : GReg) (a : Src) (s : State) : Host.Outcome State Fault Refusal :=
  int1 (.absQ64 g t sat d a) g .abs t sat d a s

/-- The bits of a field: `len` ones. -/
def fieldMask (len : Nat) : Word := BitVec.ofNat 32 (2 ^ len - 1)

/-- `BFE` (R217). -/
def execBfe (g : Guard) (signed : Bool) (pos : BitVec 5) (len : BitVec 6) (d : GReg) (a : Src) (s : State) : Host.Outcome State Fault Refusal :=
  issue (.bfe g signed pos len d a) g s (laneExec [a.w1] [] [d] fun _ _ _ x =>
    let v := (x.w 0 >>> pos.toNat) &&& fieldMask len.toNat
    out1 d (if signed && v.getLsbD (len.toNat - 1) then v ||| ~~~(fieldMask len.toNat) else v))

/-- `BFI` (R217): the old gD is read in mode 00. -/
def execBfi (g : Guard) (signed : Bool) (pos : BitVec 5) (len : BitVec 6) (d : GReg) (a : Src) (s : State) : Host.Outcome State Fault Refusal :=
  issue (.bfi g signed pos len d a) g s (laneExec [a.w1, (rd d).w1] [] [d] fun _ _ _ x =>
    let m := fieldMask len.toNat <<< pos.toNat
    out1 d ((x.w 1 &&& ~~~m) ||| ((x.w 0 <<< pos.toNat) &&& m)))

/-- `SEL`, Q64 form (R219). -/
def execSelQ64 (g : Guard) (p : PReg) (w64 notp : Bool) (d : GReg) (a b : Src) (s : State) : Host.Outcome State Fault Refusal :=
  issue (.selQ64 g p w64 notp d a b) g s
    (laneExec [if w64 then a.w2 else a.w1, if w64 then b.w2 else b.w1] [p] (dstW w64 d) fun _ _ _ x =>
      let v := if x.p 0 != notp then x.v 0 else x.v 1
      if w64 then out2 d v else out1 d (lo32 v))

/-- The value that `MOVS` gives a uniform register: `.i32` sign-extends, `.n32` zero-extends; a uniform source is taken
whole (R218). -/
def movsValue (t : ITy) (a : Src) (v : DWord) : DWord :=
  match a with
  | .s _ => v
  | .g .. =>
    match t with
    | .i32 => (lo32 v).signExtend 64
    | .n32 => (lo32 v).setWidth 64
    | .i64 | .n64 => v

/-- `MOVS` (R218, R116): every active lane reads its source; the lowest gives the value. Where that lane faults and others
complete, the lowest of those gives it: DESIGN CHOICE, log entry 59. -/
def execMovs (g : Guard) (t : ITy) (d : SReg) (a : Src) (s : State) : Host.Outcome State Fault Refusal :=
  let o : Opnd := match a with | .s _ => a.w2 | .g .. => a.wT t
  issue (.movs g t d a) g s fun c s =>
    busyExec (fun c s => s.sregBusy c.uid c.p.act d) [o] false (laneExec [o] [] [] fun _ tbl l x =>
      if tbl.head?.map (·.1) = some l then { uni := some (d, movsValue t a (x.v 0)) } else {}) c s

/-- `LEA`, Q64 form (R220). -/
def execLeaQ64 (g : Guard) (signed : Bool) (d : GReg) (base idx : Src) (sh : BitVec 3) (disp : BitVec 13) (s : State) : Host.Outcome State Fault Refusal :=
  issue (.leaQ64 g signed d base idx sh disp) g s (laneExec [base.w2, idx.w1] [] [d, d + 1] fun _ _ _ x =>
    let i : DWord := if signed then (x.w 1).signExtend 64 else (x.w 1).setWidth 64
    out2 d (x.v 0 + (i <<< sh.toNat) + disp.signExtend 64))

/-- `LEA`, X96 form F 0 (R220). -/
def execLeaX96 (g : Guard) (d : GReg) (base : Src) (imm : Word) (s : State) : Host.Outcome State Fault Refusal :=
  issue (.leaX96 g d base imm) g s (laneExec [base.w2] [] [d, d + 1] fun _ _ _ x => out2 d (x.v 0 + imm.signExtend 64))

/-- `LEA`, X96 form F 1: the PC is that of the instruction (R220). -/
def execLeaPc (g : Guard) (d : GReg) (imm : Word) (s : State) : Host.Outcome State Fault Refusal :=
  issue (.leaPc g d imm) g s (laneExec [] [] [d, d + 1] fun c _ _ _ => out2 d (c.p.pc + imm.signExtend 64))

/-- `MOVI`, X96 form (R218). -/
def execMoviX96 (g : Guard) (k : MoviKind) (d : GReg) (imm : Word) (s : State) : Host.Outcome State Fault Refusal :=
  issue (.moviX96 g k d imm) g s (laneExec [] [] (dstW (k != .word) d) fun _ _ _ _ =>
    match k with
    | .word => out1 d imm
    | .pairSext => out2 d (imm.signExtend 64)
    | .pairZext => out2 d (imm.setWidth 64))

/-- `CMP` (R221). -/
def execCmp (g : Guard) (t : ITy) (c : Cond) (d : PReg) (a b : Src) (s : State) : Host.Outcome State Fault Refusal :=
  issue (.cmp g t c d a b) g s (laneExec [a.wT t, b.wT t] [] [] fun _ _ _ x => outP d (cmpR c t (x.v 0) (x.v 1)))

/-! ### Floating instructions, 64-bit forms (R223-R226) -/

/-- `FCMP` (R226). -/
def execFcmp (g : Guard) (c : FCond) (d : PReg) (a : Src) (ma : FMod) (b : Src) (mb : FMod) (s : State) : Host.Outcome State Fault Refusal :=
  issue (.fcmp g c d a ma b mb) g s (laneExec [a.w1, b.w1] [] [] fun _ _ _ x =>
    let r := fcmpR c (x.f 0 ma) (x.f 1 mb)
    { outP d r.1 with flags := r.2 })

/-- `FADD`, Q64 form (R223). -/
def execFaddQ64 (g : Guard) (r : Rnd) (sat : Bool) (d : GReg) (a : Src) (ma : FMod) (b : Src) (mb : FMod) (s : State) : Host.Outcome State Fault Refusal :=
  flt2 (.faddQ64 g r sat d a ma b mb) g faddR r sat d a ma b mb s

/-- `FSUB`, Q64 form (R223). -/
def execFsubQ64 (g : Guard) (r : Rnd) (sat : Bool) (d : GReg) (a : Src) (ma : FMod) (b : Src) (mb : FMod) (s : State) : Host.Outcome State Fault Refusal :=
  flt2 (.fsubQ64 g r sat d a ma b mb) g fsubR r sat d a ma b mb s

/-- `FMUL`, Q64 form (R223). -/
def execFmulQ64 (g : Guard) (r : Rnd) (sat : Bool) (d : GReg) (a : Src) (ma : FMod) (b : Src) (mb : FMod) (s : State) : Host.Outcome State Fault Refusal :=
  flt2 (.fmulQ64 g r sat d a ma b mb) g fmulR r sat d a ma b mb s

/-- `FMIN`, Q64 form (R224). -/
def execFminQ64 (g : Guard) (d : GReg) (a : Src) (ma : FMod) (b : Src) (mb : FMod) (s : State) : Host.Outcome State Fault Refusal :=
  flt2 (.fminQ64 g d a ma b mb) g (fun _ _ => minmaxF .f32 false) .dyn false d a ma b mb s

/-- `FMAX`, Q64 form (R224). -/
def execFmaxQ64 (g : Guard) (d : GReg) (a : Src) (ma : FMod) (b : Src) (mb : FMod) (s : State) : Host.Outcome State Fault Refusal :=
  flt2 (.fmaxQ64 g d a ma b mb) g (fun _ _ => minmaxF .f32 true) .dyn false d a ma b mb s

/-- `FFMA` (R225). -/
def execFfma (g : Guard) (r : Rnd) (sat : Bool) (d : GReg) (a : Src) (na : Bool) (b : Src) (nb : Bool) (c : Src) (nc : Bool) (s : State) : Host.Outcome State Fault Refusal :=
  issue (.ffma g r sat d a na b nb c nc) g s (laneExec [a.w1, b.w1, c.w1] [] [d] fun cx _ _ x =>
    outFl d (ffmaR (Rnd.mode r cx.a.fpctl) sat (x.f 0 ⟨na, false⟩) (x.f 1 ⟨nb, false⟩) (x.f 2 ⟨nc, false⟩)))

/-- `FRCP` (R223). -/
def execFrcp (g : Guard) (r : Rnd) (sat : Bool) (d : GReg) (a : Src) (ma : FMod) (s : State) : Host.Outcome State Fault Refusal :=
  flt1 (.frcp g r sat d a ma) g frcpR r sat d a ma s

/-- `FRSQ` (R223). -/
def execFrsq (g : Guard) (r : Rnd) (sat : Bool) (d : GReg) (a : Src) (ma : FMod) (s : State) : Host.Outcome State Fault Refusal :=
  flt1 (.frsq g r sat d a ma) g frsqR r sat d a ma s

/-- `FSQRT` (R223). -/
def execFsqrt (g : Guard) (r : Rnd) (sat : Bool) (d : GReg) (a : Src) (ma : FMod) (s : State) : Host.Outcome State Fault Refusal :=
  flt1 (.fsqrt g r sat d a ma) g fsqrtR r sat d a ma s

/-- `FEXP2` (R223). -/
def execFexp2 (g : Guard) (r : Rnd) (sat : Bool) (d : GReg) (a : Src) (ma : FMod) (s : State) : Host.Outcome State Fault Refusal :=
  flt1 (.fexp2 g r sat d a ma) g fexp2R r sat d a ma s

/-- `FLOG2` (R223). -/
def execFlog2 (g : Guard) (r : Rnd) (sat : Bool) (d : GReg) (a : Src) (ma : FMod) (s : State) : Host.Outcome State Fault Refusal :=
  flt1 (.flog2 g r sat d a ma) g flog2R r sat d a ma s

/-! ### Conversion, packing, packed sums (R227-R231) -/

/-- The registers of a value of a type of R165. -/
def dstTy (t : Ty) (d : GReg) : List GReg := if t.is64 then [d, d + 1] else [d]
/-- A source of a type of R165. -/
def Src.wTy (a : Src) (t : Ty) : Opnd := ⟨a, if t.is64 then 2 else 1, false⟩
/-- Writing a value of a type of R165. -/
def outTy (t : Ty) (d : GReg) (v : DWord) : LaneOut := if t.is64 then out2 d v else out1 d (lo32 v)

/-- A source element with its modifiers (R227, R229). -/
def srcElem (t : Ty) (m : FMod) (v : DWord) : Nat :=
  let x := v.toNat % 2 ^ t.width
  if t.isFloat then FMod.apply m t x else x

/-- `CVT` (R227, R228). -/
def execCvt (g : Guard) (dt st : Ty) (r : Rnd) (sat : Bool) (d : GReg) (a : Src) (ma : FMod) (s : State) : Host.Outcome State Fault Refusal :=
  issue (.cvt g dt st r sat d a ma) g s (laneExec [Src.wTy a st] [] (dstTy dt d) fun c _ _ x =>
    let v := convert dt st (Rnd.mode r c.a.fpctl) sat (srcElem st ma (x.v 0))
    { outTy dt d (extend dt v.bits) with flags := v.flags })

/-- `PACK` (R229). -/
def execPack (g : Guard) (dt : Ty) (r : Rnd) (sat : Bool) (d : GReg) (a : Src) (ma : FMod) (b : Src) (mb : FMod) (s : State) : Host.Outcome State Fault Refusal :=
  let e := dt.width
  let st : Ty := if dt.isFloat then .f32 else .i32
  issue (.pack g dt r sat d a ma b mb) g s
    (laneExec ([a.w1, b.w1] ++ (if e = 16 then [] else [(rd d).w1])) [] [d] fun c _ _ x =>
      let u := convert dt st (Rnd.mode r c.a.fpctl) sat (srcElem st ma (x.v 0))
      let v := convert dt st (Rnd.mode r c.a.fpctl) sat (srcElem st mb (x.v 1))
      let pair := BitVec.ofNat 32 (v.bits * 2 ^ e + u.bits)
      { out1 d (if e = 16 then pair else (x.w 2 >>> (2 * e)) ||| (pair <<< (32 - 2 * e))) with
        flags := u.flags ||| v.flags })

/-- `UPK` (R230). -/
def execUpk (g : Guard) (t : Ty) (raw : Bool) (idx : BitVec 3) (d : GReg) (a : Src) (ma : FMod) (s : State) : Host.Outcome State Fault Refusal :=
  issue (.upk g t raw idx d a ma) g s (laneExec [a.w1] [] [d] fun _ _ _ x =>
    let e := elem t (x.w 0).toNat idx.toNat
    if raw then out1 d (BitVec.ofNat 32 e)
    else if t.isFloat then outFl d (convert .f32 t .ne false (FMod.apply ma t e))
    else out1 d (lo32 (extend t e)))

/-- `DOT4` (R231). -/
def execDot4 (g : Guard) (t : Ty) (d : GReg) (a b c : Src) (s : State) : Host.Outcome State Fault Refusal :=
  issue (.dot4 g t d a b c) g s (laneExec [a.w1, b.w1, c.w1] [] [d] fun _ _ _ x =>
    outFl d (dotR t 4 (x.w 0) (x.w 1) (x.w 2)))

/-- `DOT8` (R231). -/
def execDot8 (g : Guard) (t : Ty) (d : GReg) (a b c : Src) (s : State) : Host.Outcome State Fault Refusal :=
  issue (.dot8 g t d a b c) g s (laneExec [a.w1, b.w1, c.w1] [] [d] fun _ _ _ x =>
    outFl d (dotR t 8 (x.w 0) (x.w 1) (x.w 2)))

/-! ### Cross-lane instructions (R232, R233) -/

/-- Source `k` of a lane among the lanes that exchange; its own where that lane takes no part. -/
def laneVal (tbl : List (Nat × LaneIn)) (q : Option Nat) (own : LaneIn) (k : Nat) : DWord :=
  match q with
  | some q => match tbl.find? (·.1 == q) with | some y => y.2.v k | none => own.v k
  | none => own.v k

/-- The lane that `SHFL` reads (R232). -/
def shflLane (m : ShflMode) (l : Nat) (n : Word) : Option Nat :=
  let r : Int := match m with
    | .idx => (n.toNat % 32 : Nat)
    | .up => (l : Int) - n.toNat
    | .down => (l : Int) + n.toNat
    | .xor => (Nat.xor l (n.toNat % 32) : Nat)
  if 0 ≤ r ∧ r < 32 then some r.toNat else none

/-- `SHFL` (R232). -/
def execShfl (g : Guard) (m : ShflMode) (w64 : Bool) (d : GReg) (a b : Src) (s : State) : Host.Outcome State Fault Refusal :=
  issue (.shfl g m w64 d a b) g s
    (laneExec [if w64 then a.w2 else a.w1, b.w1] [] (dstW w64 d) fun _ tbl l x =>
      let v := laneVal tbl (shflLane m l (x.w 1)) x 0
      if w64 then out2 d v else out1 d (lo32 v))

/-- `BCAST` (R232). -/
def execBcast (g : Guard) (w64 : Bool) (d : GReg) (a b : Src) (s : State) : Host.Outcome State Fault Refusal :=
  issue (.bcast g w64 d a b) g s
    (laneExec [if w64 then a.w2 else a.w1, b.w1] [] (dstW w64 d) fun _ tbl _ x =>
      let low := (tbl.head?.map (·.2)).getD x
      let v := laneVal tbl (some ((low.w 1).toNat % 32)) low 0
      if w64 then out2 d v else out1 d (lo32 v))

/-- `VOTE` (R232). -/
def execVote (g : Guard) (op : VoteOp) (d : GReg) (a : PReg) (s : State) : Host.Outcome State Fault Refusal :=
  issue (.vote g op d a) g s (laneExec [] [a] (if op = .ballot then [d] else []) fun _ tbl _ x =>
    let p := d.setWidth 4
    match op with
    | .any => outP p (tbl.any fun y => y.2.p 0)
    | .all => outP p (tbl.all fun y => y.2.p 0)
    | .uni => outP p (tbl.all fun y => y.2.p 0 == x.p 0)
    | .ballot => out1 d (Mask.ofList ((tbl.filter fun y => y.2.p 0).map (·.1))))

/-- `FIRST` (R232). -/
def execFirst (g : Guard) (d : GReg) (a : PReg) (s : State) : Host.Outcome State Fault Refusal :=
  issue (.first g d a) g s (laneExec [] [a] [d] fun _ tbl _ _ =>
    out1 d (match tbl.find? fun y => y.2.p 0 with | some y => BitVec.ofNat 32 y.1 | none => 32))

/-- The integer type of a type of R165. -/
def Ty.ity : Ty → ITy
  | .n32 => .n32
  | .i64 => .i64
  | .n64 => .n64
  | _ => .i32

/-- One combination of `REDL` and `SCANL` (R233, 07_number_formats.md R152): integer additions wrap. -/
def redlStep (op : RedlOp) (t : Ty) (mode : RM) (x y : DWord) : DWord × BitVec 6 :=
  if t = .f32 then
    let r := match op with
      | .add => faddR mode false (lo32 x).toNat (lo32 y).toNat
      | .min => minmaxF .f32 false (lo32 x).toNat (lo32 y).toNat
      | _ => minmaxF .f32 true (lo32 x).toNat (lo32 y).toNat
    (BitVec.ofNat 64 r.bits, r.flags)
  else
    iopR (match op with
      | .add => .add
      | .min => .min
      | .max => .max
      | .and => .and
      | .or => .or
      | .xor => .xor) (Ty.ity t) false x y

/-- The running values in ascending lane order, with the flags of every combination. -/
def redlRun (op : RedlOp) (t : Ty) (mode : RM) : List (Nat × LaneIn) → List (Nat × DWord) × BitVec 6
  | [] => ([], 0)
  | (l, x) :: rest =>
    (rest.foldl (fun (r : (List (Nat × DWord) × DWord) × BitVec 6) y =>
      let z := redlStep op t mode r.1.2 (y.2.v 0)
      ((r.1.1 ++ [(y.1, z.1)], z.1), r.2 ||| z.2)) (([(l, x.v 0)], x.v 0), 0)) |> fun r => (r.1.1, r.2)

/-- `REDL` (R233): every lane has the flags of every addition, so all trap together. -/
def execRedl (g : Guard) (op : RedlOp) (t : Ty) (r : Rnd) (d : GReg) (a : Src) (s : State) : Host.Outcome State Fault Refusal :=
  issue (.redl g op t r d a) g s (laneExec [Src.wTy a t] [] (dstTy t d) fun c tbl _ x =>
    let run := redlRun op t (Rnd.mode r c.a.fpctl) tbl
    { outTy t d ((run.1.getLast?.map (·.2)).getD (x.v 0)) with flags := run.2 })

/-- `SCANL` (R233). -/
def execScanl (g : Guard) (op : RedlOp) (t : Ty) (r : Rnd) (d : GReg) (a : Src) (s : State) : Host.Outcome State Fault Refusal :=
  issue (.scanl g op t r d a) g s (laneExec [Src.wTy a t] [] (dstTy t d) fun c tbl l x =>
    let run := redlRun op t (Rnd.mode r c.a.fpctl) tbl
    { outTy t d (((run.1.find? (·.1 == l)).map (·.2)).getD (x.v 0)) with flags := run.2 })

/-! ### Special units (R234, R239) -/

/-- One round of the mixing function (R234). -/
def mixRound (k : Word) (x y : Word) (r : Nat) : Word × Word :=
  let x := (x ^^^ k) * 0x85EBCA6B
  let x := x ^^^ (x >>> 15)
  let y := y + x + BitVec.ofNat 32 r * 0x9E3779B9
  let y := (y <<< 13) ||| (y >>> 19)
  (x ^^^ y, y)

/-- mix(c, k) (R234). -/
def mix (c : DWord) (k : Word) : Word :=
  let r0 := mixRound k (lo32 c) (hi32 c) 0
  let r1 := mixRound k r0.1 r0.2 1
  let r2 := mixRound k r1.1 r1.2 2
  (mixRound k r2.1 r2.2 3).1

/-- `RAND` (R234). -/
def execRand (g : Guard) (f32 : Bool) (d : GReg) (a b : Src) (s : State) : Host.Outcome State Fault Refusal :=
  issue (.rand g f32 d a b) g s (laneExec [a.w2, b.w1] [] [d] fun _ _ _ x =>
    let v := mix (x.v 0) (x.w 1)
    if f32 then out1 d (BitVec.ofNat 32 (finish .f32 .ne false 0 ((⟨((v >>> 8).toNat : Nat), -24⟩ : Dy).out false)).bits)
    else out1 d v)

/-- The parents of `TMASK`: byte i, signed (R239). -/
def tmaskParent (v : List DWord) (i : Nat) : Int := ((v.getD (i / 8) 0).extractLsb' (8 * (i % 8)) 8).toInt

/-- Node j and its ancestors, for parents below their children (R239); the fuel bounds the depth. -/
def ancestors (par : Nat → Int) : Nat → Nat → Word
  | 0, _ => 0
  | n + 1, j => setBit (if par j < 0 then 0 else ancestors par n (par j).toNat) j true

/-- `TMASK` (R239). -/
def execTmask (g : Guard) (d : GReg) (a : SReg) (b : Src) (n1 : BitVec 5) (s : State) : Host.Outcome State Fault Refusal :=
  let us : List Opnd := (List.range 4).map fun i => (Src.s (a + BitVec.ofNat 5 i)).w2
  issue (.tmask g d a b n1) g s (laneExec (us ++ [b.w1]) [] [d] fun _ _ _ x =>
    let n := n1.toNat + 1
    let par := tmaskParent ((List.range 4).map x.v)
    if (List.range n).any (fun i => decide (par i < -1) || decide ((i : Int) - 1 < par i)) || decide (n ≤ (x.w 4).toNat) then
      outF 0x73
    else out1 d (ancestors par 32 (x.w 4).toNat))

end Sys2Proof.Machine
end

