-- ==== Sys2Proof/Machine/Access.lean ====
section
/-! DEFINITION. Loads, stores, atomics, reductions, fences and the forms on local stores that never wait
(09_isa_arrival.md R187-R199, 13_isa_return.md R292-R308), `HSIFT`, `BINS` and `TWALK` (10_isa_lane.md R235-R240). -/

namespace Sys2Proof.Machine

/-! ### Checks -/

/-- The address of a memory instruction (R189). -/
def eaOf (base : DWord) (off : BitVec 16) : DWord := base + off.signExtend 64

/-- A part of an access lies in the own store. -/
def ownSeg (core : CoreId) (segs : List Seg) : Bool :=
  segs.any fun g => match g with
    | .own .. => true
    | .remote c _ _ => c == core
    | .mem .. => false

/-- The address check of an access: acquires before it, then R37. -/
def State.placeCheck (s : State) (c : Ctx) (h : How) (va : DWord) (n : Nat) : State × Chk (List Seg) :=
  chkThen (s.acqCheck c.uid) fun s _ => s.checkAccess c.who h va n

/-- Poison that a read meets is a precise cause 0x26 (19_traps.md R429; log entry 53); a load of a lane may hit a copy of its
cluster. -/
def State.poisonCheck (s : State) (c : Ctx) (segs : List Seg) (va : DWord) (lane : Option Nat := none) :
    State × Chk (List Seg) :=
  let t := lane.bind fun l => (s.agent? c.uid).map fun a => s.floorT c.cluster (a.lane l).soFar
  match s.poisonAt c.a.place.coreId t segs va with
  | some (t, u) => (s, .fault 0x26 t u)
  | none => (s, .ok segs)

/-- A write that is performed or sent at issue — to the own store, to a device register, to the scale-up window — waits for the
unit's earlier loads (14_memory_model.md R314), and one to the window for the port's earlier accesses to its lines (R312). -/
def State.ownWriteCheck (s : State) (c : Ctx) (segs : List Seg) : State × Chk (List Seg) :=
  let core := c.a.place.coreId
  let now := ownSeg core segs || segs.any fun g => match g with | .mem pa _ _ => !homed pa | _ => false
  let behind := segs.any fun g => match g with
    | .mem pa n _ => regionOf pa == some .window && (linesOf (n / 128 + 2) pa n).any fun x =>
        s.writeBefore core c.uid s.nextId x.1 || s.loadBefore core c.uid s.nextId x.1
    | _ => false
  (s, if (now && !s.loadsBound c.uid s.nextId) || behind then .wait .order else .ok segs)

/-- Release and the limit of R289. -/
def State.writeCheck (s : State) (c : Ctx) (l : Nat) (rel : Bool) (scope : Scope) (segs : List Seg) (atom : Bool := false) :
    State × Chk (List Seg) :=
  chkThen (s.ownWriteCheck c segs) fun s segs =>
    chkThen (if rel then s.releaseCheck c l scope else (s, .ok ())) fun s _ =>
      (s, if !writeCounts c.a.place.coreId atom segs || s.writeRoom c then .ok segs else .wait .order)

/-- The check of a plain load. -/
def State.loadCheck (s : State) (c : Ctx) (l : Nat) (va : DWord) (n : Nat) : State × Chk (List Seg) :=
  chkThen (s.placeCheck c { need := .rd, regOk := regSize va n } va n) fun s segs => s.poisonCheck c segs va (some l)

/-- The check of a store. -/
def State.storeCheck (s : State) (c : Ctx) (l : Nat) (va : DWord) (n : Nat) (rel : Bool) (scope : Scope) :
    State × Chk (List Seg) :=
  chkThen (s.placeCheck c { need := .wr, regOk := regSize va n } va n) fun s segs => s.writeCheck c l rel scope segs

/-- The registers of a destination of a size. -/
def dstSz (z : Size) (d : GReg) : List GReg :=
  match z with
  | .b8 | .b16 | .b32 => [d]
  | .b64 => [d, d + 1]
  | .b128 => [d, d + 1, d + 2, d + 3]

/-- A load destination in general registers. -/
def loadDst (c : Ctx) (d : GReg) (n : Nat) (sx : Bool) : Dest := .regs (physRegs c.rrb d ((n + 3) / 4)) n sx

/-! ### Loads (R187-R192) -/

/-- A load of a lane at an address. -/
def loadExec (a : Opnd) (off : BitVec 16) (z : Size) (sx acq sys : Bool) (cls : Option Nat) (d : GReg) (c : Ctx)
    (s : State) : State :=
  memExec [a] [] (dstSz z d)
    (fun c s l x =>
      chkThen (s.loadCheck c l (eaOf (x.v 0) off) z.bytes) fun s segs => (s, .ok (eaOf (x.v 0) off, segs)))
    (fun c s l b => s.sendLoad c l b.2 (loadDst c d z.bytes sx) cls acq sys b.1) c s

/-- `LD`, Q64 form (R189). -/
def execLdQ64 (g : Guard) (size : Size) (sx acq : Bool) (lease : BitVec 3) (d : GReg) (m : MemArg) (s : State) :
    Host.Outcome State Fault Refusal :=
  issue (.ldQ64 g size sx acq lease d m) g s
    (loadExec m.base.w2 m.off size sx acq (m.scope == .sys) (some lease.toNat) d)

/-- `LD`, I32 form (R187): a 4-byte load; the offset is the immediate, the class the page's. -/
def execLdI32 (d a : GReg) (imm : BitVec 10) (s : State) : Host.Outcome State Fault Refusal :=
  issue (.ldI32 d a imm) Guard.always s (loadExec (rd a).w2 (imm.signExtend 16) .b32 false false false none d)

/-- `LDU` (R190): once for the warp. -/
def execLdu (g : Guard) (size : Size) (sx acq : Bool) (lease : BitVec 3) (d : SReg) (m : MemArg) (s : State) :
    Host.Outcome State Fault Refusal :=
  issue (.ldu g size sx acq lease d m) g s fun c s =>
    busyExec (fun c s => s.sregBusy c.uid c.p.act d) [m.base.w2] true (onceExec [m.base.w2] []
      (fun c s l x => chkThen (s.loadCheck c l (eaOf (x.v 0) m.off) size.bytes) fun s segs =>
        (s, .ok (eaOf (x.v 0) m.off, segs)))
      (fun c s l b => s.sendLoad c l b.2 (.uni (sregNum c.p.act d) size.bytes sx) (some lease.toNat) acq
        (m.scope == .sys) b.1)) c s

/-- Pending watch entries of a lane. -/
def State.heldBy (s : State) (uid l : Nat) : Nat := (s.watches.filter fun w => w.uid == uid && w.lane == l).length

/-- A watched load may take an entry: the lane holds fewer than 16, the cluster fewer than 512 (R57). -/
def State.watchRoom (s : State) (c : Ctx) (l : Nat) : Bool :=
  decide (s.heldBy c.uid l < 16) && decide ((s.watches.filter (·.cluster == c.cluster)).length < 512)

/-- The stale copy that a watched load of a lane at a time uses (R57), unless it is older than the lane's own store to some of
the bytes (R66). -/
def State.staleCopy (s : State) (c : Ctx) (l : Nat) (t : DWord) (pa n : Nat) : Option Copy :=
  match s.copyOf c.cluster (pa / 128) with
  | some k =>
    (match k.st with
     | .L expired =>
       if !expired && sle (t.extractLsb' 0 32) k.rts then none
       else if (stampTime (raise t k.wts) k.wts).toNat < (s.seenAt (.own c.uid l) (pa / 128) (byteMask (pa % 128) n)).toNat then none
       else some k
     | _ => none)
  | none => none

/-- The check of a watched load: it waits for the port's earlier accesses to the line (03_watch_table.md R66, 13_isa_return.md
R290). A stale copy that it uses is not poisoned (19_traps.md R429). -/
def State.watchedCheck (s : State) (c : Ctx) (l : Nat) (va : DWord) (n : Nat) : State × Chk (List Seg) :=
  chkThen (s.placeCheck c { need := .rd, align := n } va n) fun s segs =>
    let t := s.floorT c.cluster (match s.agent? c.uid with | some a => (a.lane l).ltime | none => 0)
    let stale := segs.any fun g => match g with
      | .mem pa _ _ => s.watchRoom c l && (s.staleCopy c l t pa n).isSome
      | _ => false
    chkThen (if stale then (s, .ok segs) else s.poisonCheck c segs va (some l)) fun s segs =>
      let core := c.a.place.coreId
      match segs with
      | [.mem pa _ _] =>
        (s, if s.writeBefore core c.uid s.nextId (pa / 128) || s.loadBefore core c.uid s.nextId (pa / 128) then .wait .order
            else .ok segs)
      | _ => (s, .ok segs)

/-- A watched load of a lane (R57): a stale copy is used at once with an entry; without room for one it is a plain load. -/
def State.sendWatched (s : State) (c : Ctx) (l : Nat) (segs : List Seg) (n : Nat) (sx : Bool) (d : GReg)
    (lease : BitVec 3) (va : DWord) : State :=
  let dst := loadDst c d n sx
  let plain (s : State) : State := s.sendLoad c l segs dst (some lease.toNat) false false va
  match segs with
  | [.mem pa _ _] =>
    let r := s.touch c.uid l
    let s := r.1
    let cl := c.cluster
    match s.staleCopy c l r.2 pa n with
    | none => plain s
    | some k =>
      if s.watchRoom c l then
        let t' := raise r.2 k.wts
        let s := (s.updLane c.uid l fun ln => { ln with ltime := t' }).raiseCtime cl t'
        let bs := lineBytes k.data (pa % 128) n
        let e := s.nextId
        let s := { s with
          watches := s.watches ++ [(⟨e, cl, c.uid, l, pa / 128, k.wts, pa % 128, bs⟩ : Watch)]
          reqs := s.reqs ++ [(⟨e + 1, .watch e, cl, c.uid, l, pa / 128, t', s.leaseLen c.a.job lease.toNat, k.wts,
            lease.toNat⟩ : Req)]
          nextId := e + 2 }
        s.writeDest c.uid l dst (BitVec.ofNat 64 (ofBytes bs)) 0 false
      else
        let s := (s.updLane c.uid l fun ln =>
          { ln with wFallbk := if ln.wFallbk = 255 then 255 else ln.wFallbk + 1 }).tally cl 0x08 1
        plain s
  | _ => plain (s.floorLane c.uid l)

/-- `LDW` (R192, 03_watch_table.md R57). -/
def execLdw (g : Guard) (size : Size) (sx : Bool) (lease : BitVec 3) (d : GReg) (m : MemArg) (s : State) :
    Host.Outcome State Fault Refusal :=
  issue (.ldw g size sx lease d m) g s (memExec [m.base.w2] [] (dstSz size d)
    (fun c s l x =>
      chkThen (s.watchedCheck c l (eaOf (x.v 0) m.off) size.bytes) fun s segs => (s, .ok (eaOf (x.v 0) m.off, segs)))
    (fun c s l b => s.sendWatched c l b.2 size.bytes sx d lease b.1))

/-! ### Stores (13_isa_return.md R292-R294) -/

/-- The data operands of a store of a size. -/
def dataOps (z : Size) (d : Src) : List Opnd :=
  match z with
  | .b8 | .b16 | .b32 => [⟨d, 1, true⟩]
  | .b64 => [⟨d, 2, true⟩]
  | .b128 => match d with
    | .g r m => [⟨.g r m, 2, true⟩, ⟨.g (r + 2) m, 2, true⟩]
    | .s _ => [⟨d, 2, true⟩]

/-- The bytes of a store's data, read after the address. -/
def storeBytes (z : Size) (x : LaneIn) : List Byte :=
  if z = .b128 then toBytes 8 (x.v 1).toNat ++ toBytes 8 (x.v 2).toNat else toBytes z.bytes (x.v 1).toNat

/-- A store of a lane. -/
def storeExec (a : Opnd) (off : BitVec 16) (z : Size) (rel : Bool) (scope : Scope) (cls : Option Nat) (d : Src) (c : Ctx)
    (s : State) : State :=
  memExec (a :: dataOps z d) [] []
    (fun c s l x =>
      chkThen (s.storeCheck c l (eaOf (x.v 0) off) z.bytes rel scope) fun s segs =>
        (s, .ok (eaOf (x.v 0) off, segs, storeBytes z x, (dataOps z d).any (c.opndBad l))))
    (fun c s l b => s.sendStore c l b.2.1 b.2.2.1 cls rel b.2.2.2 b.1) c s

/-- `ST`, Q64 form (R293). -/
def execStQ64 (g : Guard) (size : Size) (rel : Bool) (lease : BitVec 3) (d : Src) (m : MemArg) (s : State) :
    Host.Outcome State Fault Refusal :=
  issue (.stQ64 g size rel lease d m) g s (storeExec m.base.w2 m.off size rel m.scope (some lease.toNat) d)

/-- `ST`, I32 form (R292): a 4-byte store; the class is the page's. -/
def execStI32 (d a : GReg) (imm : BitVec 10) (s : State) : Host.Outcome State Fault Refusal :=
  issue (.stI32 d a imm) Guard.always s (storeExec (rd a).w2 (imm.signExtend 16) .b32 false .dev none (rd d))

/-! ### Atomics and reductions (R295-R299) -/

/-- The check of an atomic or a reduction (R297). -/
def State.atomCheck (s : State) (c : Ctx) (l : Nat) (va : DWord) (n : Nat) (rel : Bool) (scope : Scope) (reads : Bool) :
    State × Chk (List Seg) :=
  chkThen (s.placeCheck c { need := .rw, align := n } va n) fun s segs =>
    chkThen (if reads then s.poisonCheck c segs va else (s, .ok segs)) fun s segs => s.writeCheck c l rel scope segs reads

/-- `ATOM` (R295-R297). -/
def execAtom (g : Guard) (op : AtomOp) (w64 : Bool) (ord : Ord4) (d : GReg) (m : MemArg) (v k : Src) (s : State) :
    Host.Outcome State Fault Refusal :=
  let o (a : Src) : Opnd := if w64 then a.w2 else a.w1
  let n := 4 * wn w64
  issue (.atom g op w64 ord d m v k) g s
    (memExec ([m.base.w2, o v] ++ (if op = .cas then [o k] else [])) [] (dstW w64 d)
      (fun c s l x =>
        chkThen (s.atomCheck c l (eaOf (x.v 0) m.off) n ord.isRel m.scope true) fun s segs =>
          (s, .ok (eaOf (x.v 0) m.off, segs, x.v 1, x.v 2)))
      (fun c s l b => s.sendAtomic c l b.2.1 ⟨0, n, AtomOp.eop op, b.2.2.1, b.2.2.2, none⟩ (loadDst c d n false) ord.isRel ord.isAcq
        (m.scope == .sys) b.1))

/-- `RED` (R298, R299). -/
def execRed (g : Guard) (op : RedOp) (t : RedTy) (rel : Bool) (d : Src) (m : MemArg) (s : State) :
    Host.Outcome State Fault Refusal :=
  let o : Opnd := ⟨d, if t.bytes = 8 then 2 else 1, true⟩
  issue (.red g op t rel d m) g s (memExec [m.base.w2, o] [] []
    (fun c s l x =>
      chkThen (s.atomCheck c l (eaOf (x.v 0) m.off) t.bytes rel m.scope false) fun s segs =>
        (s, .ok (eaOf (x.v 0) m.off, segs, x.v 1, c.opndBad l o, s.nextId)))
    (fun c s l b => s.sendRed c l b.2.1 ⟨0, t.bytes, redEop op t, b.2.2.1, 0, some t⟩ rel b.2.2.2.1 b.1 b.2.2.2.2))

/-! ### Forms on local stores that never wait (R194, R195, R302-R308) -/

/-- The check of an access to a local store of `n` bytes aligned to `n` (R79, R88, R307). -/
def State.localCheck (s : State) (c : Ctx) (va : DWord) (n : Nat) : State × Chk (List Seg) :=
  s.placeCheck c { need := .rd, align := n, localOnly := true } va n

/-- Performing such a form: the own store at issue, another by a counted message. -/
def State.sendLocal (s : State) (c : Ctx) (l : Nat) (segs : List Seg) (acc : LAcc) (dst : Dest) (rel bad : Bool)
    (va : DWord) : State :=
  let core := c.a.place.coreId
  let own (off : Nat) : State :=
    let r := s.localNow core c.uid l off acc rel false false bad
    r.1.writeDest c.uid l dst r.2.1 r.2.2 false
  match segs with
  | [.own off _] => own off
  | [.remote rc off _] => if rc = core then own off else s.sendRemote c l rc off acc dst rel false false bad false true va
  | _ => s

/-- `SETF` (R195). -/
def execSetf (g : Guard) (w64 rel : Bool) (d : Src) (m : MemArg) (s : State) : Host.Outcome State Fault Refusal :=
  let o : Opnd := ⟨d, wn w64, true⟩
  issue (.setf g w64 rel d m) g s (memExec [m.base.w2, o] [] []
    (fun c s l x =>
      chkThen (s.localCheck c (eaOf (x.v 0) m.off) (4 * wn w64)) fun s segs =>
        chkThen (s.poisonCheck c segs (eaOf (x.v 0) m.off)) fun s segs =>
          chkThen (s.writeCheck c l rel m.scope segs) fun s segs =>
            chkThen (s.ackedCheck c rel) fun s _ => (s, .ok (eaOf (x.v 0) m.off, segs, x.v 1, c.opndBad l o)))
    (fun c s l b => s.sendLocal c l b.2.1 (.setf w64 b.2.2.1) .none rel b.2.2.2 b.1))

/-- `CLRF` (R195). -/
def execClrf (g : Guard) (w64 : Bool) (m : MemArg) (s : State) : Host.Outcome State Fault Refusal :=
  issue (.clrf g w64 m) g s (memExec [m.base.w2] [] []
    (fun c s l x =>
      chkThen (s.localCheck c (eaOf (x.v 0) m.off) (4 * wn w64)) fun s segs =>
        chkThen (s.poisonCheck c segs (eaOf (x.v 0) m.off)) fun s segs =>
          chkThen (s.writeCheck c l false m.scope segs) fun s segs => (s, .ok (eaOf (x.v 0) m.off, segs)))
    (fun c s l b => s.sendLocal c l b.2 (.clrf w64) .none false false b.1))

/-- The check of a barrier instruction at an address (R302). -/
def State.barCheck (s : State) (c : Ctx) (l : Nat) (va : DWord) (rel : Bool) (scope : Scope) : State × Chk (List Seg) :=
  chkThen (s.localCheck c va 16) fun s segs =>
    chkThen (s.poisonCheck c segs va) fun s segs => s.writeCheck c l rel scope segs

/-- `BARINIT` (R303). -/
def execBarinit (g : Guard) (d : Src) (m : MemArg) (s : State) : Host.Outcome State Fault Refusal :=
  issue (.barinit g d m) g s (memExec [m.base.w2, d.w1] [] []
    (fun c s l x =>
      chkThen (s.barCheck c l (eaOf (x.v 0) m.off) false m.scope) fun s segs =>
        (s, if 2 ^ 20 ≤ (x.w 1).toNat then .fault 0x46 0 0 else .ok (eaOf (x.v 0) m.off, segs, (x.w 1).toNat)))
    (fun c s l b => s.sendLocal c l b.2.1 (.bar (.init b.2.2)) .none false false b.1))

/-- `BARARR` (R304). -/
def execBararr (g : Guard) (rel : Bool) (d : GReg) (m : MemArg) (s : State) : Host.Outcome State Fault Refusal :=
  issue (.bararr g rel d m) g s (memExec [m.base.w2] [] [d]
    (fun c s l x =>
      chkThen (s.barCheck c l (eaOf (x.v 0) m.off) rel m.scope) fun s segs => (s, .ok (eaOf (x.v 0) m.off, segs)))
    (fun c s l b => s.sendLocal c l b.2 (.bar .arrive) (loadDst c d 4 false) rel false b.1))

/-- `BAREXP` (R305): the offset is in words. -/
def execBarexp (g : Guard) (dir : BarDir) (rel : Bool) (d : Src) (scope : Scope) (base : Src) (off : BitVec 14) (s : State) :
    Host.Outcome State Fault Refusal :=
  issue (.barexp g dir rel d scope base off) g s (memExec [base.w2, d.w1] [] []
    (fun c s l x =>
      let va := x.v 0 + 4 * off.signExtend 64
      chkThen (s.barCheck c l va rel scope) fun s segs => (s, .ok (va, segs, (x.w 1).toInt)))
    (fun c s l b => s.sendLocal c l b.2.1 (.bar (.expect dir.counts.1 dir.counts.2 b.2.2)) .none rel false b.1))

/-- The check of a codelet record's address (R308, 18_scheduling.md R404). -/
def State.recordCheck (s : State) (c : Ctx) (va : DWord) : State × Chk (List Seg) :=
  chkThen (s.localCheck c va 32) fun s segs =>
    let wide := segs.any fun g => match g with
      | .own .. => c.a.wide
      | .remote rc _ _ => isWideCore rc.core
      | .mem .. => false
    (s, if wide then .fault 0x46 0 0 else .ok segs)

/-- The words of a codelet record that a decrement reads. -/
def Seg.countWords : Seg → Seg
  | .own off _ => .own (off + 8) 8
  | .remote c off _ => .remote c (off + 8) 8
  | g => g

/-- A decrement in the own store that the ready ring may refuse is a write sent, and needs room for it (R289, R308). -/
def State.decRoom (s : State) (c : Ctx) (segs : List Seg) : Bool :=
  !ownSeg c.a.place.coreId segs || decide ((s.ringOf c.a.place.coreId).length + (Mask.list c.act).length ≤ 64) || s.writeRoom c

/-- A decrement of a lane: one that its full ready ring refuses is sent again (R308). -/
def State.sendDec (s : State) (c : Ctx) (l : Nat) (segs : List Seg) (rel sys : Bool) (va : DWord) : State :=
  let core := c.a.place.coreId
  let who := s.launchOf c.uid l
  let dec : LAcc := .depdec who.1 who.2 sys
  let own (off : Nat) : State :=
    if s.ringFull core off then
      let id := s.nextId
      let s := s.sendRemote c l core off dec .none rel false false false false true va
      { s with remotes := s.remotes.map fun r => if r.id = id then { r with refused := some (s.now c.cluster) } else r }
    else (s.localNow core c.uid l off dec rel false false false).1
  match segs with
  | [.own off _] => own off
  | [.remote rc off _] =>
    if rc = core then own off else s.sendRemote c l rc off dec .none rel false false false false true va
  | _ => s

/-- `DEPDEC` (R308). -/
def execDepdec (g : Guard) (rel : Bool) (m : MemArg) (s : State) : Host.Outcome State Fault Refusal :=
  issue (.depdec g rel m) g s (memExec [m.base.w2] [] []
    (fun c s l x =>
      chkThen (s.recordCheck c (eaOf (x.v 0) m.off)) fun s segs =>
        chkThen (s.poisonCheck c (segs.map Seg.countWords) (eaOf (x.v 0) m.off + 8)) fun s _ =>
          chkThen (s.writeCheck c l rel m.scope segs) fun s segs =>
            (s, if s.decRoom c segs then .ok (eaOf (x.v 0) m.off, segs) else .wait .order))
    (fun c s l b => s.sendDec c l b.2 rel (m.scope == .sys) b.1))

/-! ### Fences and DRAIN (R300, R301) -/

/-- The waits of a fence of a kind at a scope (R300, R294). Writes have left the port and have been presented as they issue. -/
def State.fenceWaits (s : State) (c : Ctx) (kind : FenceKind) (scope : Scope) : State × Bool :=
  let acks := match s.agent? c.uid with | some a => a.acks | none => 0
  let ld := kind == .st || s.loadsReturned c.uid
  let st := kind == .ld || acks == 0
  match scope with
  | .thr => (s, true)
  | .core => if kind == .st then (s, true) else s.releaseWaits c .core
  | .clu | .dev => (s, ld && st)
  | .sys =>
    if !(ld && st) then (s, false)
    else if kind != .ld && s.hostBack c.uid c.cluster then (s.flushHost c.uid c.cluster, false) else (s, true)

/-- What a fence leaves in the lanes of its path (14_memory_model.md R320; log entry 55): later writes are releases, and later
accesses come after an acquire, also those writes where the fence is both; no time changes at the fence (R300). -/
def Agent.fence (a : Agent) (m : Mask) (ord : Ord4) (hws : DWord) : Agent :=
  let ls := (a.lanes.zipIdx.filter fun x => m.getLsbD x.2).map (·.1)
  let top (f : Lane → DWord) : DWord := ls.foldl (fun t ln => tmax t (f ln)) 0
  let past := top (·.soFar)
  let acq := if ord.isAcq then tmax past (tmax (top (·.lrtSeen)) hws) else past
  { a with lanes := a.lanes.mapIdx fun i ln =>
      if m.getLsbD i then
        { ln with fenceAcq := if ord.isAcq then acq else ln.fenceAcq
                  fenceRel := if ord.isRel then tmax (top (·.fenceRel)) acq else ln.fenceRel }
      else ln }

/-- A fence of a scope beyond the thread; one with acquire takes up what the releases of its core have passed (R318). -/
def State.fenced (s : State) (c : Ctx) (ord : Ord4) (scope : Scope) : State :=
  if scope = .thr then s
  else
    let s := if scope = .core ∧ ord.isRel then s.portAll c.uid else s
    let s := if ord.isAcq then s.takeOwed c.uid else s
    s.updAgent c.uid fun a => a.fence c.p.mask ord (if scope = .sys then s.hws else 0)

/-- The store that was lost is reported at a fence of writes (23_host_and_links.md R469). -/
def State.lostCheck (s : State) (c : Ctx) (on : Bool) : State × Chk Unit :=
  match (if on then (s.agent? c.uid).bind (·.lost) else none) with
  | some va => (s.clearLost c.uid, .fault 0x26 va 0)
  | none => (s, .ok ())

/-- `FENCE` (R300). -/
def execFence (g : Guard) (kind : FenceKind) (ord : Ord4) (scope : Scope) (s : State) :
    Host.Outcome State Fault Refusal :=
  issue (.fence g kind ord scope) g s (memExec [] [] []
    (fun c s l _ =>
      chkThen (if ord.isRel then s.watchLost c l else (s, .ok ())) fun s _ =>
        chkThen (s.lostCheck c (kind != .ld)) fun s _ =>
          let r := s.fenceWaits c kind scope
          (r.1, if r.2 then .ok () else .wait .order))
    (fun c s _ _ => s.fenced c ord scope))

/-- `DRAIN` with no object (R301). -/
def execDrain (s : State) : Host.Outcome State Fault Refusal :=
  issue .drain Guard.always s (memExec [] [] [] (fun c s l _ => s.releaseCheck c l .dev) (fun _ s _ _ => s))

/-- `DRAIN` with an arrival (R301): the object is checked after the waits. -/
def execDrainArrive (a : GReg) (s : State) : Host.Outcome State Fault Refusal :=
  issue (.drainArrive a) Guard.always s (memExec [(rd a).w2] [] []
    (fun c s l x =>
      chkThen (s.releaseCheck c l .dev) fun s _ =>
        chkThen (s.barCheck c l (x.v 0) false .thr) fun s segs => (s, .ok (x.v 0, segs)))
    (fun c s l b => s.sendLocal c l b.2 (.bar .arrive) .none true false b.1))

/-! ### Prefetch, probe, invalidation (09_isa_arrival.md R197-R199) -/

/-- `PREF` at an address (R197): what fails is dropped, and a miss of the translation leaves the prefetch to its walk. -/
def State.prefetch (s : State) (p : Pref) : State :=
  let w : Who := ⟨p.id, p.core, p.job, p.priv, 1⟩
  let done (s : State) : State := { s with walkFaults := s.walkFaults.filter (·.uid != p.id) }
  match (if inWindow p.va then .ok (s, .error 0x25) else s.blockNow w { need := .rd } p.va 1) with
  | .error (.walk va dirty) => { s.askWalk w va dirty with prefs := s.prefs ++ [p] }
  | .error (.home _) => s
  | .ok (s, .ok (.mem pa _ _)) =>
    let line := pa / 128
    let cl := p.core.cluster
    if homed pa = false ∨ s.effClass p.job p.lease = 0 then s
    else
      let t := s.floorT cl p.time
      if (s.hitAt cl line t).isSome || (match s.copyOf cl line with
          | some k => (match k.st with | .L e => !e | .O => true | .U .. => false)
          | none => false) then s
      else
        match s.missOf cl line with
        | some _ => s.updMiss cl line fun m => { m with install := true }
        | none =>
          if s.missFull cl then s
          else
            let k : ReqKind × Stamp := match s.copyOf cl line with
              | some x => if x.isO || x.isU then (.read, 0) else (.renew, x.wts)
              | none => (.read, 0)
            let s := s.tally cl 0x05 1
            { s with reqs := s.reqs ++ [⟨s.nextId, k.1, cl, p.uid, p.lane, line, t, s.leaseLen p.job p.lease, k.2, p.lease⟩]
                     misses := s.misses ++ [⟨cl, line, [], false, true⟩], nextId := s.nextId + 1 }
  | .ok (s, _) => done s

/-- `PREF` (R197). -/
def execPref (g : Guard) (lease : BitVec 3) (m : MemArg) (s : State) : Host.Outcome State Fault Refusal :=
  issue (.pref g lease m) g s (memExec [m.base.w2] [] [] (fun _ s _ x => (s, .ok (eaOf (x.v 0) m.off)))
    (fun c s l va =>
      let t := match s.agent? c.uid with | some a => (a.lane l).ltime | none => 0
      ({ s with nextId := s.nextId + 1 }).prefetch
        ⟨s.nextId, c.uid, l, c.a.place.coreId, c.a.job, c.p.priv, va, lease.toNat, t⟩))

/-- What `PROBE` needs on the page (R198, 01_main_memory.md R26). -/
def probeNeed : ProbeKind → Need
  | .ld => .rd
  | .st => .wr
  | .atom => .rw
  | .fetch => .x

/-- The fault value of `PROBE`. -/
def probeFault (cause : BitVec 8) : DWord := 0x8000000000000000 ||| cause.setWidth 64

/-- The translated value of `PROBE`. -/
def probeLeaf (t : Tlb) (va : DWord) : DWord :=
  let size : BitVec 2 := if t.bits = 16 then 0 else if t.bits = 26 then 1 else 2
  (0 : BitVec 1) ++ t.leaf.extractLsb' 60 3 ++ t.leaf.extractLsb' 58 2 ++ size ++ (0 : BitVec 8)
    ++ BitVec.ofNat 48 (t.pa va)

/-- The local-store value of `PROBE`. -/
def probeLocal (c : CoreId) (off : Nat) : DWord :=
  0x0300000000000000 + BitVec.ofNat 64 (c.cluster * 2 ^ 26 + c.core * 2 ^ 20 + off)

/-- The checks of `PROBE` (R198): the value it writes; it waits for a walk. -/
def State.probe (s : State) (c : Ctx) (kind : ProbeKind) (va : DWord) : State × Chk DWord :=
  let w := c.who
  if va.extractLsb' 56 8 ≠ 0 then (s, .ok (probeFault 0x2A))
  else if kind = .atom ∧ va.toNat % 8 ≠ 0 then (s, .ok (probeFault 0x24))
  else if kind = .fetch ∧ va.extractLsb' 48 8 = (0xFF : BitVec 8) then (s, .ok (probeFault 0x23))
  else
    match classify s w va with
    | .error x => (s, .ok (probeFault x))
    | .ok (.own off) => (s, .ok (probeLocal w.core off))
    | .ok (.remote rc off) => (s, .ok (probeLocal rc off))
    | .ok .trans =>
      let r := s.findTlb w.core w.job va
      match r.2 with
      | some t =>
        (r.1, .ok (match r.1.checkPage w { need := probeNeed kind, regOk := (kind == .ld || kind == .st) } (t.pa va) t.leaf with
          | some x => probeFault x
          | none => probeLeaf t va))
      | none =>
        match r.1.walkFault? w va with
        | some x => (r.1, .ok (probeFault x))
        | none => (r.1.askWalk w va false, .wait .order)

/-- `PROBE` (R198). -/
def execProbe (g : Guard) (kind : ProbeKind) (d : GReg) (m : MemArg) (s : State) : Host.Outcome State Fault Refusal :=
  issue (.probe g kind d m) g s (memExec [m.base.w2] [] [d, d + 1]
    (fun c s _ x => s.probe c kind (eaOf (x.v 0) m.off))
    (fun c s l v => s.fillRegs c.uid l (valueWords v (physRegs c.rrb d 2))))

/-- An access that issued before a number, in a cluster or in the device, may have used a translation and is not performed, or
a walk that was in progress then has not ended (R33). Which entry an access used is not kept: DESIGN CHOICE, log entry 58. -/
def State.usedBefore (s : State) (cluster : Option Nat) (before : Nat) : Bool :=
  let here (k : Nat) : Bool := match cluster with | some c => c == k | none => true
  let mine (uid : Nat) : Bool := match s.agent? uid with
    | some a => here a.place.cluster
    | none => true
  (s.walks.any fun w => here w.cluster && decide (w.id < before))
    || (s.loads.any fun l => mine l.uid && decide (l.id < before) && (l.kind != .held || l.pieces.any (·.val.isNone)))
    || (s.writes.any fun w => mine w.uid && decide (w.id < before))
    || (s.acks.any fun a => mine a.uid && decide (a.write < before))
    || (s.reqs.any fun r => match r.kind with | .atomic .. => mine r.uid && decide (r.id < before) | _ => false)
    || (s.reps.any fun r => match r.kind with | .atomic .. => mine r.uid | _ => false)
    || (s.winReqs.any fun w => mine w.uid && decide (w.id < before))
    || s.mops.any fun m => here m.core.cluster && decide (m.id < before)
      && (match m.kind with | .accld .. | .accst .. | .tsave .. => true | _ => false)

/-- `TINV` (R199, 01_main_memory.md R33): the entries go, again at each try so that those of the walks in progress go too, until
what has used them is performed. -/
def execTinv (g : Guard) (dev : Bool) (job : GReg) (a : GReg) (am : ReadMode) (s : State) :
    Host.Outcome State Fault Refusal :=
  issue (.tinv g dev job a am) g s (memExec [(Src.g a am).w2, (rd job).w1] [] []
    (fun c s _ x =>
      let acks := match s.agent? c.uid with | some a => a.acks | none => 0
      if acks ≠ 0 then (s, .wait .order)
      else
        let cl := if dev then none else some c.cluster
        let before := match c.p.wait with
          | some w => if w.kind = .inval then w.start else s.nextId
          | none => s.nextId
        let s := s.dropTlbs cl (x.w 1).toNat (x.v 0)
        (s, if s.usedBefore cl before then .wait .inval else .ok ()))
    (fun _ s _ _ => s))

/-! ### HSIFT, BINS, TWALK (10_isa_lane.md R235-R240) -/

/-- A key is worse than another (R235). -/
def worse (t : KeyTy) (bot : Bool) (x y : Word) : Bool :=
  let nan (w : Word) : Bool := t == .f32 && (decodeF .f32 w.toNat).isNaN
  if nan x then !nan y
  else if nan y then false
  else if bot then keyLess t y x else keyLess t x y

/-- Sifting a candidate down from entry `i` (R235); the fuel is K. -/
def sift (wrs : Word → Word → Bool) (k : Nat) (cand : Word × Word) : Nat → Nat → List (Word × Word) → List (Word × Word)
  | 0, i, h => h.set i cand
  | n + 1, i, h =>
    let key (j : Nat) : Word := (h.getD j (0, 0)).1
    let l := 2 * i + 1
    if k ≤ l then h.set i cand
    else
      let c := if l + 1 < k && wrs (key (l + 1)) (key l) then l + 1 else l
      if wrs (key c) cand.1 then sift wrs k cand n c (h.set i (h.getD c (0, 0))) else h.set i cand

/-- The heap after an offer, and the entry given back (R235). -/
def heapOffer (t : KeyTy) (bot : Bool) (k : Nat) (h : List (Word × Word)) (cand : Word × Word) :
    List (Word × Word) × (Word × Word) :=
  let root := h.getD 0 (0, 0)
  if worse t bot root.1 cand.1 then (sift (worse t bot) k cand k 0 h, root) else (h, cand)

/-- The offset of a heap in the executing core's store, or its cause (R236). -/
def heapAt (c : Ctx) (va : DWord) (n : Nat) : Except (BitVec 8 × DWord) Nat :=
  let core := c.a.place.coreId
  let off : Option Nat :=
    if va.extractLsb' 20 44 = (0x00FF0000000 : BitVec 44) then some (va.extractLsb' 0 20).toNat
    else if va.extractLsb' 47 17 = (0x001FF : BitVec 17) ∧ va.extractLsb' 32 15 = 0
        ∧ (va.extractLsb' 26 6).toNat = core.cluster ∧ (va.extractLsb' 20 6).toNat = core.core then
      some (va.extractLsb' 0 20).toNat
    else none
  if va.toNat % 8 ≠ 0 then .error (0x24, va)
  else
    match off with
    | none => .error (0x74, 0)
    | some o =>
      if lsize core.core < o + n then .error (0x74, 0)
      else
        match (List.range n).find? fun i => badOffset core.core (o + i) c.p.priv with
        | some i => .error (0x25, va + BitVec.ofNat 64 i)
        | none => .ok o

/-- `HSIFT` (R235, R236): the checks at issue; the heap is read and written at its completion. -/
def execHsift (g : Guard) (t : KeyTy) (bot : Bool) (k : BitVec 6) (d : GReg) (a b : Src) (s : State) :
    Host.Outcome State Fault Refusal :=
  issue (.hsift g t bot k d a b) g s (memExec [a.w2, b.w2] [] [d, d + 1]
    (fun c s _ x =>
      chkThen (s.acqCheck c.uid) fun s _ =>
        match heapAt c (x.v 0) (8 * k.toNat) with
        | .error e => (s, .fault e.1 e.2 0)
        | .ok off =>
          match s.lbad c.a.place.coreId off (8 * k.toNat) with
          | some o => (s, .fault 0x26 (x.v 0 + BitVec.ofNat 64 (o - off)) 1)
          | none => (s, if s.loadsBound c.uid s.nextId && !s.decBusy c.who then .ok (off, x.v 1) else .wait .order))
    (fun c s l r => s.produce c l (physRegs c.rrb d 2)
      (.hsift t bot k.toNat r.1 (lo32 r.2) (hi32 r.2) (physRegs c.rrb d 2))))

/-- `HSIFT_COMPLETION` (R236): the oldest pending `HSIFT` of a core is performed at its port and fills its pair. -/
def execHsiftCompletion (op : Nat) (s : State) : Host.Outcome State Fault Refusal :=
  match s.pendingOf op with
  | some p =>
    match p.kind with
    | .hsift t bot k off key pay rs =>
      let before := s.pendings.any fun q => decide (q.id < op) && q.core == p.core
        && (match q.kind with | .hsift .. => true | _ => false)
      if before then .next s
      else
        let h := (List.range k).map fun i => ((s.lword p.core (off / 4 + 2 * i)).v, (s.lword p.core (off / 4 + 2 * i + 1)).v)
        let r := heapOffer t bot k h (key, pay)
        let s := (List.range k).foldl (fun s i =>
          let e := r.1.getD i (0, 0)
          if h.getD i (0, 0) = e then s
          else (s.putLword p.core (off / 4 + 2 * i) e.1).putLword p.core (off / 4 + 2 * i + 1) e.2) s
        let s := s.noteLrt p.uid p.id p.lane (s.lrtOf p.core)
        .next ({ s with pendings := s.pendings.filter (·.id != op) }.fillRegs p.uid p.lane (rs.zip [r.2.1, r.2.2]))
    | _ => .next s
  | none => .next s

/-- The parts of an element read of a load: own store and device bytes bound now, other stores by message, the rest by
line (R240). -/
def State.elemPieces (s : State) (c : Ctx) (l : Nat) (id k0 : Nat) (segs : List Seg) (cls : Option Nat) (va : DWord) :
    State × List Piece :=
  segs.foldl (fun (r : State × List Piece) g =>
    match g with
    | .own off n =>
      let core := c.a.place.coreId
      (r.1.noteLrt c.uid id l (r.1.lrtOf core),
        r.2 ++ [⟨0, 0, n, some (r.1.lbytes core off n, (r.1.lbad core off n).isSome), false, 0⟩])
    | .remote rc off n =>
      if rc = c.a.place.coreId then
        (r.1.noteLrt c.uid id l (r.1.lrtOf rc),
          r.2 ++ [⟨0, 0, n, some (r.1.lbytes rc off n, (r.1.lbad rc off n).isSome), false, 0⟩])
      else
        (r.1.sendRemote c l rc off (.load n) (.piece id (k0 + r.2.length) n) false false false false false false va,
          r.2 ++ [⟨0, 0, n, none, false, 0⟩])
    | .mem pa n leaf =>
      if g.dev then
        let q := r.1.regRead pa n
        (q.1.regLoaded c.uid l pa false false, r.2 ++ [⟨0, 0, n, some (q.2, false), false, 0⟩])
      else
        (r.1, r.2 ++ (linesOf (n / 128 + 2) pa n).map fun x =>
          (⟨x.1, x.2.1, x.2.2, none, true, if regionOf pa = some .window then 0 else clsOf cls leaf⟩ : Piece))) (s, [])

/-- The check of one element read (R240). -/
def State.elemCheck (s : State) (c : Ctx) (l : Nat) (va : DWord) (n : Nat) : State × Chk (List Seg) :=
  chkThen (s.placeCheck c { need := .rd, regOk := regSize va n } va n) fun s segs => s.poisonCheck c segs va (some l)

/-- The addresses of the thresholds of `BINS`, checked one by one (R240). -/
def State.binsCheck (c : Ctx) (l : Nat) : Nat → State → DWord → State × Chk (List (DWord × List Seg))
  | 0, s, _ => (s, .ok [])
  | n + 1, s, va =>
    chkThen (s.elemCheck c l va 4) fun s segs =>
      chkThen (State.binsCheck c l n s (va + 4)) fun s rest => (s, .ok ((va, segs) :: rest))

/-- `BINS` (R237, R240). -/
def execBins (g : Guard) (t : KeyTy) (lt : Bool) (m : BitVec 8) (lease : BitVec 3) (d : GReg) (a b : Src) (s : State) :
    Host.Outcome State Fault Refusal :=
  issue (.bins g t lt m lease d a b) g s (memExec [a.w1, b.w2] [] [d]
    (fun c s l x => chkThen (State.binsCheck c l m.toNat s (x.v 1)) fun s r =>
      (s, .ok (x.w 0, r)))
    (fun c s l r =>
      let dst := loadDst c d 4 false
      let s := ((s.touch c.uid l).1).pendDest c.uid l dst
      let id := s.nextId
      let s := { s with nextId := id + 1 }
      let q := r.2.foldl (fun (q : State × List Piece) y =>
        let e := q.1.elemPieces c l id q.2.length y.2 (some lease.toNat) y.1
        (e.1, q.2 ++ e.2)) (s, [])
      { q.1 with loads := q.1.loads ++ [(⟨id, c.uid, l, .bins t lt r.1, dst, q.2, false, false, 0, false⟩ : Load)] }.presentAll id))

/-- The first `n` bytes of some pieces, in order: the bytes and the pieces left; none where one is not bound yet. -/
def takePieces : Nat → List Piece → Nat → Option (List Byte × Bool × List Piece)
  | 0, _, _ => none
  | k + 1, ps, n =>
    if n = 0 then some ([], false, ps)
    else
      match ps with
      | [] => none
      | p :: rest =>
        match p.val with
        | none => none
        | some (bs, bad) => (takePieces k rest (n - p.len)).map fun r => (bs ++ r.1, bad || r.2.1, r.2.2)

/-- A step of a walk from the values read so far: what it needs next, or how it ends (R238). -/
inductive Walked where
  /-- The bytes at an address. -/
  | need (va : DWord) (n : Nat)
  /-- They are on their way. -/
  | wait
  | fault (cause : BitVec 8) (tval : DWord) (ue : BitVec 2)
  | leaf (val : Word) (i : Nat)
  deriving DecidableEq, Repr

/-- The walk of R238 over the pieces of its record; the fuel is the node count. -/
def treeWalk (a b : DWord) (n : Nat) : Nat → List Piece → Nat → Walked
  | 0, _, _ => .fault 0x73 0 0
  | k + 1, ps, i =>
    let na := a + 8 * BitVec.ofNat 64 i
    if ps.isEmpty then .need na 8
    else
      match takePieces 20 ps 8 with
      | none => .wait
      | some (_, true, _) => .fault 0x26 na 0
      | some (bs, false, ps) =>
        let nd : DWord := BitVec.ofNat 64 (ofBytes bs)
        let left := (nd.extractLsb' 48 14).toNat
        let val : Word := lo32 nd
        if nd.getLsbD 63 then .leaf val i
        else if left ≤ i ∨ n ≤ left + 1 then .fault 0x73 0 0
        else
          let fa := b + 4 * (nd.extractLsb' 32 16).setWidth 64
          if ps.isEmpty then .need fa 4
          else
            match takePieces 20 ps 4 with
            | none => .wait
            | some (_, true, _) => .fault 0x26 fa 0
            | some (fs, false, ps) =>
              let x := decodeF .f32 (ofBytes fs)
              let v := decodeF .f32 val.toNat
              let go := if x.isNaN then nd.getLsbD 62 else !(!v.isNaN && decide (x.numCmp v < 0))
              treeWalk a b n k ps (left + if go then 1 else 0)

/-- The record of a held walk of a lane. -/
def State.walkOf (s : State) (uid l : Nat) : Option Load :=
  s.loads.find? fun x => x.uid == uid && x.lane == l && x.kind == .held

/-- The check of `TWALK`: it reads on until the leaf; the issuer is held meanwhile (R240). The fuel bounds the reads. -/
def State.walkCheck (c : Ctx) (l : Nat) (a b : DWord) (n cls : Nat) : Nat → State → State × Chk (Word × Nat)
  | 0, s => (s, .wait .order)
  | k + 1, s =>
    match s.walkOf c.uid l with
    | none => (s, .wait .order)
    | some r =>
      let stop (s : State) : State := { s with loads := s.loads.filter (·.id != r.id) }
      match treeWalk a b n n r.pieces 0 with
      | .leaf v i => (stop s, .ok (v, i))
      | .fault x t u => (stop s, .fault x t u)
      | .wait => (s.presentAll r.id, .wait .order)
      | .need va len =>
        match s.elemCheck c l va len with
        | (s, .fault x t u) => (stop s, .fault x t u)
        | (s, .due d) => (stop s, .due d)
        | (s, .wait w) => (s, .wait w)
        | (s, .ok segs) =>
          let q := s.elemPieces c l r.id r.pieces.length segs (some cls) va
          let s := (q.1.updLoad r.id fun x => { x with pieces := x.pieces ++ q.2 }).presentAll r.id
          State.walkCheck c l a b n cls k s

/-- Opening the record of a walk. -/
def State.openWalk (s : State) (c : Ctx) (l : Nat) : State :=
  match s.walkOf c.uid l with
  | some _ => s
  | none =>
    let s := (s.touch c.uid l).1
    { s with loads := s.loads ++ [⟨s.nextId, c.uid, l, .held, .none, [], false, false, 0, false⟩], nextId := s.nextId + 1 }

/-- The records of held reads of some lanes are dropped. -/
def State.dropHeld (s : State) (uid : Nat) (m : Mask) : State :=
  { s with loads := s.loads.filter fun x => !(x.uid == uid && x.kind == .held && m.getLsbD x.lane) }

/-- A read that holds its issuer until its bytes are there: checked once, then in flight under the record of the lane; the
bytes, with the record kept, or a cause. -/
def State.heldPeek (s : State) (c : Ctx) (l : Nat) (align : Nat) (va : DWord) (n : Nat) (cls : Option Nat) :
    State × Chk (List Byte) :=
  let s1 : State × Chk Unit :=
    match s.walkOf c.uid l with
    | some _ => (s, .ok ())
    | none =>
      chkThen (s.placeCheck c { need := .rd, align := align, regOk := regSize va n } va n) fun s segs =>
        chkThen (s.poisonCheck c segs va (some l)) fun s segs =>
          let s := s.openWalk c l
          match s.walkOf c.uid l with
          | none => (s, .ok ())
          | some r =>
            let q := s.elemPieces c l r.id 0 segs cls va
            (q.1.updLoad r.id fun x => { x with pieces := q.2 }, .ok ())
  chkThen s1 fun s _ =>
    match s.walkOf c.uid l with
    | none => (s, .wait .order)
    | some r =>
      let s := s.presentAll r.id
      match ((s.walkOf c.uid l).bind Load.bytes?) with
      | none => (s, .wait .order)
      | some (bs, bad) =>
        if bad then ({ s with loads := s.loads.filter (·.id != r.id) }, .fault 0x26 va 0) else (s, .ok bs)

/-- Such a read whose record goes as soon as its bytes are there. -/
def State.heldRead (s : State) (c : Ctx) (l : Nat) (align : Nat) (va : DWord) (n : Nat) (cls : Option Nat) :
    State × Chk (List Byte) :=
  chkThen (s.heldPeek c l align va n cls) fun s bs => (s.dropHeld c.uid (laneBit l), .ok bs)

/-- `TWALK` (R238, R240): after the last read the destinations are empty until the value returns. -/
def execTwalk (g : Guard) (lease : BitVec 3) (n : BitVec 16) (d : GReg) (a b : Src) (s : State) :
    Host.Outcome State Fault Refusal :=
  issue (.twalk g lease n d a b) g s (memExec [a.w2, b.w2] [] [d, d + 1]
    (fun c s l x =>
      chkThen (s.acqCheck c.uid) fun s _ =>
        State.walkCheck c l (x.v 0) (x.v 1) n.toNat lease.toNat (2 * n.toNat + 2) (s.openWalk c l))
    (fun c s l r =>
      let dst := loadDst c d 8 false
      let p : Piece := ⟨0, 0, 8, some (toBytes 4 r.1.toNat ++ toBytes 4 r.2, false), false, 0⟩
      { s.pendDest c.uid l dst with
        loads := s.loads ++ [⟨s.nextId, c.uid, l, .plain, dst, [p], false, false, 0, false⟩], nextId := s.nextId + 1 }))

end Sys2Proof.Machine
end

