-- ==== Sys2Proof/Machine/Sync.lean ====
section
/-! DEFINITION. The synchronising forms and `BARWAIT` (09_isa_arrival.md R194-R196, 13_isa_return.md R306), parking, wait
limits and withdrawal (04_cluster_store.md R80-R87), and the device events of remote accesses (R82-R84, R308). -/

namespace Sys2Proof.Machine

/-! ### Parking and withdrawal -/

/-- A synchronising access of a lane after its checks. -/
structure SyncAcc where
  va : DWord
  segs : List Seg
  acc : LAcc
  bad : Bool
  deriving DecidableEq, Repr

/-- The full bits of a destination's registers. -/
def Ctx.fullBits (c : Ctx) (l : Nat) (d : Dest) : List (Nat × Bool) :=
  match d with
  | .regs rs _ _ => rs.map fun r => (r, (c.a.lane l).full.getLsbD r)
  | _ => []

/-- The registers that an instruction consumes. -/
def Ctx.consumed (c : Ctx) (os : List Opnd) : List Nat :=
  ((os.flatMap Opnd.regs).filter fun x => x.2 == .consume).map fun x => (physG c.rrb x.1).val

/-- The path's lane is parked. -/
def Path.lanePark (p : Path) (l : Nat) : Path := { p with parked := p.parked ||| laneBit l }

/-- A lane attempts its access: it performs, parks at its own store, or is sent to another store. -/
def State.attempt (s : State) (c : Ctx) (os : List Opnd) (l : Nat) (x : SyncAcc) (d : Dest) (rel acq sys : Bool) : State :=
  let core := c.a.place.coreId
  let used := c.consumed os
  let olds := c.fullBits l d
  let s := (s.acquireTokens c l os).floorLane c.uid l
  let ln := s.laneOf c.uid l
  let rec_ (dst : CoreId) (off : Nat) (counted : Bool) : Remote :=
    ⟨s.nextId, c.uid, l, core, dst, off, x.acc, d, rel || ln.fenced x.acc, acq, sys, ln.sendTime x.acc, x.bad, x.va, true, counted,
      none, none, used, olds⟩
  let own (off : Nat) : State :=
    if s.lcond core off x.acc then
      let s := s.updLane c.uid l fun ln => used.foldl (fun ln r => ln.setEmpty (Fin.ofNat 64 r)) ln
      let s := s.updPath c.uid c.b fun p => p.laneDone l
      let r := s.localNow core c.uid l off x.acc rel acq sys x.bad
      r.1.writeDest c.uid l d r.2.1 r.2.2 false
    else
      let s' := { s.pendDest c.uid l d with parked := s.parked ++ [rec_ core off false], nextId := s.nextId + 1 }
      s'.updPath c.uid c.b fun p => p.lanePark l
  match x.segs with
  | [.own off _] => own off
  | [.remote rc off _] =>
    if rc = core then own off
    else
      let w := x.acc.changes
      let s' := { s.pendDest c.uid l d with remotes := s.remotes ++ [rec_ rc off w], nextId := s.nextId + 1 }
      (if w then s'.count c.uid else s').updPath c.uid c.b fun p => p.lanePark l
  | _ => s

/-- An instruction whose lanes park (R81): the lanes that have neither performed nor parked read, check and attempt their
part in ascending order, once none of them waits (DESIGN CHOICE, log entry 65); the instruction completes when every active lane
has performed. One whose back edge would take cause 0x1C takes it before any lane attempts its part (16_loops.md R358, R361). -/
def parkExec {β : Type} (kind : State → WaitKind) (os : List Opnd) (ds : List GReg)
    (check : Ctx → State → Nat → LaneIn → State × Chk β) (attempt : Ctx → State → Nat → β → State) (c : Ctx) (s : State) :
    State :=
  let todo := c.act &&& ~~~(c.p.done ||| c.p.parked)
  let fin (s : State) : Bool := match s.agent? c.uid with
    | some a => (match a.slot c.b with | some p => (c.act &&& ~~~p.done) == 0 | none => true)
    | none => true
  if todo = 0 then (if fin s then s.completeWith c id else s.waitFor c (kind s))
  else
    let c' := { c with act := todo }
    let st := s.stand c' os [] ds
    match st.faults, st.wait with
    | [], some k => s.waitFor c k
    | fs, some k => s.faultSome c' fs (some k)
    | fs, none =>
      let good := (Mask.list todo).filter fun l => fs.all fun x => x.lane != l
      let r := checkLanes (fun s l => check c' s l (c'.inputs l os [])) good s
      let all := fs ++ r.2.2.1
      match r.2.2.2 with
      | some k =>
        if all.isEmpty then r.1.waitFor c k else (r.1.dropHeld c.uid (faultMask all)).faultSome c' all (some k)
      | none =>
        if all.isEmpty && c.clash && (c.p.done ||| c.p.parked) == 0 then (r.1.dropHeld c.uid c.act).clashFault c else
        let none_ := c.noneCompletes all
        let s := if none_ then r.1
          else (r.2.1.foldl (fun s x => attempt c' s x.1 x.2) r.1).noteFlight c.uid r.1.nextId c.p.mask
        let s := s.dropHeld c.uid (faultMask all)
        if all.isEmpty then (if fin s then r.1.completeWith c fun _ => s else s.waitFor c (kind s))
        else
          let left := c.act &&& ~~~(faultMask all)
          let open_ := match s.agent? c.uid with
            | some a => (match a.slot c.b with | some p => (left &&& ~~~p.done) != 0 | none => false)
            | none => false
          s.faultSome c' all (if open_ && !none_ then some (kind s) else none)

/-- A synchronising instruction: each lane attempts its access. -/
def syncExec (kind : WaitKind) (os : List Opnd) (ds : List GReg) (d : Ctx → Dest) (rel acq sys : Bool)
    (check : Ctx → State → Nat → LaneIn → State × Chk SyncAcc) (c : Ctx) (s : State) : State :=
  parkExec (fun _ => kind) os ds check (fun x s l b => s.attempt x os l b (d c) rel acq sys) c s

/-- The condition of an access whose place is the own store holds; elsewhere its owning port decides. -/
def State.holdsNow (s : State) (c : Ctx) (segs : List Seg) (acc : LAcc) : Bool :=
  match segs with
  | [.own off _] => s.lcond c.a.place.coreId off acc
  | [.remote rc off _] => rc != c.a.place.coreId || s.lcond rc off acc
  | _ => true

/-- The check of a synchronising access (R79, R195): a codelet that would wait takes cause 0x18. -/
def State.syncCheck (s : State) (c : Ctx) (l : Nat) (va : DWord) (n : Nat) (acc : LAcc) (bad rel : Bool) (scope : Scope) :
    State × Chk SyncAcc :=
  chkThen (s.localCheck c va n) fun s segs =>
    chkThen (s.poisonCheck c segs va) fun s segs =>
      chkThen (if acc.changes then s.writeCheck c l rel scope segs else (s, .ok segs)) fun s segs =>
        chkThen (s.ackedCheck c rel) fun s _ => if c.a.kind == .codelet && !s.holdsNow c segs acc then (s, .fault 0x18 0 0) else (s, .ok ⟨va, segs, acc, bad⟩)

/-- `LDF` (R195). -/
def execLdf (g : Guard) (w64 acq : Bool) (d : GReg) (m : MemArg) (s : State) : Host.Outcome State Fault Refusal :=
  issue (.ldf g w64 acq d m) g s (syncExec .sync [m.base.w2] (dstW w64 d) (fun c => loadDst c d (4 * wn w64) false) false
    acq (m.scope == .sys) fun c s l x => s.syncCheck c l (eaOf (x.v 0) m.off) (4 * wn w64) (.ldf w64) false false m.scope)

/-- `TAKE` (R195). -/
def execTake (g : Guard) (w64 acq : Bool) (d : GReg) (m : MemArg) (s : State) : Host.Outcome State Fault Refusal :=
  issue (.take g w64 acq d m) g s (syncExec .sync [m.base.w2] (dstW w64 d) (fun c => loadDst c d (4 * wn w64) false) false
    acq (m.scope == .sys) fun c s l x => s.syncCheck c l (eaOf (x.v 0) m.off) (4 * wn w64) (.take w64) false false m.scope)

/-- `FILL` (R195, R196). -/
def execFill (g : Guard) (w64 rel : Bool) (d : Src) (m : MemArg) (s : State) : Host.Outcome State Fault Refusal :=
  let o : Opnd := ⟨d, wn w64, true⟩
  issue (.fill g w64 rel d m) g s (syncExec .sync [m.base.w2, o] [] (fun _ => .none) rel false false fun c s l x =>
    s.syncCheck c l (eaOf (x.v 0) m.off) (4 * wn w64) (.fill w64 (x.v 1)) (c.opndBad l o) rel m.scope)

/-- `BARWAIT` (13_isa_return.md R306). -/
def execBarwait (g : Guard) (acq : Bool) (d : Src) (m : MemArg) (s : State) : Host.Outcome State Fault Refusal :=
  issue (.barwait g acq d m) g s (syncExec .barwait [m.base.w2, d.w1] [] (fun _ => .none) false acq (m.scope == .sys)
    fun c s l x => s.syncCheck c l (eaOf (x.v 0) m.off) 16 (.barwait ((x.w 1).toNat % 16)) false false m.scope)

/-- The kinds of access that wait for a condition. -/
def LAcc.syncs : LAcc → Bool
  | .ldf _ | .take _ | .fill .. | .barwait _ => true
  | _ => false

/-- A parked access that has not performed is withdrawn (R87): its destination has the bit it had before the issue. -/
def State.undo (s : State) (r : Remote) : State :=
  let s := s.updLane r.uid r.lane fun ln => r.olds.foldl (fun ln x =>
    { ln with full := setBit ln.full x.1 x.2, pend := setBit ln.pend x.1 false }) ln
  let s := if r.counted then s.updAgent r.uid fun a => { a with acks := a.acks - 1 } else s
  s.updAgent r.uid fun a => a.mapPaths fun p => { p with parked := p.parked &&& ~~~(laneBit r.lane) }

/-- Withdrawing the parked accesses of some lanes of a unit: those that have performed complete first (R87). -/
def State.withdraw (s : State) (uid : Nat) (m : Mask) : State :=
  let mine (u l : Nat) (h : Bool) : Bool := h && u == uid && m.getLsbD l
  let done := s.rreplies.filter fun r => mine r.uid r.lane r.holds
  let s := { s with rreplies := s.rreplies.filter fun r => !(mine r.uid r.lane r.holds) }
  let s := done.foldl (fun s r => s.delivered r) s
  -- a `CNTW` waits with an empty destination (17_isa_control.md R383)
  let tag (p : Pending) : Option (Nat × Bool) :=
    if p.uid == uid && m.getLsbD p.lane then (match p.kind with | .cntw r o => some (r, o) | _ => none) else none
  let s := s.pendings.foldl (fun s p => match tag p with
    | some x => s.updLane uid p.lane fun ln => { ln with full := setBit ln.full x.1 x.2, pend := setBit ln.pend x.1 false }
    | none => s) { s with pendings := s.pendings.filter fun p => (tag p).isNone }
  let out (r : Remote) : Bool := mine r.uid r.lane r.holds && r.acc.syncs
  let gone := (s.parked ++ s.remotes).filter out
  let s := { s with parked := s.parked.filter fun r => !out r, remotes := s.remotes.filter fun r => !out r }
  gone.foldl (fun s r => s.undo r) s

/-- A lane is parked at an access. -/
def State.isParked (s : State) (uid l : Nat) : Bool :=
  match s.agent? uid with
  | some a => a.live.getLsbD l && a.paths.any fun p => p.mask.getLsbD l && p.parked.getLsbD l
  | none => false

/-- Synchronising accesses that hold a lane which is parked at them no longer — a coach lane whose shadow lane has faulted has left
its unit, a path after a double trap starts anew — are withdrawn; those that have performed complete (R87). -/
def State.dropOrphans (s : State) : State :=
  let gone (r : Remote) : Bool := r.holds && r.acc.syncs && !s.isParked r.uid r.lane
  let lost (r : RReply) : Bool := r.holds && !s.isParked r.uid r.lane
  let out := (s.parked ++ s.remotes).filter gone
  let done := s.rreplies.filter lost
  let s := { s with parked := s.parked.filter fun r => !gone r, remotes := s.remotes.filter fun r => !gone r,
                    rreplies := s.rreplies.filter fun r => !lost r }
  out.foldl (fun s r => s.undo r) (done.foldl (fun s r => s.delivered r) s)

/-! ### Wait limits (R85, R86) -/

/-- LIMIT of `WAITLIM`. -/
def waitLimit (w : DWord) : Nat := (w.extractLsb' 0 32).toNat

/-- `WAIT_LIMIT`: the wait of a path has reached LIMIT (R86). With EN the lanes still waiting take cause 0x41; those that
have performed go on. -/
def execWaitLimit (unit slot : Nat) (s : State) : Host.Outcome State Fault Refusal :=
  match s.agent? unit with
  | none => .next s
  | some a =>
    let b := slot == 1
    match a.slot b with
    | none => .next s
    | some p =>
      match p.wait with
      | none => .next s
      | some w =>
        if !w.kind.limited || waitLimit a.waitlim = 0 || s.now a.place.cluster < w.since + waitLimit a.waitlim then .next s
        else if a.waitlim.getLsbD 63 = false then
          .next (s.updAgent unit fun a => { a with waitlim := setBit a.waitlim 62 true })
        else if w.kind = .reg then .next (s.updPath unit b fun p => { p with wait := some ⟨.limit, w.since, w.start⟩ })
        else
          let s := s.withdraw unit p.parked
          match (s.agent? unit).bind (·.slot b) with
          | none => .next s
          | some q =>
            let m := p.parked &&& ~~~q.done
            if m = 0 then .next s
            else
              let fs := (Mask.list m).map fun l => (⟨l, 0x41, 0, 0, none⟩ : LFault)
              .next (State.raiseFaults s unit b fs m (q.mask &&& ~~~m) 0 q.pc (some w))

/-! ### Remote accesses (R82-R84, 13_isa_return.md R308) -/

/-- An access reaches its owning port: no earlier access of its issuer to that core is on its way (R82), and before a write
every earlier load of the issuer is bound (14_memory_model.md R314). -/
def State.reaches (s : State) (r : Remote) : Bool :=
  r.refused.isNone && (s.remotes.all fun q =>
      !(q.uid == r.uid || (q.src == r.src && s.ported.contains q.id)) || q.dst != r.dst || decide (r.id ≤ q.id))
    && (!r.acc.changes || s.loadsBound r.uid r.id)

/-- `REMOTE_ACCESS`: the owning port performs an access, parks it in one of 32 remote-wait records, or refuses it. -/
def execRemoteAccess (rid : Nat) (s : State) : Host.Outcome State Fault Refusal :=
  match s.remotes.find? (·.id == rid) with
  | none => .next s
  | some r =>
    if !s.reaches r then .next s
    else
      let off (s : State) : State := { s with remotes := s.remotes.filter (·.id != rid) }
      let refuse (s : State) : State := { s with remotes := s.remotes.map fun q =>
        if q.id = rid then { q with refused := some (s.now r.src.cluster) } else q }
      if r.acc.isDec && s.ringFull r.dst r.off then .next (refuse s)
      else if s.lcond r.dst r.off r.acc then
        let q := (off s).performRemote r
        .next (q.1.scan r.dst q.2)
      else
        match s.agent? r.uid with
        | none => .next (off s)
        | some a =>
          if a.kind = .codelet then
            -- a codelet does not wait (09_isa_arrival.md R195)
            match a.slotOf r.lane with
            | some b => .next (((off s).undo r).takeTrap r.uid b 0x18 0 0 ((a.slot b).map (·.pc) |>.getD 0))
            | none => .next ((off s).undo r)
          else if (s.parked.filter fun q => q.dst == r.dst && q.src != q.dst).length < 32 then
            .next { off s with parked := s.parked ++ [r] }
          else .next (refuse s)

/-- `REMOTE_REPLY`: the answer reaches the issuer (R83). -/
def execRemoteReply (rid : Nat) (s : State) : Host.Outcome State Fault Refusal :=
  match s.rreplies.find? (·.id == rid) with
  | none => .next s
  | some r =>
    let s := { s with rreplies := s.rreplies.filter (·.id != rid) }.delivered r
    match r.dest with
    | .piece id _ _ => .next (s.finishLoad id)
    | _ => .next s

/-- A refused access is sent again 64 cycles later. -/
def State.reissue (s : State) (rid : Nat) (dec : Bool) : State :=
  match s.remotes.find? (·.id == rid) with
  | none => s
  | some r =>
    match r.refused with
    | none => s
    | some t =>
      if r.acc.isDec != dec || s.now r.src.cluster < t + 64 then s
      else { s with remotes := s.remotes.map fun q => if q.id = rid then { q with refused := none } else q }

/-- `REMOTE_REISSUE` (R84). -/
def execRemoteReissue (rid : Nat) (s : State) : Host.Outcome State Fault Refusal := .next (s.reissue rid false)

/-- `DEPDEC_RESEND` (13_isa_return.md R308). -/
def execDepdecResend (rid : Nat) (s : State) : Host.Outcome State Fault Refusal := .next (s.reissue rid true)

end Sys2Proof.Machine
end

