-- ==== Sys2Proof/Machine/Control.lean ====
section
/-! DEFINITION. Branches, calls, returns, loop instructions, `CHK`, traps and their returns, and the instruction that cannot
be decoded or fetched (17_isa_control.md R362-R391, 16_loops.md R349-R360, 15_travellers.md R340, R346-R348,
03_watch_table.md R63). -/

namespace Sys2Proof.Machine

/-! ### Branches (R364-R366, R353) -/

/-- A taken branch would leave the current loop's range (16_loops.md R353). -/
def Agent.outOfRange (a : Agent) (act : Bool) (t : DWord) : Bool :=
  match a.curLoop act with
  | some c => !(decide (c.start.toNat ≤ t.toNat) && decide (t.toNat < c.stop.toNat))
  | none => false

/-- A PC-relative target (08_encoding.md R163). -/
def Ctx.rel {w : Nat} (c : Ctx) (disp : BitVec w) : DWord := c.p.pc + 4 * disp.signExtend 64

/-- The instruction completes by falling through; at the last position of the current loop of a diverged warp its lanes take
cause 0x1C instead (16_loops.md R358). -/
def State.fallThrough (s : State) (c : Ctx) : State :=
  s.completeWith c id

/-- A branch of the whole path (R353, R366). -/
def State.branch (s : State) (c : Ctx) (t : DWord) : State :=
  if c.a.outOfRange c.p.act t then s.faultAll c 0x11 0 else s.jump c t

/-- Some lanes of a fault: each takes the same cause. -/
def lanesFault (m : Mask) (cause : BitVec 8) (tval : DWord) : List LFault :=
  (Mask.list m).map fun l => ⟨l, cause, tval, 0, none⟩

/-- The lanes `tk` branch to `t`, the others fall through; with both the path diverges (15_travellers.md R346), with join
`j`. `pre` is what a taken branch does besides. Where the lanes that fall through would reach the end of the current loop's
body, all lanes of the path take cause 0x1C, those that branch too (16_loops.md R358; DESIGN CHOICE, log entry 77). -/
def State.diverge (s : State) (c : Ctx) (tk : Mask) (t : DWord) (j : List (DWord × Bool)) (pre : State → State) : State :=
  let rest := c.p.mask &&& ~~~tk
  if tk = 0 then s.fallThrough c
  else if c.a.outOfRange c.p.act t then s.faultSome c (lanesFault tk 0x11 0) none
  else if rest = 0 then (pre s).jump c t
  else if c.a.atEnd c.p.act c.npc then s.faultAll c 0x1C 0
  else if c.a.room c.b = 0 then s.faultAll c 0x14 0
  else
    let fall := { c.p.part rest c.npc .run none with joins := j ++ c.p.joins, done := 0, parked := 0 }
    let s := (pre s).updPath c.uid c.b fun p =>
      { p with mask := tk, pc := t, joins := j ++ p.joins, wait := none, done := 0, parked := 0 }
    (s.placePath c.uid c.b fall).settle c.uid

/-- The lanes of a path whose guard is 1. -/
def Ctx.guarded (c : Ctx) (g : Guard) : Mask := Mask.filter c.p.mask fun l => guardOn c.a c.p l g

/-- `BR`, J32 form (R366). -/
def execBrJ32 (disp : BitVec 22) (s : State) : Host.Outcome State Fault Refusal :=
  issueBranch (.brJ32 disp) Guard.always s fun c s => s.branch c (c.rel disp)

/-- `BR`, X96 form (R366, 08_encoding.md R164). -/
def execBrX96 (imm : Word) (s : State) : Host.Outcome State Fault Refusal :=
  issueBranch (.brX96 imm) Guard.always s fun c s => s.branch c (c.rel imm)

/-- `BRC` (R366): the join is PC + 4 × sext(IMM16), none where IMM16 is 0 (15_travellers.md R347). -/
def execBrc (g : Guard) (disp : BitVec 22) (join : BitVec 16) (s : State) : Host.Outcome State Fault Refusal :=
  issueBranch (.brc g disp join) g s fun c s =>
    s.diverge c (c.guarded g) (c.rel disp) (if join = 0 then [] else [(c.rel join, false)]) id

/-- `BRU` (R348, R366). -/
def execBru (g : Guard) (disp : BitVec 22) (s : State) : Host.Outcome State Fault Refusal :=
  issueBranch (.bru g disp) g s fun c s =>
    let tk := c.guarded g
    if tk = c.p.mask then s.branch c (c.rel disp)
    else if tk = 0 then s.fallThrough c
    else if c.a.thctl.getLsbD 0 = false then s.faultAll c 0x13 0
    else
      -- the lowest lane decides; UBSEEN records that the lanes differed
      let go := tk.getLsbD (Mask.lowest c.p.mask)
      let seen (s : State) : State := s.updAgent c.uid fun a => { a with thctl := a.thctl ||| 2 }
      if !go then s.completeWith c seen
      else if c.a.outOfRange c.p.act (c.rel disp) then s.faultAll c 0x11 0
      else (seen s).jump c (c.rel disp)

/-- `CHK` (03_watch_table.md R63): it waits for the path's entries; lanes that are struck clear STRUCK and branch. -/
def execChk (disp : BitVec 22) (s : State) : Host.Outcome State Fault Refusal :=
  issueBranch (.chk disp) Guard.always s fun c s =>
    if s.watchesHeld c.uid c.p.mask then s.waitFor c .chk
    else
      let tk := Mask.filter c.p.mask fun l => (c.a.lane l).struck
      s.diverge c tk (c.rel disp) [] fun s =>
        (Mask.list tk).foldl (fun s l => s.updLane c.uid l fun ln => { ln with struck := false }) s

/-! ### Calls and returns (R367-R369, 16_loops.md R355) -/

/-- The levels whose FRZ is 0. -/
def Agent.unfrozen (a : Agent) (act : Bool) : Nat := ((a.loopsOf act).filter fun l => !l.frz).length

/-- The link of a call: the return address, `RRB`, UNFRZ (16_loops.md R355). -/
def callLink (a : Agent) (act : Bool) (ret : DWord) : DWord :=
  (0 : BitVec 1) ++ BitVec.ofNat 3 (a.unfrozen act) ++ a.rrbOf act ++ ret.extractLsb' 0 56

/-- A warp's path owes the return address of its call as a join (15_travellers.md R347). -/
def Path.pushRet (p : Path) (ret : DWord) (mark : Bool) : List (DWord × Bool) :=
  if p.joins.head? = some (ret, true) then p.joins else (ret, mark) :: p.joins

/-- A call by the lanes of the path: the link, FRZ := 1 in every level, `RRB` := 0, the target (R367). -/
def State.call (s : State) (c : Ctx) (lanes : Mask) (t : DWord) (mark : Bool) : State :=
  let link := callLink c.a c.p.act c.npc
  let s := (Mask.list lanes).foldl (fun s l => s.updLane c.uid l fun ln =>
    (ln.setReg 62 (lo32 link)).setReg 63 (hi32 link)) s
  let s := s.updAgent c.uid fun a =>
    a.setLoops c.p.act 0 ((a.loopsOf c.p.act).map fun l => { l with frz := true })
  let s := if c.a.wide then s.updPath c.uid c.b fun p => { p with joins := p.pushRet c.npc mark } else s
  s.jump c t

/-- The registers of the link. -/
def linkRegs : List GReg := [62, 63]

/-- A direct call: it waits for pending producers of the link registers (R367). -/
def callExec (t : Ctx → DWord) (c : Ctx) (s : State) : State :=
  match (s.stand c [] [] linkRegs).wait with
  | some k => s.waitFor c k
  | none => s.call c c.p.mask (t c) false

/-- `CALL`, J32 form. -/
def execCallJ32 (disp : BitVec 22) (s : State) : Host.Outcome State Fault Refusal :=
  issueBranch (.callJ32 disp) Guard.always s (callExec fun c => c.rel disp)

/-- `CALL`, X96 form. -/
def execCallX96 (imm : Word) (s : State) : Host.Outcome State Fault Refusal :=
  issueBranch (.callX96 imm) Guard.always s (callExec fun c => c.rel imm)

/-- A register target in each lane, with what its reading waits for and faults on. -/
def State.targets (s : State) (c : Ctx) (a : GReg) (ds : List GReg) : Stand × List (Nat × DWord) :=
  (s.stand c [(rd a).w2] [] ds, (Mask.list c.p.mask).map fun l => (l, c.value l (rd a).w2))

/-- Reading the target acquires what a token acquires. -/
def State.readTargets (s : State) (c : Ctx) (a : GReg) (m : Mask) : State :=
  (Mask.list m).foldl (fun s l => s.consumeOps c l [(rd a).w2]) s

/-- The lanes of a table that hold a value. -/
def sameAs (ts : List (Nat × DWord)) (v : DWord) : Mask := Mask.ofList ((ts.filter (·.2 == v)).map (·.1))

/-- `CALLI` (R368): lanes of different targets are served target by target (15_travellers.md R340). -/
def execCalli (a : GReg) (s : State) : Host.Outcome State Fault Refusal :=
  issueBranch (.calli a) Guard.always s fun c s =>
    let r := s.targets c a linkRegs
    match r.1.faults, r.1.wait with
    | [], some k => s.waitFor c k
    | [], none =>
      let bad := r.2.filter fun x => !targetOk x.2
      if !bad.isEmpty then s.faultPart c (bad.map fun x => ⟨x.1, 0x05, x.2, 0, none⟩)
      else
        let t := (r.2.head?.map (·.2)).getD 0
        let g := sameAs r.2 t
        let rest := c.p.mask &&& ~~~g
        if rest = 0 then (s.readTargets c a g).call c g t false
        else if c.a.room c.b = 0 then s.faultAll c 0x14 0
        else
          let heldP := { c.p.part rest c.p.pc .held none with
            hold := some (c.npc, g), joins := c.p.pushRet c.npc true, done := 0, parked := 0 }
          let s := (s.readTargets c a g).updPath c.uid c.b fun p => { p with mask := g }
          (s.placePath c.uid c.b heldP).call c g t true
    | fs, _ => s.faultPart c fs

/-- `CALLI.tail` (R368): every check is of all lanes together, in the order the rule gives. -/
def execCalliTail (a : GReg) (s : State) : Host.Outcome State Fault Refusal :=
  issueBranch (.calliTail a) Guard.always s fun c s =>
    let r := s.targets c a []
    match r.1.faults, r.1.wait with
    | [], some k => s.waitFor c k
    | [], none =>
      let t := (r.2.head?.map (·.2)).getD 0
      if c.a.unfrozen c.p.act ≠ 0 then s.faultAll c 0x12 0
      else if r.2.any fun x => x.2 != t then s.faultAll c 0x1D 0
      else if targetOk t = false then s.faultAll c 0x05 t
      else
        let s := (s.readTargets c a c.p.mask).updAgent c.uid fun a => a.setLoops c.p.act 0 (a.loopsOf c.p.act)
        s.jump c t
    | fs, _ => s.faultPart c fs

/-- A malformed link, or a return with a level of its own still held (R355). -/
def badLink (a : Agent) (act : Bool) (link : DWord) : Bool :=
  a.unfrozen act != 0 || link.getLsbD 63 || decide ((a.loopsOf act).length < (link.extractLsb' 60 3).toNat)

/-- FRZ := 0 in the innermost `n` levels (R355). -/
def unfreeze : Nat → List Loop → List Loop
  | 0, ls => ls
  | _, [] => []
  | n + 1, l :: ls => { l with frz := false } :: unfreeze n ls

/-- The return address of a link. -/
def linkAddr (link : DWord) : DWord := (link.extractLsb' 0 56).setWidth 64

/-- The joins of a path that returns to an address: those of the call it leaves are dropped (15_travellers.md R347). -/
def returnJoins (js : List (DWord × Bool)) (t : DWord) : List (DWord × Bool) :=
  if js.any (·.1 == t) then js.dropWhile (·.1 != t) else js

/-- The different values of a table, in the order of their first lanes. -/
def distinct (ts : List (Nat × DWord)) : List DWord :=
  ts.foldl (fun r x => if r.contains x.2 then r else r ++ [x.2]) []

/-- Paths of the unit that still run in the call that a path leaves for `t`, and those that do not count at a back edge. -/
def Agent.inCall (a : Agent) (m : Mask) (js : List (DWord × Bool)) (t : DWord) : List Path :=
  a.paths.filter fun q => (q.mask &&& m) == 0 && js.isSuffixOf q.joins && !(q.atJoin && q.pc == t)

/-- `RET` (R369, 16_loops.md R355): every check precedes every change; lanes of different return addresses part. A return
to the current loop's END performs the back edge, once the paths of the same call have returned (log entry 12).
`RRB` and UNFRZ are those of the lowest lane's link where the lanes' links differ in them: DESIGN CHOICE, log entry 63. -/
def State.ret (s : State) (c : Ctx) (links : List (Nat × DWord)) : State :=
  let l0 := (links.head?.map (·.2)).getD 0
  let ts := links.map fun x => (x.1, linkAddr x.2)
  let addrs := distinct ts
  let act := c.p.act
  let a1 := c.a.setLoops act (l0.extractLsb' 56 4) (unfreeze (l0.extractLsb' 60 3).toNat (c.a.loopsOf act))
  let ends (t : DWord) : Bool := a1.atEnd act t
  let js (t : DWord) : List (DWord × Bool) := returnJoins c.p.joins t
  let owes (t : DWord) : Bool := (js t).head?.map (·.1) == some t
  -- a back edge due now in a diverged warp
  let others := c.a.paths.filter fun q => (q.mask &&& c.p.mask) == 0
  let clash (t : DWord) : Bool := c.a.wide && ends t &&
    (1 < addrs.length || ((c.a.inCall c.p.mask (js t) t).isEmpty
      && others.any fun q => !a1.parted act q && !(q.atJoin && q.pc == t)))
  if addrs.any clash then s.faultAll c 0x1C 0
  else if c.a.room c.b < addrs.length - 1 then s.faultAll c 0x14 0
  else
    let s := (Mask.list c.p.mask).foldl (fun s l => s.consumeOps c l [(rd 62).w2]) s
    let s := s.updAgent c.uid fun a =>
      a.setLoops act (l0.extractLsb' 56 4) (unfreeze (l0.extractLsb' 60 3).toNat (a.loopsOf act))
    let t0 := addrs.headD 0
    let s := s.updPath c.uid c.b fun p =>
      { p with mask := sameAs ts t0, pc := t0, joins := js t0, back := if ends t0 && owes t0 then some c.p.pc else none, wait := none, done := 0,
               parked := 0 }
    let s := addrs.tail.foldl (fun s t => s.placePath c.uid c.b
      { c.p.part (sameAs ts t) t .run none with joins := js t, back := if ends t && owes t then some c.p.pc else none, done := 0, parked := 0 }) s
    if ends t0 && !owes t0 then
      match s.agent? c.uid with
      | none => s
      | some a =>
        let r := backEdge act (a.loopsOf act).length a t0
        (s.setAgent r.1).jump c r.2
    else s.settle c.uid

/-- `RET`. -/
def execRet (s : State) : Host.Outcome State Fault Refusal :=
  issueBranch .ret Guard.always s fun c s =>
    let r := s.targets c 62 []
    match r.1.faults, r.1.wait with
    | [], some k => s.waitFor c k
    | [], none =>
      let f12 := r.2.filter fun x => badLink c.a c.p.act x.2
      let f05 := r.2.filter fun x => !badLink c.a c.p.act x.2 && (linkAddr x.2).extractLsb' 0 2 != 0
      if f12.isEmpty && f05.isEmpty then s.ret c r.2
      else s.faultPart c ((f12.map fun x => ⟨x.1, 0x12, 0, 0, none⟩)
        ++ f05.map fun x => ⟨x.1, 0x05, linkAddr x.2, 0, none⟩)
    | fs, _ => s.faultPart c fs

/-! ### Loops (R373, 16_loops.md R350-R358) -/

/-- `p8` := 1 and `p9`-`p15` := 0 in every lane of the unit (R350). -/
def Agent.startStages (a : Agent) (rrb : BitVec 4) : Agent :=
  { a with lanes := a.lanes.map fun ln =>
      (List.range 8).foldl (fun ln i => ln.setPred rrb (BitVec.ofNat 4 (8 + i)) (i == 0)) ln }

/-- `LOOP` and `LOOPR` (R350); `stages` is 0 for `LOOP`. -/
def loopExec (n : Src) (off : BitVec 16) (stages : Nat) (c : Ctx) (s : State) : State :=
  let l := Mask.lowest c.act
  let stop := c.p.pc + 4 * off.setWidth 64
  match s.ready c l [n.w1] [] [] with
  | .wait k => s.waitFor c k
  | .fault x ue t => s.faultAll c x t ue
  | .due d => let f := dueLFault l d; s.faultAll c f.cause f.tval 0 f.due
  | .ok =>
    let k := lo32 (c.value l n.w1)
    if 4 ≤ (c.a.loopsOf c.p.act).length then s.faultAll c 0x10 0
    else if stop.toNat ≤ c.npc.toNat || (match c.a.curLoop c.p.act with
        | some x => decide (x.stop.toNat < stop.toNat)
        | none => false) then s.faultAll c 0x11 0
    else if c.a.diverged c.p.act then s.faultAll c 0x1C 0
    else
      let s := s.consumeOps c l [n.w1]
      if k = 0 then s.jump c stop
      else
        let remain := if stages = 0 then k.toNat else k.toNat + stages - 1
        let lv : Loop := ⟨c.npc, stop, false, BitVec.ofNat 4 stages, BitVec.ofNat 40 remain⟩
        let s := s.updAgent c.uid fun a =>
          let a := a.setLoops c.p.act (a.rrbOf c.p.act) (lv :: a.loopsOf c.p.act)
          if stages = 0 then a else a.startStages (a.rrbOf c.p.act)
        s.jump c c.npc

/-- `LOOP`. -/
def execLoop (a : Src) (off : BitVec 16) (s : State) : Host.Outcome State Fault Refusal :=
  issueBranch (.loop a off) Guard.always s (loopExec a off 0)

/-- `LOOPR`. -/
def execLoopr (stages1 : BitVec 3) (a : Src) (off : BitVec 16) (s : State) : Host.Outcome State Fault Refusal :=
  issueBranch (.loopr stages1 a off) Guard.always s (loopExec a off (stages1.toNat + 1))

/-- END among the joins of a path in the body, after the joins that lie in the body (R357). -/
def insertEnd (lp : Loop) (js : List (DWord × Bool)) : List (DWord × Bool) :=
  let inBody (j : DWord × Bool) : Bool := decide (lp.start.toNat ≤ j.1.toNat) && decide (j.1.toNat < lp.stop.toNat)
  let pre := js.takeWhile inBody
  let post := js.drop pre.length
  if post.head?.map (·.1) = some lp.stop then js else pre ++ (lp.stop, false) :: post

/-- The joins of lanes that leave the body for END. -/
def leaveJoins (lp : Loop) (js : List (DWord × Bool)) : List (DWord × Bool) :=
  let inBody (j : DWord × Bool) : Bool := decide (lp.start.toNat ≤ j.1.toNat) && decide (j.1.toNat < lp.stop.toNat)
  (insertEnd lp js).dropWhile inBody

/-- The paths of a unit that stand in a loop's body owe its END (R357). -/
def State.oweEnd (s : State) (uid : Nat) (act : Bool) (lp : Loop) : State :=
  let inBody (pc : DWord) : Bool := decide (lp.start.toNat ≤ pc.toNat) && decide (pc.toNat < lp.stop.toNat)
  match s.agent? uid with
  | none => s
  | some a =>
    let f (q : Path) : Path :=
      if q.act == act then (if inBody q.pc then { q with joins := insertEnd lp q.joins } else q)
      else if q.act && inBody a.frame.epc then
        -- a lane inside a handler owes it where its own PC is in the body
        let own := q.joins.take (q.joins.length - q.base)
        let js := insertEnd lp (q.joins.drop (q.joins.length - q.base))
        { q with joins := own ++ js, base := js.length }
      else q
    let a' := a.mapPaths f
    s.setStack a' a'.stack

/-- The lanes `tk` leave the current loop (R354, R357): a barrel unit pops it; the lanes of a warp become a path at END,
and where some stay in the body the PC slot is theirs: DESIGN CHOICE, log entry 64. -/
def State.leaveLoop (s : State) (c : Ctx) (lp : Loop) (tk : Mask) : State :=
  let rest := c.p.mask &&& ~~~tk
  let act := c.p.act
  if tk = 0 then s.fallThrough c
  else if !c.a.wide then
    (s.updAgent c.uid fun a => a.setLoops act (a.rrbOf act) (replaceCur (a.loopsOf act) none)).jump c lp.stop
  else if rest = 0 then
    let s := s.oweEnd c.uid act lp
    let s := s.updPath c.uid c.b fun p =>
      { p with pc := lp.stop, joins := leaveJoins lp p.joins, wait := none, done := 0, parked := 0 }
    s.settle c.uid
  else if c.a.atEnd act c.npc && c.a.diverged act then s.faultAll c 0x1C 0
  else if c.a.room c.b = 0 then s.faultAll c 0x14 0
  else
    let s := s.oweEnd c.uid act lp
    let out := { c.p.part tk lp.stop .run none with joins := leaveJoins lp c.p.joins, done := 0, parked := 0 }
    let s := s.updPath c.uid c.b fun p => { p with mask := rest }
    (s.placePath c.uid c.b out).complete c

/-- `BRK` (R354). -/
def execBrk (s : State) : Host.Outcome State Fault Refusal :=
  issueBranch .brk Guard.always s fun c s =>
    match c.a.curLoop c.p.act with
    | none => s.faultAll c 0x11 0
    | some lp => s.leaveLoop c lp c.p.mask

/-- `BRKD` (R354, R357): a target other than the current loop's END is cause 0x11 in every lane. -/
def execBrkd (g : Guard) (off : BitVec 16) (s : State) : Host.Outcome State Fault Refusal :=
  issueBranch (.brkd g off) g s fun c s =>
    match c.a.curLoop c.p.act with
    | none => s.faultAll c 0x11 0
    | some lp => if c.rel off = lp.stop then s.leaveLoop c lp (c.guarded g) else s.faultAll c 0x11 0

/-! ### Saving and restoring the loop state (R374, 16_loops.md R360) -/

/-- COUNT of a level (R349). -/
def Loop.countReg (l : Loop) : DWord := (0 : BitVec 19) ++ BitVec.ofBool l.frz ++ l.stages ++ l.remain

/-- `RRB` as a register (06_registers.md R128). -/
def rrbReg (rrb : BitVec 4) (depth : Nat) : DWord := (0 : BitVec 57) ++ BitVec.ofNat 3 depth ++ rrb

/-- The loop image (R360). -/
def loopImage (ls : List Loop) (rrb : BitVec 4) (preds : BitVec 8) : List Byte :=
  let ws : List DWord := (List.range 4).flatMap fun k => match ls[k]? with
    | some l => [l.start, l.stop, l.countReg]
    | none => [0, 0, 0]
  (ws ++ [rrbReg rrb ls.length, preds.setWidth 64, 0, 0]).flatMap fun w => toBytes 8 w.toNat

/-- A 64-bit word of bytes. -/
def dwordAt (bs : List Byte) (off : Nat) : DWord := BitVec.ofNat 64 (ofBytes ((bs.drop off).take 8))

/-- A level from its three registers. -/
def Loop.ofRegs (start stop count : DWord) : Loop :=
  ⟨start, stop, count.getLsbD 44, count.extractLsb' 40 4, count.extractLsb' 0 40⟩

/-- Reading a loop image: none where R360 rejects it, a reserved field of any of its four levels included. -/
def loopOfImage (bs : List Byte) : Option (List Loop × BitVec 4 × BitVec 8) :=
  let r := dwordAt bs 0x60
  let depth := (r.extractLsb' 4 3).toNat
  let cnt (k : Nat) : DWord := dwordAt bs (24 * k + 16)
  if 4 < depth ∨ r.extractLsb' 7 57 ≠ 0 ∨ (dwordAt bs 0x68).extractLsb' 8 56 ≠ 0 ∨ dwordAt bs 0x70 ≠ 0 ∨ dwordAt bs 0x78 ≠ 0
      ∨ (List.range 4).any (fun k => (cnt k).extractLsb' 45 19 != 0 || decide (8 < ((cnt k).extractLsb' 40 4).toNat)) then
    none
  else
    some ((List.range depth).map fun k => Loop.ofRegs (dwordAt bs (24 * k)) (dwordAt bs (24 * k + 8)) (cnt k),
      r.extractLsb' 0 4, (dwordAt bs 0x68).extractLsb' 0 8)

/-- `LSAVE`: a plain store of 128 bytes; then DEPTH := 0 and `RRB` := 0. At the last position of the current loop the levels
are gone before its back edge, so that none is performed (DESIGN CHOICE, log entry 76). -/
def execLsave (g : Guard) (lease : BitVec 3) (m : MemArg) (s : State) : Host.Outcome State Fault Refusal :=
  issue (.lsave g lease m) g s (onceExec [m.base.w2] []
    (fun c s l x =>
      let va := eaOf (x.v 0) m.off
      if va.toNat % 64 ≠ 0 then (s, .fault 0x24 va 0)
      else chkThen (s.placeCheck c { need := .wr, align := 64 } va 128) fun s segs =>
        if c.a.diverged c.p.act then (s, .fault 0x1C 0 0)
        else chkThen (s.writeCheck c l false m.scope segs) fun s segs => (s, .ok (va, segs)))
    (fun c s l b =>
      let img := loopImage (c.a.loopsOf c.p.act) c.rrb (c.a.lane l).p8to15
      (s.sendStore c l b.2 img (some lease.toNat) false false b.1).updAgent c.uid fun a => a.setLoops c.p.act 0 []))

/-- `LREST` replaces the whole loop state (R360), levels that are frozen included (DEDUCED, log entry 49): the issuer is held until
the image has been read and checked (06_registers.md R133); the back edge, if one is due, is that of the restored loops. -/
def execLrest (g : Guard) (lease : BitVec 3) (m : MemArg) (s : State) : Host.Outcome State Fault Refusal :=
  issue (.lrest g lease m) g s (onceExec [m.base.w2] []
    (fun c s l x =>
      let va := eaOf (x.v 0) m.off
      let s1 : State × Chk Unit :=
        if va.toNat % 64 ≠ 0 then (s, .fault 0x24 va 0)
        else if (s.walkOf c.uid l).isSome then (s, .ok ())
        else chkThen (s.placeCheck c { need := .rd, align := 64 } va 128) fun s _ =>
          (s, if c.a.diverged c.p.act then .fault 0x1C 0 0 else .ok ())
      chkThen s1 fun s _ =>
        chkThen (s.heldRead c l 64 va 128 (some lease.toNat)) fun s bs =>
          match loopOfImage bs with
          | none => (s, .fault 0x19 0 0)
          | some r => (s, .ok r))
    (fun c s _ r => s.updAgent c.uid fun a =>
      let a := a.setLoops c.p.act r.2.1 r.1
      { a with lanes := a.lanes.map fun ln => { ln with p := r.2.2 ++ ln.p.extractLsb' 0 8,
                                                         pbad := ln.pbad &&& 0x00FF } }))

/-! ### Traps, returns from them, stopping (R385, R386, R389, R390) -/

/-- `TRAP` (R385): every lane traps together after the instruction's completion; a warp that has another path in a handler
holds it with no effect (19_traps.md R420). -/
def execTrap (code : BitVec 8) (a : GReg) (s : State) : Host.Outcome State Fault Refusal :=
  issue (.trap code a) Guard.always s fun c s =>
    let st := s.stand c [(rd a).w1] [] []
    match st.faults, st.wait with
    | [], some k => s.waitFor c k
    | [], none =>
      if c.a.wide && !c.p.act && !c.a.leaves && c.a.otherAct c.b then
        s.updPath c.uid c.b fun p => { p with mode := .held, wait := none }
      else if c.clash then s.clashFault c
      else
        let v := c.value (Mask.lowest c.p.mask) (rd a).w1
        let s := (Mask.list c.p.mask).foldl (fun s l => s.consumeOps c l [(rd a).w1]) s
        match s.agent? c.uid with
        | none => s
        | some x =>
          let r := backEdge c.p.act (x.loopsOf c.p.act).length x c.npc
          let s := (s.setAgent r.1).updPath c.uid c.b fun p => { p with pc := r.2, wait := none }
          s.raiseFaults c.uid c.b (lanesFault c.p.mask code v) c.p.mask 0 0 r.2 none
    | fs, _ => s.faultPart c fs

/-- `ERET` (R386, 19_traps.md R421). -/
def execEret (s : State) : Host.Outcome State Fault Refusal :=
  issueBranch .eret Guard.always s fun c s => s.returnTrap c.uid c.b

/-- `HALT` (R390): in firmware mode the slot or warp stops issuing. -/
def execHalt (s : State) : Host.Outcome State Fault Refusal :=
  issue .halt Guard.always s fun c s =>
    if c.clash then s.clashFault c
    else (s.complete c).updAgent c.uid fun a => a.mapPaths fun p => { p with mode := .halted }

/-- `NOP` (R390). -/
def execNop (s : State) : Host.Outcome State Fault Refusal :=
  issue .nop Guard.always s fun c s => s.completeWith c id

/-- `ISYNC` (R389): it waits for every acknowledgement; then the words fetched ahead are discarded. -/
def execIsync (s : State) : Host.Outcome State Fault Refusal :=
  issue .isync Guard.always s fun c s =>
    if c.a.acks ≠ 0 then s.waitFor c .order
    else s.completeWith c fun s => s.updAgent c.uid fun a => a.mapPaths fun p => { p with buf := [] }

/-! ### What cannot be decoded or fetched (08_encoding.md R154, R171) -/

/-- The path's lanes take a cause of its fetch or its decoding together. -/
def State.fetchCause (s : State) (cause : BitVec 8) (tval : DWord) : State :=
  match s.focused with
  | none => s
  | some (a, p, b) =>
    let s := s.clearWalkFaults a.uid p.mask
    s.faultAll ⟨a.uid, b, a, p, p.mask, p.pc⟩ cause tval

/-- An instruction that the decoder rejects: cause 0x01 with its words in TVAL (R171). -/
def execIllegalInstruction (w0 w1 : Word) (s : State) : Host.Outcome State Fault Refusal :=
  .next (s.fetchCause 0x01 (cat32 w1 w0))

/-- A fault on fetch: EPC at word 0, TVAL the faulting word's address (R154). -/
def execFetchFault (cause : BitVec 8) (addr : DWord) (s : State) : Host.Outcome State Fault Refusal :=
  .next (s.fetchCause cause addr)

end Sys2Proof.Machine
end

