-- ==== Sys2Proof/Machine/Events.lean ====
section
/-! DEFINITION. The device events of lines, homes, logical time, watches, walks and acknowledgements
(02_lines_and_homes.md R43-R53, 03_watch_table.md R57-R62, 01_main_memory.md R27-R32, 13_isa_return.md R289). An event that
does not stand open leaves the state as it is. -/

namespace Sys2Proof.Machine

/-- A request of a number. -/
def State.reqOf (s : State) (id : Nat) : Option Req := s.reqs.find? (·.id == id)
/-- A reply of a number. -/
def State.repOf (s : State) (id : Nat) : Option Rep := s.reps.find? (·.id == id)
/-- A request leaves. -/
def State.dropReq (s : State) (id : Nat) : State :=
  { s with reqs := s.reqs.filter (·.id != id), homeWait := s.homeWait.filter (·.2 != id) }
/-- A reply leaves. -/
def State.dropRep (s : State) (id : Nat) : State := { s with reps := s.reps.filter (·.id != id) }

/-- A home waits for the host's copy: a snoop is out (23_host_and_links.md R461). -/
def State.nudge (s : State) (line : Nat) : State := if s.hostHolds line then s.snoopHost line else s

/-- A request that its home cannot serve yet waits there in arrival order (R45). -/
def State.holdAt (s : State) (r : Req) (line : Nat) : State :=
  let s := s.nudge line
  if s.homeWait.contains (r.line, r.id) then s else { s with homeWait := s.homeWait ++ [(r.line, r.id)] }

/-- The request has been served; its reply is on the way. -/
def State.reply (s : State) (r : Req) (k : RepKind) (wts rts : Stamp) (bad : BitVec 8) (t : DWord) : State :=
  { s.dropReq r.id with
    reps := s.reps ++ [⟨s.nextId, r.id, k, r.cluster, r.uid, r.lane, r.line, wts, rts, t, bad, r.cls⟩], nextId := s.nextId + 1 }

/-! ### Homes (R45-R48, R60) -/

/-- `HOME_READ` (R45). -/
def execHomeRead (req : Nat) (s : State) : Host.Outcome State Fault Refusal :=
  match s.reqOf req with
  | some r =>
    match r.kind with
    | .read =>
      match s.homeReadAt r.line r.time r.n (some req) with
      | .error l => .next (s.holdAt r l)
      | .ok (s, a) => .next (s.reply r (.fill (some a.data)) a.wts a.e a.bad r.time)
    | _ => .next s
  | none => .next s

/-- `HOME_RENEWAL` (R43, R45): no data where `wts` is unchanged. -/
def execHomeRenewal (req : Nat) (s : State) : Host.Outcome State Fault Refusal :=
  match s.reqOf req with
  | some r =>
    match r.kind with
    | .renew =>
      match s.homeReadAt r.line r.time r.n (some req) with
      | .error l => .next (s.holdAt r l)
      | .ok (s, a) =>
        .next (s.reply r (.fill (if a.wts = r.wts ∧ a.bad = 0 then none else some a.data)) a.wts a.e a.bad r.time)
    | _ => .next s
  | none => .next s

/-- `HOME_OWNERSHIP` (R45). -/
def execHomeOwnership (req : Nat) (s : State) : Host.Outcome State Fault Refusal :=
  match s.reqOf req with
  | some r =>
    match r.kind with
    | .own =>
      match s.homeOwnAt r.line r.cluster (some req) with
      | .error l => .next (s.holdAt r l)
      | .ok (s, a) => .next (s.reply r (.grant a.data) a.wts a.e a.bad r.time)
    | _ => .next s
  | none => .next s

/-- `HOME_WRITEBACK` (R45). -/
def execHomeWriteback (req : Nat) (s : State) : Host.Outcome State Fault Refusal :=
  match s.reqOf req with
  | some r =>
    match r.kind with
    | .writeback d bad wts rts =>
      match s.homeWritebackAt r.line r.cluster d bad wts rts with
      | some s => .next (s.dropReq req)
      | none => .next (s.dropReq req)
    | _ => .next s
  | none => .next s

/-- `HOME_ATOMIC` (R47, 13_isa_return.md R297): after the issuer's earlier loads and its port's earlier accesses to the
line; the issuer's time becomes the operation's. -/
def execHomeAtomic (req : Nat) (s : State) : Host.Outcome State Fault Refusal :=
  match s.reqOf req with
  | some r =>
    match r.kind with
    | .atomic a dst acq sys core _ =>
      if !s.loadsBound r.uid r.id || s.writeBefore core r.uid r.id r.line || s.loadBefore core r.uid r.id r.line then .next s
      else
        let t := tmax r.time (match s.agent? r.uid with | some x => s.writeTime x r.lane | none => 0)
        match s.homeActAt r.line a.off a.size t a.apply (some req) with
        | .error l => .next (s.holdAt r l)
        | .ok (s, old, t', bad) =>
          let t'' := if acq && sys then tmax t' s.hws else t'
          let s := ((s.liftLane r.uid r.lane t'').raiseCtime r.cluster t'').noteWrite core r.uid r.lane r.id r.line t' 0
          .next (s.reply r (.atomic (BitVec.ofNat 64 (ofBytes old)) dst acq bad) 0 0 0 t'')
    | _ => .next s
  | none => .next s

/-- `HOME_UPDATE_JOIN` (R48, R49): a cluster joins the update holders of a line; its waiting reductions combine. For a
reduction that still waits it tries again. -/
def execHomeUpdateJoin (req : Nat) (s : State) : Host.Outcome State Fault Refusal :=
  match s.reqOf req with
  | some r =>
    match r.kind with
    | .join =>
      match s.homeJoinAt r.line r.cluster (some req) with
      | .error l => .next (s.holdAt r l)
      | .ok s => .next ((s.dropReq req).performLine r.cluster r.line)
    | _ => .next s
  | none => .next (s.tryWrite req)

/-- `WATCH_RENEWAL` (R60): a confirm where `wts` is unchanged, else a strike. -/
def execWatchRenewal (req : Nat) (s : State) : Host.Outcome State Fault Refusal :=
  match s.reqOf req with
  | some r =>
    match r.kind with
    | .watch e =>
      match s.homeReadAt r.line r.time r.n (some req) with
      | .error l => .next (s.holdAt r l)
      | .ok (s, a) =>
        .next (s.reply r (if a.wts = r.wts then .confirm e else .strike e a.data) a.wts a.e a.bad r.time)
    | _ => .next s
  | none => .next s

/-! ### Replies at a cluster (R43, R44, R53, R61) -/

/-- Installing an L copy with the reply's stamps (R43), which never replaces an O or U copy, nor a newer L copy: DESIGN CHOICE,
log entry 56. -/
def State.installL (s : State) (cluster line : Nat) (d : LineData) (wts rts : Stamp) (expired : Bool) : State :=
  match s.copyOf cluster line with
  | some c =>
    match c.st with
    | .L _ => if sle c.wts wts then s.setCopy ⟨cluster, line, .L expired, d, 0, wts, rts⟩ else s
    | _ => s
  | none => s.setCopy ⟨cluster, line, .L expired, d, 0, wts, rts⟩

/-- A piece of a load waits in the miss record of a line. -/
def Piece.waitsAt (p : Piece) (line : Nat) : Bool := p.line == line && p.val.isNone && !p.queued

/-- Binding every piece of a load that waits in the miss record of a line, and raising its lane to `wts` (R53). -/
def State.bindWaiting (s : State) (id line : Nat) (d : LineData) (bad : BitVec 8) (wts : Stamp) : State :=
  match s.loads.find? (·.id == id) with
  | none => s
  | some l =>
    let s := (List.range l.pieces.length).foldl (fun s k =>
      match l.pieces[k]? with
      | some p =>
        if p.waitsAt line then
          let s := (s.noteLoad l.uid l.lane line wts).raiseLane l.uid l.lane wts
          (s.settleAccess l.uid l.id l.lane (s.laneOf l.uid l.lane).ltime false).bindPiece l k d bad
        else s
      | none => s) s
    s.finishLoad id

/-- The pieces of a load that wait at a line are to be presented again. -/
def State.presentAgain (s : State) (id line : Nat) : State :=
  (s.updLoad id fun l => { l with pieces := l.pieces.map fun p => if p.waitsAt line then { p with queued := true } else p }).presentAll id

/-- The loads of a miss record that the arriving data serves, and the others (R53). A load waiting in the record uses it, at
raise(t, `wts`) (R43); but one that joined at a time past the lease end could so lose its own write, and is a miss again, with the
later loads of its unit (R56, 14_memory_model.md R315, R316): DEDUCED, log entry 56. -/
def State.served (s : State) (ids : List (Nat × DWord)) (e : Stamp) : List Nat × List Nat :=
  let r := ids.foldl (fun (r : List Nat × List Load) x =>
    match s.loads.find? (·.id == x.1) with
    | none => r
    | some l =>
      if !sle (x.2.extractLsb' 0 32) e || r.2.any (fun y => y.uid == l.uid) then (r.1, r.2 ++ [l]) else (r.1 ++ [x.1], r.2)) ([], [])
  (r.1, r.2.map (·.id))

/-- A fill or renewal arrives (R43, R53): it is installed, and the loads of the miss record use its data. The data of a renewal
is that of the copy; where that copy has gone or is another write's, the loads are presented again: DESIGN CHOICE, log entry
56. -/
def State.fillArrives (s : State) (r : Rep) (d : Option LineData) : State :=
  let cl := r.cluster
  match s.missOf cl r.line with
  | none => s.dropRep r.id
  | some m =>
    let ids := (s.loads.map (·.id)).filterMap fun id => m.loads.find? (·.1 == id)
    let got : Option (LineData × BitVec 8) := match d with
      | some d => some (d, r.bad)
      | none => match s.copyOf cl r.line with
        | some c => if !c.isU && c.wts == r.wts then some (c.data, c.bad) else none
        | none => none
    let s := ((s.dropRep r.id).gotStamp cl r.wts).gotStamp cl r.rts
    let s := { s with misses := s.misses.filter fun x => !(x.cluster == cl && x.line == r.line) }
    match got with
    | none => ids.foldl (fun s x => s.presentAgain x.1 r.line) s
    | some (d, bad) =>
      let w := s.served ids r.rts
      let s := if m.install && bad == 0 then s.installL cl r.line d r.wts r.rts m.newer else s
      let s := w.1.foldl (fun s id => s.bindWaiting id r.line d bad r.wts) s
      w.2.foldl (fun s id => s.presentAgain id r.line) s

/-- `FILL_REPLY`: a fill, a renewal or the value of an atomic arrives; a load that still waits is presented again, and one
whose bytes are all bound returns. -/
def execFillReply (rep : Nat) (s : State) : Host.Outcome State Fault Refusal :=
  match s.repOf rep with
  | some r =>
    match r.kind with
    | .fill d => .next (s.fillArrives r d)
    | .atomic v dst acq bad =>
      let s := if acq then s.settleAccess r.uid r.num r.lane r.time true else s
      .next ((s.dropRep rep).writeDest r.uid r.lane dst v 0 bad)
    | _ => .next s
  | none => .next ((s.presentAll rep).finishLoad rep)

/-- `OWNERSHIP_GRANT`: the O copy is installed and the cluster's waiting stores are performed (R44). A store that still
waits tries again. -/
def execOwnershipGrant (rep : Nat) (s : State) : Host.Outcome State Fault Refusal :=
  match s.repOf rep with
  | some r =>
    match r.kind with
    | .grant d =>
      let s := ((s.dropRep rep).gotStamp r.cluster r.wts).gotStamp r.cluster r.rts
      .next ((s.setCopy ⟨r.cluster, r.line, .O, d, r.bad, r.wts, r.rts⟩).performLine r.cluster r.line)
    | _ => .next s
  | none => .next (s.tryWrite rep)

/-- A watch entry is freed. -/
def State.dropWatch (s : State) (e : Nat) : State := { s with watches := s.watches.filter (·.id != e) }

/-- An entry is struck (R61): STRUCK, STRIKES, and FALSE where the reply's bytes equal the recorded value. -/
def State.struckBy (s : State) (w : Watch) (d : Option LineData) : State :=
  let false_ := match d with | some d => lineBytes d w.off w.val.length == w.val | none => false
  let s := (s.dropWatch w.id).updLane w.uid w.lane fun ln =>
    { ln with struck := true, wStrikes := if ln.wStrikes = 0xFFFF then 0xFFFF else ln.wStrikes + 1,
              wFalse := if false_ && ln.wFalse != 0xFFFF then ln.wFalse + 1 else ln.wFalse }
  let s := s.tally w.cluster 0x06 1
  if false_ then s.tally w.cluster 0x07 1 else s

/-- `CONFIRM` (R61). -/
def execConfirm (rep : Nat) (s : State) : Host.Outcome State Fault Refusal :=
  match s.repOf rep with
  | some r =>
    match r.kind with
    | .confirm e =>
      let s := ((((s.dropRep rep).gotStamp r.cluster r.wts).gotStamp r.cluster r.rts).dropWatch e).updCopy r.cluster r.line fun c =>
        match c.st with
        | .L _ => if c.wts = r.wts then { c with rts := smax c.rts r.rts } else c
        | _ => c
      .next s
    | _ => .next s
  | none => .next s

/-- `STRIKE` (R61): the entry and every other pending entry of the cluster for the line with an older `wts` are struck;
the reply is installed, expired where a fill is in flight (R53). -/
def execStrike (rep : Nat) (s : State) : Host.Outcome State Fault Refusal :=
  match s.repOf rep with
  | some r =>
    match r.kind with
    | .strike e d =>
      let hit := s.watches.filter fun w =>
        w.id == e || (w.cluster == r.cluster && w.line == r.line && sle w.wts r.wts && w.wts != r.wts)
      let s := hit.foldl (fun s w => s.struckBy w (some d)) (((s.dropRep rep).gotStamp r.cluster r.wts).gotStamp r.cluster r.rts)
      let job := match s.agent? r.uid with | some a => a.job | none => 0
      let busy := (s.missOf r.cluster r.line).isSome
      let s := s.updMiss r.cluster r.line fun m => { m with newer := true }
      .next (if r.bad = 0 ∧ s.effClass job r.cls ≠ 0 then s.installL r.cluster r.line d r.wts r.rts busy else s)
    | _ => .next s
  | none => .next s

/-! ### Sweep, exchange, creep, eviction (R46, R50-R52) -/

/-- A stamp lags `htime` by more than 2^30 (R50). -/
def lags (x ht : Stamp) : Bool := sle x ht && decide (2 ^ 30 < (ht - x).toNat)

/-- `SWEEP` visits a line (R50). -/
def execSweep (line : Nat) (s : State) : Host.Outcome State Fault Refusal :=
  let ht := s.htime[sliceOf line]
  let h := s.homeOf line
  if !(lags h.wts ht || lags h.rts ht) then .next s
  else if s.hostHolds line then .next (s.snoopHost line)
  else
    match s.recallAll line with
    | .error _ => .next s
    | .ok s =>
      -- the recall may have raised `htime`
      let ht := s.htime[sliceOf line]
      let h := s.homeOf line
      let fix (x : Stamp) : Stamp := if lags x ht then ht - 0x40000000 else x
      let s := s.setHome line { h with wts := fix h.wts, rts := fix h.rts }
      .next { s with notes := s.notes ++ (List.range 64).map fun k => ⟨s.nextId + k, k, line⟩, nextId := s.nextId + 64 }

/-- `SWEEP_NOTICE` (R50, R61). -/
def execSweepNotice (note : Nat) (s : State) : Host.Outcome State Fault Refusal :=
  match s.notes.find? (·.id == note) with
  | none => .next s
  | some n =>
    let s := { s with notes := s.notes.filter (·.id != note) }
    let s := (s.watches.filter fun w => w.cluster == n.cluster && w.line == n.line).foldl (fun s w => s.struckBy w none) s
    let s := s.updMiss n.cluster n.line fun m => { m with newer := true }
    .next (match s.copyOf n.cluster n.line with
      | some c => (match c.st with | .L _ => s.dropCopy n.cluster n.line | _ => s)
      | none => s)

/-- The largest current time of the device in 64 bits: that of every cluster and of every slice. -/
def State.largestTime (s : State) : DWord := s.htime.toList.foldl raise (s.ctime.toList.foldl tmax 0)

/-- `TIME_EXCHANGE` (R51): the clusters and slices have exchanged their times, and one cluster and one slice raise theirs to
the largest that they have received, less 2^28. -/
def execTimeExchange (cluster slice : Nat) (s : State) : Host.Outcome State Fault Refusal :=
  let k := Fin.ofNat 128 slice
  let x := s.largestTime
  let low : DWord := if x.toNat < 2 ^ 28 then 0 else x - 0x10000000
  let s := s.raiseCtime cluster low
  .next { s with htime := s.htime.set k.val (smax s.htime[k] (low.extractLsb' 0 32)) k.isLt }

/-- The step of R52: the shortest non-zero lease length of the job, or 16. -/
def State.creepStep (s : State) (job : Nat) : Nat :=
  match ((List.range 7).map fun c => s.leaseLen job (c + 1)).filter (· != 0) with
  | [] => 16
  | x :: xs => xs.foldl min x

/-- `CREEP` (R52): a lane's time advances for each 4,096 cycles. -/
def execCreep (unit lane : Nat) (s : State) : Host.Outcome State Fault Refusal :=
  match s.agent? unit with
  | none => .next s
  | some a =>
    let ln := a.lane lane
    if a.status = .spilled || a.status = .retired || s.now a.place.cluster < ln.crept + 4096 then .next s
    else .next (s.updLane unit lane fun ln =>
      { ln with ltime := ln.ltime + BitVec.ofNat 64 (s.creepStep a.job), crept := ln.crept + 4096 })

/-- `CLUSTER_EVICTION` (R46): an L copy silently, an O copy by write-back, a U copy never. -/
def execClusterEviction (cluster line : Nat) (s : State) : Host.Outcome State Fault Refusal := .next (s.evict cluster line)

/-! ### Walks and acknowledgements -/

/-- `TABLE_WALK` (01_main_memory.md R30-R32): a walk of a cluster, one of at most 32 at once, makes one step; at its end the
translation is installed or its fault kept for those that joined it, and the prefetches that waited go on. -/
def execTableWalk (walk : Nat) (s : State) : Host.Outcome State Fault Refusal :=
  match s.walks.find? (·.id == walk) with
  | none => .next s
  | some w =>
    if !((s.walks.filter (·.cluster == w.cluster)).take 32).any (·.id == walk) then .next s
    else
      match s.walkStep w with
      | .error l => .next (s.nudge l)
      | .ok (s, .error ph) => .next { s with walks := s.walks.map fun x => if x.id = walk then { x with phase := ph } else x }
      | .ok (s, .ok r) =>
        -- the walk as it stands, with the accesses that have joined it
        let s : State := { s with walks := s.walks.filter (·.id != walk) }
        let s : State := match r with
          | .fault c => { s with walkFaults := s.walkFaults ++ w.waiters.map fun u => ⟨u.1, u.2.1, w.page, c⟩ }
          | .leaf e bits pa => s.installTlb w.cluster w.job (BitVec.ofNat 64 (w.page * 65536)) e bits pa (w.waiters.map (·.2.2))
        .next ((s.prefs.filter fun p => p.core.cluster == w.cluster && p.job == w.job && p.va.toNat / 65536 == w.page).foldl
          (fun s p => ({ s with prefs := s.prefs.filter (·.id != p.id) }).prefetch p) s)

/-- `ACKNOWLEDGE` (13_isa_return.md R289, R293): the count falls; the lines of a store of class 0 are written back. -/
def execAcknowledge (ack : Nat) (s : State) : Host.Outcome State Fault Refusal :=
  match s.acks.find? (·.id == ack) with
  | none => .next s
  | some a =>
    let s := { s with acks := s.acks.filter (·.id != ack) }
    let s := s.updAgent a.uid fun x => { x with acks := x.acks - 1 }
    .next (a.back.foldl (fun s l => s.evict a.cluster l) s)

end Sys2Proof.Machine
end

