-- ==== Sys2Proof/Machine/Engine.lean ====
section
/-! DEFINITION. The engines: layout records, `COPY`, `GATHER`, `SCADD`, `QUANT`, `TGEN`, their checks and the parts of their
work, completion, timelines and `WAITT` (05_engines.md R94-R113, 09_isa_arrival.md R200-R208). -/

namespace Sys2Proof.Machine

/-! ### The work of a command: memory at the command's time (R104, 02_lines_and_homes.md R54) -/

/-- What holds a command up: a home or a walk, or an answer of the scale-up window that has not come. -/
inductive EHold where
  | held (h : Held)
  | win (kind : WinKind) (addr len : Nat) (va : DWord)
  deriving DecidableEq, Repr

/-- What a piece of an engine's work comes to: a result with the state and the command's time; a fault with its TVAL, and
what was done before it; something that holds it up. -/
inductive EOut (α : Type) where
  | ok (s : State) (t : DWord) (a : α)
  | fault (s : State) (t : DWord) (cause : BitVec 8) (tval : DWord)
  | wait (h : EHold)

/-- Going on with a result. -/
def EOut.bind {α β : Type} (x : EOut α) (f : State → DWord → α → EOut β) : EOut β :=
  match x with
  | .ok s t a => f s t a
  | .fault s t c v => .fault s t c v
  | .wait h => .wait h

/-- A result or its fault, both to go on with. -/
def EOut.caught {α : Type} (x : EOut α) : EOut (Except (BitVec 8 × DWord) α) :=
  match x with
  | .ok s t a => .ok s t (.ok a)
  | .fault s t c v => .ok s t (.error (c, v))
  | .wait h => .wait h

/-- Work over a list. -/
def eList {α β : Type} (f : State → DWord → β → EOut α) : List β → State → DWord → EOut (List α)
  | [], s, t => .ok s t []
  | x :: xs, s, t =>
    (f s t x).bind fun s t a => (eList f xs s t).bind fun s t as => .ok s t (a :: as)

/-- Work over a list in any order (R204); a fault ends it (R108). -/
def anyOrder {β : Type} (f : State → DWord → β → EOut Unit) (xs : List β) (s : State) (t : DWord) : EOut Unit :=
  let r := s.shuffle xs.length xs
  (eList f r.1 r.2 t).bind fun s t _ => .ok s t ()

/-- The engine of a command makes its accesses under the command's number, which its walks are kept by. -/
def Cmd.who (c : Cmd) : Who := ⟨c.id, c.core, c.job, c.priv, 1⟩

/-- A place of the command's accesses, once it is translated. -/
def Cmd.place {α : Type} (c : Cmd) (need : Need) (va : DWord) (n : Nat) (s : State) (t : DWord) (f : Seg → State → EOut α) : EOut α :=
  match s.blockNow c.who { need := need } va n with
  | .error h => .wait (.held h)
  | .ok (s, .error x) => .fault s t x va
  | .ok (s, .ok g) => f g s

/-- A range of a local store, read with its poison (19_traps.md R429). -/
def eLocal (s : State) (t : DWord) (core : CoreId) (off n : Nat) (va : DWord) : EOut (List Byte) :=
  match s.lbad core off n with
  | some o => .fault s t 0x26 (va + BitVec.ofNat 64 (o - off))
  | none => .ok s t (s.lbytes core off n)

/-- Device registers read as aligned 4-byte elements (01_main_memory.md R14, 11_isa_tiles.md R262). -/
def State.regBytes (s : State) (pa n : Nat) : State × List Byte :=
  (List.range (n / 4)).foldl (fun r i => let q := r.1.regRead (pa + 4 * i) 4; (q.1, r.2 ++ q.2)) (s, [])

/-- Device registers written as aligned 4-byte elements. -/
def State.putRegs (s : State) (pa : Nat) (bs : List Byte) (job : Nat) : State :=
  (List.range (bs.length / 4)).foldl (fun s i => s.regWrite (pa + 4 * i) ((bs.drop (4 * i)).take 4) job) s

/-- One part of a line, read; no older than what the issuing warp has performed on it (14_memory_model.md R321). -/
def eReadLine (c : Cmd) (cls : Nat) (va : DWord) (pa : Nat) (s : State) (t : DWord) (x : Nat × Nat × Nat) :
    EOut (List Byte) :=
  let a := 128 * x.1 + x.2.1
  let v := va + BitVec.ofNat 64 (a - pa)
  if regionOf a = some .window then
    match c.wins.find? fun w => w.1 == a && (match w.2 with | some bs => bs.length == x.2.2 | none => true) with
    | some (_, some bs) => .ok s t bs
    | some (_, none) => .fault s t 0x26 v
    | none => .wait (.win (.eread c.id) a x.2.2 v)
  else if regionOf a = some .device then let r := s.regBytes a x.2.2; .ok r.1 t r.2
  else
    match s.loadNow c.core.cluster c.job x.1 (tmax t (s.seenAt (.unit c.uid) x.1)) cls with
    | .error l => .wait (.held (.home l))
    | .ok (s, d, bad, t') =>
      if bad &&& sectorMask x.2.1 x.2.2 ≠ 0 then
        .fault s t' 0x26 (v + BitVec.ofNat 64 (((List.range x.2.2).find? fun i =>
          (bad &&& sectorMask (x.2.1 + i) 1) != 0).getD 0))
      else .ok s t' (lineBytes d x.2.1 x.2.2)

/-- Reading one place, at its virtual address. -/
def eReadSeg (c : Cmd) (cls : Nat) (va : DWord) (g : Seg) (s : State) (t : DWord) : EOut (List Byte) :=
  match g with
  | .own off n => eLocal s t c.core off n va
  | .remote rc off n => eLocal s t rc off n va
  | .mem pa n _ => (eList (eReadLine c cls va pa) (linesOf (n / 128 + 2) pa n) s t).bind fun s t bss => .ok s t bss.flatten

/-- Reading one block of virtual addresses. -/
def eReadBlock (c : Cmd) (cls : Nat) (s : State) (t : DWord) (b : DWord × Nat) : EOut (List Byte) :=
  c.place .rd b.1 b.2 s t fun g s => eReadSeg c cls b.1 g s t

/-- Reading bytes at a virtual address. -/
def eRead (c : Cmd) (cls : Nat) (va : DWord) (n : Nat) (s : State) (t : DWord) : EOut (List Byte) :=
  (eList (eReadBlock c cls) (blocks (n / 65536 + 2) va n) s t).bind fun s t bss => .ok s t bss.flatten

/-- One part of a line, written, `whole` as for `State.writeO`; class 0 writes the line back (13_isa_return.md R293). -/
def eWriteLine (c : Cmd) (cls : Nat) (va : DWord) (pa : Nat) (bytes : List Byte) (bad whole : Bool) (s : State) (t : DWord)
    (x : Nat × Nat × Nat) : EOut Unit :=
  let a := 128 * x.1 + x.2.1
  let bs := (bytes.drop (a - pa)).take x.2.2
  if regionOf a = some .window then
    .ok (s.sendWin c.uid c.lane a x.2.2 (.estore c.id bs bad) (va + BitVec.ofNat 64 (a - pa))) t ()
  else if regionOf a = some .device then .ok (s.putRegs a bs c.job) t ()
  else
    match s.storeNow c.core.cluster x.1 t x.2.1 bs bad whole with
    | .error l => .wait (.held (.home l))
    | .ok (s, t') => .ok (if s.effClass c.job cls = 0 then s.writeBackNow c.core.cluster x.1 else s) t' ()

/-- Writing one place; the data may be poisoned (19_traps.md R429). -/
def eWriteSeg (c : Cmd) (cls : Nat) (va : DWord) (g : Seg) (bytes : List Byte) (bad whole : Bool) (s : State) (t : DWord) :
    EOut Unit :=
  match g with
  | .own off _ => .ok (s.putLbytes c.core off bytes bad) t ()
  | .remote rc off _ => .ok (s.putLbytes rc off bytes bad) t ()
  | .mem pa n _ => (eList (eWriteLine c cls va pa bytes bad whole) (linesOf (n / 128 + 2) pa n) s t).bind fun s t _ => .ok s t ()

/-- Writing one block. -/
def eWriteBlock (c : Cmd) (cls : Nat) (bad whole : Bool) (s : State) (t : DWord) (b : (DWord × Nat) × List Byte) : EOut Unit :=
  c.place .wr b.1.1 b.1.2 s t fun g s => eWriteSeg c cls b.1.1 g b.2 bad whole s t

/-- Writing bytes at a virtual address. -/
def eWrite (c : Cmd) (cls : Nat) (va : DWord) (bytes : List Byte) (s : State) (t : DWord) (bad : Bool := false)
    (whole : Bool := false) : EOut Unit :=
  let n := bytes.length
  (eList (eWriteBlock c cls bad whole)
    ((blocks (n / 65536 + 2) va n).map fun b => (b, (bytes.drop (b.1 - va).toNat).take b.2)) s t).bind
    fun s t _ => .ok s t ()

/-- A reduction of an element at the command's time, in the place where it lies (R96, R99). -/
def eReduce (c : Cmd) (va : DWord) (a : EAct) (s : State) (t : DWord) : EOut Unit :=
  if va.extractLsb' 56 8 ≠ 0 then .fault s t 0x2A va
  else if va.toNat % a.size ≠ 0 then .fault s t 0x24 va
  else
    c.place .rw va a.size s t fun g s =>
      match g with
      | .own off _ => .ok (s.lperform c.core off false (.rmw a)).1 t ()
      | .remote rc off _ => .ok (s.lperform rc off false (.rmw a)).1 t ()
      | .mem pa n _ =>
        if regionOf pa = some .window then .ok (s.sendWin c.uid c.lane pa n (.ered c.id a) va) t ()
        else
          let a := { a with off := pa % 128 }
          let cl := c.core.cluster
          let t := s.floorT cl t
          let done (r : State × DWord) : EOut Unit := .ok (r.1.raiseCtime cl r.2) r.2 ()
          match s.updateU cl (pa / 128) t a false with
          | some r => done r
          | none =>
            match s.homeJoinAt (pa / 128) cl with
            | .error l => .wait (.held (.home l))
            | .ok s =>
              match s.updateU cl (pa / 128) t a false with
              | some r => done r
              | none => .ok s t ()

/-- The parts of a range that lie in one aligned group of `g` bytes of memory: offset and length. -/
def cuts (g : Nat) : Nat → DWord → Nat → Nat → List (Nat × Nat)
  | 0, _, _, _ => []
  | k + 1, va, off, n =>
    if n = 0 then []
    else
      let m := min n (g - va.toNat % g)
      (off, m) :: cuts g k (va + BitVec.ofNat 64 m) (off + m) (n - m)

/-- The 4-byte elements of a range at an address. -/
def elementsOf (va : DWord) (n : Nat) : List (Nat × Nat) := cuts 4 (n / 4 + 2) va 0 n

/-- The parts of a range by line. -/
def linesAt (va : DWord) (n : Nat) : List (Nat × Nat) := cuts 128 (n / 128 + 2) va 0 n

/-- Reading an array by its words; the fault is that of the word that the engine came to first. -/
def eArray (c : Cmd) (va : DWord) (n : Nat) (s : State) (t : DWord) : EOut (List Byte) :=
  match eRead c 0 va n s t with
  | .fault .. =>
    (anyOrder (fun s t x => (eRead c 0 (va + BitVec.ofNat 64 x.1) x.2 s t).bind fun s t _ => .ok s t ()) (elementsOf va n) s t).bind
      fun s t _ => .ok s t []
  | r => r

/-! ### Commands -/

/-- Changing a command. -/
def State.updCmd (s : State) (id : Nat) (f : Cmd → Cmd) : State :=
  { s with cmds := s.cmds.map fun c => if c.id = id then f c else c }

/-- The engines of a cluster; a wide core has its own tile loader (R94). -/
def CmdOp.engine (o : CmdOp) (core : CoreId) : Nat :=
  match o with
  | .copy .. => 0
  | .gather .. | .scadd .. => 1
  | .quant .. => 2
  | .tgen .. | .tgenClose .. => 3
  | .tld .. | .tst .. => 4 + core.core

/-- How many commands an engine of a cluster works on at once: there are two copy engines. -/
def engineWidth (e : Nat) : Nat := if e = 0 then 2 else 1

/-- A command has finished its work. -/
def CmdPhase.isFinished : CmdPhase → Bool
  | .finished .. => true
  | _ => false

/-- A tile load that has read memory. -/
def CmdPhase.isRead : CmdPhase → Bool
  | .readPart .. => true
  | _ => false

/-- The accesses that a unit issued before a number are performed (R104). -/
def State.issuerReady (s : State) (uid id : Nat) : Bool :=
  s.loadsBound uid id
    && (s.writes.all fun w => w.uid != uid || decide (id < w.id) || w.pieces.all (·.performed))
    && (s.remotes.all fun r => r.uid != uid || decide (id < r.id))
    && (s.winReqs.all fun r => r.uid != uid || decide (id < r.id) || match r.kind with
        | .store .. | .red .. => false
        | _ => true)

/-- The engine has come to a command: commands are taken in arrival order (R94), after the issuer's earlier accesses (R104);
a tile load that has read memory holds up no other (11_isa_tiles.md R247). -/
def State.cmdTurn (s : State) (c : Cmd) : Bool :=
  let ahead := s.cmds.filter fun d => decide (d.id < c.id) && d.core.cluster == c.core.cluster
    && d.op.engine d.core == c.op.engine c.core && !d.phase.isFinished && !d.phase.isRead
  decide (ahead.length < engineWidth (c.op.engine c.core)) && s.issuerReady c.uid c.id

/-- A unit's command joins the queue at its issue (09_isa_arrival.md R202): the next number of its class, the token empty. -/
def State.issueCmd (s : State) (c : Ctx) (l cls : Nat) (q : Bool) (d : GReg) (op : CmdOp) : State :=
  let r := s.touch c.uid l
  let s := r.1
  match s.agent? c.uid with
  | none => s
  | some a =>
    let k := Fin.ofNat 4 cls
    let num := a.issued[k] + 1
    let tok := ((physG c.rrb d).val, (physG c.rrb (d + 1)).val)
    let s := s.setAgent { a with issued := a.issued.set k.val num k.isLt }
    let s := s.updLane c.uid l fun ln => (ln.setPending (Fin.ofNat 64 tok.1)).setPending (Fin.ofNat 64 tok.2)
    { s with cmds := s.cmds ++ [⟨s.nextId, c.uid, l, c.a.place.coreId, c.a.job, c.p.priv, cls, num, q, tok, op, r.2, .waiting, []⟩]
             nextId := s.nextId + 1 }

/-- Room for the commands of an instruction's lanes (R103). -/
def State.cmdRoom (s : State) (c : Ctx) (cls : Nat) : Bool :=
  decide (((s.cmdsOf c.uid).filter (·.cls == cls)).length + (Mask.list c.act).length ≤ (if c.a.wide then 64 else 8))

/-- An engine command of a class: every active lane issues one (R102, 09_isa_arrival.md R202). -/
def cmdExec (cls : Nat) (q : Bool) (d : GReg) (os : List Opnd) (op : Ctx → LaneIn → CmdOp) (c : Ctx) (s : State) : State :=
  memExec os [] [d, d + 1]
    (fun c s _ x => chkThen (s.acqCheck c.uid) fun s _ => (s, if s.cmdRoom c cls then .ok (op c x) else .wait .order))
    (fun c s l o => s.issueCmd c l cls q d o) c s

/-- `COPY` (R97, 09_isa_arrival.md R201). -/
def execCopy (g : Guard) (shape : CopyShape) (q : Bool) (d : GReg) (a b : Src) (bar : Option Src3) (s : State) :
    Host.Outcome State Fault Refusal :=
  let k := match shape with | .d1 => 1 | .d2 => 2 | .d3 => 3
  issue (.copy g shape q d a b bar) g s (cmdExec 0 q d ([a.w2, b.w2] ++ (bar.map fun x => x.src.w2).toList)
    fun _ x => .copy k (x.v 0) (x.v 1) (bar.map fun _ => x.v 2))

/-- `GATHER` (R98). -/
def execGather (g : Guard) (q : Bool) (d : GReg) (a b : Src) (c e : Src3) (s : State) : Host.Outcome State Fault Refusal :=
  issue (.gather g q d a b c e) g s (cmdExec 1 q d [a.w2, b.w2, c.src.w2, e.src.w1]
    fun _ x => .gather (x.v 0) (x.v 1) (x.v 2) (x.w 3).toNat)

/-- `SCADD` (R99). -/
def execScadd (g : Guard) (q : Bool) (d : GReg) (a b : Src) (c e : Src3) (s : State) : Host.Outcome State Fault Refusal :=
  issue (.scadd g q d a b c e) g s (cmdExec 1 q d [a.w2, b.w2, c.src.w2, e.src.w1]
    fun _ x => .scadd (x.v 0) (x.v 1) (x.v 2) (x.w 3).toNat)

/-- `QUANT` (R100). -/
def execQuant (g : Guard) (q : Bool) (d : GReg) (a b : Src) (s : State) : Host.Outcome State Fault Refusal :=
  issue (.quant g q d a b) g s (cmdExec 2 q d [a.w2, b.w2] fun _ x => .quant (x.v 0) (x.v 1))

/-- The operands of `TGEN` new and append: G, GBASE, LIMIT, TAG in a quad. -/
def tgenOps (a b : Src) (c : GReg) : List Opnd :=
  [a.w2, b.w2, (rd c).w1, (rd (c + 1)).w1, (rd (c + 2)).w1, (rd (c + 3)).w1]

/-- `TGEN.new` (R101). -/
def execTgenNew (g : Guard) (q : Bool) (d : GReg) (a b : Src) (c : GReg) (mt : BitVec 8) (s : State) :
    Host.Outcome State Fault Refusal :=
  issue (.tgenNew g q d a b c mt) g s (cmdExec 2 q d (tgenOps a b c)
    fun _ x => .tgen false (x.v 0) (x.v 1) (x.w 2) (x.w 3) (x.w 4) (x.w 5) mt.toNat)

/-- `TGEN.app` (R101). -/
def execTgenApp (g : Guard) (q : Bool) (d : GReg) (a b : Src) (c : GReg) (mt : BitVec 8) (s : State) :
    Host.Outcome State Fault Refusal :=
  issue (.tgenApp g q d a b c mt) g s (cmdExec 2 q d (tgenOps a b c)
    fun _ x => .tgen true (x.v 0) (x.v 1) (x.w 2) (x.w 3) (x.w 4) (x.w 5) mt.toNat)

/-- `TGEN.close` (R101). -/
def execTgenClose (g : Guard) (q : Bool) (d : GReg) (a : Src) (s : State) : Host.Outcome State Fault Refusal :=
  issue (.tgenClose g q d a) g s (cmdExec 2 q d [a.w2] fun _ x => .tgenClose (x.v 0))

/-! ### Layout records (R95, R96) -/

/-- A layout record. -/
structure LRec where
  base : DWord
  size0 : Nat
  size1 : Nat
  size2 : Nat
  lease : Nat
  ty : Nat
  stride1 : DWord
  stride2 : DWord
  sbase : DWord
  deriving DecidableEq, Repr

/-- A 32-bit word of bytes. -/
def wordAt (bs : List Byte) (off : Nat) : Word := BitVec.ofNat 32 (ofBytes ((bs.drop off).take 4))
/-- A 64-bit word of bytes. -/
def dwAt (bs : List Byte) (off : Nat) : DWord := BitVec.ofNat 64 (ofBytes ((bs.drop off).take 8))

/-- The fields of a record. -/
def LRec.of (bs : List Byte) : LRec where
  base := dwAt bs 0
  size0 := (wordAt bs 8).toNat
  size1 := (wordAt bs 0xC).toNat
  size2 := (wordAt bs 0x10).toNat
  lease := ((wordAt bs 0x14).extractLsb' 4 3).toNat
  ty := ((wordAt bs 0x14).extractLsb' 0 4).toNat
  stride1 := dwAt bs 0x18
  stride2 := dwAt bs 0x20
  sbase := dwAt bs 0x28

/-- A stride whose bits [63:47] are equal. -/
def strideOk (v : DWord) : Bool := v.extractLsb' 47 17 == 0 || v.extractLsb' 47 17 == BitVec.allOnes 17

/-- The checks of R96 on the bytes of a record; `quant` for a `QUANT` destination. -/
def recOk (bs : List Byte) (quant : Bool) : Bool :=
  let r := LRec.of bs
  (wordAt bs 0x14).extractLsb' 7 25 == 0 && r.ty ≤ 8 && (bs.drop 0x30).all (· == 0)
    && 1 ≤ r.size0 && r.size0 ≤ 2 ^ 24 && 1 ≤ r.size1 && r.size1 ≤ 2 ^ 24 && 1 ≤ r.size2 && r.size2 ≤ 2 ^ 16
    && strideOk r.stride1 && strideOk r.stride2 && (r.ty < 5 || r.size0 % 8 == 0) && (quant || r.sbase == 0)

/-- The bytes of some elements of a type; half-byte elements come in pairs. -/
def rowLen (ty n : Nat) : Nat :=
  if ty = 1 ∨ ty = 2 then 4 * n
  else if ty = 3 ∨ ty = 4 then 2 * n
  else if ty = 7 ∨ ty = 8 then n / 2
  else n

/-- The address of row j of plane k. -/
def LRec.row (r : LRec) (j k : Nat) : DWord := r.base + BitVec.ofNat 64 k * r.stride2 + BitVec.ofNat 64 j * r.stride1

/-- The bytes of a record, a class-0 access (01_main_memory.md R28), or its fault; one out of its alignment is malformed. -/
def eRecBytes (c : Cmd) (va : DWord) (s : State) (t : DWord) : EOut (Except (BitVec 8 × DWord) (List Byte)) :=
  if va.toNat % 64 ≠ 0 then .ok s t (.error (0x50, va)) else (eRead c 0 va 64 s t).caught

/-- What is known of a record at the checks: nothing if a memory fault hides it (R203). -/
abbrev RecRead := Except (BitVec 8 × DWord) (List Byte)

/-- The record is malformed (R96). -/
def RecRead.malformed (r : RecRead) (quant : Bool) : Bool :=
  match r with
  | .ok bs => !recOk bs quant
  | .error x => x.1 == 0x50

/-- The record, where it could be read. -/
def RecRead.known (r : RecRead) : Option LRec :=
  match r with
  | .ok bs => some (LRec.of bs)
  | .error _ => none

/-- A check: it fails, its cause, its TVAL. -/
abbrev FCheck := Bool × BitVec 8 × DWord

/-- The first of some failed checks, in the order of R203. -/
def firstFault (xs : List FCheck) : Option (BitVec 8 × DWord) := (xs.find? (·.1)).map (·.2)

/-- The memory faults of records that could not be read, and of a BASE out of the address space (R96), behind every check of
R203. -/
def recFaults (rs : List RecRead) : List FCheck :=
  rs.map fun r : RecRead =>
    match r with
    | .error x => (true, x)
    | .ok bs => ((LRec.of bs).base.extractLsb' 56 8 != 0, 0x2A, (LRec.of bs).base)

/-! ### Counting on a barrier object (04_cluster_store.md R91, R93) -/

/-- The local store in which an address lies, whoever may touch it (01_main_memory.md R18-R20). -/
def storeAt (core : CoreId) (va : DWord) : Option (CoreId × Nat) :=
  let off := (va.extractLsb' 0 20).toNat
  let co := (va.extractLsb' 20 6).toNat
  if va.extractLsb' 56 8 ≠ 0 then none
  else if va.extractLsb' 20 36 = (0xFF0000000 : BitVec 36) then (if off < lsize core.core then some (core, off) else none)
  else if va.extractLsb' 47 9 = (0x1FF : BitVec 9) ∧ va.extractLsb' 32 15 = 0 ∧ co < 36 ∧ off < lsize co then
    some (⟨(va.extractLsb' 26 6).toNat, co⟩, off)
  else none

/-- How many bytes of a range lie in local stores of a cluster; a store ends with a block. -/
def bytesIn (core : CoreId) (cluster : Nat) (va : DWord) (n : Nat) : Nat :=
  ((blocks (n / 65536 + 2) va n).map fun b =>
    match storeAt core b.1 with
    | some x => if x.1.cluster = cluster then b.2 else 0
    | none => 0).sum

/-- One update of the object of a command: some bytes less to come in, or to go out. An update counts the bytes of one part of the
copy, and the bytes that go out are counted before those that come in: DESIGN CHOICE, log entry 57. -/
def State.countDown (s : State) (bar : Option (CoreId × Nat)) (core : CoreId) (inb : Bool) (va : DWord) (n : Nat) : State :=
  match bar with
  | none => s
  | some (o, off) =>
    let k := bytesIn core o.cluster va n
    if k = 0 then s else s.barCount o off inb (!inb) (-(k : Int)) false

/-- The bytes that a faulted copy still has to count, each update at most a line: FAULT is set with the first of them, or by an
update of its own where none is due (log entry 57). -/
def State.countFault (s : State) (bar : Option (CoreId × Nat)) (core : CoreId) (due : List (Bool × DWord × Nat)) : State :=
  match bar with
  | none => s
  | some (o, off) =>
    let ks := (due.map fun x => (x.1, bytesIn core o.cluster x.2.1 x.2.2)).filter (·.2 != 0)
    (if ks.isEmpty then [(true, 0)] else ks).foldl (fun s x => s.barCount o off x.1 (!x.1) (-(x.2 : Int)) true) s

/-- The address that a part writes. -/
def EPart.dst? (p : EPart) : Option (DWord × Nat) :=
  match p.put with
  | .copy d => p.src.map fun x => (d, x.2)
  | _ => none

/-- What a part still has to count: bytes out, unless it has read them, and bytes in. -/
def EPart.due (p : EPart) : List (Bool × DWord × Nat) :=
  (match p.src, p.got with | some x, none => [(false, x)] | _, _ => []) ++ (p.dst?.map fun x => (true, x)).toList

/-! ### Performing the parts (R108, 09_isa_arrival.md R204)

An engine performs the parts of its command in an order that it chooses, and other agents act between them; what a part has
read it may write later. Both are free choices (log entry 57). -/

/-- The element operation and size of a table type (R99). -/
def scaddAct (ty : Nat) (v : DWord) : EAct :=
  if ty = 1 then ⟨0, 4, .add, v, 0, some .i32⟩
  else if ty = 2 then ⟨0, 4, .fadd, v, 0, some .f32⟩ else ⟨0, 2, .fadd, v, 0, some .bf16⟩

/-! ### Quantisation of a block (R100, 07_number_formats.md R153) -/

/-- The type of a source record. -/
def srcTy (ty : Nat) : Ty := if ty = 2 then .f32 else if ty = 3 then .bf16 else .f16

/-- The element type of a block-scaled record. -/
def blkTy (ty : Nat) : Ty := if ty = 5 then .e4m3 else if ty = 6 then .e5m2 else if ty = 7 then .e2m1 else .i4

/-- The largest value of an element format (R153). -/
def blkMax (t : Ty) : Nat := match t with | .e4m3 => 448 | .e5m2 => 57344 | .e2m1 => 6 | _ => 7

/-- The magnitude of a value. -/
def FV.absDy : FV → Dy
  | .fin _ m e => dyOf false m e
  | _ => ⟨0, 0⟩

/-- The scale of a block (R153). -/
def blockScale (t : Ty) (amax : Dy) : Nat :=
  ((List.range 254).map (· + 1)).find? (fun c => decide (0 ≤ ((scaleVal c).mul ⟨blkMax t, 0⟩).cmp amax)) |>.getD 0xFE

/-- One element: the exact quotient rounded once to nearest-even, saturating (R153). -/
def quantElem (t : Ty) (c : Nat) (x : FV) : Nat :=
  match x with
  | .fin neg m e =>
    if m = 0 then (if t = .i4 then 0 else withSign t neg 0)
    else
      let sc := scaleVal c
      let q := quotMag m sc.v.toNat (e - sc.e) 40
      if t = .i4 then
        let r := roundAt .ne neg q 0
        lowBits 4 (clamp (-8) 7 (if neg then -(r.1 : Int) else r.1))
      else (roundF t .ne true neg q).bits
  | _ => 0

/-- A block: its scale byte and its eight codes. -/
def quantBlock (t : Ty) (xs : List FV) : Nat × List Nat :=
  if xs.any fun x => match x with | .fin .. => false | _ => true then (0xFF, xs.map fun _ => 0)
  else
    let amax := xs.foldl (fun (a : Dy) x => if 0 < (x.absDy).cmp a then x.absDy else a) ⟨0, 0⟩
    if amax.v = 0 then (0, xs.map fun _ => 0)
    else
      let c := blockScale t amax
      (c, xs.map (quantElem t c))

/-- Codes packed into bytes: half bytes low index first (R95). -/
def packCodes (t : Ty) (cs : List Nat) : List Byte :=
  if t.width = 4 then
    (List.range (cs.length / 2)).map fun i => BitVec.ofNat 8 (cs.getD (2 * i) 0 % 16 + 16 * (cs.getD (2 * i + 1) 0 % 16))
  else cs.map fun x => BitVec.ofNat 8 x

/-- The elements of a block of a source row of a type. -/
def blockElems (ty : Nat) (bs : List Byte) : List FV :=
  let eb := if ty = 2 then 4 else 2
  (List.range 8).map fun i => decodeF (srcTy ty) (ofBytes ((bs.drop (i * eb)).take eb))

/-! ### A part of the work -/

/-- What a part does with its bytes, `whole` as for `State.writeO`: the words that it gives a tile. -/
def EPut.perform (c : Cmd) (cls : Nat) (whole : Bool) (p : EPut) (bs : List Byte) (s : State) (t : DWord) :
    EOut (List (Nat × Nat × Word)) :=
  (match p with
    | .copy d => eWrite c cls d bs s t false whole
    | .data d bytes bad => eWrite c cls d bytes s t bad whole
    | .add d ty => eReduce c d (scaddAct ty (BitVec.ofNat 64 (ofBytes bs))) s t
    | .scale d ty src _ => eWrite c cls d [BitVec.ofNat 8 (quantBlock (blkTy ty) (blockElems src bs)).1] s t
    | .codes d ty src off len _ =>
      eWrite c cls d (((packCodes (blkTy ty) (quantBlock (blkTy ty) (blockElems src bs)).2).drop off).take len) s t false whole
    | .tile .. => .ok s t ()).bind fun s t _ =>
      .ok s t (match p with
        | .tile i j => (wordsOf bs).zipIdx.map fun (x : Word × Nat) => (i, j + x.2, x.1)
        | _ => [])

/-- The block of a `QUANT` to which a part belongs. -/
def EPut.block? : EPut → Option Nat
  | .scale _ _ _ k | .codes _ _ _ _ _ k => some k
  | _ => none

/-- The bytes that a part writes as they are, or as codes. -/
def EPart.out (p : EPart) : Option (DWord × Nat) :=
  match p.put with
  | .copy d => p.src.map fun x => (d, x.2)
  | .data d bs _ => some (d, bs.length)
  | .codes d _ _ _ n _ => some (d, n)
  | _ => none

/-- Some bytes within one aligned 4-byte element of a source: the element is read once, for every part that uses bytes of it
(R204). -/
def eElement (c : Cmd) (cls : Nat) (seen : List (DWord × List Byte)) (va : DWord) (n : Nat) (s : State) (t : DWord) :
    EOut (List Byte × List (DWord × List Byte)) :=
  let k := va.toNat % 4
  let e := va - BitVec.ofNat 64 k
  let cut (bs : List Byte) : List Byte := (bs.drop k).take n
  match seen.find? (·.1 == e) with
  | some x => .ok s t (cut x.2, seen)
  | none =>
    match eRead c cls e 4 s t with
    | .ok s t bs => .ok s t (cut bs, seen ++ [(e, bs)])
    | .fault s t x _ => .fault s t x va
    | .wait h => .wait h

/-- The bytes of a source: the parts of elements at its ends, and the whole elements between them. -/
def eSource (c : Cmd) (cls : Nat) (seen : List (DWord × List Byte)) (va : DWord) (n : Nat) (s : State) (t : DWord) :
    EOut (List Byte × List (DWord × List Byte)) :=
  let h := min n ((4 - va.toNat % 4) % 4)
  let m := (n - h) / 4 * 4
  let r := n - h - m
  let part (seen : List (DWord × List Byte)) (k len : Nat) (s : State) (t : DWord) : EOut (List Byte × List (DWord × List Byte)) :=
    if len = 0 then .ok s t ([], seen) else eElement c cls seen (va + BitVec.ofNat 64 k) len s t
  (part seen 0 h s t).bind fun s t x =>
    (if m = 0 then .ok s t [] else eRead c cls (va + BitVec.ofNat 64 h) m s t).bind fun s t bs =>
      (part x.2 (h + m) r s t).bind fun s t y => .ok s t (x.1 ++ bs ++ y.1, y.2)

/-- The command's barrier object, where it holds poison, is a fault of the command; else some bytes are counted on it (R91,
19_traps.md R429). -/
def eCount (c : Cmd) (bar : Option (CoreId × Nat)) (inb : Bool) (va : DWord) (n : Nat) (s : State) (t : DWord) : EOut Unit :=
  match bar, c.op with
  | some (o, off), .copy _ _ _ (some b) =>
    match (if bytesIn c.core o.cluster va n = 0 then none else s.lbad o off 16) with
    | some k => .fault s t 0x26 (b + BitVec.ofNat 64 (k - off))
    | none => .ok (s.countDown bar c.core inb va n) t ()
  | _, _ => .ok s t ()

/-- Reading the bytes of a part, and counting them out (R91); with the elements of which bytes are left. -/
def EPart.read (c : Cmd) (w : EWork) (p : EPart) (s : State) (t : DWord) : EOut (List Byte × List (DWord × List Byte)) :=
  match p.got, p.src with
  | some bs, _ => .ok s t (bs, w.seen)
  | none, some x => (eSource c w.rcls w.seen x.1 x.2 s t).bind fun s t r =>
      (eCount c w.bar false x.1 x.2 s t).bind fun s t _ => .ok s t r
  | none, none => .ok s t ([], w.seen)

/-- Writing a part, and counting it in. -/
def EPart.write (c : Cmd) (w : EWork) (whole : Bool) (p : EPart) (bs : List Byte) (s : State) (t : DWord) :
    EOut (List (Nat × Nat × Word)) :=
  (p.put.perform c w.wcls whole bs s t).bind fun s t ws =>
    match p.dst? with
    | some x => (eCount c w.bar true x.1 x.2 s t).bind fun s t _ => .ok s t ws
    | none => .ok s t ws

/-- The sector in which an address lies. -/
def sectorOf (va : DWord) : Nat := va.toNat / 16

/-- Part `i` is the last of a command's writes to a sector that one of its rows covers (19_traps.md R430). -/
def EWork.whole (w : EWork) (i : Nat) : Bool :=
  match (w.todo[i]?).bind EPart.out with
  | none => false
  | some x =>
    let k := sectorOf x.1
    (w.rows.any fun r => decide (r.1.toNat ≤ 16 * k) && decide (16 * k + 16 ≤ r.1.toNat + r.2))
      && (w.todo.zipIdx.all fun y => y.2 == i || match y.1.out with
        | some z => decide (sectorOf z.1 ≠ k)
        | none => true)

/-- What a part has read is kept, for every part of its block (R153: a block is read once). -/
def EWork.keep (w : EWork) (p : EPart) (i : Nat) (bs : List Byte) (seen : List (DWord × List Byte)) : EWork :=
  { w with todo := w.todo.mapIdx fun j q =>
             if j = i ∨ (p.put.block?.isSome ∧ q.put.block? = p.put.block?) then { q with got := some bs } else q
           seen := seen }

/-- How some steps of a command's work end: it may go on, it is held up, or a fault ends it. -/
inductive EEnd where
  | more
  | held (h : EHold)
  | fault (cause : BitVec 8) (tval : DWord)
  deriving DecidableEq, Repr

/-- A part that has read what it writes, or reads nothing. -/
def EPart.isRead (p : EPart) : Bool := p.got.isSome || p.src.isNone

/-- The parts that may be performed next, by their place. -/
def EWork.next (w : EWork) : List Nat :=
  let unread := w.todo.zipIdx.filter fun x => !x.1.isRead
  (if w.buffered && !unread.isEmpty then unread else w.todo.zipIdx).map (·.2)

/-- Some steps of a command's work: each takes a part, reads it if it has not been read, and writes it or keeps what it has
read. A fault ends a command, but an append goes on with its other entries (R112). -/
def Cmd.steps (c : Cmd) : Nat → EWork → State → DWord → State × DWord × EWork × EEnd
  | 0, w, s, t => (s, t, w, .more)
  | k + 1, w, s, t =>
    let r := s.chooseNat w.next.length
    match w.next[r.1]? with
    | none => (s, t, w, .more)
    | some i =>
      match w.todo[i]? with
      | none => (s, t, w, .more)
      | some p =>
        match p.read c w r.2 t with
        | .wait h => (s, t, w, .held h)
        | .fault s t x v => (s, t, w, .fault x v)
        | .ok s t r =>
          let bs := r.1
          let kept := w.keep p i bs r.2
          let later : Bool × State :=
            if p.isRead then (false, s)
            else if kept.buffered && kept.todo.any fun q => !q.isRead then (true, s)
            else let b := s.chooseNat 2; (b.1 == 1, b.2)
          if later.1 then c.steps k kept later.2 t
          else
            match p.write c w (w.whole i) bs later.2 t with
            | .wait h => (later.2, t, kept, .held h)
            | .fault s t x v =>
              if w.queue.isSome then c.steps k { kept with todo := kept.todo.eraseIdx i, faults := w.faults ++ [(x, v)] } s t
              else (s, t, kept, .fault x v)
            | .ok s t ws => c.steps k { kept with todo := kept.todo.eraseIdx i, words := w.words ++ ws } s t

/-- The fault that a command reports of several that it met: that of the element it came to first (R204). -/
def EWork.oneFault (w : EWork) : BitVec 8 × DWord := w.faults.headD (0, 0)

/-- A command whose parts are all done: an append has its entries to publish, a tile load its tile to write. -/
def Cmd.worked (c : Cmd) (w : EWork) : CmdPhase :=
  match w.queue, c.op with
  | some q, _ => .reserved q.1 q.2 w.oneFault.1 w.oneFault.2
  | none, .tld .. => .readPart w.words 0 0
  | none, _ => .finished 0 0

/-- A command that a fault has ended. -/
def Cmd.failed (c : Cmd) (w : EWork) (x : BitVec 8) (v : DWord) : CmdPhase :=
  match c.op with
  | .tld .. => .readPart w.words x v
  | _ => .finished x v

/-- What holds a command up is asked for. -/
def State.askHold (s : State) (c : Cmd) (h : EHold) : State :=
  match h with
  | .held (.home l) => s.nudge l
  | .held (.walk va d) => s.askWalk c.who va d
  | .win k a n v => if s.winReqs.any fun r => r.kind == k && r.addr == a then s else s.sendWin c.uid c.lane a n k v

/-- A command's phase and time. -/
def State.setPhase (s : State) (c : Cmd) (t : DWord) (ph : CmdPhase) : State :=
  s.updCmd c.id fun c => { c with phase := ph, time := t }

/-- The engine goes on with a command's work: it performs some of the parts, how many is open. -/
def State.workOn (s : State) (c : Cmd) (w : EWork) (t : DWord) : State :=
  let n := s.chooseNat (2 * w.todo.length + 1)
  match c.steps (2 * w.todo.length - n.1) w n.2 t with
  | (s, t, w, .more) => s.setPhase c t (if w.todo.isEmpty then c.worked w else .working w)
  | (s, t, w, .held h) => (s.setPhase c t (.working w)).askHold c h
  | (s, t, w, .fault x v) => (s.countFault w.bar c.core (w.todo.flatMap EPart.due)).setPhase c t (c.failed w x v)

/-- The time at which a command runs: what its issuer has done before it comes first (R104, 14_memory_model.md R321; log entry
55). -/
def State.cmdTime (s : State) (c : Cmd) : DWord :=
  match c.phase, s.agent? c.uid with
  | .waiting, some a => tmax c.time (a.pathTime c.lane)
  | _, _ => c.time

/-- Running a command that the engine has come to: its checks are one action, its work many. What is held up has not begun. -/
def State.runCmd (s : State) (id : Nat) (want : CmdOp → Bool) (work : Cmd → State → DWord → EOut CmdPhase) : State :=
  match s.cmds.find? (·.id == id) with
  | none => s
  | some c =>
    if !want c.op || !s.cmdTurn c then s
    else
      match c.phase with
      | .finished .. => s
      | .working w => s.workOn c w c.time
      | _ =>
        match work c s (s.cmdTime c) with
        | .ok s t (.working w) => (s.setPhase c t (.working w)).workOn c w t
        | .ok s t ph => s.setPhase c t ph
        | .fault s t x v => s.setPhase c t (.finished x v)
        | .wait h => s.askHold c h

/-- Whether a command goes by 4-byte elements; else, as the engine likes, by larger parts (R204). -/
def State.grain (s : State) : Bool × State :=
  let r := s.chooseNat 2
  (r.1 == 1, r.2)

/-- A range cut into elements, or by line. -/
def cutOf (fine : Bool) (va : DWord) (n : Nat) : List (Nat × Nat) := if fine then elementsOf va n else linesAt va n

/-! ### COPY (R97, 04_cluster_store.md R91, R93) -/

/-- The rows of the dimensions that a copy uses. -/
def copyRows (shape : Nat) (r : LRec) : List (Nat × Nat) :=
  let n1 := if shape = 1 then 1 else r.size1
  let n2 := if shape = 3 then r.size2 else 1
  (List.range n2).flatMap fun k => (List.range n1).map fun j => (j, k)

/-- The parts of a copy's rows, none of which crosses a line of the destination. -/
def copyParts (fine : Bool) (d e : LRec) (n : Nat) (xs : List (Nat × Nat)) : List EPart :=
  xs.flatMap fun x => (cutOf fine (d.row x.1 x.2) n).map fun o =>
    ⟨some (e.row x.1 x.2 + BitVec.ofNat 64 o.1, o.2), .copy (d.row x.1 x.2 + BitVec.ofNat 64 o.1), none⟩

/-- The checks of a copy's barrier object (R203): the object, or the cause; a memory fault comes behind every check. -/
def barCheck (s : State) (c : Cmd) (va : DWord) : Except (Bool × BitVec 8 × DWord) (CoreId × Nat) :=
  if va.toNat % 16 ≠ 0 then .error (true, 0x24, va)
  else
    match storeAt c.core va, classify s c.who va with
    | none, _ => .error (true, 0x44, va)
    | some _, .error x => .error (false, x, va)
    | some x, .ok _ =>
      match s.lbad x.1 x.2 16 with
      | some k => .error (false, 0x26, va + BitVec.ofNat 64 (k - x.2))
      | none => .ok x

/-- The bytes that a copy was due to count by one of its records, line by line: a malformed record that can be read and whose
TYPE is assigned is taken as it stands (log entry 57). -/
def rowsDue (shape : Nat) (inb : Bool) (r : RecRead) : List (Bool × DWord × Nat) :=
  match r.known with
  | some r =>
    if 8 < r.ty then []
    else (copyRows shape r).flatMap fun x => (linesAt (r.row x.1 x.2) (rowLen r.ty r.size0)).map fun o =>
      (inb, r.row x.1 x.2 + BitVec.ofNat 64 o.1, o.2)
  | none => []

/-- Both records agree where the copy uses them (R97). -/
def sameShape (shape : Nat) (d e : LRec) : Bool :=
  d.ty == e.ty && d.size0 == e.size0 && (shape < 2 || d.size1 == e.size1) && (shape != 3 || d.size2 == e.size2)

/-- Every row of the destination stands to its row of the source by a multiple of 4, so that an element of one is an element of
the other. -/
def inStep (d e : LRec) (xs : List (Nat × Nat)) : Bool :=
  xs.all fun x => (d.row x.1 x.2).toNat % 4 == (e.row x.1 x.2).toNat % 4

/-- The whole of a copy: the checks of R203, then the parts; of two malformed records the destination's is reported (DESIGN CHOICE,
log entry 57). Elements that do not stand in step are all read first, which gives
each the value from before the command (R97). -/
def copyRun (c : Cmd) (shape : Nat) (dst src : DWord) (bar : Option DWord) (s : State) (t : DWord) : EOut CmdPhase :=
  (eRecBytes c dst s t).bind fun s t d => (eRecBytes c src s t).bind fun s t e =>
    let b := bar.map (barCheck s c)
    let obj := match b with | some (.ok x) => some x | _ => none
    let checks : List FCheck :=
      ([(RecRead.malformed d false, 0x50, dst), (RecRead.malformed e false, 0x50, src),
        (match RecRead.known d, RecRead.known e with | some d, some e => !sameShape shape d e | _, _ => false, 0x52, 0),
        ((match b with | some (.error x) => x | _ => (false, 0, 0)) : FCheck)] : List FCheck)
      ++ recFaults [d, e] ++ [((match b with | some (.error x) => (true, x.2) | _ => (false, 0, 0)) : FCheck)]
    match firstFault checks, RecRead.known d, RecRead.known e with
    | none, some d, some e =>
      let n := rowLen d.ty d.size0
      let xs := copyRows shape d
      let g := s.grain
      let b := g.2.chooseNat 2
      .ok b.2 t (.working ⟨e.lease, d.lease, obj, !inStep d e xs || b.1 == 1, copyParts g.1 d e n xs, [], none, [],
        xs.map fun x => (d.row x.1 x.2, n), []⟩)
    | f, _, _ =>
      let x := f.getD (0x50, dst)
      .fault (s.countFault obj c.core (rowsDue shape false e ++ rowsDue shape true d)) t x.1 x.2

/-- `COPY_EXECUTE`. -/
def execCopyExecute (cmd : Nat) (s : State) : Host.Outcome State Fault Refusal :=
  .next (s.runCmd cmd (fun o => match o with | .copy .. => true | _ => false) fun c s t =>
    match c.op with
    | .copy k d e bar => copyRun c k d e bar s t
    | _ => .ok s t c.phase)

/-! ### GATHER and SCADD (R98, R99) -/

/-- A range lies wholly inside one local store (R203). -/
def inOneStore (core : CoreId) (va : DWord) (n : Nat) : Bool :=
  match storeAt core va with
  | some (o, off) => decide (off + n ≤ lsize o.core)
  | none => false

/-- The first position whose index is out of range. -/
def badIndex (xs : List Word) (rows : Nat) : Option Nat :=
  xs.findIdx? fun x => x != 0xFFFFFFFF && decide (rows ≤ x.toNat)

/-- A table's BASE lies in no translated memory, and in no address that R96 turns away. -/
def baseLocal (s : State) (c : Cmd) (r : LRec) : Bool :=
  r.base.extractLsb' 56 8 == 0 && (match classify s c.who r.base with | .ok .trans => false | _ => true)

/-- The checks of `GATHER` and `SCADD` in the order of R203, then the parts. The TVAL of cause 0x25 is the start of the range
(log entry 57). -/
def gatherRun (c : Cmd) (scadd : Bool) (loc table idx : DWord) (n : Nat)
    (parts : Bool → LRec → List Word → List EPart) (s : State) (t : DWord) : EOut CmdPhase :=
  (eRecBytes c table s t).bind fun s t r =>
    let rec? := RecRead.known r
    let len := match rec? with | some r => rowLen r.ty r.size0 | none => 0
    let early : List FCheck :=
      [(RecRead.malformed r false, 0x50, table), (decide (n = 0) || decide (65536 < n) || idx.toNat % 4 != 0, 0x50, 0),
        (match rec? with | some r => r.size2 != 1 || len % 4 != 0 | none => false, 0x50, 0),
        (!inOneStore c.core loc (n * len), 0x25, loc)]
    match firstFault early with
    | some x => .fault s t x.1 x.2
    | none =>
      (eArray c idx (4 * n) s t).caught.bind fun s t xs =>
        let ws := match xs with | .ok bs => wordsOf bs | .error _ => []
        let bad := match rec? with | some r => badIndex ws r.size1 | none => none
        let late : List FCheck :=
          ([(bad.isSome, 0x53, BitVec.ofNat 64 (bad.getD 0)),
            (match rec? with | some r => scadd && !(1 ≤ r.ty && r.ty ≤ 3) | none => false, 0x54, 0),
            (match rec? with | some r => scadd && baseLocal s c r | none => false, 0x50, 0)] : List FCheck)
          ++ recFaults [r] ++ [((match xs with | .error x => (true, x) | .ok _ => (false, 0, 0)) : FCheck)]
        match firstFault late, rec? with
        | none, some r =>
          let g := s.grain
          .ok g.2 t (.working ⟨r.lease, 0, none, false, parts g.1 r ws, [], none, [], [], []⟩)
        | f, _ => let x := f.getD (0x50, table); .fault s t x.1 x.2

/-- The parts of a `GATHER`: the zeros of a row without an index, or the table's bytes. -/
def gatherParts (dst : DWord) (fine : Bool) (r : LRec) (xs : List Word) : List EPart :=
  let len := rowLen r.ty r.size0
  xs.zipIdx.flatMap fun q =>
    let out := dst + BitVec.ofNat 64 (q.2 * len)
    (cutOf fine out len).map fun o =>
      let d := out + BitVec.ofNat 64 o.1
      if q.1 = 0xFFFFFFFF then ⟨none, .data d (List.replicate o.2 0) false, none⟩
      else ⟨some (r.row q.1.toNat 0 + BitVec.ofNat 64 o.1, o.2), .copy d, none⟩

/-- The parts of a `SCADD`: its elements, each of which is added once. -/
def scaddParts (src : DWord) (_ : Bool) (r : LRec) (xs : List Word) : List EPart :=
  let eb := if r.ty = 3 then 2 else 4
  (xs.zipIdx.filter fun q => q.1 != 0xFFFFFFFF).flatMap fun q => (List.range r.size0).map fun i =>
    ⟨some (src + BitVec.ofNat 64 (q.2 * rowLen r.ty r.size0 + i * eb), eb),
      .add (r.row q.1.toNat 0 + BitVec.ofNat 64 (i * eb)) r.ty, none⟩

/-- `GATHER_EXECUTE`. -/
def execGatherExecute (cmd : Nat) (s : State) : Host.Outcome State Fault Refusal :=
  .next (s.runCmd cmd (fun o => match o with | .gather .. => true | _ => false) fun c s t =>
    match c.op with
    | .gather d tb ix n => gatherRun c false d tb ix n (gatherParts d) s t
    | _ => .ok s t c.phase)

/-- `SCADD_EXECUTE`. -/
def execScaddExecute (cmd : Nat) (s : State) : Host.Outcome State Fault Refusal :=
  .next (s.runCmd cmd (fun o => match o with | .scadd .. => true | _ => false) fun c s t =>
    match c.op with
    | .scadd d tb ix n => gatherRun c true d tb ix n (scaddParts d) s t
    | _ => .ok s t c.phase)

/-! ### QUANT (R100, 07_number_formats.md R153) -/

/-- The parts of a `QUANT`: the elements of each block's codes, and its scale. -/
def quantParts (d e : LRec) : List EPart :=
  let eb := if e.ty = 2 then 4 else 2
  let cb := (blkTy d.ty).width
  (List.range d.size1).flatMap fun j => (List.range (d.size0 / 8)).flatMap fun k =>
    let from8 := some (e.row j 0 + BitVec.ofNat 64 (8 * k * eb), 8 * eb)
    let out := d.row j 0 + BitVec.ofNat 64 (k * cb)
    let b := j * (d.size0 / 8) + k
    ⟨from8, .scale (d.sbase + BitVec.ofNat 64 b) d.ty e.ty b, none⟩ ::
      (elementsOf out cb).map fun o => ⟨from8, .codes (out + BitVec.ofNat 64 o.1) d.ty e.ty o.1 o.2 b, none⟩

/-- The whole of a `QUANT`: the checks of R203, then the parts; of two malformed records the destination's is reported (DESIGN
CHOICE, log entry 57). -/
def quantRun (c : Cmd) (dst src : DWord) (s : State) (t : DWord) : EOut CmdPhase :=
  (eRecBytes c dst s t).bind fun s t d => (eRecBytes c src s t).bind fun s t e =>
    let known (r : RecRead) (f : LRec → Bool) : Bool := match r.known with | some r => f r | none => false
    let checks : List FCheck :=
      ([(RecRead.malformed d true, 0x50, dst), (RecRead.malformed e false, 0x50, src),
        (known e (fun e => !(2 ≤ e.ty && e.ty ≤ 4)) || known d (·.ty < 5), 0x54, 0),
        (known d (·.size2 != 1) || known e (·.size2 != 1)
          || known d (fun d => known e fun e => d.size0 != e.size0 || d.size1 != e.size1), 0x52, 0)] : List FCheck) ++ recFaults [d, e]
    match firstFault checks, RecRead.known d, RecRead.known e with
    | none, some d, some e => .ok s t (.working ⟨e.lease, d.lease, none, false, quantParts d e, [], none, [],
        (List.range d.size1).map fun j => (d.row j 0, rowLen d.ty d.size0), []⟩)
    | f, _, _ => let x := f.getD (0x50, dst); .fault s t x.1 x.2

/-- `QUANT_EXECUTE`. -/
def execQuantExecute (cmd : Nat) (s : State) : Host.Outcome State Fault Refusal :=
  .next (s.runCmd cmd (fun o => match o with | .quant .. => true | _ => false) fun c s t =>
    match c.op with
    | .quant d e => quantRun c d e s t
    | _ => .ok s t c.phase)

/-! ### TGEN (R101, R110-R112, 09_isa_arrival.md R205) -/

/-- The queue header: HEAD, TAIL, RESV, BASE, CAP, FAULT, OPEN and whether its reserved fields are zero. -/
structure QHead where
  head : DWord
  tail : DWord
  resv : DWord
  base : DWord
  cap : Nat
  flags : Word
  rest : List Byte
  deriving DecidableEq, Repr

/-- The fields of a header. -/
def QHead.of (bs : List Byte) : QHead :=
  ⟨dwAt bs 0, dwAt bs 8, dwAt bs 0x10, dwAt bs 0x18, (wordAt bs 0x20).toNat, wordAt bs 0x24, bs.drop 0x28⟩

/-- The bytes of a header. -/
def QHead.bytes (h : QHead) : List Byte :=
  toBytes 8 h.head.toNat ++ toBytes 8 h.tail.toNat ++ toBytes 8 h.resv.toNat ++ toBytes 8 h.base.toNat ++ toBytes 4 h.cap
    ++ toBytes 4 h.flags.toNat ++ h.rest

/-- A valid header (R110). -/
def QHead.ok (h : QHead) : Bool :=
  1 ≤ h.cap && h.cap ≤ 2 ^ 24 && h.base.toNat % 16 == 0 && h.flags.extractLsb' 2 30 == 0 && h.rest.all (· == 0)

/-- OPEN. -/
def QHead.isOpen (h : QHead) : Bool := h.flags.getLsbD 0

/-- The header after an update at its home (R110, R112); one that is not valid stays as it is. -/
def HeadOp.apply (o : HeadOp) (h : QHead) : QHead :=
  match o with
  | .reserve fresh k =>
    if !h.ok then h
    else
      let h := if fresh then { h with head := 0, tail := 0, resv := 0, flags := (h.flags &&& ~~~(2 : Word)) ||| 1 } else h
      if h.isOpen && decide (h.resv.toNat + k ≤ h.cap) then { h with resv := h.resv + BitVec.ofNat 64 k } else h
  | .publish st k fault =>
    if h.tail.toNat = st then
      { h with tail := BitVec.ofNat 64 (st + k), flags := if fault then h.flags ||| 2 else h.flags }
    else h
  | .close => if h.ok && h.tail == h.resv then { h with flags := h.flags &&& ~~~(1 : Word) } else h

/-- Where a command keeps the old header that an atomic of the scale-up window has answered, beside what it has read there. -/
def headKey (pa : Nat) : Nat := pa + 2 ^ 60

/-- One update of the header at its home: the old header. In the scale-up window it is one atomic at the owning device's home
(23_host_and_links.md R468). -/
def eHeader (c : Cmd) (va : DWord) (o : HeadOp) (s : State) (t : DWord) : EOut QHead :=
  c.place .rw va 64 s t fun g s =>
    match g with
    | .mem pa _ _ =>
      if regionOf pa = some .window then
        match c.wins.find? (·.1 == headKey pa) with
        | some (_, some bs) => .ok s t (QHead.of bs)
        | some (_, none) => .fault s t 0x26 va
        | none => .wait (.win (.ehead c.id o) pa 64 va)
      else
        match s.homeActAt (pa / 128) (pa % 128) 64 (s.floorT c.core.cluster t) (fun old => (o.apply (QHead.of old)).bytes) with
        | .error l => .wait (.held (.home l))
        | .ok (s, _, t', true) => .fault s t' 0x26 va
        | .ok (s, old, t', false) => .ok (s.raiseCtime c.core.cluster t') t' (QHead.of old)
    | _ => .fault s t 0x55 0

/-- The header as its home has it: a class-0 read there. -/
def eHeadRead (c : Cmd) (va : DWord) (s : State) (t : DWord) : EOut QHead :=
  c.place .rd va 64 s t fun g s =>
    match g with
    | .mem pa _ _ =>
      if regionOf pa = some .window then (eRead c 0 va 64 s t).bind fun s t bs => .ok s t (QHead.of bs)
      else
        let t := s.floorT c.core.cluster t
        match s.homeReadAt (pa / 128) t 0 with
        | .error l => .wait (.held (.home l))
        | .ok (s, r) =>
          let t' := raise t r.wts
          let s := (s.gotStamp c.core.cluster r.e).raiseCtime c.core.cluster t'
          if r.bad &&& sectorMask (pa % 128) 64 ≠ 0 then .fault s t' 0x26 va
          else .ok s t' (QHead.of (lineBytes r.data (pa % 128) 64))
    | _ => .fault s t 0x55 0

/-- The header may lie at an address: 64-byte aligned, translated (R110). -/
def headerAt (c : Cmd) (va : DWord) (s : State) : Bool :=
  va.toNat % 64 == 0 && (match classify s c.who va with | .ok .trans => true | _ => false)

/-- The first bad index of the offsets: the lowest g + 1 that decreases, or G (R101). -/
def badOffsets (os : List Word) (limit : Word) : Option Nat :=
  match ((List.range (os.length - 1)).find? fun g => decide ((os.getD (g + 1) 0).toNat < (os.getD g 0).toNat)) with
  | some g => some (g + 1)
  | none => if limit.toNat < (os.getD (os.length - 1) 0).toNat then some (os.length - 1) else none

/-- The entries of the groups (R101, R111): ROW0, GROUP, rows and LAST, TAG. -/
def tgenEntries (os : List Word) (gbase tag : Word) (mt : Nat) : List (List Byte) :=
  (List.range (os.length - 1)).flatMap fun g =>
    let a := (os.getD g 0).toNat
    let n := (os.getD (g + 1) 0).toNat - a
    (List.range ((n + mt - 1) / mt)).map fun i =>
      let rows := min mt (n - i * mt)
      let last := if n ≤ (i + 1) * mt then 0x10000 else 0
      toBytes 4 (a + i * mt) ++ toBytes 4 (gbase + BitVec.ofNat 32 g).toNat ++ toBytes 4 (rows + last) ++ toBytes 4 tag.toNat

/-- `TGEN` new and append up to the reservation (R112): the operands, the header, the offsets. -/
def tgenRun (c : Cmd) (queue offs : DWord) (g gbase limit tag : Word) (mt : Nat) (s : State) (t : DWord) : EOut CmdPhase :=
  if g.toNat < 1 ∨ 65535 < g.toNat ∨ mt < 1 ∨ 128 < mt ∨ offs.toNat % 4 ≠ 0 then .fault s t 0x50 0
  else if headerAt c queue s = false then .fault s t 0x55 0
  else
    (eHeadRead c queue s t).caught.bind fun s t h =>
      if (match h with | .ok h => !h.ok | .error _ => false) then .fault s t 0x55 0
      else
        (eArray c offs (4 * (g.toNat + 1)) s t).bind fun s t bs =>
          match badOffsets (wordsOf bs) limit with
          | some i => .fault s t 0x51 (BitVec.ofNat 64 i)
          | none => .ok s t (.heading (tgenEntries (wordsOf bs) gbase tag mt))

/-- The reservation of a `TGEN`, and its entries as parts (R112). -/
def tgenReserve (c : Cmd) (app : Bool) (queue : DWord) (es : List (List Byte)) (s : State) (t : DWord) : EOut CmdPhase :=
  let k := es.length
  (eHeader c queue (.reserve (!app) k) s t).bind fun s t h =>
    let start := if app then h.resv.toNat else 0
    if !h.ok then .fault s t 0x55 0
    else if app && !h.isOpen then .fault s t 0x57 0
    else if h.cap < start + k then .fault s t 0x56 0
    else if k = 0 then .ok s t (.finished 0 0)
    else
      .ok s t (.working ⟨0, 0, none, false, es.zipIdx.map fun e =>
        ⟨none, .data (h.base + 16 * BitVec.ofNat 64 (start + e.2)) e.1 false, none⟩, [], some (start, k), [], [], []⟩)

/-- `TGEN_EXECUTE`: an append that holds its reservation waits for its publication. -/
def execTgenExecute (cmd : Nat) (s : State) : Host.Outcome State Fault Refusal :=
  .next (s.runCmd cmd (fun o => match o with | .tgen .. => true | _ => false) fun c s t =>
    match c.op, c.phase with
    | .tgen _ q o g gb li tg mt, .waiting => tgenRun c q o g gb li tg mt s t
    | .tgen app q .., .heading es => tgenReserve c app q es s t
    | _, ph => .ok s t ph)

/-- Requests of a command to the scale-up window are unanswered. -/
def State.cmdWin (s : State) (id : Nat) : Bool :=
  s.winReqs.any fun r => match r.kind with
    | .estore k .. | .ered k _ | .eread k | .ehead k _ => k == id
    | _ => false

/-- What a command has read of the scale-up window is forgotten, to be asked for again. -/
def State.forgetWins (s : State) (id : Nat) : State := s.updCmd id fun c => { c with wins := [] }

/-- `TGEN_PUBLISH` (R112): once TAIL is the reservation's start, TAIL moves past it, and FAULT is set for an append that
could not write an entry. A header at a home of this device is read there first, and left alone while another append is to be
published. -/
def execTgenPublish (cmd : Nat) (s : State) : Host.Outcome State Fault Refusal :=
  .next (s.runCmd cmd (fun o => match o with | .tgen .. => true | _ => false) fun c s t =>
    match c.op, c.phase with
    | .tgen _ q .., .reserved st k x v =>
      let answered := c.wins.any fun w => decide (2 ^ 60 ≤ w.1)
      if s.cmdWin c.id then .ok s t c.phase
      else
        match (if answered then EOut.ok s t none else (eHeadRead c q s t).bind fun s t h => .ok s t (some h)) with
        | .wait h => .wait h
        | .fault s t y w => .fault s t (if x = 0 then y else x) (if x = 0 then w else v)
        | .ok s' t' h =>
          if (match h with | some h => h.tail.toNat != st | none => false) then .ok (s.forgetWins c.id) t c.phase
          else
            match eHeader c q (.publish st k (x != 0)) s' t' with
            | .wait h => .wait h
            | .fault s t y w => .fault s t (if x = 0 then y else x) (if x = 0 then w else v)
            | .ok s t h => .ok (s.forgetWins c.id) t (if h.tail.toNat = st then .finished x v else c.phase)
    | _, ph => .ok s t ph)

/-- `TGEN_CLOSE_EXECUTE` (R112, R205): OPEN := 0 at a moment when TAIL = RESV, in one update. -/
def execTgenCloseExecute (cmd : Nat) (s : State) : Host.Outcome State Fault Refusal :=
  .next (s.runCmd cmd (fun o => match o with | .tgenClose .. => true | _ => false) fun c s t =>
    match c.op, c.phase with
    | .tgenClose q, .waiting =>
      let answered := c.wins.any fun w => decide (2 ^ 60 ≤ w.1)
      if headerAt c q s = false then .fault s t 0x55 0
      else
        (if answered then EOut.ok s t none else (eHeadRead c q s t).bind fun s t h => .ok s t (some h)).bind fun s' t' h =>
          if (match h with | some h => !h.ok | none => false) then .fault s' t' 0x55 0
          else if (match h with | some h => h.tail != h.resv | none => false) then .ok (s.forgetWins c.id) t .waiting
          else
            (eHeader c q .close s' t').bind fun s t h =>
              if !h.ok then .fault s t 0x55 0
              else .ok (s.forgetWins c.id) t (if h.tail = h.resv then .finished 0 0 else .waiting)
    | _, ph => .ok s t ph)

/-! ### Completion, timelines, WAITT (R103-R108, 09_isa_arrival.md R207) -/

/-- The timeline after some completions: the largest n with every number up to n completed (R105). -/
def advance (done : List (Nat × DWord × DWord)) (cls : Nat) : Nat → DWord → DWord
  | 0, n => n
  | k + 1, n => if done.any fun x => x.1 == cls && x.2.1 == n + 1 then advance done cls k (n + 1) else n

/-- A token's value (R106). -/
def tokenValue (num : DWord) (cause : BitVec 8) : DWord :=
  if cause = 0 then num.setWidth 63 |>.setWidth 64
  else (1 : BitVec 1) ++ (0 : BitVec 23) ++ lo32 num ++ cause

/-- A command completes (R105-R108): its token is full, its timeline moves, and its fault is due unless `.q` was given. -/
def State.completeCmd (s : State) (c : Cmd) (cause : BitVec 8) (tval : DWord) : State :=
  let v := tokenValue c.num cause
  let s := s.updLane c.uid c.lane fun ln =>
    let ln := (ln.setReg (Fin.ofNat 64 c.tok.1) (lo32 v)).setReg (Fin.ofNat 64 c.tok.2) (hi32 v)
    { ln with toks := ln.toks ++ [⟨c.tok.1, c.tok.2, c.cls, c.num, c.time⟩] }
  let s := s.updAgent c.uid fun a =>
    let k := Fin.ofNat 4 c.cls
    let done := a.finished ++ [(c.cls, c.num, c.time)]
    let a := { a with finished := done, tl := a.tl.set k.val (advance done c.cls done.length a.tl[k]) k.isLt }
    if cause = 0 ∨ c.q then a
    else if a.due.length < 8 then { a with due := a.due ++ [⟨c.cls, c.lane, c.num, cause, tval⟩] }
    else { a with dfovf := true }
  let s := { s with cmds := s.cmds.filter (·.id != c.id) }.clearWalkFaults c.id
  s.retireIfEmpty c.uid

/-- `COMMAND_COMPLETION`. -/
def execCommandCompletion (cmd : Nat) (s : State) : Host.Outcome State Fault Refusal :=
  match s.cmds.find? (·.id == cmd) with
  | none => .next s
  | some c =>
    match c.phase with
    | .finished x v => .next (if s.cmdWin cmd then s else s.completeCmd c x v)
    | _ => .next s

/-- The final time of every completed command of a class numbered n or below (02_lines_and_homes.md R54). -/
def Agent.timeUpTo (a : Agent) (cls : Nat) (n : DWord) : DWord :=
  (a.finished.filter fun x => x.1 == cls && decide (x.2.1.toNat ≤ n.toNat)).foldl (fun m x => tmax m x.2.2) 0

/-- `WAITT` (09_isa_arrival.md R207): beyond what has issued is cause 0x58; it waits for the timeline, acquires, and delivers
what is due: in a warp every active lane takes part as one, and takes the fault of the lowest command that it covers (R108). -/
def execWaitt (g : Guard) (cls : BitVec 2) (n : WaitN) (s : State) : Host.Outcome State Fault Refusal :=
  let os : List Opnd := match n with | .imm _ => [] | .src a => [a.w2]
  issue (.waitt g cls n) g s fun c s =>
    let l := Mask.lowest c.act
    match s.ready c l os [] [] with
    | .wait k => s.waitFor c k
    | .fault x ue t => s.faultAll c x t ue
    | .due d => let f := dueLFault l d; s.faultAll c f.cause f.tval 0 f.due
    | .ok =>
      let v : DWord := match n with | .imm i => i.setWidth 64 | .src a => c.value l a.w2
      let k := Fin.ofNat 4 cls.toNat
      if c.a.issued[k].toNat < v.toNat then s.faultAll c 0x58 0
      else if c.a.tl[k].toNat < v.toNat then
        if c.a.kind == .codelet then s.faultAll c 0x18 0 else s.waitFor c .waitt
      else
        match c.a.dueAt fun d => d.cls == cls.toNat && decide (d.num.toNat ≤ v.toNat) with
        | none => s.completeWith c fun s => (s.consumeOps c l os).liftPath c.uid l (c.a.timeUpTo cls.toNat v)
        | some d => let f := dueLFault l d; s.faultAll c f.cause f.tval 0 f.due

end Sys2Proof.Machine
end

