-- ==== Sys2Proof/Machine/Tiles.lean ====
section
/-! DEFINITION. Tiles, accumulators and the matrix pipeline order (11_isa_tiles.md R241-R267): descriptors, the hazard rules,
tile loads and stores, matrix products, cell programs, accumulators out and in, save, restore and `TWAIT`. -/

namespace Sys2Proof.Machine

/-! ### Tile state (R241-R243) -/

/-- The tile state of a core after reset (R241). -/
def Tiles.fresh (core : CoreId) : Tiles := ⟨core, Vector.replicate 8 [], Vector.replicate 4 [], Vector.replicate 8 0, 0, 0, 0⟩

/-- The tile state of a core. -/
def State.tilesOf (s : State) (core : CoreId) : Tiles := (s.tiles.find? (·.core == core)).getD (Tiles.fresh core)

/-- Replacing the tile state of a core. -/
def State.setTiles (s : State) (x : Tiles) : State := { s with tiles := s.tiles.filter (·.core != x.core) ++ [x] }

/-- A tile's words. -/
def Tiles.tile (x : Tiles) (k : Nat) : Sparse Word := x.t[Fin.ofNat 8 k]
/-- An accumulator's words. -/
def Tiles.accum (x : Tiles) (k : Nat) : Sparse Word := x.acc[Fin.ofNat 4 k]
/-- A descriptor. -/
def Tiles.desc (x : Tiles) (k : Nat) : DWord := x.td[Fin.ofNat 8 k]

/-- Writing a tile: it is held from now on (R266); `bad` where the result is poisoned, `whole` where nothing of the old
value is left (19_traps.md R429). -/
def Tiles.putTile (x : Tiles) (k : Nat) (v : Sparse Word) (bad whole : Bool) : Tiles :=
  { x with t := x.t.set (Fin.ofNat 8 k).val v (Fin.ofNat 8 k).isLt, held := setBit x.held (k % 8) true,
           bad := setBit x.bad (k % 8) (bad || (!whole && x.bad.getLsbD (k % 8))) }

/-- Writing an accumulator. -/
def Tiles.putAcc (x : Tiles) (k : Nat) (v : Sparse Word) (bad whole : Bool) : Tiles :=
  { x with acc := x.acc.set (Fin.ofNat 4 k).val v (Fin.ofNat 4 k).isLt, held := setBit x.held (8 + k % 4) true,
           bad := setBit x.bad (8 + k % 4) (bad || (!whole && x.bad.getLsbD (8 + k % 4))) }

/-- FMT of a descriptor (R242). -/
def tdFmt (td : DWord) : Nat := (td.extractLsb' 0 4).toNat
/-- ROWS. -/
def tdRows (td : DWord) : Nat := (td.extractLsb' 8 8).toNat
/-- RBYTES. -/
def tdBytes (td : DWord) : Nat := (td.extractLsb' 16 9).toNat

/-- A descriptor without its reserved bits, which a write and a restore discard (00_scope.md R9, 06_registers.md R133). -/
def tdFields (v : DWord) : DWord := v &&& 0x1FFFF0F

/-- A descriptor that R242 calls valid. -/
def tdOk (td : DWord) : Bool :=
  tdFields td == 0 || (decide (1 ≤ tdFmt td ∧ tdFmt td ≤ 0xC)
    && decide (4 ≤ tdBytes td ∧ tdBytes td ≤ 384 ∧ tdBytes td % 4 = 0) && decide (1 ≤ tdRows td ∧ tdRows td ≤ 128))

/-- The element type of a format (R243); none for unconfigured, `.ue5m3` and reserved codes. -/
def fmtTy (f : Nat) : Option Ty :=
  [none, some .e4m3, some .e5m2, some .e2m1, some .i8, some .n8, some .i4, some .n4, some .bf16, some .f16, some .f32,
    some .i32].getD f none

/-- The type of a descriptor's elements. -/
def tdTy (td : DWord) : Option Ty := fmtTy (tdFmt td)

/-- Elements in a row (R243). -/
def tdK (td : DWord) : Nat := tdBytes td * 8 / (match tdTy td with | some t => t.width | none => 8)

/-- A word of a tile. -/
def tileWord (t : Sparse Word) (row w : Nat) : Word := sget 0 (row * 96 + w) t

/-- The bits of element `i` of a row (R243). -/
def tileElem (t : Sparse Word) (ty : Ty) (row i : Nat) : Nat :=
  let b := i * ty.width
  elem ty (tileWord t row (b / 32)).toNat (b % 32 / ty.width)

/-- A byte of a tile's row. -/
def tileByte (t : Sparse Word) (row j : Nat) : Byte := (tileWord t row (j / 4)).extractLsb' (8 * (j % 4)) 8

/-- The first bytes of a row. -/
def tileRow (t : Sparse Word) (row n : Nat) : List Byte := (List.range n).map (tileByte t row)

/-- Writing words of a row from a word offset. -/
def putTileWords (t : Sparse Word) (row w : Nat) (ws : List Word) : Sparse Word :=
  ws.zipIdx.foldl (fun t x => sput 0 (row * 96 + w + x.2) x.1 t) t

/-- Writing the first bytes of rows, from row 0. -/
def putTileRows (t : Sparse Word) (rows : List (List Byte)) : Sparse Word :=
  rows.zipIdx.foldl (fun t x => putTileWords t x.2 0 (wordsOf x.1)) t

/-- A word of an accumulator. -/
def accWord (a : Sparse Word) (m n : Nat) : Word := sget 0 (m * 128 + n) a

/-! ### Matrix sums (R256, R257; 07_number_formats.md R138, R149-R151) -/

/-- The value of an element of a block with a scale (R138). -/
def scaledElem (t : Ty) (scale : Nat) (bits : Nat) : FV :=
  if scale = 0 then .fin false 0 0 else if scale = 0xFF then .nan false else decodeF t bits

/-- The factor of a scale: those of 0x00 and 0xFF are in the elements. -/
def scaleFactor (scale : Nat) : Dy := if scale = 0 ∨ scale = 0xFF then ⟨1, 0⟩ else scaleVal scale

/-- One block into an accumulator word; the scales where the product is scaled. -/
def blockInto (ta tb : Ty) (sc : Option (Nat × Nat)) (xs : List (Nat × Nat)) (acc : Word) : Word × BitVec 6 :=
  let isum := xs.foldl (fun s x => s + Ty.intOf ta x.1 * Ty.intOf tb x.2) (0 : Int)
  match sc with
  | none =>
    if ta.isFloat then
      let r := accF acc.toNat (blockX (xs.map fun x => (decodeF ta x.1, decodeF tb x.2)))
      (BitVec.ofNat 32 r.bits, r.flags)
    else accI acc isum
  | some (a, b) =>
    let x : XR :=
      if ta.isFloat then blockX (xs.map fun x => (scaledElem ta a x.1, scaledElem tb b x.2))
      else if a = 0xFF ∨ b = 0xFF then .nan false
      else if a = 0 ∨ b = 0 then .zero false
      else (⟨isum, 0⟩ : Dy).out false
    let r := accF acc.toNat (scaleX x ((scaleFactor a).mul (scaleFactor b)))
    (BitVec.ofNat 32 r.bits, r.flags)

/-- The sum of R149 for row m of A and row n of B. -/
def rowSum (ta tb : Ty) (k : Nat) (a b : Sparse Word) (scales : Option (Sparse Word × Sparse Word)) (m n : Nat) (old : Word) :
    Word × BitVec 6 :=
  (List.range ((k + 7) / 8)).foldl (fun (r : Word × BitVec 6) j =>
    let xs := (List.range (min 8 (k - 8 * j))).map fun i => (tileElem a ta m (8 * j + i), tileElem b tb n (8 * j + i))
    let sc := scales.map fun x => ((tileByte x.1 m j).toNat, (tileByte x.2 n j).toNat)
    let q := blockInto ta tb sc xs r.1
    (q.1, r.2 ||| q.2)) (old, 0)

/-- A region of an accumulator rewritten word by word from its old words; the flags. -/
def accRegion (a : Sparse Word) (m0 n0 m n : Nat) (f : Nat → Nat → Word → Word × BitVec 6) : Sparse Word × BitVec 6 :=
  ((List.range m).flatMap fun i => (List.range n).map fun j => (i, j)).foldl (fun (r : Sparse Word × BitVec 6) x =>
    let q := f x.1 x.2 (accWord r.1 (m0 + x.1) (n0 + x.2))
    (sput 0 ((m0 + x.1) * 128 + n0 + x.2) q.1 r.1, r.2 ||| q.2)) (a, 0)

/-! ### Cell programs (R259-R261) -/

/-- An operation of a cell program. -/
structure CellOp where
  op : Nat
  int : Bool
  dst : Nat
  s1 : Nat
  s2 : Nat
  deriving DecidableEq, Repr

/-- Operation k of a program, in bits. -/
def cellBits (p : DWord) (k : Nat) : BitVec 16 := p.extractLsb' (16 * k) 16

/-- The fields of an operation. -/
def CellOp.of (b : BitVec 16) : CellOp :=
  ⟨(b.extractLsb' 12 4).toNat, b.getLsbD 11, (b.extractLsb' 8 3).toNat, (b.extractLsb' 5 3).toNat, (b.extractLsb' 2 3).toNat⟩

/-- The operations before the first end. -/
def cellOps (p : DWord) : List (BitVec 16) := ((List.range 4).map (cellBits p)).takeWhile fun b => b.extractLsb' 12 4 != 0

/-- A program that R259 does not call malformed. -/
def cellOk (p : DWord) : Bool :=
  let n := (cellOps p).length
  decide (0 < n) && ((List.range (4 - n)).all fun i => cellBits p (n + i) == 0)
    && (cellOps p).all fun b =>
      let o := CellOp.of b
      decide (o.op ≤ 9) && (o.dst == 0 || o.dst == 3 || o.dst == 4) && o.s1 != 7 && o.s2 != 7 && b.extractLsb' 0 2 == 0

/-- What a K step of a program works on: state, a, b, t0, t1, the selection bit, the flags. -/
structure CellSt where
  state : Word
  a : Word
  b : Word
  t0 : Word
  t1 : Word
  c : Bool
  flags : BitVec 6
  deriving DecidableEq, Repr

/-- A source (R259); source k is the step's number, as binary32 where INT = 0. -/
def CellSt.src (x : CellSt) (int : Bool) (k : Nat) (n : Nat) : Word :=
  match n with
  | 0 => x.state
  | 1 => x.a
  | 2 => x.b
  | 3 => x.t0
  | 4 => x.t1
  | 5 => if int then BitVec.ofNat 32 k else BitVec.ofNat 32 (convert .f32 .i32 .ne false k).bits
  | _ => 0

/-- min and max: the result, the selection bit, the flags (R261). -/
def cellMinMax (int max : Bool) (x y : Word) : Word × Bool × BitVec 6 :=
  if int then
    let c := if max then !decide (x.toInt < y.toInt) else !decide (y.toInt < x.toInt)
    (if c then x else y, c, 0)
  else
    let fx := decodeF .f32 x.toNat
    let fy := decodeF .f32 y.toNat
    let r := minmaxF .f32 max x.toNat y.toNat
    let c := if fx.isNaN then fy.isNaN else fy.isNaN || !(if max then fx.less fy else fy.less fx)
    (BitVec.ofNat 32 r.bits, c, r.flags)

/-- One operation of a program. -/
def CellSt.step (k : Nat) (x : CellSt) (o : CellOp) : CellSt :=
  let p := x.src o.int k o.s1
  let q := x.src o.int k o.s2
  let fl (r : FRes) : Word × Bool × BitVec 6 := (BitVec.ofNat 32 r.bits, x.c, r.flags)
  let r : Word × Bool × BitVec 6 :=
    match o.op with
    | 1 => if o.int then (p + q, x.c, 0) else fl (faddR .ne false p.toNat q.toNat)
    | 2 => if o.int then (p - q, x.c, 0) else fl (fsubR .ne false p.toNat q.toNat)
    | 3 => if o.int then (p * q, x.c, 0) else fl (fmulR .ne false p.toNat q.toNat)
    | 4 => cellMinMax o.int false p q
    | 5 => cellMinMax o.int true p q
    | 6 => (p &&& q, x.c, 0)
    | 7 => (p ||| q, x.c, 0)
    | 8 => (p ^^^ q, x.c, 0)
    | _ => (if x.c then p else q, x.c, 0)
  let y := { x with c := r.2.1, flags := x.flags ||| r.2.2 }
  if o.dst = 0 then { y with state := r.1 } else if o.dst = 3 then { y with t0 := r.1 } else { y with t1 := r.1 }

/-- An element widened to a word (R261): a float to binary32, an integer to int32; the flags of the conversion, which a
signalling NaN sets (07_number_formats.md R139; log entry 8). -/
def widen (t : Ty) (bits : Nat) : Word × BitVec 6 :=
  if t = .f32 then (BitVec.ofNat 32 bits, 0)
  else if t.isFloat then let r := convert .f32 t .ne false bits; (BitVec.ofNat 32 r.bits, r.flags)
  else (BitVec.ofInt 32 (Ty.intOf t bits), 0)

/-- An accumulator word after a program (R261). -/
def cellRun (prog : DWord) (ta tb : Ty) (k : Nat) (a b : Sparse Word) (m n : Nat) (old : Word) : Word × BitVec 6 :=
  let ops := (cellOps prog).map CellOp.of
  (List.range k).foldl (fun (r : Word × BitVec 6) i =>
    let p := widen ta (tileElem a ta m i)
    let q := widen tb (tileElem b tb n i)
    let x := ops.foldl (CellSt.step i) ⟨r.1, p.1, q.1, 0, 0, false, p.2 ||| q.2⟩
    (x.state, r.2 ||| x.flags)) (old, 0)

/-! ### Matrix pipeline order (R246) -/

/-- Every tile and accumulator; accumulator a is 8 + a. -/
def allTileRegs : List Nat := List.range 12

/-- What an instruction still has to read. -/
def MKind.reads : MKind → List Nat
  | .mma a x y .. | .mmc a x y .. => [8 + a, x, y]
  | .mmas a x y p q .. => [8 + a, x, y, p, q]
  | .accst a .. => [8 + a]
  | .acccvt _ a .. => [8 + a]
  | .accsend a _ _ _ m n _ _ _ _ sent _ => if m * n ≤ sent then [] else [8 + a]
  | .tsave .. => allTileRegs
  | .tstore t _ => [t]
  | _ => []

/-- What an instruction has to write. -/
def MKind.writes : MKind → List Nat
  | .tpack t .. | .tzero t | .acccvt t .. | .tload t _ => [t]
  | .accz a | .mma a .. | .mmas a .. | .mmc a .. | .accld a .. => [8 + a]
  | .trest _ => allTileRegs
  | _ => []

/-- A `TUNPK` still waits: its path stands at it. -/
def State.unpacking (s : State) (u : Unpack) : Bool :=
  match (s.agent? u.uid).bind (·.slot u.slotB) with
  | some p => p.pc == u.pc && p.wait.isSome
  | none => false

/-- An earlier instruction of the core stands in the way (the table of R246). -/
def State.hazard (s : State) (m : MOp) : Bool :=
  (s.unpacks.any fun u => decide (u.id < m.id) && u.core == m.core && m.kind.writes.contains u.tile && s.unpacking u)
  || s.mops.any fun e => decide (e.id < m.id) && e.core == m.core &&
    (e.kind.writes.any (fun r => (m.kind.reads ++ m.kind.writes).contains r) || e.kind.reads.any (fun r => m.kind.writes.contains r))

/-- An instruction before a number still writes a tile of a core. -/
def State.tileWriter (s : State) (core : CoreId) (t before : Nat) : Bool :=
  s.mops.any fun e => decide (e.id < before) && e.core == core && e.kind.writes.contains t

/-- A tile instruction issues: it takes its place in the order. -/
def State.queueMop (s : State) (c : Ctx) (l : Nat) (k : MKind) : State :=
  let r := s.touch c.uid l
  { r.1 with mops := r.1.mops ++ [⟨r.1.nextId, c.uid, c.a.place.coreId, c.p.priv, c.a.job, l, r.2, k, false, [], 0⟩],
             nextId := r.1.nextId + 1 }

/-! ### Instructions that only the warp's state holds up (R245) -/

/-- An instruction that checks its tiles at issue and takes its place in the order. -/
def tileExec (os : List Opnd) (check : Tiles → LaneIn → Except (BitVec 8) MKind) (c : Ctx) (s : State) : State :=
  onceExec os [] (fun c s _ x =>
      match check (s.tilesOf c.a.place.coreId) x with
      | .error e => (s, .fault e 0 0)
      | .ok k => (s, .ok k))
    (fun c s l k => s.queueMop c l k) c s

/-- Writing a descriptor, in matrix pipeline order (R252): malformed is cause 0x60. -/
def State.writeTd (s : State) (core : CoreId) (k : Nat) (v : DWord) : Except (BitVec 8) State :=
  let x := s.tilesOf core
  if tdOk v then .ok (s.setTiles { x with td := x.td.set (Fin.ofNat 8 k).val (tdFields v) (Fin.ofNat 8 k).isLt }) else .error 0x60

/-- Writing `CELLPROG` (R260): malformed is cause 0x63. -/
def State.writeProg (s : State) (core : CoreId) (v : DWord) : Except (BitVec 8) State :=
  if cellOk v then .ok (s.setTiles { s.tilesOf core with prog := v }) else .error 0x63

/-- `TCFG` (R252). -/
def execTcfg (g : Guard) (t : TReg) (fmt : BitVec 4) (rows1 : BitVec 7) (rb : BitVec 7) (s : State) :
    Host.Outcome State Fault Refusal :=
  issue (.tcfg g t fmt rows1 rb) g s (onceExec [] []
    (fun c s _ _ =>
      let v : DWord := if fmt = 0 then 0
        else BitVec.ofNat 64 ((rb.toNat + 1) * 4 * 65536 + (rows1.toNat + 1) * 256 + fmt.toNat)
      match s.writeTd c.a.place.coreId t.toNat v with
      | .error e => (s, .fault e 0 0)
      | .ok _ => (s, .ok v))
    (fun c s _ v => (s.writeTd c.a.place.coreId t.toNat v).toOption.getD s))

/-- `CELLP` (R260). -/
def execCellp (g : Guard) (a : Src) (s : State) : Host.Outcome State Fault Refusal :=
  issue (.cellp g a) g s (onceExec [a.w2] []
    (fun c s _ x =>
      match s.writeProg c.a.place.coreId (x.v 0) with
      | .error e => (s, .fault e 0 0)
      | .ok _ => (s, .ok (x.v 0)))
    (fun c s _ v => (s.writeProg c.a.place.coreId v).toOption.getD s))

/-- `TZERO` (R253). -/
def execTzero (g : Guard) (t : TReg) (s : State) : Host.Outcome State Fault Refusal :=
  issue (.tzero g t) g s (tileExec [] fun _ _ => .ok (.tzero t.toNat))

/-- `ACCZ` (R253). -/
def execAccz (g : Guard) (acc : AccReg) (s : State) : Host.Outcome State Fault Refusal :=
  issue (.accz g acc) g s (tileExec [] fun _ _ => .ok (.accz acc.toNat))

/-! ### TPACK, TUNPK (R254) -/

/-- The check of the tile's shape: the cause. -/
def packCheck (td : DWord) (m : Mask) (row0 w n : Nat) : Option (BitVec 8) :=
  if td = 0 then some 0x61
  else if (Mask.list m).any fun l => decide (tdRows td ≤ row0 + l ∨ tdBytes td < 4 * (w + n)) then some 0x62
  else none

/-- The lanes together: a cause is taken by all of them, a wait holds all of them (R245). -/
def lanesExec (os : List Opnd) (ds : List GReg) (k : Ctx → State → State) (c : Ctx) (s : State) : State :=
  let st := s.stand c os [] ds
  match lowestFaults st.faults, st.wait with
  | f :: _, _ => s.faultAll c f.cause f.tval f.ue f.due
  | [], some w => s.waitFor c w
  | [], none => k c s

/-- `TPACK`: the sources are read at issue. -/
def execTpack (g : Guard) (wc : WordCount) (t : TReg) (a : Src) (row0 : BitVec 7) (woff : BitVec 9) (s : State) :
    Host.Outcome State Fault Refusal :=
  let os := (List.range wc.n).map fun k => (Src.plus a k).w1
  issue (.tpack g wc t a row0 woff) g s (lanesExec os [] fun c s =>
    match packCheck ((s.tilesOf c.a.place.coreId).desc t.toNat) c.act row0.toNat woff.toNat wc.n with
    | some e => s.faultAll c e 0
    | none =>
      let ws := (Mask.list c.act).map fun l => (row0.toNat + l, os.map fun o => lo32 (c.value l o))
      s.completeWith c fun s => ((Mask.list c.act).foldl (fun s l => s.consumeOps c l os) s).queueMop c (Mask.lowest c.act)
        (.tpack t.toNat woff.toNat ws))

/-- A `TUNPK` whose earlier writers are done reads its tile; poison of the tile poisons the destinations and is due at the next
`TWAIT` (19_traps.md R429). -/
def State.unpack (s : State) (c : Ctx) (ds : List GReg) (t row0 woff : Nat) : State :=
  let x := s.tilesOf c.a.place.coreId
  let bad := x.bad.getLsbD t
  let s := (Mask.list c.act).foldl (fun s l => s.updLane c.uid l fun ln => ds.zipIdx.foldl (fun ln y =>
    let r := physG c.rrb y.1
    let ln := ln.setReg r (tileWord (x.tile t) (row0 + l) (woff + y.2))
    if bad then ln.poison r else ln) ln) s
  if bad then { s with mdone := s.mdone ++ [⟨s.nextId, c.uid, true⟩], nextId := s.nextId + 1 } else s

/-- `TUNPK`: it is checked at issue, takes its place in the order, and waits there for the tile's earlier writers. -/
def execTunpk (g : Guard) (wc : WordCount) (d : GReg) (t : TReg) (row0 : BitVec 7) (woff : BitVec 9) (s : State) :
    Host.Outcome State Fault Refusal :=
  let ds := (List.range wc.n).map fun k => d + BitVec.ofNat 6 k
  issue (.tunpk g wc d t row0 woff) g s (lanesExec [] ds fun c s =>
    let core := c.a.place.coreId
    let here (u : Unpack) : Bool := u.uid == c.uid && u.slotB == c.b
    let go (s : State) : State :=
      let s : State := { s with unpacks := s.unpacks.filter fun u => !here u }
      s.completeWith c fun s => s.unpack c ds t.toNat row0.toNat woff.toNat
    match (if c.p.wait.isSome then s.unpacks.find? fun u => here u && u.pc == c.p.pc else none) with
    | some u => if s.tileWriter core t.toNat u.id then s.waitFor c .order else go s
    | none =>
      match packCheck ((s.tilesOf core).desc t.toNat) c.act row0.toNat woff.toNat wc.n with
      | some e => s.faultAll c e 0
      | none =>
        if s.tileWriter core t.toNat s.nextId then
          ({ s with unpacks := (s.unpacks.filter fun u => !here u) ++ [⟨s.nextId, c.uid, core, c.b, c.p.pc, t.toNat⟩]
                    nextId := s.nextId + 1 } : State).waitFor c .order
        else go s)

/-! ### Matrix products -/

/-- The pairs of formats that `MMA` accepts (R256). -/
def mmaPair (a b : Ty) : Bool :=
  match a, b with
  | .e4m3, .e4m3 | .e4m3, .e5m2 | .e5m2, .e4m3 | .e5m2, .e5m2 => true
  | .e2m1, .e2m1 | .bf16, .bf16 | .f16, .f16 => true
  | .i8, .i8 | .i8, .n8 | .n8, .i8 | .n8, .n8 => true
  | .i4, .i4 | .i4, .n4 | .n4, .i4 | .n4, .n4 => true
  | _, _ => false

/-- The pairs that `MMAS` accepts (R257). -/
def mmasPair (a b : Ty) : Bool :=
  match a, b with
  | .e4m3, .e4m3 | .e4m3, .e5m2 | .e5m2, .e4m3 | .e5m2, .e5m2 | .e2m1, .e2m1 | .i4, .i4 => true
  | _, _ => false

/-- The shape of a product fits its accumulator (R256). -/
def shapeOk (tda tdb : DWord) (m0 n0 : Nat) : Bool :=
  decide (tdRows tda ≤ 64 ∧ m0 + tdRows tda ≤ 64 ∧ n0 + tdRows tdb ≤ 128)

/-- The two types of two descriptors, if both have one. -/
def twoTys (tda tdb : DWord) : Option (Ty × Ty) :=
  match tdTy tda, tdTy tdb with
  | some a, some b => some (a, b)
  | _, _ => none

/-- The check of `MMA`. -/
def mmaCheck (tda tdb : DWord) (m0 n0 : Nat) : Bool :=
  (match twoTys tda tdb with | some (a, b) => mmaPair a b | none => false) && tdBytes tda == tdBytes tdb
    && shapeOk tda tdb m0 n0

/-- `MMA` (R256). -/
def execMma (g : Guard) (acc : AccReg) (ta tb : TReg) (m0 : BitVec 6) (n0 : BitVec 7) (s : State) :
    Host.Outcome State Fault Refusal :=
  issue (.mma g acc ta tb m0 n0) g s (tileExec [] fun x _ =>
    let a := x.desc ta.toNat
    let b := x.desc tb.toNat
    if mmaCheck a b m0.toNat n0.toNat then .ok (.mma acc.toNat ta.toNat tb.toNat a b m0.toNat n0.toNat) else .error 0x61)

/-- `MMAS` (R257). -/
def execMmas (g : Guard) (acc : AccReg) (ta tb sa sb : TReg) (m0 : BitVec 6) (n0 : BitVec 7) (s : State) :
    Host.Outcome State Fault Refusal :=
  issue (.mmas g acc ta tb sa sb m0 n0) g s (tileExec [] fun x _ =>
    let a := x.desc ta.toNat
    let b := x.desc tb.toNat
    let p := x.desc sa.toNat
    let q := x.desc sb.toNat
    let blocks := (tdK a + 7) / 8
    let ok := (match twoTys a b with | some (u, v) => mmasPair u v | none => false) && mmaCheck a b m0.toNat n0.toNat
      && tdFmt p == 0xC && tdFmt q == 0xC && tdRows p == tdRows a && tdRows q == tdRows b
      && decide (blocks ≤ tdBytes p ∧ blocks ≤ tdBytes q)
      && sa != ta && sa != tb && sb != ta && sb != tb
    if ok then .ok (.mmas acc.toNat ta.toNat tb.toNat sa.toNat sb.toNat a b m0.toNat n0.toNat) else .error 0x61)

/-- `MMC` (R261). -/
def execMmc (g : Guard) (acc : AccReg) (ta tb : TReg) (m0 : BitVec 6) (n0 : BitVec 7) (s : State) :
    Host.Outcome State Fault Refusal :=
  issue (.mmc g acc ta tb m0 n0) g s (tileExec [] fun x _ =>
    let a := x.desc ta.toNat
    let b := x.desc tb.toNat
    if cellOk x.prog = false then .error 0x63
    else if (twoTys a b).isNone || tdK a != tdK b || !shapeOk a b m0.toNat n0.toNat then .error 0x61
    else .ok (.mmc acc.toNat ta.toNat tb.toNat a b x.prog m0.toNat n0.toNat))

/-- `ACCCVT` (R263). -/
def execAcccvt (g : Guard) (sat sint : Bool) (t : TReg) (acc : AccReg) (m0 : BitVec 6) (n0 : BitVec 7) (s : State) :
    Host.Outcome State Fault Refusal :=
  issue (.acccvt g sat sint t acc m0 n0) g s (tileExec [] fun x _ =>
    let td := x.desc t.toNat
    if (tdTy td).isNone || decide (64 < m0.toNat + tdRows td ∨ 128 < n0.toNat + tdK td) then .error 0x61
    else .ok (.acccvt t.toNat acc.toNat td sat sint m0.toNat n0.toNat))

/-- An accumulator word in an element's type (R263, R264): a word whose type and interpretation match is copied. -/
def accElem (ty : Ty) (sat sint : Bool) (w : Word) : FRes :=
  if (sint && ty == .i32) || (!sint && ty == .f32) then ⟨w.toNat, 0⟩
  else convert ty (if sint then .i32 else .f32) .ne sat w.toNat

/-- An accumulator word converted by `ACCCVT`. -/
def cvtElem (ty : Ty) (sat sint : Bool) (w : Word) : FRes := convert ty (if sint then .i32 else .f32) .ne sat w.toNat

/-- The bytes of a row of converted elements, and the flags. -/
def cvtRow (ty : Ty) (rs : List FRes) : List Byte × BitVec 6 :=
  (if ty.width = 4 then packCodes ty (rs.map (·.bits)) else rs.flatMap fun r => toBytes (ty.width / 8) r.bits,
   rs.foldl (fun f r => f ||| r.flags) 0)

/-! ### The addresses of a matrix instruction (R248) -/

/-- The places of an access with their virtual addresses. -/
def placed (va : DWord) : List Seg → List (DWord × Seg)
  | [] => []
  | g :: gs =>
    let n := match g with | .own _ n => n | .remote _ _ n => n | .mem _ n _ => n
    (va, g) :: placed (va + BitVec.ofNat 64 n) gs

/-- Checking some ranges in order. -/
def State.rowsCheck (c : Ctx) (h : How) : State → List (DWord × Nat) → State × Chk (List (List (DWord × Seg)))
  | s, [] => (s, .ok [])
  | s, (va, n) :: rest =>
    match s.placeCheck c h va n with
    | (s, .fault x t u) => (s, .fault x t u)
    | (s, .due d) => (s, .due d)
    | (s, .wait k) =>
      match State.rowsCheck c h s rest with
      | (s, _) => (s, .wait k)
    | (s, .ok segs) => chkThen (State.rowsCheck c h s rest) fun s r => (s, .ok (placed va segs :: r))

/-- An address in translated memory by its class (01_main_memory.md R18). -/
def inTrans (va : DWord) : Bool := va.extractLsb' 48 8 != (0xFF : BitVec 8) && va.extractLsb' 47 9 != (0x1FF : BitVec 9)

/-- The class of the bytes of a tile record: 0x24 first, then translated memory only (R266). -/
def recordClass (va : DWord) : Option (BitVec 8) :=
  if va.toNat % 256 ≠ 0 then some 0x24
  else if va.extractLsb' 56 8 ≠ 0 then some 0x2A
  else if inTrans va = false then some 0x25
  else none

/-- The first part of a record that lies in no translated memory. -/
def recordOut (va : DWord) (n : Nat) : Option (DWord × BitVec 8) :=
  ((blocks (n / 65536 + 2) va n).find? fun b => b.1.extractLsb' 56 8 != 0 || !inTrans b.1).map fun b =>
    (b.1, if b.1.extractLsb' 56 8 = 0 then 0x25 else 0x2A)

/-- The size of a tile record (06_registers.md R132). -/
def recordSize : Nat := 0x80500

/-- The parts of a tile record: the head, the tiles, the accumulators, the tail. -/
def recordParts : List Nat := 0x100 :: List.replicate 8 0xC000 ++ List.replicate 4 0x8000 ++ [0x400]

/-- The ranges of the parts. -/
def partRanges (va : DWord) : List Nat → List (DWord × Nat)
  | [] => []
  | n :: ns => (va, n) :: partRanges (va + BitVec.ofNat 64 n) ns

/-! ### TLD, TST (R255) -/

/-- A tile load or store: a command of the lowest active lane, and its place in the order. -/
def tileCmd (load : Bool) (q : Bool) (lease : BitVec 3) (d : GReg) (t : TReg) (m : MemArg) (stride : Src) (c : Ctx) (s : State) :
    State :=
  onceExec [m.base.w2, stride.w1] [d, d + 1]
    (fun c s l x =>
      let td := (s.tilesOf c.a.place.coreId).desc t.toNat
      if td = 0 then (s, .fault 0x61 0 0)
      else chkThen (s.acqCheck c.uid) fun s _ =>
        (s, if s.cmdRoom { c with act := laneBit l } 3 then .ok (td, eaOf (x.v 0) m.off, (x.w 1).toInt) else .wait .order))
    (fun c s l b =>
      let mop := s.nextId
      let s := { s with nextId := mop + 1 }
      let cmd := s.nextId
      let s := if load then s.issueCmd c l 3 q d (.tld t.toNat b.2.1 b.2.2 b.1 lease.toNat mop)
        else s.issueCmd c l 3 q d (.tst t.toNat b.2.1 b.2.2 b.1 lease.toNat mop)
      { s with mops := s.mops ++ [⟨mop, c.uid, c.a.place.coreId, c.p.priv, c.a.job, l, 0,
                 if load then .tload t.toNat cmd else .tstore t.toNat cmd, false, [], 0⟩] }) c s

/-- `TLD`. -/
def execTld (g : Guard) (q : Bool) (lease : BitVec 3) (d : GReg) (t : TReg) (m : MemArg) (stride : Src) (s : State) :
    Host.Outcome State Fault Refusal :=
  issue (.tld g q lease d t m stride) g s (tileCmd true q lease d t m stride)

/-- `TST`. -/
def execTst (g : Guard) (q : Bool) (lease : BitVec 3) (d : GReg) (t : TReg) (m : MemArg) (stride : Src) (s : State) :
    Host.Outcome State Fault Refusal :=
  issue (.tst g q lease d t m stride) g s (tileCmd false q lease d t m stride)

/-- The place in the order that a command holds is given up once the command has finished. -/
def State.dropMopOf (s : State) (cmd : Nat) : State :=
  match s.cmds.find? (·.id == cmd) with
  | none => s
  | some c =>
    if c.phase.isFinished then
      { s with mops := s.mops.filter fun m => match m.kind with
          | .tload _ k | .tstore _ k => k != cmd
          | _ => true }
    else s

/-- The address of row i. -/
def rowAt (ea : DWord) (stride : Int) (i : Nat) : DWord := ea + BitVec.ofInt 64 (stride * i)

/-- The parts of a tile load: words of its rows, or 128 bytes of them. -/
def tloadParts (fine : Bool) (ea : DWord) (st : Int) (td : DWord) : List EPart :=
  (List.range (tdRows td)).flatMap fun i =>
    (cutOf fine 0 (tdBytes td)).map fun o =>
      ⟨some (rowAt ea st i + BitVec.ofNat 64 o.1, o.2), .tile i (o.1 / 4), none⟩

/-- `TILE_LOAD_EXECUTE`: the load reads memory part by part; once it has, or a fault has ended it, it writes its tile in matrix
pipeline order (R247). -/
def execTileLoadExecute (cmd : Nat) (s : State) : Host.Outcome State Fault Refusal :=
  .next ((s.runCmd cmd (fun o => match o with | .tld .. => true | _ => false) fun c s t =>
    match c.op, c.phase with
    | .tld _ ea st td cls _, .waiting =>
      let g := s.grain
      .ok g.2 t (.working ⟨cls, 0, none, false, tloadParts g.1 ea st td, [], none, [], [], []⟩)
    | .tld tile _ _ _ _ mop, .readPart ws k v =>
      match s.mops.find? (·.id == mop) with
      | none => .ok s t (.finished k v)
      | some m =>
        if s.hazard m then .ok s t c.phase
        else if ws.isEmpty then .ok s t (.finished k v)
        else
          let x := s.tilesOf c.core
          .ok (s.setTiles (x.putTile tile (ws.foldl (fun y w => putTileWords y w.1 w.2.1 [w.2.2]) (x.tile tile)) false false)) t
            (.finished k v)
    | _, ph => .ok s t ph).dropMopOf cmd)

/-- The rows that a tile store writes: their addresses and bytes. -/
def tstoreRows (x : Tiles) (tile : Nat) (ea : DWord) (st : Int) (td : DWord) : List (DWord × List Byte) :=
  (List.range (tdRows td)).map fun i => (rowAt ea st i, tileRow (x.tile tile) i (tdBytes td))

/-- The parts of a tile store. -/
def tstoreParts (fine : Bool) (bad : Bool) (rows : List (DWord × List Byte)) : List EPart :=
  rows.flatMap fun r => (cutOf fine r.1 r.2.length).map fun o =>
    ⟨none, .data (r.1 + BitVec.ofNat 64 o.1) ((r.2.drop o.1).take o.2) bad, none⟩

/-- `TILE_STORE_EXECUTE`: the store reads its tile in matrix pipeline order and writes memory part by part. -/
def execTileStoreExecute (cmd : Nat) (s : State) : Host.Outcome State Fault Refusal :=
  .next ((s.runCmd cmd (fun o => match o with | .tst .. => true | _ => false) fun c s t =>
    match c.op, c.phase with
    | .tst tile ea st td cls mop, .waiting =>
      match s.mops.find? (·.id == mop) with
      | none => .ok s t (.finished 0 0)
      | some m =>
        if s.hazard m then .ok s t c.phase
        else
          let x := s.tilesOf c.core
          let g := s.grain
          .ok g.2 t (.working ⟨0, cls, none, false, tstoreParts g.1 (x.bad.getLsbD tile) (tstoreRows x tile ea st td), [], none, [],
            (tstoreRows x tile ea st td).map fun r => (r.1, r.2.length), []⟩)
    | _, ph => .ok s t ph).dropMopOf cmd)

/-! ### ACCLD, ACCST, ACCSEND (R262-R265) -/

/-- The length of a place. -/
def Seg.len : Seg → Nat
  | .own _ n => n
  | .remote _ _ n => n
  | .mem _ n _ => n

/-- Part of a place. -/
def Seg.sub (g : Seg) (o n : Nat) : Seg :=
  match g with
  | .own off _ => .own (off + o) n
  | .remote c off _ => .remote c (off + o) n
  | .mem pa _ l => .mem (pa + o) n l

/-- The words of the places of a row. -/
def placeWords (r : List (DWord × Seg)) : List (DWord × Seg) :=
  r.flatMap fun x => (List.range (x.2.len / 4)).map fun i => (x.1 + BitVec.ofNat 64 (4 * i), x.2.sub (4 * i) 4)

/-- The first of some words in the device-register region whose register the unit may not touch (01_main_memory.md R14,
24_security_power_health.md R476). -/
def State.deniedReg (s : State) (c : Ctx) (xs : List (DWord × Seg)) : Option DWord :=
  (xs.find? fun x => match x.2 with
    | .mem pa _ _ => x.2.dev && !s.regAllowed c.who pa
    | _ => false).map (·.1)

/-- The check and the places of `ACCLD` and `ACCST`; their words are aligned 4-byte accesses, which the device registers take
(01_main_memory.md R14). -/
def accPlaces (load : Bool) (off : BitVec 16) (m0 n0 m n : Nat) (c : Ctx) (s : State) (x : LaneIn) :
    State × Chk (List (List (DWord × Seg))) :=
  let ea := eaOf (x.v 0) off
  let st := (x.w 1).toInt
  if 64 < m0 + m ∨ 128 < n0 + n then (s, .fault 0x61 0 0)
  else if ea.extractLsb' 56 8 ≠ 0 then (s, .fault 0x2A ea 0)
  else if ea.toNat % 4 ≠ 0 ∨ st % 4 ≠ 0 then (s, .fault 0x24 ea 0)
  else
    chkThen (State.rowsCheck c { need := if load then .rd else .wr, regOk := true } s
        ((List.range m).map fun i => (rowAt ea st i, 4 * n))) fun s rows =>
      (s, match s.deniedReg c (rows.flatMap placeWords) with
        | some va => .fault 0x28 va 0
        | none => .ok rows)

/-- `ACCLD` (R262). -/
def execAccld (g : Guard) (lease : BitVec 3) (acc : AccReg) (m : MemArg) (stride : Src) (m0 : BitVec 6) (n0 : BitVec 7)
    (m1 : BitVec 6) (n1 : BitVec 7) (s : State) : Host.Outcome State Fault Refusal :=
  issue (.accld g lease acc m stride m0 n0 m1 n1) g s (onceExec [m.base.w2, stride.w1] []
    (fun c s _ x => accPlaces true m.off m0.toNat n0.toNat (m1.toNat + 1) (n1.toNat + 1) c s x)
    (fun c s l r => s.queueMop c l (.accld acc.toNat r m0.toNat n0.toNat (m1.toNat + 1) (n1.toNat + 1) lease.toNat)))

/-- `ACCST` (R262). -/
def execAccst (g : Guard) (lease : BitVec 3) (acc : AccReg) (m : MemArg) (stride : Src) (m0 : BitVec 6) (n0 : BitVec 7)
    (m1 : BitVec 6) (n1 : BitVec 7) (s : State) : Host.Outcome State Fault Refusal :=
  issue (.accst g lease acc m stride m0 n0 m1 n1) g s (onceExec [m.base.w2, stride.w1] []
    (fun c s _ x => accPlaces false m.off m0.toNat n0.toNat (m1.toNat + 1) (n1.toNat + 1) c s x)
    (fun c s l r => s.queueMop c l (.accst acc.toNat r m0.toNat n0.toNat (m1.toNat + 1) (n1.toNat + 1) lease.toNat)))

/-- The lowest byte of a range, from an address in a local-store window on, that lies out of its store or in an area that user
mode may not touch (R19, R20, R76). -/
def lowestOut (core : CoreId) (priv : Priv) (va : DWord) (n : Nat) : Option DWord :=
  match storeAt core va with
  | none => some va
  | some (o, off) =>
    ([off, 0x50000, lsize o.core].find? fun b => decide (off ≤ b) && decide (b < off + n) && badOffset o.core b priv).map fun b =>
      va + BitVec.ofNat 64 (b - off)

/-- The checks of `ACCSEND` in the order of R265: the store, the offset of the data, the offset of the flag, or the cause with
its TVAL. -/
def sendCheck (s : State) (c : Ctx) (dst flag : DWord) (n : Nat) : Except (BitVec 8 × DWord) (CoreId × Nat × Nat) :=
  let core := c.a.place.coreId
  if dst.toNat % 4 ≠ 0 then .error (0x24, dst)
  else if flag.toNat % 4 ≠ 0 then .error (0x24, flag)
  else if !inWindow dst || !inWindow flag then .error (0x64, 0)
  else
    match lowestOut core c.p.priv dst n, lowestOut core c.p.priv flag 4 with
    | some v, _ => .error (0x25, v)
    | none, some v => .error (0x25, v)
    | none, none =>
      match classify s c.who dst, classify s c.who flag with
      | .error e, _ => .error (e, dst)
      | .ok _, .error e => .error (e, flag)
      | .ok _, .ok _ =>
        match storeAt core dst, storeAt core flag with
        | some (dc, doff), some (fc, foff) =>
          if dc ≠ fc then .error (0x64, 0)
          else if doff < foff + 4 ∧ foff < doff + n then .error (0x64, 0)
          else .ok (dc, doff, foff)
        | _, _ => .error (0x64, 0)

/-- `ACCSEND` (R264, R265). -/
def execAccsend (g : Guard) (ty : Ty) (sat sint : Bool) (acc : AccReg) (a b : Src) (v : Src3) (m1 : BitVec 6)
    (n1 : BitVec 7) (s : State) : Host.Outcome State Fault Refusal :=
  issue (.accsend g ty sat sint acc a b v m1 n1) g s (onceExec [a.w2, b.w2, v.src.w1] []
    (fun c s _ x =>
      let m := m1.toNat + 1
      let n := n1.toNat + 1
      match sendCheck s c (x.v 0) (x.v 1) (m * n * (ty.width / 8)) with
      | .error e => (s, .fault e.1 e.2 0)
      | .ok (core, doff, foff) =>
        chkThen (s.acqCheck c.uid) fun s _ =>
          (s, .ok (MKind.accsend acc.toNat ty sat sint m n core doff foff (x.w 2) 0 none)))
    (fun c s l k => s.queueMop c l k))

/-! ### TSAVE, TREST (R266; 06_registers.md R132) -/

/-- `TSAVE`: the descriptors and the program are those of its issue. -/
def execTsave (g : Guard) (lease : BitVec 3) (m : MemArg) (s : State) : Host.Outcome State Fault Refusal :=
  issue (.tsave g lease m) g s (onceExec [m.base.w2] []
    (fun c s _ x =>
      let va := eaOf (x.v 0) m.off
      match recordClass va with
      | some e => (s, .fault e va 0)
      | none =>
        match recordOut va recordSize with
        | some (b, e) =>
          chkThen (State.rowsCheck c { need := .wr } s [(va, (b - va).toNat)]) fun s _ => (s, .fault e b 0)
        | none => State.rowsCheck c { need := .wr } s (partRanges va recordParts))
    (fun c s l r =>
      let x := s.tilesOf c.a.place.coreId
      s.queueMop c l (.tsave r lease.toNat x.td.toList x.prog)))

/-- The checks on the bytes of a record (R266). -/
def tileRecordOk (bs : List Byte) : Bool :=
  ((List.range 8).all fun k => tdOk (dwAt bs (8 * k))) && (dwAt bs 0x40 == 0 || cellOk (dwAt bs 0x40))
    && (dwAt bs 0x48).extractLsb' 12 52 == 0 && ((bs.drop 0x50).take 176).all (· == 0) && (bs.drop 0x80100).all (· == 0)

/-- The words of some bytes as a sparse table. -/
def sparseWords (bs : List Byte) : Sparse Word := (wordsOf bs).zipIdx.filterMap fun x => if x.1 = 0 then none else some (x.2, x.1)

/-- `TREST`: the issuer is held until the record has been read and checked; descriptors and program are those of the
record for the instructions after it, tiles and accumulators in matrix pipeline order. -/
def execTrest (g : Guard) (lease : BitVec 3) (m : MemArg) (s : State) : Host.Outcome State Fault Refusal :=
  issue (.trest g lease m) g s (onceExec [m.base.w2] []
    (fun c s l x =>
      let va := eaOf (x.v 0) m.off
      let s1 : State × Chk Unit :=
        if (s.walkOf c.uid l).isSome then (s, .ok ())
        else
          match recordClass va with
          | some e => (s, .fault e va 0)
          | none =>
            match recordOut va recordSize with
            | some (b, e) =>
              chkThen (State.rowsCheck c { need := .rd } s [(va, (b - va).toNat)]) fun s _ => (s, .fault e b 0)
            | none => (s, .ok ())
      chkThen s1 fun s _ => chkThen (s.heldRead c l 256 va recordSize (some lease.toNat)) fun s bs =>
        (s, if tileRecordOk bs then .ok bs else .fault 0x19 0 0))
    (fun c s l bs =>
      let x := s.tilesOf c.a.place.coreId
      let s := s.setTiles { x with td := Vector.ofFn fun k : Fin 8 => tdFields (dwAt bs (8 * k.val)), prog := dwAt bs 0x40 }
      s.queueMop c l (.trest bs)))

/-! ### Performing (R246) -/

/-- A matrix instruction as an engine's client: its memory accesses go out in its name. -/
def MOp.asCmd (m : MOp) : Cmd :=
  ⟨m.id, m.uid, m.lane, m.core, m.job, m.priv, 3, 0, false, (0, 0), .tgenClose 0, m.time, .waiting, m.wins⟩

/-- Changing an entry of the order. -/
def State.updMop (s : State) (id : Nat) (f : MOp → MOp) : State :=
  { s with mops := s.mops.map fun m => if m.id = id then f m else m }

/-- An instruction is complete: its flags are ORed in (07_number_formats.md R147); `TWAIT` finds its time, its poison, and what the
scale-up window has not answered. -/
def State.finishMop (s : State) (m : MOp) (t : DWord) (flags : BitVec 6) (bad : Bool) : State :=
  let s := { (s.updAgent m.uid fun a => { a.orFlags flags with tileTime := tmax a.tileTime t }) with
    mops := s.mops.filter (·.id != m.id) }
  let s := s.tally m.core.cluster 0x04 1
  match s.agent? m.uid with
  | none => s
  | some a =>
    if a.status = .retired then s.retireIfEmpty a.uid
    else if (bad && !m.quiet) || s.cmdWin m.id then { s with mdone := s.mdone ++ [⟨m.id, m.uid, bad && !m.quiet⟩] }
    else s

/-- What an instruction that works on tile state alone does: the new tile state, the flags, poison. -/
def Tiles.perform (x : Tiles) : MKind → Option (Tiles × BitVec 6 × Bool)
  | .tpack t w ws =>
    some (x.putTile t (ws.foldl (fun v r => putTileWords v r.1 w r.2) (x.tile t)) false false, 0, false)
  | .tzero t => some (x.putTile t [] false true, 0, false)
  | .accz a => some (x.putAcc a [] false true, 0, false)
  | .mma a ta tb tda tdb m0 n0 =>
    match twoTys tda tdb with
    | none => none
    | some (p, q) =>
      let bad := x.bad.getLsbD ta || x.bad.getLsbD tb || x.bad.getLsbD (8 + a)
      let r := accRegion (x.accum a) m0 n0 (tdRows tda) (tdRows tdb)
        fun i j => rowSum p q (tdK tda) (x.tile ta) (x.tile tb) none i j
      some (x.putAcc a r.1 bad false, r.2, bad)
  | .mmas a ta tb sa sb tda tdb m0 n0 =>
    match twoTys tda tdb with
    | none => none
    | some (p, q) =>
      let bad := [ta, tb, sa, sb, 8 + a].any fun k => x.bad.getLsbD k
      let r := accRegion (x.accum a) m0 n0 (tdRows tda) (tdRows tdb)
        fun i j => rowSum p q (tdK tda) (x.tile ta) (x.tile tb) (some (x.tile sa, x.tile sb)) i j
      some (x.putAcc a r.1 bad false, r.2, bad)
  | .mmc a ta tb tda tdb prog m0 n0 =>
    match twoTys tda tdb with
    | none => none
    | some (p, q) =>
      let bad := x.bad.getLsbD ta || x.bad.getLsbD tb || x.bad.getLsbD (8 + a)
      let r := accRegion (x.accum a) m0 n0 (tdRows tda) (tdRows tdb)
        fun i j => cellRun prog p q (tdK tda) (x.tile ta) (x.tile tb) i j
      some (x.putAcc a r.1 bad false, r.2, bad)
  | .acccvt t a td sat sint m0 n0 =>
    match tdTy td with
    | none => none
    | some ty =>
      let bad := x.bad.getLsbD (8 + a)
      let rows := (List.range (tdRows td)).map fun m =>
        cvtRow ty ((List.range (tdK td)).map fun n => cvtElem ty sat sint (accWord (x.accum a) (m0 + m) (n0 + n)))
      some (x.putTile t (putTileRows (x.tile t) (rows.map (·.1))) bad false, rows.foldl (fun f r => f ||| r.2) 0, bad)
  | .trest bs =>
    some ({ x with t := Vector.ofFn fun k : Fin 8 => sparseWords ((bs.drop (0x100 + 0xC000 * k.val)).take 0xC000),
                   acc := Vector.ofFn fun a : Fin 4 => sparseWords ((bs.drop (0x60100 + 0x8000 * a.val)).take 0x8000),
                   held := (dwAt bs 0x48).extractLsb' 0 12, bad := 0 }, 0, false)
  | _ => none

/-- Reading the places of a row. -/
def readPlaces (c : Cmd) (cls : Nat) (r : List (DWord × Seg)) (s : State) (t : DWord) : EOut (List Byte) :=
  (eList (fun s t (x : DWord × Seg) => eReadSeg c cls x.1 x.2 s t) r s t).bind fun s t bss => .ok s t bss.flatten

/-- Writing the places of a row. -/
def writePlaces (c : Cmd) (cls : Nat) (bad : Bool) : List (DWord × Seg) → List Byte → State → DWord → EOut Unit
  | [], _, s, t => .ok s t ()
  | (va, g) :: rest, bs, s, t =>
    let n := g.len
    (eWriteSeg c cls va g (bs.take n) bad false s t).bind fun s t _ => writePlaces c cls bad rest (bs.drop n) s t

/-- Writing rows of words, row by row or word by word in an order that is a free choice: where rows meet, each word ends with one
of the values written to it (R262). -/
def writeRows (c : Cmd) (cls : Nat) (bad : Bool) (rows : List (List (DWord × Seg) × List Word)) (s : State) (t : DWord) :
    EOut Unit :=
  let bytes (ws : List Word) : List Byte := ws.flatMap fun w => toBytes 4 w.toNat
  let b := s.chooseNat 2
  if b.1 = 0 then (eList (fun s t r => writePlaces c cls bad r.1 (bytes r.2) s t) rows b.2 t).bind fun s t _ => .ok s t ()
  else
    anyOrder (fun s t r => writePlaces c cls bad [r.1] (bytes [r.2]) s t) (rows.flatMap fun r => (placeWords r.1).zip r.2) b.2 t

/-- The bytes of the parts of a tile record with their poison (06_registers.md R132). -/
def recordBytes (x : Tiles) (tds : List DWord) (prog : DWord) : List (List Byte × Bool) :=
  let head := tds.flatMap (fun d => toBytes 8 d.toNat) ++ toBytes 8 prog.toNat ++ toBytes 8 x.held.toNat ++ List.replicate 176 0
  [(head, false)]
    ++ (List.range 8).map (fun k => ((List.range 128).flatMap fun i => tileRow (x.tile k) i 384, x.bad.getLsbD k))
    ++ (List.range 4).map (fun a => ((List.range 8192).flatMap fun i => toBytes 4 (accWord (x.accum a) (i / 128) (i % 128)).toNat,
        x.bad.getLsbD (8 + a)))
    ++ [(List.replicate 1024 0, false)]

/-- The words that an `ACCLD` reads by the time that it meets poison, in an order of its own: row, column, value. -/
def accldWords (c : Cmd) (cls : Nat) : List (Nat × Nat × DWord × Seg) → State → DWord → EOut (List (Nat × Nat × Word))
  | [], s, t => .ok s t []
  | x :: xs, s, t =>
    match eReadSeg c cls x.2.2.1 x.2.2.2 s t with
    | .ok s t bs => (accldWords c cls xs s t).bind fun s t ws => .ok s t ((x.1, x.2.1, BitVec.ofNat 32 (ofBytes bs)) :: ws)
    | .fault s t _ _ => .ok s t []
    | .wait h => .wait h

/-- What an instruction that reaches memory does: whether it met poison. -/
def memMop (m : MOp) (x : Tiles) (s : State) (t : DWord) : EOut Bool :=
  let c := m.asCmd
  match m.kind with
  | .accld a rows m0 n0 _ _ cls =>
    match eList (fun s t r => readPlaces c cls r s t) rows s t with
    | .ok s t bss =>
      let v := bss.zipIdx.foldl (fun v r => (wordsOf r.1).zipIdx.foldl (fun v w =>
        sput 0 ((m0 + r.2) * 128 + n0 + w.2) w.1 v) v) (x.accum a)
      .ok (s.setTiles (x.putAcc a v false false)) t false
    | .fault .. =>
      let ws := rows.zipIdx.flatMap fun r => (placeWords r.1).zipIdx.map fun w => (r.2, w.2, w.1)
      let q := s.shuffle ws.length ws
      (accldWords c cls q.1 q.2 t).bind fun s t ws =>
        let v := ws.foldl (fun v w => sput 0 ((m0 + w.1) * 128 + n0 + w.2.1) w.2.2 v) (x.accum a)
        .ok (s.setTiles (if ws.isEmpty then x else x.putAcc a v false false)) t true
    | .wait h => .wait h
  | .accst a rows m0 n0 _ n cls =>
    let bad := x.bad.getLsbD (8 + a)
    (writeRows c cls bad (rows.zipIdx.map fun r => (r.1, (List.range n).map fun j => accWord (x.accum a) (m0 + r.2) (n0 + j))) s t).bind
      fun s t _ => .ok s t bad
  | .tsave parts cls tds prog =>
    (eList (fun s t (r : List (DWord × Seg) × (List Byte × Bool)) => writePlaces c cls r.2.2 r.1 r.2.1 s t)
      (parts.zip (recordBytes x tds prog)) s t).bind fun s t _ => .ok s t false
  | _ => .ok s t false

/-- Room for the next writes of an `ACCSEND`: none of them counts in the own store, and a warp holds at most 1,024 unacknowledged
(13_isa_return.md R289). -/
def State.sendRoom (s : State) (m : MOp) (dst : CoreId) (left : Nat) : Nat :=
  if dst = m.core then left
  else match s.agent? m.uid with
    | some a => min left (a.writeLimit - a.acks)
    | none => left

/-- A write of an `ACCSEND` goes out. -/
def State.sendMop (s : State) (m : MOp) (dst : CoreId) (off : Nat) (acc : LAcc) (rel bad : Bool) : State :=
  let counted := dst != m.core
  let s := { s with
    remotes := s.remotes ++ [(⟨s.nextId, m.uid, m.lane, m.core, dst, off, acc, .none, rel, false, false, m.time, bad, 0, false,
      counted, none, some m.id, [], []⟩ : Remote)],
    nextId := s.nextId + 1 }
  if counted then s.count m.uid else s

/-- Reading the accumulator of an `ACCSEND` from element `from_` on: elements go out as remote stores, one message each (R265). -/
def State.sendAcc (s : State) (m : MOp) (x : Tiles) (a : Nat) (ty : Ty) (sat sint : Bool) (cols : Nat) (dst : CoreId)
    (doff from_ n : Nat) : State × BitVec 6 :=
  let bad := x.bad.getLsbD (8 + a)
  let e := ty.width / 8
  (List.range n).foldl (fun (r : State × BitVec 6) i =>
    let k := from_ + i
    let v := accElem ty sat sint (accWord (x.accum a) (k / cols) (k % cols))
    (r.1.sendMop m dst (doff + k * e) (.store (toBytes e v.bits)) false bad, r.2 ||| v.flags)) (s, 0)

/-- The time at which a tile instruction runs: what its warp has done before it comes first (R262, 05_engines.md R104). -/
def State.mopTime (s : State) (m : MOp) : DWord :=
  match s.agent? m.uid with
  | some a => tmax m.time (a.pathTime m.lane)
  | none => m.time

/-- `MATRIX_EXECUTE`: a tile instruction is performed once no earlier one of its core stands in the way; one that reaches
memory after the issuer's earlier accesses; an `ACCSEND` sends as many elements as there is room for. -/
def execMatrixExecute (mop : Nat) (s : State) : Host.Outcome State Fault Refusal :=
  match s.mops.find? (·.id == mop) with
  | none => .next s
  | some m =>
    if s.hazard m then .next s
    else
      let x := s.tilesOf m.core
      match m.kind with
      | .tload .. | .tstore .. => .next s
      | .accsend a ty sat sint rows cols dst doff foff v sent _ =>
        let left := rows * cols - sent
        if left = 0 || !s.issuerReady m.uid m.id then .next s
        else
          let t := if sent = 0 then s.mopTime m else m.time
          let n := s.sendRoom m dst left
          let r := s.sendAcc { m with time := t } x a ty sat sint cols dst doff sent n
          let s := r.1.updMop m.id fun m =>
            { m with kind := .accsend a ty sat sint rows cols dst doff foff v (sent + n) none, time := t, flags := m.flags ||| r.2 }
          .next (if n = left && x.bad.getLsbD (8 + a) && !m.quiet then { s with mdone := s.mdone ++ [⟨m.id, m.uid, true⟩] } else s)
      | .accld .. | .accst .. | .tsave .. =>
        if !s.issuerReady m.uid m.id then .next s
        else
          match memMop m x s (s.mopTime m) with
          | .ok s t bad => .next (s.finishMop m t 0 bad)
          | .fault s t _ _ => .next (s.finishMop m t 0 true)
          | .wait h => .next (s.askHold m.asCmd h)
      | k =>
        match x.perform k with
        | some (x', f, bad) => .next ((s.setTiles x').finishMop m m.time f bad)
        | none => .next s

/-- `ACCSEND_FLAG` (R264): after every data write has been performed the flag word is set, as a release of the send's time, so
that an acquirer of the flag comes after the data (13_isa_return.md R291); the instruction completes when
that is acknowledged. -/
def execAccsendFlag (mop : Nat) (s : State) : Host.Outcome State Fault Refusal :=
  match s.mops.find? (·.id == mop) with
  | none => .next s
  | some m =>
    match m.kind with
    | .accsend a ty sat sint rows cols dst doff foff v sent none =>
      if sent < rows * cols || (s.remotes.any fun r => r.mop == some mop) || s.sendRoom m dst 1 = 0 then .next s
      else
        .next ((s.sendMop m dst foff (.setf false (v.setWidth 64)) true false).updMop mop fun m =>
          { m with kind := .accsend a ty sat sint rows cols dst doff foff v sent (some s.nextId) })
    | .accsend _ _ _ _ _ _ _ _ _ _ _ (some k) =>
      .next (if (s.remotes.any (·.id == k)) || (s.rreplies.any (·.id == k)) then s else s.finishMop m m.time m.flags false)
    | _ => .next s

/-! ### TWAIT (R267) -/

/-- Tile instructions of a unit, `TLD` and `TST` apart, that have not completed. -/
def State.tilesOpen (s : State) (uid : Nat) : Bool :=
  (s.mops.any fun m => m.uid == uid && (match m.kind with | .tload .. | .tstore .. => false | _ => true))
    || s.mdone.any fun d => d.uid == uid && s.cmdWin d.id

/-- `TWAIT`: it acquires the unit's completed tile instructions and delivers a cause 0x26 that is due. TVAL and UESRC are those of
tile state whatever the instruction met: DESIGN CHOICE, log entry 32. -/
def execTwait (g : Guard) (s : State) : Host.Outcome State Fault Refusal :=
  issue (.twait g) g s fun c s =>
    if s.tilesOpen c.uid then
      if c.a.kind == .codelet then s.faultAll c 0x18 0 else s.waitFor c .twait
    else
      if s.mdone.any fun d => d.uid == c.uid && d.bad then s.faultAll c 0x26 0 3 (some (5, 0))
      else s.completeWith c fun s => { s with mdone := s.mdone.filter (·.uid != c.uid) }.liftPath c.uid (Mask.lowest c.act) c.a.tileTime

end Sys2Proof.Machine
end

