-- ==== Sys2Proof/Machine/Waymark.lean ====
section
/-! DEFINITION. The Waymark units (12_waymark.md R268-R288): slots, handles, the checks, the proposal rule, save and load. -/

namespace Sys2Proof.Machine

/-! ### Slots and handles (R268-R271) -/

/-- A slot of a cluster's unit; closed with generation 0 until it is first opened. -/
def State.wmSlot (s : State) (cluster k : Nat) : WmSlot :=
  (s.wm.find? fun x => x.cluster == cluster && x.slot == k).getD ⟨cluster, k, false, 0, [], 0, 0, 0, 0, 0, 0⟩

/-- Replacing a slot. -/
def State.setWm (s : State) (x : WmSlot) : State :=
  { s with wm := s.wm.filter (fun y => !(y.cluster == x.cluster && y.slot == x.slot)) ++ [x] }

/-- The handle of a slot (R269). -/
def WmSlot.handle (x : WmSlot) : Word :=
  x.gen ++ (0 : BitVec 2) ++ BitVec.ofNat 6 x.cluster ++ (0 : BitVec 2) ++ BitVec.ofNat 6 x.slot

/-- The owner tag of a barrel traveller: its home slot (R270). -/
def placeTag (p : Place) : Word :=
  ((0 : BitVec 1) ++ BitVec.ofNat 6 p.cluster ++ BitVec.ofNat 6 p.core ++ BitVec.ofNat 5 p.ctx ++ (0 : BitVec 5)).setWidth 32

/-- The owner tag of a lane (R270); the fuel bounds the nesting of gang calls. A shadow lane's is its coach lane's. -/
def State.ownerTag : Nat → State → Agent → Nat → Word
  | 0, _, _, _ => 0
  | n + 1, s, a, l =>
    if !a.wide then placeTag a.home
    else
      match (if a.kind == .shadow then a.partner.bind s.agent? else none) with
      | some co => State.ownerTag n s co l
      | none =>
        match (a.lane l).caller with
        | some (u, k) => (match s.agent? u with | some b => State.ownerTag n s b k | none => 0)
        | none => (a.selfId l).setWidth 32

/-- The tag of a lane of the issuer. -/
def Ctx.tag (c : Ctx) (s : State) (l : Nat) : Word := State.ownerTag 20 s c.a l

/-- Checks 1 and 2 of R271: the slot, or the cause. -/
def State.wmCheck (s : State) (c : Ctx) (l : Nat) (h : Word) : Except (BitVec 8) WmSlot :=
  let x := s.wmSlot c.cluster (h.extractLsb' 0 6).toNat
  if h.extractLsb' 6 2 ≠ 0 ∨ h.extractLsb' 14 2 ≠ 0 ∨ (h.extractLsb' 8 6).toNat ≠ c.cluster ∨ x.isOpen = false
      ∨ h.extractLsb' 16 16 ≠ x.gen then .error 0x71
  else if x.job ≠ c.a.job ∨ (c.p.priv = .user ∧ x.owner ≠ c.tag s l) then .error 0x70
  else .ok x

/-- Chunks of the pool that no open slot holds (R268). -/
def State.wmFree (s : State) (cluster : Nat) : Nat :=
  64 - ((s.wm.filter fun x => x.cluster == cluster && x.isOpen).map fun x => x.w / 4096).sum

/-- A window size (R280). -/
def wmSizeOk (w : Nat) : Bool := w != 0 && w % 4096 == 0 && decide (w ≤ 262144)

/-- Opening a slot (R280): the lowest closed one, of the next generation. -/
def State.wmOpen (s : State) (c : Ctx) (l w lmin lmax : Nat) (win : List Word) (total : DWord) :
    Except (BitVec 8) (State × Word) :=
  match (List.range 64).find? fun k => !(s.wmSlot c.cluster k).isOpen with
  | none => .error 0x72
  | some k =>
    if s.wmFree c.cluster < w / 4096 then .error 0x72
    else
      let x : WmSlot := ⟨c.cluster, k, true, w, win, total, lmin, lmax, c.tag s l, c.a.job, (s.wmSlot c.cluster k).gen + 1⟩
      .ok (s.setWm x, x.handle)

/-! ### Executing (R276, R277) -/

/-- A Waymark instruction: every active lane reads its operands and passes what may make it wait; then the lanes act in
ascending order, each seeing what the lanes before it did, or take their causes. -/
def wmExec {β : Type} (os : List Opnd) (ds : List GReg) (prep : Ctx → State → Nat → LaneIn → State × Chk β)
    (act : Ctx → State → Nat → LaneIn → β → Except (BitVec 8) State) (c : Ctx) (s : State) : State :=
  let st := s.stand c os [] ds
  match st.faults, st.wait with
  | [], some k => s.waitFor c k
  | fs, some k => s.faultSome c fs (some k)
  | fs, none =>
    let good := (Mask.list c.act).filter fun l => fs.all fun x => x.lane != l
    let r := checkLanes (fun s l => prep c s l (c.inputs l os [])) good s
    match r.2.2.2 with
    | some k => if (fs ++ r.2.2.1).isEmpty then r.1.waitFor c k else (r.1.moveWalks c.uid c.p.mask (fs ++ r.2.2.1)).faultSome c (fs ++ r.2.2.1) (some k)
    | none =>
      let s0 := r.1.clearWalkFaults c.uid c.p.mask
      let q := r.2.1.foldl (fun (q : State × List LFault) x =>
        match act c (q.1.consumeOps c x.1 os) x.1 (c.inputs x.1 os []) x.2 with
        | .ok s => (s, q.2)
        | .error e => (q.1, q.2 ++ [⟨x.1, e, 0, 0, none⟩])) (s0, [])
      let all := fs ++ r.2.2.1 ++ q.2
      let done := q.1.noteFlight c.uid s0.nextId c.p.mask
      if all.isEmpty then s0.completeWith c fun _ => done else (if c.noneCompletes all then s0 else done).faultSome c all none

/-- Nothing to wait for. -/
def noPrep (_ : Ctx) (s : State) (_ : Nat) (_ : LaneIn) : State × Chk Unit := (s, .ok ())

/-- Writing a register of a lane. -/
def State.putG (s : State) (c : Ctx) (l : Nat) (d : GReg) (v : Word) : State :=
  s.updLane c.uid l fun ln => ln.setReg (physG c.rrb d) v

/-- An operation on the slot of a handle, source `k`. -/
def wmAct (k : Nat) (f : Ctx → State → Nat → LaneIn → WmSlot → Except (BitVec 8) State) (c : Ctx) (s : State) (l : Nat)
    (x : LaneIn) (_ : Unit) : Except (BitVec 8) State :=
  match s.wmCheck c l (x.w k) with
  | .error e => .error e
  | .ok w => f c s l x w

/-- `WMOPEN` (R280). -/
def execWmopen (g : Guard) (lmin lmax : BitVec 6) (d : GReg) (a : Src) (s : State) : Host.Outcome State Fault Refusal :=
  issue (.wmopen g lmin lmax d a) g s (wmExec [a.w1] [d] noPrep fun c s l x _ =>
    let w := (x.w 0).toNat
    let lo := if lmin = 0 then 2 else lmin.toNat
    let hi := if lmax = 0 then 32 else lmax.toNat
    if wmSizeOk w = false ∨ hi < lo then .error 0x71
    else (s.wmOpen c l w lo hi [] 0).map fun r => r.1.putG c l d r.2)

/-- `WMCLOSE` (R281). -/
def execWmclose (g : Guard) (a : Src) (s : State) : Host.Outcome State Fault Refusal :=
  issue (.wmclose g a) g s (wmExec [a.w1] [] noPrep (wmAct 0 fun _ s _ _ w =>
    .ok (s.setWm { w with isOpen := false, win := [] })))

/-- Appending tokens, first-in first-out (R273). -/
def WmSlot.append (x : WmSlot) (ts : List Word) : WmSlot :=
  { x with win := (x.win ++ ts).drop (x.win.length + ts.length - x.w), total := x.total + BitVec.ofNat 64 ts.length }

/-- `WMAPP` (R282). -/
def execWmapp (g : Guard) (k1 : BitVec 3) (a b : Src) (s : State) : Host.Outcome State Fault Refusal :=
  let n := k1.toNat + 1
  issue (.wmapp g k1 a b) g s (wmExec (a.w1 :: (List.range n).map fun k => (Src.plus b k).w1) [] noPrep (wmAct 0
    fun _ s _ x w => .ok (s.setWm (w.append ((List.range n).map fun k => x.w (k + 1))))))

/-- The window's last `l` tokens also end at position x (R274). -/
def endsAt (w : List Word) (l x : Nat) : Bool := (w.drop (x + 1 - l)).take l == w.drop (w.length - l)

/-- The proposal rule (R274): the match length and the drafts. -/
def WmSlot.propose (x : WmSlot) (dc : Nat) : Nat × List Word :=
  let n := x.win.length
  let ls := (List.range (min x.lmax (n - 1) + 1)).reverse.filter fun l => decide (x.lmin ≤ l)
  let hit := ls.findSome? fun l => ((List.range (n - 1)).reverse.find? fun p => decide (l ≤ p + 1) && endsAt x.win l p).map
    fun p => (l, p)
  match hit with
  | none => (0, [])
  | some (l, e) => (l, (x.win.drop (e + 1)).take (min dc (n - 1 - e)))

/-- `WMPROP` (R283): the drafts are those of the slot at the operation's place; the registers are written at its
completion. -/
def execWmprop (g : Guard) (dc1 : BitVec 3) (d : GReg) (a : Src) (b : GReg) (s : State) : Host.Outcome State Fault Refusal :=
  let dc := dc1.toNat + 1
  let ds := (List.range dc).map fun k => d + BitVec.ofNat 6 k
  issue (.wmprop g dc1 d a b) g s (wmExec [a.w1] (b :: ds) noPrep (wmAct 0 fun c s l _ w =>
    let r := w.propose dc
    let rs := ds.map fun x => (physG c.rrb x).val
    let len := (physG c.rrb b).val
    let s := s.updLane c.uid l fun ln => (len :: rs).foldl (fun ln y => ln.setPending (Fin.ofNat 64 y)) ln
    .ok { s with
      pendings := s.pendings ++ [(⟨s.nextId, c.uid, l, c.a.place.coreId,
        .wmprop r.2 rs len (BitVec.ofNat 32 (r.2.length * 65536 + r.1))⟩ : Pending)],
      nextId := s.nextId + 1 }))

/-- `WMPROP_COMPLETION` (R283). -/
def execWmpropCompletion (op : Nat) (s : State) : Host.Outcome State Fault Refusal :=
  match s.pendingOf op with
  | some p =>
    match p.kind with
    | .wmprop drafts rs len m =>
      let s := { s with pendings := s.pendings.filter (·.id != op) }
      .next (s.updLane p.uid p.lane fun ln =>
        let ln := rs.zipIdx.foldl (fun ln r =>
          match drafts[r.2]? with
          | some v => ln.setReg (Fin.ofNat 64 r.1) v
          | none => ln.refill (Fin.ofNat 64 r.1)) ln
        ln.setReg (Fin.ofNat 64 len) m)
    | _ => .next s
  | none => .next s

/-- `WMLEN` (R284). -/
def execWmlen (g : Guard) (f : WmField) (d : GReg) (a : Src) (s : State) : Host.Outcome State Fault Refusal :=
  issue (.wmlen g f d a) g s (wmExec [a.w1] [d] noPrep (wmAct 0 fun c s l _ w =>
    .ok (s.putG c l d (match f with
      | .len => BitVec.ofNat 32 w.win.length
      | .cap => BitVec.ofNat 32 w.w
      | .total => lo32 w.total
      | .bounds => BitVec.ofNat 32 (w.lmax * 256 + w.lmin)))))

/-- An owner tag that R285 accepts. -/
def tagOk (t : Word) : Bool :=
  t.extractLsb' 23 9 == 0 && decide ((t.extractLsb' 10 6).toNat ≤ 35) && (t.getLsbD 22 || t.extractLsb' 0 5 == 0)

/-- What the lanes of a `WMOWN` do so far: the state, their causes, what the last of them waits for. -/
abbrev Owned := State × List LFault × Option WaitKind

/-- A lane of `WMOWN` (R285): the checks of R271, then the new tag is read, then the transfer. -/
def wmownLane (a b : Src) (c : Ctx) (q : Owned) (l : Nat) : Owned :=
  let os := [a.w1, b.w1]
  let x := c.inputs l os []
  let bad (f : LFault) : Owned := (q.1, q.2.1 ++ [f], none)
  if q.2.2.isSome then q
  else
    match q.1.wmCheck c l (x.w 0) with
    | .error e => bad ⟨l, e, 0, 0, none⟩
    | .ok w =>
      match q.1.ready c l [b.w1] [] [] with
      | .wait k => (q.1, q.2.1, some k)
      | .fault e ue t => bad ⟨l, e, t, ue, none⟩
      | .due d => bad (dueLFault l d)
      | .ok =>
        if tagOk (x.w 1) then ((q.1.consumeOps c l os).setWm { w with owner := x.w 1 }, q.2.1, none) else bad ⟨l, 0x71, 0, 0, none⟩

/-- The lanes of `WMOWN` act in ascending order, each seeing what the lanes before it did; while one waits for its new tag none
has acted. -/
def wmownExec (a b : Src) (c : Ctx) (s : State) : State :=
  let st := s.stand c [a.w1] [] []
  match st.faults, st.wait with
  | [], some k => s.waitFor c k
  | fs, some k => s.faultSome c fs (some k)
  | fs, none =>
    let good := (Mask.list c.act).filter fun l => fs.all fun x => x.lane != l
    let q := good.foldl (wmownLane a b c) (s, [], none)
    let all := fs ++ q.2.1
    match q.2.2 with
    | some k => if all.isEmpty then s.waitFor c k else s.faultSome c all (some k)
    | none => if all.isEmpty then s.completeWith c fun _ => q.1 else (if c.noneCompletes all then s else q.1).faultSome c all none

/-- `WMOWN` (R285). -/
def execWmown (g : Guard) (a b : Src) (s : State) : Host.Outcome State Fault Refusal :=
  issue (.wmown g a b) g s (wmownExec a b)

/-! ### Save and load (R286-R288) -/

/-- A save record. -/
def WmSlot.record (x : WmSlot) : List Byte :=
  toBytes 4 1 ++ toBytes 4 x.w ++ toBytes 4 x.win.length ++ toBytes 4 (x.lmax * 256 + x.lmin) ++ toBytes 8 x.total.toNat
    ++ List.replicate 40 0 ++ x.win.flatMap fun t => toBytes 4 t.toNat

/-- `WMSAVE` (R287). -/
def execWmsave (g : Guard) (close : Bool) (lease : BitVec 3) (base : Src) (off : BitVec 16) (h : Src) (s : State) :
    Host.Outcome State Fault Refusal :=
  issue (.wmsave g close lease base off h) g s (wmExec [base.w2, h.w1] []
    (fun c s l x =>
      match s.wmCheck c l (x.w 1) with
      | .error e => (s, .fault e 0 0)
      | .ok w =>
        let va := eaOf (x.v 0) off
        if va.toNat % 64 ≠ 0 then (s, .fault 0x24 va 0)
        else chkThen (s.placeCheck c { need := .wr } va (64 + 4 * w.win.length)) fun s segs =>
          chkThen (s.writeCheck c l false .dev segs) fun s segs => (s, .ok (va, segs)))
    (fun c s l x b =>
      match s.wmCheck c l (x.w 1) with
      | .error e => .error e
      | .ok w =>
        let s := s.sendStore c l b.2 w.record (some lease.toNat) false false b.1
        .ok (if close then s.setWm { w with isOpen := false, win := [] } else s)))

/-- A 32-bit field of a record. -/
def recWord (bs : List Byte) (off : Nat) : Nat := ofBytes ((bs.drop off).take 4)

/-- The header checks of R288. -/
def wmHeaderOk (bs : List Byte) : Bool :=
  let n := recWord bs 8
  let m := recWord bs 0xC
  let lmax := m / 256 % 256
  let lmin := m % 256
  recWord bs 0 == 1 && wmSizeOk (recWord bs 4) && decide (n ≤ recWord bs 4) && decide (n ≤ (dwordAt bs 0x10).toNat)
    && decide (m < 65536 ∧ 1 ≤ lmin ∧ lmin ≤ lmax ∧ lmax ≤ 32) && (bs.drop 0x18).all (· == 0)

/-- The reads of `WMLOAD` under the record of its lane, which holds its issuer (R277): the header, then the tokens. -/
def State.wmRead (c : Ctx) (l : Nat) (va : DWord) (lease : Nat) : Nat → State → State × Chk (List Byte × List Word)
  | 0, s => (s, .wait .order)
  | k + 1, s =>
    match s.walkOf c.uid l with
    | none => (s, .wait .order)
    | some r =>
      let stop (s : State) : State := { s with loads := s.loads.filter (·.id != r.id) }
      let read (a : DWord) (n align : Nat) : State × Chk (List Byte × List Word) :=
        match chkThen (s.placeCheck c { need := .rd, align := align } a n) fun s segs => s.poisonCheck c segs a (some l) with
        | (s, .fault x t u) => (stop s, .fault x t u)
        | (s, .due d) => (stop s, .due d)
        | (s, .wait w) => (s, .wait w)
        | (s, .ok segs) =>
          let q := s.elemPieces c l r.id r.pieces.length segs (some lease) a
          let s := (q.1.updLoad r.id fun x => { x with pieces := x.pieces ++ q.2 }).presentAll r.id
          State.wmRead c l va lease k s
      if r.pieces.isEmpty then read va 64 64
      else
        let fuel := r.pieces.length + 1
        match takePieces fuel r.pieces 64 with
        | none => (s.presentAll r.id, .wait .order)
        | some (_, true, _) => (stop s, .fault 0x26 va 0)
        | some (hd, false, ps) =>
          if wmHeaderOk hd = false then (stop s, .fault 0x76 0 0)
          else
            let n := recWord hd 8
            if n = 0 then (stop s, .ok (hd, []))
            else if ps.isEmpty then read (va + 64) (4 * n) 1
            else
              match takePieces fuel ps (4 * n) with
              | none => (s.presentAll r.id, .wait .order)
              | some (_, true, _) => (stop s, .fault 0x26 (va + 64) 0)
              | some (bs, false, _) => (stop s, .ok (hd, wordsOf bs))

/-- `WMLOAD` (R288). -/
def execWmload (g : Guard) (lease : BitVec 3) (d : GReg) (base : Src) (off : BitVec 16) (s : State) :
    Host.Outcome State Fault Refusal :=
  issue (.wmload g lease d base off) g s (wmExec [base.w2] [d]
    (fun c s l x => State.wmRead c l (eaOf (x.v 0) off) lease.toNat 3 (s.openWalk c l))
    (fun c s l _ b =>
      let m := recWord b.1 0xC
      (s.wmOpen c l (recWord b.1 4) (m % 256) (m / 256) b.2 (dwordAt b.1 0x10)).map fun r => r.1.putG c l d r.2))

end Sys2Proof.Machine
end

