-- ==== Sys2Proof/Machine/System.lean ====
section
/-! DEFINITION. The control registers (06_registers.md R125-R128, 19_traps.md R413, R414): `MFC`, `MTC`, `ROLE`, and the
writes of system software and firmware that are rows of their own. -/

namespace Sys2Proof.Machine

/-! ### Reading (17_isa_control.md R387) -/

/-- `WATCHST` of a lane (03_watch_table.md R70). -/
def State.watchst (s : State) (a : Agent) (l : Nat) : DWord :=
  let ln := a.lane l
  ln.wFalse ++ ln.wStrikes ++ (0 : BitVec 8) ++ ln.wFallbk ++ (0 : BitVec 10) ++ BitVec.ofBool ln.struck
    ++ BitVec.ofNat 5 (s.heldBy a.uid l)

/-- `GANGINFO` of a lane (15_travellers.md R338). -/
def State.ganginfo (s : State) (a : Agent) (l : Nat) : DWord :=
  if a.kind == .coach || a.kind == .shadow then
    (0 : BitVec 22) ++ BitVec.ofNat 4 a.depth ++ BitVec.ofNat 6 a.count ++ (State.ownerTag 20 s a l)
  else 0

/-- The code of a privilege in PPRIV (R414). -/
def Priv.code : Priv → BitVec 2
  | .user => 0
  | .super => 1
  | .firmware => 2

/-- `TSTATUS` of a lane of a path (R414). -/
def Agent.tstatus (a : Agent) (act : Bool) (l : Nat) : DWord :=
  let f := a.frame
  let ln := a.lane l
  f.gmask ++ ln.spred ++ f.srrb ++ (0 : BitVec 1) ++ f.sdepth ++ (0 : BitVec 4) ++ f.uesrc ++ BitVec.ofBool ln.swatch
    ++ BitVec.ofBool f.coach ++ BitVec.ofBool act ++ (0 : BitVec 5) ++ f.ppriv.code

/-- `LEVELIDS` (18_scheduling.md R394, 19_traps.md R480). -/
def State.levelidsOf (s : State) (a : Agent) : DWord :=
  (a.levelids &&& ~~~(0xFFF000000000 : DWord)) ||| (((s.job a.job).jobcnt &&& 0xFFF) <<< 36)

/-- START, END or COUNT of a loop level held; above DEPTH 0 (06_registers.md R128). -/
def loopReg (ls : List Loop) (n : Nat) : DWord :=
  match ls[n / 3]? with
  | none => 0
  | some l => if n % 3 = 0 then l.start else if n % 3 = 1 then l.stop else l.countReg

/-- The value of a control register for a lane of a path. -/
def State.creg (s : State) (a : Agent) (act : Bool) (l idx : Nat) : DWord :=
  let j := s.job a.job
  let x := s.tilesOf a.place.coreId
  if 0x010 ≤ idx ∧ idx ≤ 0x01B then loopReg (a.loopsOf act) (idx - 0x010)
  else if 0x020 ≤ idx ∧ idx ≤ 0x027 then x.desc (idx - 0x020)
  else if 0x030 ≤ idx ∧ idx ≤ 0x033 then a.tl[Fin.ofNat 4 (idx - 0x030)]
  else
    match idx with
    | 0x000 => BitVec.ofNat 64 (s.now a.place.cluster)
    | 0x001 => BitVec.ofNat 64 s.timebase
    | 0x002 => (a.selfId l).setWidth 64
    | 0x003 => (a.lane l).ltime
    | 0x004 => a.fpctl
    | 0x005 => a.fpflags
    | 0x006 => a.thctl
    | 0x007 => a.waitlim
    | 0x008 => j.leases0
    | 0x009 => j.leases1
    | 0x01C => rrbReg (a.rrbOf act) (a.loopsOf act).length
    | 0x028 => x.prog
    | 0x038 => s.watchst a l
    | 0x040 => s.ganginfo a l
    | 0x041 => a.leafdesc
    | 0x048 => s.levelidsOf a
    | 0x100 => j.trapvec
    | 0x101 => a.frame.epc
    | 0x102 => a.frame.cause.setWidth 64
    | 0x103 => a.frame.tval
    | 0x104 => a.tstatus act l
    | 0x105 => a.frame.scratch
    | 0x108 => j.ptbase
    | 0x109 => (BitVec.ofNat 32 a.job).setWidth 64
    | 0x10A => j.clmask
    | 0x10B => j.routebase
    | 0x10C => j.clgrant
    | 0x10D => j.jobcnt
    | 0x200 => s.recbase
    | _ => 0

/-- `MFC` (R387). -/
def execMfc (g : Guard) (idx : BitVec 12) (d : MfcDst) (s : State) : Host.Outcome State Fault Refusal :=
  let v (c : Ctx) (l : Nat) : DWord := s.creg c.a c.p.act l idx.toNat
  issue (.mfc g idx d) g s fun c s =>
    let gone := (c.a.sGone.find? fun x => x.1 == 32).map (·.2)
    -- `SCRATCH` waits for a load to it and is read as a register (06_registers.md R116, 19_traps.md R417, R429)
    if idx = 0x105 ∧ s.sregBusy c.uid true 31 then s.waitFor c .order
    else if idx = 0x105 ∧ c.a.sBad.getLsbD 32 then
      s.faultAll c 0x26 (gone.getD 0) (if gone.isSome then 0 else 2)
    else
    match d with
    | .pair d => laneExec [] [] [d, d + 1] (fun c _ l _ => out2 d (v c l)) c s
    | .word d => laneExec [] [] [d] (fun c _ l _ => out1 d (lo32 (v c l))) c s
    | .uni d =>
      busyExec (fun c s => s.sregBusy c.uid c.p.act d) [] false (laneExec [] [] [] (fun c tbl l _ =>
        if tbl.head?.map (·.1) = some l then { uni := some (d, v c l) } else {})) c s

/-! ### Writing (R388) -/

/-- The part of a register that is a lane's own: `LTIME` is raised only, up to `ctime` (R127), `WATCHST` takes its
counters (R70), `TSTATUS` SPRED and SWATCH (R414). -/
def State.cregLane (s : State) (uid l idx : Nat) (v : DWord) : State :=
  match s.agent? uid with
  | none => s
  | some a =>
    s.updLane uid l fun ln =>
      match idx with
      | 0x003 =>
        let c := s.ctimeOf a.place.cluster
        { ln with ltime := tmax ln.ltime (if v.toNat ≤ c.toNat then v else c) }
      | 0x038 => { ln with wFalse := v.extractLsb' 48 16, wStrikes := v.extractLsb' 32 16, wFallbk := v.extractLsb' 16 8 }
      | 0x104 => { ln with spred := v.extractLsb' 24 8, swatch := v.getLsbD 9 }
      | _ => ln

/-- START, END or COUNT of a level below DEPTH (R128). -/
def setLoopReg (ls : List Loop) (n : Nat) (v : DWord) : List Loop :=
  ls.modify (n / 3) fun l =>
    if n % 3 = 0 then { l with start := v } else if n % 3 = 1 then { l with stop := v }
    else Loop.ofRegs l.start l.stop v

/-- The bits of `FPCTL`, `FPFLAGS`, `THCTL` and `WAITLIM` that are not reserved (07_number_formats.md R145, R146, R128 and
04_cluster_store.md R86). -/
def fpctlBits : DWord := 0x3F03
/-- Of `FPFLAGS`. -/
def fpflagsBits : DWord := 0x3F
/-- Of `THCTL`. -/
def thctlBits : DWord := 3
/-- Of `WAITLIM`. -/
def waitlimBits : DWord := 0xC0000000FFFFFFFF

/-- The rest of a register, written once, at a privilege (R125, R413). -/
def State.cregOnce (s : State) (uid : Nat) (act : Bool) (priv : Priv) (idx : Nat) (v : DWord) : State :=
  match s.agent? uid with
  | none => s
  | some a =>
    let upd (f : Agent → Agent) : State := s.updAgent uid f
    let frame (f : Frame → Frame) : State := s.updAgent uid fun a => { a with frame := f a.frame }
    let job (f : Job → Job) : State := s.updJob a.job f
    if 0x010 ≤ idx ∧ idx ≤ 0x01B then upd fun a => a.setLoops act (a.rrbOf act) (setLoopReg (a.loopsOf act) (idx - 0x010) v)
    else if 0x020 ≤ idx ∧ idx ≤ 0x027 then
      (match s.writeTd a.place.coreId (idx - 0x020) v with | .ok s => s | .error _ => s)
    else
      match idx with
      | 0x004 => upd fun a => { a with fpctl := v &&& fpctlBits }
      | 0x005 => upd fun a => { a with fpflags := v &&& fpflagsBits }
      | 0x006 => upd fun a => { a with thctl := v &&& thctlBits }
      | 0x007 => upd fun a => { a with waitlim := v &&& waitlimBits }
      | 0x008 => job fun j => { j with leases0 := v &&& ~~~(0xFFFF : DWord) }
      | 0x009 => job fun j => { j with leases1 := v }
      | 0x01C => upd fun a => a.setLoops act (v.extractLsb' 0 4) (a.loopsOf act)
      | 0x028 => (match s.writeProg a.place.coreId v with | .ok s => s | .error _ => s)
      | 0x100 => job fun j => { j with trapvec := v &&& 0x00FFFFFFFFFFC000 }
      | 0x101 => frame fun f => { f with epc := v }
      | 0x102 => frame fun f => { f with cause := v.extractLsb' 0 8 }
      | 0x103 => frame fun f => { f with tval := v }
      | 0x104 => frame fun f =>
          { f with srrb := v.extractLsb' 20 4,
                   ppriv := if v.extractLsb' 0 2 = 0 then .user else if v.extractLsb' 0 2 = 1 then .super else f.ppriv }
      | 0x105 => upd fun a => { a with frame := { a.frame with scratch := v }, sBad := setBit a.sBad 32 false,
                                        sGone := a.sGone.filter fun x => x.1 != 32 }
      | 0x108 => job fun j => { j with ptbase := v &&& 0x0000FFFFFFFFE000 }
      | 0x10A => job fun j => { j with clmask := v &&& j.clgrant }
      | 0x10B => job fun j => { j with routebase := v &&& 0x00FFFFFFFFFFF000 }
      | 0x10C => if priv = .firmware then job fun j => { j with clgrant := v, clmask := j.clmask &&& v } else s
      | 0x10D => if priv = .firmware then job fun j => { j with jobcnt := v &&& 0xFFF } else s
      | 0x200 => { s with recbase := v &&& 0x0000FFFFFFFF0000 }
      | _ => s

/-- The cause that a value gives (R128, R252, R260). A COUNT whose STAGES is above 8 gives cause 0x01 at a level at or above
DEPTH too, where it is discarded besides (DESIGN CHOICE, log entry 75). -/
def cregCause (idx : Nat) (v : DWord) : Option (BitVec 8) :=
  if 0x010 ≤ idx ∧ idx ≤ 0x01B ∧ (idx - 0x010) % 3 = 2 ∧ 8 < (v.extractLsb' 40 4).toNat then some 0x01
  else if 0x020 ≤ idx ∧ idx ≤ 0x027 ∧ tdOk v = false then some 0x60
  else if idx = 0x028 ∧ cellOk v = false then some 0x63
  else none

/-- `MTC` (R388): a register that is not per lane takes the value of the lowest active lane. -/
def execMtc (g : Guard) (w32 : Bool) (idx : BitVec 12) (a : Src) (s : State) : Host.Outcome State Fault Refusal :=
  let o : Opnd := if w32 then a.w1 else a.w2
  let n := idx.toNat
  issue (.mtc g w32 idx a) g s (memExec [o] [] []
    (fun c s _ x =>
      match cregCause n (c.value (Mask.lowest c.act) o) with
      | some e => (s, .fault e (if e = 0x01 then wordsTval (encode (.mtc g w32 idx a)) else 0) 0)
      | none => (s, .ok (x.v 0)))
    (fun c s l v =>
      let s := s.cregLane c.uid l n v
      if l = Mask.lowest c.act then s.cregOnce c.uid c.p.act c.p.priv n v else s))

/-- `ROLE` (R384): discarded in a shadow wave. -/
def execRole (g : Guard) (r : Role) (s : State) : Host.Outcome State Fault Refusal :=
  issue (.role g r) g s fun c s =>
    s.completeWith c fun s => s.updAgent c.uid fun a => if a.kind == .shadow then a else { a with role := r }

/-! ### Writes of system software and firmware -/

/-- `EVSEL` (24_security_power_health.md R476). -/
def execEvsel (cluster k : Nat) (v : DWord) (s : State) : Host.Outcome State Fault Refusal :=
  .next (s.evselWrite cluster k v)

/-- `LTIME_WRITE` (R127). -/
def execLtimeWrite (unit lane : Nat) (v : DWord) (s : State) : Host.Outcome State Fault Refusal :=
  .next (s.cregLane unit lane 0x003 v)

/-- A job that firmware sets up for the first time: its lease table is the reset one (02_lines_and_homes.md R40), the rest
zero until it is written. -/
def State.needJob (s : State) (j : Nat) : State :=
  if s.jobs.any (·.id == j) then s else { s with jobs := s.jobs ++ [⟨j, 0, 0, 0, 0, 0, 0, leases0Reset, leases1Reset, false, false⟩] }

/-- `CLGRANT_WRITE` (19_traps.md R479). -/
def execClgrantWrite (job : Nat) (v : DWord) (s : State) : Host.Outcome State Fault Refusal :=
  .next ((s.needJob job).updJob job fun j => { j with clgrant := v, clmask := j.clmask &&& v })

/-- `CLMASK_WRITE` (R479). -/
def execClmaskWrite (job : Nat) (v : DWord) (s : State) : Host.Outcome State Fault Refusal :=
  .next (s.updJob job fun j => { j with clmask := v &&& j.clgrant })

/-- `LEASES_WRITE` (R388, 02_lines_and_homes.md R40). -/
def execLeasesWrite (job : Nat) (hi : Bool) (v : DWord) (s : State) : Host.Outcome State Fault Refusal :=
  .next (s.updJob job fun j => if hi then { j with leases1 := v } else { j with leases0 := v &&& ~~~(0xFFFF : DWord) })

/-- A job-scope register written for a job (R413). -/
def State.jobReg (s : State) (job idx : Nat) (v : DWord) : State :=
  (s.needJob job).updJob job fun j =>
    match idx with
    | 0x100 => { j with trapvec := v &&& 0x00FFFFFFFFFFC000 }
    | 0x108 => { j with ptbase := v &&& 0x0000FFFFFFFFE000 }
    | 0x10B => { j with routebase := v &&& 0x00FFFFFFFFFFF000 }
    | 0x10D => { j with jobcnt := v &&& 0xFFF }
    | _ => j

/-- The registers that belong to a job and have no row of their own. -/
def jobScope (idx : Nat) : Bool := idx == 0x100 || idx == 0x108 || idx == 0x10B || idx == 0x10D

/-- `REGISTER_WRITE` (R388): firmware writes a register of a unit's lane, of a job (named in place of the unit) for the
job-scope ones, or its own `RECBASE`; a malformed value is not written. -/
def execRegisterWrite (unit lane : Nat) (idx : BitVec 12) (v : DWord) (s : State) : Host.Outcome State Fault Refusal :=
  let n := idx.toNat
  if n = 0x200 then .next { s with recbase := v &&& 0x0000FFFFFFFF0000 }
  else if jobScope n then .next (s.jobReg unit n v)
  else
    match s.agent? unit with
    | none => .next s
    | some a =>
      if (cregCause n v).isSome then .next s
      else
        let act := match a.slotA with | some p => p.act | none => false
        .next ((s.cregLane unit lane n v).cregOnce unit act .firmware n v)

end Sys2Proof.Machine
end

