-- ==== Sys2Proof/Machine/Records.lean ====
section
/-! DEFINITION. The save records: physical memory as the device's own units read and write it, the traveller record and the
warp record (06_registers.md R129-R133, 19_traps.md R422), and the slots that units occupy (15_travellers.md R331, R343,
18_scheduling.md R399). -/

namespace Sys2Proof.Machine

/-! ### Physical memory: class-0 accesses of a cluster at its time (R422) -/

/-- Sixteen bytes with their poison. -/
structure Chunk where
  bytes : List Byte
  bad : Bool
  deriving DecidableEq, Repr

/-- Reading the 16-byte sectors of a line. -/
def State.physReadLine (s : State) (cluster line : Nat) : AtHome (State × List Chunk) :=
  match s.loadNow cluster 0 line (s.ctimeOf cluster) 0 with
  | .error l => .error l
  | .ok (s, d, bad, _) => .ok (s, (List.range 8).map fun i => ⟨lineBytes d (16 * i) 16, bad.getLsbD i⟩)

/-- Reading `n` lines from a line on. -/
def State.physRead (cluster : Nat) : Nat → Nat → State → AtHome (State × List Chunk)
  | _, 0, s => .ok (s, [])
  | line, n + 1, s =>
    match s.physReadLine cluster line with
    | .error l => .error l
    | .ok (s, x) =>
      match State.physRead cluster (line + 1) n s with
      | .error l => .error l
      | .ok (s, y) => .ok (s, x ++ y)

/-- Writing some sectors of a line, by number; it is written back (13_isa_return.md R293). -/
def State.physWriteLine (s : State) (cluster line : Nat) (xs : List (Nat × Chunk)) : AtHome State :=
  if s.hostHolds line then .error line
  else if homed (128 * line) = false then .ok s
  else
    let r : AtHome State := xs.foldl (fun r x => match r with
      | .error l => .error l
      | .ok s => (s.storeNow cluster line (s.ctimeOf cluster) (16 * x.1) x.2.bytes x.2.bad).map (·.1)) (.ok s)
    match r with
    | .error l => .error l
    | .ok s => .ok (if xs.isEmpty then s else s.writeBackNow cluster line)

/-- Writing sectors of a record at a physical address, by number. -/
def State.physWrite (s : State) (cluster pa : Nat) (xs : List (Nat × Chunk)) : AtHome State :=
  (List.range (xs.foldl (fun m x => max m (x.1 / 8 + 1)) 0)).foldl (fun r k => match r with
    | .error l => .error l
    | .ok s => s.physWriteLine cluster (pa / 128 + k) ((xs.filter (·.1 / 8 == k)).map fun x => (x.1 % 8, x.2))) (.ok s)

/-- Cutting 64-bit words into sectors. -/
def chunksOf (ws : List DWord) (bad : Nat → Bool) : List (Nat × Chunk) :=
  (List.range (ws.length / 2)).map fun k =>
    (k, ⟨toBytes 8 (ws.getD (2 * k) 0).toNat ++ toBytes 8 (ws.getD (2 * k + 1) 0).toNat, bad k⟩)

/-- The 64-bit word `k` of a record. -/
def saveWord (xs : List Chunk) (k : Nat) : DWord :=
  BitVec.ofNat 64 (ofBytes ((((xs[k / 2]?).map (·.bytes)).getD []).drop (8 * (k % 2)) |>.take 8))

/-- The sector of a 64-bit word holds poison. -/
def saveBad (xs : List Chunk) (k : Nat) : Bool := ((xs[k / 2]?).map (·.bad)).getD false

/-! ### Parts that both records hold -/

/-- The registers of a lane, in pairs. -/
def Lane.regWords (ln : Lane) : List DWord :=
  (List.range 32).map fun k => cat32 (ln.reg (Fin.ofNat 64 (2 * k + 1))) (ln.reg (Fin.ofNat 64 (2 * k)))

/-- The loop stack (R129). -/
def loopWords (ls : List Loop) : List DWord :=
  (List.range 4).flatMap fun k => match ls[k]? with
    | some l => [l.start, l.stop, l.countReg]
    | none => [0, 0, 0]

/-- The due faults (R130). -/
def dueWords (ds : List DueFault) : List DWord :=
  (List.range 8).flatMap fun k => match ds[k]? with
    | some d => [(1 : BitVec 1) ++ (0 : BitVec 5) ++ BitVec.ofNat 2 d.cls ++ (0 : BitVec 3) ++ BitVec.ofNat 5 d.lane ++ d.cause
        ++ (0 : BitVec 8) ++ lo32 d.num, d.tval]
    | none => [0, 0]

/-- Reading the due faults; the high half of a command's number is the device's own. -/
def dueOf (xs : List Chunk) (k0 : Nat) (old : List DueFault) : List DueFault :=
  (List.range 8).filterMap fun k =>
    let w := saveWord xs (k0 + 2 * k)
    if w.getLsbD 63 = false then none
    else
      let hi := (old[k]?.map fun d => hi32 d.num).getD 0
      some ⟨(w.extractLsb' 56 2).toNat, (w.extractLsb' 48 5).toNat, cat32 hi (lo32 w), w.extractLsb' 40 8,
        saveWord xs (k0 + 2 * k + 1)⟩

/-- STATE of a record: STRUCK of a barrel traveller, DFOVF, the gang nesting depth (R129). -/
def Agent.stateWord (a : Agent) (struck : Bool) : DWord :=
  (0 : BitVec 52) ++ BitVec.ofNat 4 a.depth ++ (0 : BitVec 6) ++ BitVec.ofBool a.dfovf ++ BitVec.ofBool struck

/-- A path of the unit is inside a handler. -/
def Agent.inTrap (a : Agent) : Bool := a.paths.any (·.act)

/-- `RRB` and the loop stack as the record of a unit has them: those of the path inside a handler where one is. -/
def Agent.loopPart (a : Agent) : List DWord :=
  rrbReg (a.rrbOf a.inTrap) (a.loopsOf a.inTrap).length :: loopWords (a.loopsOf a.inTrap)

/-- The trap registers (R129, 19_traps.md R413). The one `TSTATUS` of a warp's record holds SPRED and SWATCH of lane 0, and a
restore gives them back to that lane; the other lanes keep theirs: DESIGN CHOICE, log entry 60. -/
def Agent.frameWords (a : Agent) (l : Nat) : List DWord :=
  [a.frame.epc, a.frame.cause.setWidth 64, a.frame.tval, a.tstatus a.inTrap l, a.frame.scratch]

/-- Reading the trap registers. -/
def Frame.ofWords (f : Frame) (xs : List Chunk) (k : Nat) : Frame :=
  let t := saveWord xs (k + 3)
  { f with epc := saveWord xs k, cause := (saveWord xs (k + 1)).extractLsb' 0 8, tval := saveWord xs (k + 2),
           gmask := t.extractLsb' 32 32, srrb := t.extractLsb' 20 4, sdepth := t.extractLsb' 16 3,
           uesrc := t.extractLsb' 10 2, coach := t.getLsbD 8,
           ppriv := if t.extractLsb' 0 2 = 0 then .user else if t.extractLsb' 0 2 = 1 then .super
                    else if t.extractLsb' 0 2 = 2 then .firmware else f.ppriv,
           scratch := saveWord xs (k + 4) }

/-- Reading SPRED and SWATCH of a lane from a `TSTATUS` word (R414). -/
def Lane.ofTstatus (ln : Lane) (t : DWord) : Lane := { ln with spred := t.extractLsb' 24 8, swatch := t.getLsbD 9 }

/-- Reading the registers of a lane: one that the record changes holds no token any more, one in a poisoned sector is
poisoned (19_traps.md R429). -/
def Lane.ofWords (ln : Lane) (xs : List Chunk) (k0 gfe : Nat) (pred : BitVec 16) : Lane :=
  let ln := (List.range 64).foldl (fun ln i =>
    let w := saveWord xs (k0 + i / 2)
    let v : Word := if i % 2 = 0 then lo32 w else hi32 w
    let r : Fin 64 := Fin.ofNat 64 i
    let ln := if ln.reg r = v then { ln with bad := setBit ln.bad i false } else ln.setReg r v
    if saveBad xs (k0 + i / 2) then ln.poison r else ln) ln
  -- the full bits are read with any register of the lane
  { ln with full := saveWord xs gfe, pend := 0, p := pred ||| 1, pbad := 0,
            bad := if saveBad xs gfe then BitVec.allOnes 64 else ln.bad }

/-- The loop levels of a record; DEPTH is in the `RRB` word. -/
def loopsOfWords (xs : List Chunk) (rrb k0 : Nat) : List Loop :=
  (List.range ((saveWord xs rrb).extractLsb' 4 3).toNat).map fun k =>
    Loop.ofRegs (saveWord xs (k0 + 3 * k)) (saveWord xs (k0 + 3 * k + 1)) (saveWord xs (k0 + 3 * k + 2))

/-- The counters of a `WATCHST` word (03_watch_table.md R70). -/
def Lane.watchOf (ln : Lane) (w : DWord) : Lane :=
  { ln with wFalse := w.extractLsb' 48 16, wStrikes := w.extractLsb' 32 16, wFallbk := w.extractLsb' 16 8 }

/-! ### The traveller record (R129) -/

/-- The address of the record of a barrel slot (19_traps.md R422). -/
def State.travAddr (s : State) (p : Place) : Nat := s.recbase.toNat + travOff p.cluster p.core p.ctx

/-- The gang return chain pointer (15_travellers.md R332). -/
def Lane.chainWord (ln : Lane) : DWord :=
  match ln.chain with
  | some x => (1 : BitVec 1) ++ (0 : BitVec 40) ++ x
  | none => 0

/-- The 128 words of a traveller record. -/
def State.travWords (s : State) (a : Agent) : List DWord :=
  let ln := a.lane 0
  let pc := match a.slotA with | some p => p.pc | none => 0
  ln.regWords ++ a.s.toList
    ++ [ln.full, ln.p.setWidth 64, pc, ln.ltime, rrbReg a.rrb a.loops.length, a.stateWord ln.struck]
    ++ loopWords a.loops ++ a.tl.toList ++ a.issued.toList
    ++ [s.watchst a 0, a.waitlim, a.fpctl, a.fpflags, a.thctl, ln.chainWord] ++ a.frameWords 0
    ++ [ln.cfault.1, ln.cfault.2.1, ln.cfault.2.2] ++ dueWords a.due ++ List.replicate 8 0

/-- The poisoned sectors of a traveller record. -/
def Agent.travBad (a : Agent) (k : Nat) : Bool :=
  let ln := a.lane 0
  if k < 16 then ln.bad.extractLsb' (4 * k) 4 != 0
  else if k < 32 then a.sBad.extractLsb' (2 * (k - 16)) 2 != 0
  else k == 32 && ln.pbad != 0

/-- The sectors of a traveller record. -/
def State.travRec (s : State) (a : Agent) : List (Nat × Chunk) := chunksOf (s.travWords a) a.travBad

/-- The checks of a restore of a traveller record (R133). -/
def travOk (xs : List Chunk) : Bool :=
  decide (((saveWord xs 0x44).extractLsb' 4 3).toNat ≤ 4) && decide (((saveWord xs 0x45).extractLsb' 8 4).toNat ≤ 8)

/-- A sector of a traveller record with a word that an instruction reads from elsewhere than the registers holds poison
(19_traps.md R429; log entry 66). -/
def travSpoilt (xs : List Chunk) : Bool := (List.range 27).any fun k => saveBad xs (2 * (33 + k))

/-- A traveller in the state of a record. -/
def Agent.ofTrav (a : Agent) (xs : List Chunk) : Agent :=
  let rrb := saveWord xs 0x44
  let st := saveWord xs 0x45
  let ch := saveWord xs 0x5F
  let p15 : BitVec 16 := (saveWord xs 0x41).extractLsb' 0 16
  let ln := ((a.lane 0).ofWords xs 0 0x40 p15).watchOf (saveWord xs 0x5A)
  let ln := { ln with
    ltime := saveWord xs 0x43, struck := st.getLsbD 0
    pbad := if saveBad xs 0x41 then 0xFFFE else 0
    chain := if ch.getLsbD 63 then some (ch.extractLsb' 0 23) else none
    cfault := (saveWord xs 0x65, saveWord xs 0x66, saveWord xs 0x67) }
  let ln := ln.ofTstatus (saveWord xs 0x63)
  let path := (a.slotA.getD (Path.fresh 0 1 .user))
  { a with
    lanes := [ln]
    s := Vector.ofFn fun i : Fin 32 => saveWord xs (0x20 + i.val)
    sGone := []
    sBad := a.sBad &&& 0x100000000 ||| BitVec.ofNat 33 (((List.range 32).filter fun i => saveBad xs (0x20 + i)).foldl (fun m i => m + 2 ^ i) 0)
    slotA := some { path with pc := saveWord xs 0x42, buf := [], spoilt := travSpoilt xs }
    rrb := rrb.extractLsb' 0 4
    loops := loopsOfWords xs 0x44 0x46
    depth := (st.extractLsb' 8 4).toNat
    dfovf := st.getLsbD 1
    tl := Vector.ofFn fun i : Fin 4 => saveWord xs (0x52 + i.val)
    issued := Vector.ofFn fun i : Fin 4 => saveWord xs (0x56 + i.val)
    waitlim := saveWord xs 0x5B &&& waitlimBits
    fpctl := saveWord xs 0x5C &&& fpctlBits
    fpflags := saveWord xs 0x5D &&& fpflagsBits
    thctl := saveWord xs 0x5E &&& thctlBits
    frame := a.frame.ofWords xs 0x60
    due := dueOf xs 0x68 a.due }

/-! ### The warp record (R131) -/

/-- The address of the record of a wide context (19_traps.md R422). -/
def State.warpAddr (s : State) (p : Place) : Nat :=
  s.recbase.toNat + warpOff p.cluster p.core p.ctx

/-- The words of a role with the shadow bit. -/
def Agent.roleWord (a : Agent) : DWord :=
  (0 : BitVec 61) ++ BitVec.ofBool (a.kind == .shadow)
    ++ (match a.role with | .load => (0 : BitVec 2) | .store => 1 | .comp => 2)

/-- A PC slot's two words. -/
def slotWords (p : Option Path) : List DWord :=
  match p with
  | some p => [p.pc, p.mask.setWidth 64]
  | none => [0, 0]

/-- The 1,216 words of a warp record. -/
def State.warpWords (s : State) (a : Agent) : List DWord :=
  let ls := (List.range 32).map a.lane
  let preds : List DWord := (List.range 8).map fun k =>
    ((a.lane (4 * k + 3)).p ++ (a.lane (4 * k + 2)).p ++ (a.lane (4 * k + 1)).p ++ (a.lane (4 * k)).p : BitVec 64)
  ls.flatMap Lane.regWords ++ ls.map (·.full) ++ ls.map (·.ltime) ++ (List.range 32).map (s.watchst a) ++ preds
    ++ a.s.toList ++ slotWords a.slotA ++ slotWords a.slotB
    ++ [BitVec.ofNat 64 a.stack.length] ++ a.loopPart ++ a.tl.toList ++ a.issued.toList
    ++ [a.waitlim, a.fpctl, a.fpflags, a.thctl, a.roleWord, a.leafdesc, s.ganginfo a 0, a.stateWord false]
    ++ a.frameWords 0 ++ [0] ++ dueWords a.due

/-- The poisoned sectors of a warp record. -/
def Agent.warpBad (a : Agent) (k : Nat) : Bool :=
  if k < 512 then (a.lane (k / 16)).bad.extractLsb' (4 * (k % 16)) 4 != 0
  else if 0x230 ≤ k ∧ k < 0x234 then (List.range 8).any fun i => (a.lane (8 * (k - 0x230) + i)).pbad != 0
  else 0x234 ≤ k && k < 0x244 && a.sBad.extractLsb' (2 * (k - 0x234)) 2 != 0

/-- The sectors of a warp record. -/
def State.warpRec (s : State) (a : Agent) : List (Nat × Chunk) := chunksOf (s.warpWords a) a.warpBad

/-- The checks of a restore of a warp record (R133). -/
def warpOk (xs : List Chunk) : Bool :=
  decide (((saveWord xs 0x48D).extractLsb' 4 3).toNat ≤ 4) && decide (((saveWord xs 0x4A9).extractLsb' 8 4).toNat ≤ 8)
    && (saveWord xs 0x4A6).extractLsb' 0 2 != 3 && decide ((saveWord xs 0x48C).toNat ≤ 32)
    && lo32 (saveWord xs 0x489) &&& lo32 (saveWord xs 0x48B) == 0

/-- A sector of a warp record that every path of the warp reads from, other than those of the registers, holds poison: `LTIME`,
`WATCHST`, and what follows the PC slots (19_traps.md R429; log entry 66). -/
def warpSpoilt (xs : List Chunk) : Bool :=
  ((List.range 32).any fun k => saveBad xs (0x420 + 2 * k)) || (List.range 26).any fun k => saveBad xs (0x48C + 2 * k)

/-- A path of a restored slot: the device's part of it is kept. -/
def slotOfWords (p : Option Path) (xs : List Chunk) (k : Nat) (live : Mask) : Option Path :=
  let m := lo32 (saveWord xs (k + 1)) &&& live
  if m = 0 then none
  else some { p.getD (Path.fresh 0 0 .user) with pc := saveWord xs k, mask := m, buf := [], spoilt := saveBad xs k || warpSpoilt xs }

/-- The device's part of the divergence stack for a count of records. -/
def stackOf (old : List Path) (n : Nat) : List Path :=
  if n ≤ old.length then old.drop (old.length - n) else List.replicate (n - old.length) (Path.fresh 0 0 .user) ++ old

/-- A warp in the state of a record. `GANGINFO` of lane 0 is not taken from it: a coach's lane count and its lanes' callers are the
device's own (0 and none in a record that no spilled unit has), and so is which of a pair is the shadow wave; the mask of a PC
slot is cut to the lanes that live: DESIGN CHOICE, log entry 68. -/
def Agent.ofWarp (a : Agent) (xs : List Chunk) : Agent :=
  let rrb := saveWord xs 0x48D
  let st := saveWord xs 0x4A9
  let role := (saveWord xs 0x4A6).extractLsb' 0 2
  { a with
    lanes := (List.range 32).map fun l =>
      let w := saveWord xs (0x440 + l)
      let ln := ((a.lane l).ofWords xs (32 * l) (0x400 + l)
        ((saveWord xs (0x460 + l / 4)).extractLsb' (16 * (l % 4)) 16)).watchOf w
      let ln := if l = 0 then ln.ofTstatus (saveWord xs 0x4AD) else ln
      { ln with ltime := saveWord xs (0x420 + l), struck := w.getLsbD 5
                pbad := if saveBad xs (0x460 + l / 4) then 0xFFFE else 0 }
    s := Vector.ofFn fun i : Fin 32 => saveWord xs (0x468 + i.val)
    sGone := []
    sBad := a.sBad &&& 0x100000000 ||| BitVec.ofNat 33 (((List.range 32).filter fun i => saveBad xs (0x468 + i)).foldl (fun m i => m + 2 ^ i) 0)
    slotA := slotOfWords a.slotA xs 0x488 a.live
    slotB := slotOfWords a.slotB xs 0x48A a.live
    stack := stackOf a.stack (saveWord xs 0x48C).toNat
    rrb := rrb.extractLsb' 0 4
    loops := loopsOfWords xs 0x48D 0x48E
    tl := Vector.ofFn fun i : Fin 4 => saveWord xs (0x49A + i.val)
    issued := Vector.ofFn fun i : Fin 4 => saveWord xs (0x49E + i.val)
    waitlim := saveWord xs 0x4A2 &&& waitlimBits
    fpctl := saveWord xs 0x4A3 &&& fpctlBits
    fpflags := saveWord xs 0x4A4 &&& fpflagsBits
    thctl := saveWord xs 0x4A5 &&& thctlBits
    role := if role = 0 then .load else if role = 1 then .store else .comp
    kind := if (saveWord xs 0x4A6).getLsbD 2 && a.partner.isNone then .shadow else a.kind
    leafdesc := saveWord xs 0x4A7
    depth := (st.extractLsb' 8 4).toNat
    dfovf := st.getLsbD 1
    frame := a.frame.ofWords xs 0x4AA
    due := dueOf xs 0x4B0 a.due }

/-! ### Producers and creep -/

/-- A register of a unit waits for a producer that is not a parked access: a load, an access of another store, an atomic, a tag,
an engine command, a tile operation (R129). -/
def State.producing (s : State) (a : Agent) : Bool :=
  !(s.cmdsOf a.uid).isEmpty || s.mops.any (·.uid == a.uid) || s.watches.any (·.uid == a.uid)
    || (s.pendings.any fun p => p.uid == a.uid && match p.kind with | .cntw .. => false | _ => true)
    || s.loads.any (fun l => l.uid == a.uid && l.kind != LoadKind.held) || s.writes.any (·.uid == a.uid)
    || s.reqs.any (fun r => r.uid == a.uid && r.cluster != 64) || s.reps.any (·.uid == a.uid)
    || s.remotes.any (fun r => r.uid == a.uid && !(r.holds && r.acc.syncs)) || s.rreplies.any (·.uid == a.uid)
    || s.winReqs.any (·.uid == a.uid) || (s.arrivals.any fun x => match x.spawner with | some (u, _) => u == a.uid | none => false)

/-- Step 3 of 19_traps.md R424: acknowledgements, watch entries and every pending producer have completed, and what is parked is
withdrawn. -/
def State.settled (s : State) (a : Agent) : Bool :=
  a.acks == 0 && !s.producing a && s.pendings.all (·.uid != a.uid) && s.loads.all (·.uid != a.uid)
    && s.remotes.all (·.uid != a.uid) && s.parked.all (·.uid != a.uid) && s.walks.all fun w => !w.waiters.any (·.1 == a.uid)

/-- The creep due for the cycles that a unit has been out or on its way (02_lines_and_homes.md R52): its lanes' times, and the
cycle of its new die from which the next step counts; the dies' counts are not aligned (06_registers.md R127). -/
def State.creepDue (s : State) (a : Agent) (p : Place) : List Lane :=
  a.lanes.map fun ln =>
    let n := (s.now a.place.cluster - ln.crept) / 4096
    { ln with ltime := ln.ltime + BitVec.ofNat 64 (n * s.creepStep a.job)
              crept := s.now p.cluster - (s.now a.place.cluster - ln.crept) % 4096 }

/-- The entry of a coach lane's fault is written in its caller's record in memory, at offset 0x328 (15_travellers.md R341); one
whose home cannot serve it yet stays to be written. -/
def State.writeCoachFaults (s : State) : State :=
  s.coachFaults.foldl (fun s u =>
    match s.agent? u with
    | none => s
    | some a =>
      let f := (a.lane 0).cfault
      let pa := s.travAddr a.home + 0x328
      let bytes := toBytes 8 f.1.toNat ++ toBytes 8 f.2.1.toNat ++ toBytes 8 f.2.2.toNat
      match (if homed pa then s.storeNow a.home.cluster (pa / 128) (s.ctimeOf a.home.cluster) (pa % 128) bytes false
             else .ok (s, 0)) with
      | .ok r => if homed pa then r.1.writeBackNow a.home.cluster (pa / 128) else r.1
      | .error l => let s := s.nudge l; { s with coachFaults := s.coachFaults ++ [u] }) { s with coachFaults := [] }

/-! ### Slots -/

/-- The unit stands in its slot or context. -/
def Agent.inSlot (a : Agent) : Bool := a.status == .issuing || a.status == .inInn || a.status == .halted

/-- The unit's record is in the swap area (18_scheduling.md R409). -/
def Agent.isSwapped (a : Agent) : Bool := a.status == .swapped || a.status == .haltedOut

/-- The unit has taken a double trap (19_traps.md R418). -/
def Agent.isHalted (a : Agent) : Bool := a.status == .halted || a.status == .haltedOut

/-- The unit holds a context of its wide core, resident or swapped (18_scheduling.md R409). -/
def Agent.admitted (a : Agent) : Bool := a.inSlot || a.isSwapped

/-- The home slot of a unit is lent (19_traps.md R428): the unit is spilled, its job has no context in the cluster and has given
up the cluster's bit of `CLMASK`. Firmware lends whenever it may: DESIGN CHOICE, log entry 69. -/
def State.lent (s : State) (a : Agent) : Bool :=
  a.status == .spilled && !(s.job a.job).clmask.getLsbD a.home.cluster
    && s.agents.all fun b => b.job != a.job || b.place.cluster != a.home.cluster || !b.admitted

/-- A unit holds a barrel slot: it stands there, or the slot is its home (15_travellers.md R331) and is not lent. -/
def State.holdsSlot (s : State) (p : Place) (a : Agent) : Bool :=
  !a.wide && ((a.home == p && !s.lent a) || (a.inSlot && a.place == p))

/-- A barrel slot is held. -/
def State.slotTaken (s : State) (p : Place) : Bool := s.agents.any (s.holdsSlot p)

/-- The free user slots of a barrel core, ascending; those that its ready ring takes first are not among them
(18_scheduling.md R399). -/
def State.freeSlots (s : State) (c : CoreId) : List Nat :=
  ((List.range 15).filter fun k => !s.slotTaken ⟨c.cluster, c.core, k⟩).drop (s.ringOf c).length

/-- The slot that an arrival or a new unit of a cluster takes: of the core with the most free user slots, the lowest
(R343). -/
def State.bestSlot (s : State) (cluster : Nat) : Option Place :=
  let r := (List.range 32).foldl (fun (r : Option (Nat × List Nat)) k =>
    let f := s.freeSlots ⟨cluster, k⟩
    match r with
    | some (_, g) => if g.length < f.length then some (k, f) else r
    | none => if f.isEmpty then none else some (k, f)) none
  r.bind fun x => x.2.head?.map fun i => ⟨cluster, x.1, i⟩

/-- A unit of a job takes a barrel slot: the region of the slot is zeroed when the previous occupant belonged to another
job (R399). -/
def State.claimSlot (s : State) (p : Place) (job : Nat) : State :=
  let k := (p.cluster * 64 + p.core) * 16 + p.ctx
  let old := sget 0 k s.regionJob
  let s := if old ≠ 0 ∧ old ≠ job + 1 then s.zeroLocal p.coreId (0x1000 * p.ctx) 0x1000 else s
  { s with regionJob := sput 0 k (job + 1) s.regionJob }

/-- The units of a wide core that hold a context. -/
def State.contexts (s : State) (c : CoreId) : List Agent := s.agents.filter fun a => a.place.coreId == c && a.admitted

/-- The resident warps of a wide core. -/
def State.residents (s : State) (c : CoreId) : Nat := ((s.contexts c).filter (·.inSlot)).length

/-- The free contexts of a wide core. -/
def State.freeContexts (s : State) (c : CoreId) : List Nat :=
  (List.range 32).filter fun k => (s.contexts c).all fun a => a.place.ctx != k

/-- The wide core of a cluster with at least `n` free contexts and the fewest resident warps, the lowest of equals (R336). -/
def State.bestCore (s : State) (cluster n : Nat) : Option Nat :=
  (((List.range 4).map (32 + ·)).filter fun k => n ≤ (s.freeContexts ⟨cluster, k⟩).length).foldl
    (fun (r : Option Nat) k => match r with
      | none => some k
      | some j => if s.residents ⟨cluster, k⟩ < s.residents ⟨cluster, j⟩ then some k else r) none

/-- A free context of a wide core; which one is open. -/
def State.pickContext (s : State) (c : CoreId) : State × Nat :=
  let f := s.freeContexts c
  let r := s.chooseNat f.length
  (r.2, f.getD r.1 0)

/-- How a unit that gets a context starts: resident while the core holds fewer than 16, else swapped (R409). -/
def State.startStatus (s : State) (c : CoreId) : UStatus := if s.residents c < 16 then .issuing else .swapped

/-- A part of the swap area of a core that no swapped warp uses. -/
def State.freeArea (s : State) (c : CoreId) : Nat :=
  ((List.range 16).find? fun k => s.agents.all fun a => !(a.isSwapped && a.place.coreId == c && a.area == k)).getD 0

/-- The bytes of a warp's record. -/
def State.warpBytes (s : State) (a : Agent) : List Byte := (s.warpWords a).flatMap fun w => toBytes 8 w.toNat

/-- A unit that is swapped has its record in the swap area (R409). -/
def State.writeSwap (s : State) (uid area : Nat) : State :=
  match s.agent? uid with
  | none => s
  | some a =>
    let s := s.putLbytes a.place.coreId (0x54000 + 0x2800 * area) (s.warpBytes a) false
    s.setAgent { a with status := if a.status = .halted then .haltedOut else .swapped, area := area }

end Sys2Proof.Machine
end

