-- ==== Sys2Proof/Machine/Inn.lean ====
section
/-! DEFINITION. The Inn and moves: leaf descriptors, gang calls, rooms, coaches, `RETG` (15_travellers.md R331-R341,
08_encoding.md R183, R184, 17_isa_control.md R370-R372, 18_scheduling.md R408), and `MIGRATE`, `ROUTE`, `RETHOME`, the route
table and its counters (15_travellers.md R342-R345, 17_isa_control.md R375-R377). -/

namespace Sys2Proof.Machine

/-! ### Leaf descriptors (08_encoding.md R183, R184) -/

/-- Reading a descriptor: none where a check of R184 after the alignment fails. -/
def leafOf (addr : DWord) (bs : List Byte) : Option Leaf :=
  let entry := dwAt bs 0
  let shadow := dwAt bs 8
  let f := dwAt bs 16
  let n (lo w : Nat) : Nat := (f.extractLsb' lo w).toNat
  let regs := n 48 7
  let depart := n 0 6
  let maxg := n 8 6
  if n 58 6 ≠ 0 ∨ n 55 1 ≠ 0 ∨ n 42 6 ≠ 0 ∨ n 14 2 ≠ 0 ∨ n 6 2 ≠ 0 ∨ dwAt bs 24 ≠ 0 ∨ 1 < n 56 2 ∨ n 40 2 = 3
      ∨ entry = 0 ∨ targetOk entry = false ∨ targetOk shadow = false ∨ (shadow ≠ 0 ∧ n 40 2 ≠ 2)
      ∨ ¬ (regs = 32 ∨ regs = 48 ∨ regs = 64) ∨ n 16 24 = 0 ∨ depart = 0 ∨ 32 < depart ∨ maxg < depart ∨ 32 < maxg then none
  else some ⟨addr, entry, shadow, n 56 2, regs, n 40 2, n 16 24, maxg, depart, (List.range 8).map fun k => wordAt bs (32 + 4 * k)⟩

/-! ### Rooms (R333-R335) -/

/-- A unit of a cluster that counts for R335 is Issuing: a path of it runs and waits for nothing. One held at an instruction by a wait
that the table of R331 does not list as Parked (a translation walk, a read that the instruction has begun, a hold of a tile
instruction or of Waymark) counts as waiting too: DESIGN CHOICE, log entry 67. -/
def State.someIssuing (s : State) (cluster : Nat) : Bool :=
  s.agents.any fun a => a.place.cluster == cluster && a.status == .issuing
    && (a.kind == .traveller || a.kind == .codelet || a.kind == .warp || a.kind == .coach)
    && (a.slotA.toList ++ a.slotB.toList).any fun p => p.mode == .run && p.wait.isNone

/-- The cycle at which a room's oldest caller parked. -/
def Room.oldest (r : Room) : Nat := (r.callers.head?.map (·.since)).getD 0

/-- A room is eligible to depart, or a condition of R335 makes it so now. -/
def State.roomEligible (s : State) (r : Room) : Bool :=
  r.eligible || decide (r.leaf.depart ≤ r.callers.length) || decide (r.oldest + r.leaf.limit ≤ s.now r.cluster)
    || !s.someIssuing r.cluster || s.roomWaits.any (·.cluster == r.cluster)

/-- The rooms of a cluster that R335 makes eligible now stay so. -/
def State.noteRooms (s : State) (cluster : Nat) : State :=
  { s with rooms := s.rooms.map fun r => if r.cluster = cluster then { r with eligible := s.roomEligible r } else r }

/-- A caller takes a place: the oldest open room of its descriptor, key and job, else the lowest free room (R333, R334).
None where it has to wait. The cycle at which it parks is that of its place. A barrel traveller is then In the Inn. -/
def State.seat (s : State) (w : RoomWait) : Option State :=
  let w := { w with caller := { w.caller with since := s.now w.cluster } }
  let isOpen (r : Room) : Bool :=
    r.cluster == w.cluster && r.leaf.addr == w.leaf.addr && r.key == w.key && r.job == w.job && decide (r.callers.length < r.leaf.maxg)
  let s' := s.updAgent w.caller.uid fun a => if a.wide then a else { a with status := .inInn }
  match s.rooms.find? isOpen with
  | some r => some { s' with rooms := s.rooms.map fun x =>
      if x.cluster = r.cluster ∧ x.room = r.room then { x with callers := x.callers ++ [w.caller] } else x }
  | none =>
    match (List.range 128).find? fun k => s.rooms.all fun r => r.cluster != w.cluster || r.room != k with
    | some k => some { s' with rooms := s.rooms ++ [⟨w.cluster, k, w.leaf, w.key, w.job, [w.caller], false⟩] }
    | none => none

/-- Callers that wait for a room take places in first-come order (R334). -/
def State.seatWaiters (s : State) (cluster : Nat) : State :=
  (s.roomWaits.filter (·.cluster == cluster)).foldl (fun s w =>
    match s.seat w with
    | some s => { s with roomWaits := s.roomWaits.filter (· != w) }
    | none => s) s

/-- A lane leaves the Inn without a return: its room or its wait (R370). It is parked there no longer. -/
def State.leaveInn (s : State) (uid l : Nat) : State :=
  let mine (x : Caller) : Bool := x.uid == uid && x.lane == l
  let rooms := (s.rooms.map fun r => { r with callers := r.callers.filter fun x => !mine x }).filter fun r => !r.callers.isEmpty
  let freed := (s.rooms.filter fun r => r.callers.all mine).map (·.cluster)
  let seated := s.rooms.any (fun r => r.callers.any mine) || s.roomWaits.any fun w => mine w.caller
  let s := { s with rooms := rooms, roomWaits := s.roomWaits.filter fun w => !mine w.caller }
  let s := s.updLane uid l fun ln => { ln with chain := none, takes := [] }
  let s := if seated then s.updAgent uid fun a => a.mapPaths fun p => { p with parked := p.parked &&& ~~~(laneBit l) } else s
  freed.foldl (fun s k => s.seatWaiters k) s

/-! ### `GCALL`, `GCALLI` (R334, R340, R370) -/

/-- The due faults of a lane are delivered once every command of its unit has completed (05_engines.md R108). -/
def State.duePart (s : State) (c : Ctx) (l : Nat) : State × Chk Unit :=
  if !(s.cmdsOf c.uid).isEmpty then (s, .wait .order)
  else
    match s.agent? c.uid with
    | none => (s, .ok ())
    | some a =>
      match firstDue (a.due.filter (·.lane == l)) with
      | some d => (s, .due (some d))
      | none => (s, if a.dfovf && !(a.due.any fun d => c.act.getLsbD d.lane) then .due none else .ok ())

/-- Some low registers of a lane are read as in mode 00 (R334, R339). -/
def lowRegs (n : Nat) : List Opnd := (List.range n).map fun i => (rd (BitVec.ofNat 6 i)).w1

/-- The wait for some low registers. -/
def State.lowReady (s : State) (c : Ctx) (l n : Nat) : State × Chk Unit :=
  (s, match s.ready c l (lowRegs n) [] [] with
      | .ok => .ok ()
      | .wait k => .wait k
      | .fault x ue t => .fault x t ue
      | .due d => .due d)

/-- Steps 1 to 4 of R334 for a lane. -/
def State.callCheck (s : State) (c : Ctx) (l : Nat) (addr : DWord) (key : Word) : State × Chk (Leaf × Word) :=
  if addr.toNat % 64 ≠ 0 then (s, .fault 0x17 0 0)
  else
    chkThen (s.heldPeek c l 1 addr 64 none) fun s bs =>
      match leafOf addr bs with
      | none => (s, .fault 0x17 0 0)
      | some lf =>
        if 8 ≤ c.a.depth then (s, .fault 0x15 0 0)
        else chkThen (s.duePart c l) fun s _ => chkThen (s.releaseCheck c l .clu) fun s _ =>
          chkThen (s.lowReady c l 16) fun s _ => (s, .ok (lf, key))

/-- Step 5 of R334: the lane parks. -/
def State.park (s : State) (c : Ctx) (os : List Opnd) (l : Nat) (r : Leaf × Word) : State :=
  let s := s.dropHeld c.uid (laneBit l)
  let s := (s.acquireTokens c l (os ++ lowRegs 16)).updLane c.uid l fun ln =>
    { ln.tokenTimes c.rrb (os ++ lowRegs 16) with takes := c.consumed os, chain := none }
  let s := s.updPath c.uid c.b fun p => p.lanePark l
  let w : RoomWait := ⟨c.cluster, ⟨c.uid, l, s.now c.cluster⟩, r.1, r.2, c.a.job⟩
  match s.seat w with
  | some s => s
  | none => { s with roomWaits := s.roomWaits ++ [w] }

/-- A gang call; `same` asks for one descriptor address among the lanes whose operands are readable (R340): where they differ,
those lanes take cause 0x1B together, beside the causes of the others. -/
def gangExec (same : Bool) (a b : Src) (c : Ctx) (s : State) : State :=
  let os := [a.w2, b.w1]
  let st := s.stand c os [] []
  let good := (Mask.list c.act).filter fun l => st.faults.all fun x => x.lane != l
  let addrs := distinct (good.map fun l => (l, c.value l a.w2))
  if c.a.kind == .codelet then s.faultAll c 0x18 0
  else if same && (c.p.done ||| c.p.parked) == 0 && st.wait.isNone && decide (1 < addrs.length) then
    if st.faults.isEmpty then s.faultAll c 0x1B 0
    else s.faultSome c (st.faults ++ lanesFault (Mask.ofList good) 0x1B 0) none
  else
    let wait (s : State) : WaitKind := if s.roomWaits.any (·.caller.uid == c.uid) then .room else .inn
    (parkExec wait os [] (fun c s l x => s.callCheck c l (x.v 0) (x.w 1)) (fun c s l r => s.park c os l r) c s).noteRooms c.cluster

/-- `GCALL`. -/
def execGcall (g : Guard) (a b : Src) (s : State) : Host.Outcome State Fault Refusal :=
  issue (.gcall g a b) g s (gangExec true a b)

/-- `GCALLI`. -/
def execGcalli (g : Guard) (a b : Src) (s : State) : Host.Outcome State Fault Refusal :=
  issue (.gcalli g a b) g s (gangExec false a b)

/-! ### Departure (R336, R337, 18_scheduling.md R408) -/

/-- The contexts that a room's coach takes. -/
def Room.needs (r : Room) : Nat := if r.leaf.shadow = 0 then 1 else 2

/-- A room comes before another (R336): late ones by their oldest caller, then by how full they are, then by their oldest
caller. -/
def Room.before (now : Nat) (x y : Room) : Bool :=
  let late (r : Room) : Bool := decide (r.oldest + 2 * r.leaf.limit ≤ now)
  if late x && late y then decide (x.oldest < y.oldest)
  else if late x != late y then late x
  else if x.callers.length ≠ y.callers.length then decide (y.callers.length < x.callers.length)
  else decide (x.oldest < y.oldest)

/-- Inserting a room in the order of departure. -/
def insertRoom (now : Nat) (x : Room) : List Room → List Room
  | [] => [x]
  | y :: ys => if x.before now y then x :: y :: ys else y :: insertRoom now x ys

/-- The eligible rooms of a cluster in the order of departure. -/
def State.roomOrder (s : State) (cluster : Nat) : List Room :=
  (s.rooms.filter fun r => r.cluster == cluster && r.eligible).foldl (fun l r => insertRoom (s.now cluster) r l) []

/-- The first room is late and waits for two contexts of one core: nothing else takes a context (R336). -/
def State.roomBlocks (s : State) (cluster : Nat) : Bool :=
  match s.roomOrder cluster with
  | r :: _ => decide (r.oldest + 2 * r.leaf.limit ≤ s.now cluster) && r.needs == 2 && (s.bestCore cluster 2).isNone
  | [] => false

/-- The room that departs and its core. -/
def State.pickRoom (s : State) (cluster : Nat) : Option (Room × Nat) :=
  if s.roomBlocks cluster then none
  else (s.roomOrder cluster).findSome? fun r => (s.bestCore cluster r.needs).map fun k => (r, k)

/-- A lane of a coach from its caller (R337). -/
def Lane.ofCaller (x : Lane) (w : Caller) (t : DWord) (now : Nat) (gone : Bool) : Lane :=
  { Lane.fresh with
    g := Vector.ofFn fun i : Fin 64 => if i.val < 16 then x.g[i] else 0
    ltime := t, caller := some (w.uid, w.lane), crept := now, cancelled := gone }

/-- ROLE of a descriptor. -/
def roleOf (n : Nat) : Role := if n = 0 then .load else if n = 1 then .store else .comp

/-- The coach of a room (R337), on a context; `who` is the unit whose levels it reads (log entry 14). -/
def Room.coach (r : Room) (s : State) (uid : Nat) (place : Place) (st : UStatus) (who : Option Agent) : Agent :=
  let n := r.callers.length
  let now := s.now r.cluster
  let units := r.callers.map fun w => (w, s.agent? w.uid)
  let lanes := units.map fun x => (x.1, (x.2.map (·.lane x.1.lane)).getD Lane.fresh)
  let t := lanes.foldl (fun t x => tmax t x.2.soFar) 0
  let depth := units.foldl (fun m x => max m ((x.2.map (·.depth)).getD 0)) 0
  let m : Mask := BitVec.ofNat 32 (2 ^ n - 1)
  -- a coach lane whose outermost caller's level is cancelled (18_scheduling.md R405)
  let gone (w : Caller) : Bool := match (s.launchOf w.uid w.lane).2 with
    | some n => s.launches.any fun x => x.id == n && x.cancelled
    | none => false
  let sv (i : Nat) : DWord :=
    if i < 8 then (r.leaf.sw.getD i 0).setWidth 64 else if i = 8 then r.key.setWidth 64
    else if i = 9 then BitVec.ofNat 64 n else 0
  { Agent.fresh uid r.job .coach place 32 r.leaf.entry .user with
    status := st, live := m, slotA := some (Path.fresh r.leaf.entry m .user)
    lanes := ((lanes.map fun (x : Caller × Lane) => Lane.ofCaller x.2 x.1 t now (gone x.1))
      ++ List.replicate 32 { Lane.fresh with ltime := t, crept := now }).take 32
    s := Vector.ofFn fun i : Fin 32 => sv i.val
    role := roleOf r.leaf.role, depth := depth + 1, count := n, leafdesc := r.leaf.addr, fmode := r.leaf.fmode
    regs := r.leaf.regs, launch := who.bind (·.launch), levelids := (who.map (·.levelids)).getD 0, idleSince := now }

/-- The shadow wave of a coach, on a second context (18_scheduling.md R408). -/
def Agent.shadowOf (a : Agent) (uid : Nat) (place : Place) (st : UStatus) (pc : DWord) : Agent :=
  { a with uid := uid, kind := .shadow, place := place, home := place, status := st, role := .load, partner := some a.uid
           slotA := some (Path.fresh pc a.live .user), lanes := a.lanes.map fun ln => { ln with caller := none } }

/-- A room departs to a wide core: it is freed, its coach starts, its callers' chain pointers name their lanes (R332). -/
def State.depart (s : State) (r : Room) (core : Nat) : State :=
  let k : CoreId := ⟨r.cluster, core⟩
  let s := { s with rooms := s.rooms.filter fun x => !(x.cluster == r.cluster && x.room == r.room) }
  let who (w : Caller) : Option Agent := s.agent? (State.outermost 20 s w.uid w.lane).1
  let ls := r.callers.filterMap fun w => (who w).bind Agent.unitOf
  let s := { s with launches := s.launches.map fun (x : Launch) => if ls.contains x.id then { x with quietSince := none } else x }
  let q := s.chooseNat r.callers.length
  let who := (r.callers[q.1]?).bind fun w => q.2.agent? (State.outermost 20 q.2 w.uid w.lane).1
  let x := q.2.pickContext k
  let u := x.1.nextId
  let st := x.1.startStatus k
  let co := r.coach x.1 u ⟨r.cluster, core, x.2⟩ .issuing who
  let s := { x.1 with agents := x.1.agents ++ [co], nextId := u + 2 }
  let s := (r.callers.zipIdx).foldl (fun s w =>
    s.updLane w.1.uid w.1.lane fun ln => { ln with chain := some (co.selfId w.2) }) s
  let swap (s : State) (u : Nat) (st : UStatus) : State := if st = .swapped then s.writeSwap u (s.freeArea k) else s
  let s := if r.leaf.shadow = 0 then swap s u st
    else
      let s := swap s u st
      let y := s.pickContext k
      let sh := co.shadowOf (u + 1) ⟨r.cluster, core, y.2⟩ .issuing r.leaf.shadow
      let st := y.1.startStatus k
      let s := y.1.updAgent u fun a => { a with partner := some (u + 1) }
      swap { s with agents := s.agents ++ [sh] } (u + 1) st
  (s.tally r.cluster 0x09 1).seatWaiters r.cluster

/-- `ROOM_LIMIT`: rooms of a cluster become eligible by R335; its row names one that has reached LIMIT. -/
def execRoomLimit (cluster room : Nat) (s : State) : Host.Outcome State Fault Refusal :=
  .next (if s.rooms.any fun r => r.cluster == cluster && r.room == room then s.noteRooms cluster else s)

/-- `ROOM_DEPART`: the room and the core that R336 chooses, one in a cycle. -/
def execRoomDepart (cluster room core : Nat) (s : State) : Host.Outcome State Fault Refusal :=
  let s := s.noteRooms cluster
  let now := s.now cluster + 1
  match (if sget 0 cluster s.departs = now then none else s.pickRoom cluster) with
  | some (r, k) =>
    .next (if r.room = room ∧ k = core then { s.depart r k with departs := sput 0 cluster now s.departs } else s)
  | none => .next s

/-! ### `RETG` (R339, R341, R371) -/

/-- The sectors of a spilled caller's record that a return writes (R371). -/
def returnPart (k : Nat) : Bool := k < 2 || (0x20 ≤ k && k ≤ 0x28) || k == 0x2F

/-- A path whose gang call every lane has come back from goes on after it (R340, R370): what any of its lanes has got from its
coach comes before what the path does next (14_memory_model.md R323). -/
def State.finishCall (s : State) (uid : Nat) (b : Bool) : State :=
  match s.agent? uid with
  | none => s
  | some a =>
    match a.slot b with
    | none => s
    | some p =>
      if (p.wait.map (·.kind) = some .inn ∨ p.wait.map (·.kind) = some .room) ∧ p.done &&& p.mask ≠ 0
          ∧ p.parked &&& p.mask = 0 then
        let a := a.level p.mask
        let c : Ctx := ⟨uid, b, a, p, p.mask, p.pc + 8⟩
        if c.clash then (s.setAgent a).clashFault c
        else
          let r := backEdge p.act (a.loopsOf p.act).length a c.npc
          ((s.setAgent r.1).updPath uid b fun p => { p.goto r.2 with wait := none, done := 0, parked := 0 }).settle uid
      else s

/-- The caller of a lane, changed by the lane's return: `g0`-`g7`, its time, its path. A caller that a cancel has taken
keeps its state (R371). -/
def State.giveBack (s : State) (cu cl : Nat) (vals : List Word) (t : DWord) : State :=
  match s.agent? cu with
  | none => s
  | some c =>
    if (c.lane cl).chain.isNone then s
    else
      let s := s.updLane cu cl fun ln =>
        let ln := ln.takes.foldl (fun ln r => ln.setEmpty (Fin.ofNat 64 r)) ln
        let ln := vals.zipIdx.foldl (fun ln x => ln.setReg (Fin.ofNat 64 x.2) x.1) ln
        { ln with ltime := tmax ln.ltime t, chain := none, takes := [] }
      let s := s.updAgent cu fun a =>
        { a.mapPaths fun p => p.laneDone cl with status := if a.status = .inInn then .issuing else a.status }
      let s := (s.finishCall cu false).finishCall cu true
      if c.status = .spilled then
        match s.agent? cu with
        | none => s
        | some a =>
          match s.physWrite a.home.cluster (s.travAddr a.home) ((s.travRec a).filter fun x => returnPart x.1) with
          | .ok s => s
          | .error _ => s
      else s

/-- A spilled caller's record can be written now (R371); otherwise the return waits. -/
def State.recordReady (s : State) (c : Ctx) (l : Nat) : State × Chk Unit :=
  match ((c.a.lane l).caller).bind fun x => s.agent? x.1 with
  | none => (s, .ok ())
  | some a =>
    if a.status = .spilled then
      match s.physWrite a.home.cluster (s.travAddr a.home) ((s.travRec a).filter fun x => returnPart x.1) with
      | .ok _ => (s, .ok ())
      | .error ln => (s.nudge ln, .wait .order)
    else (s, .ok ())

/-- An instruction that ends the lanes that pass its checks, one by one: they perform and leave the unit at once; the others
wait, take their causes or, with a false guard, go on. -/
def endExec (check : Ctx → State → Nat → State × Chk Unit) (perform : Ctx → State → Nat → State) (c : Ctx) (s : State) :
    State :=
  let r := checkLanes (check c) (Mask.list c.act) s
  let fs := r.2.2.1
  let out := r.2.1.map (·.1)
  let m := Mask.ofList out
  let c' := { c with p := { c.p with mask := c.p.mask &&& ~~~m }, act := c.act &&& ~~~m }
  let s := (out.foldl (fun s l => perform c s l) r.1).dropLanes c.uid m
  let s := if c'.p.mask = 0 then s
    else if !fs.isEmpty then s.faultSome c' fs r.2.2.2
    else
      match r.2.2.2 with
      | some k => s.waitFor c k
      | none => s.completeWith c' id
  s.retireIfEmpty c.uid

/-- A handler's path has ended without `ERET`: the paths that it held go on (19_traps.md R420). -/
def State.endHandler (s : State) (uid : Nat) : State :=
  s.updAgent uid fun a =>
    { a.mapPaths fun q => if q.mode = .held ∧ q.hold = none then { q with mode := .run } else q with
      hrrb := 0, hloops := [], sloops := [] }

/-- `RETG` (R339) ends its lanes one at a time, with no check of the loop stack (16_loops.md R356); in a handler of FMODE 01 the
lane ends with its saved cause (R341); a shadow lane returns nothing (18_scheduling.md R408). -/
def execRetg (g : Guard) (s : State) : Host.Outcome State Fault Refusal :=
  issue (.retg g) g s fun c s =>
    let co := c.a.kind == .coach
    if !co && c.a.kind != .shadow then s.faultAll c 0x1A 0
    else if c.p.act then
      let f := c.a.frame
      let s := endExec (fun c s l => s.releaseCheck c l .clu) (fun c s l => s.leaveCoach c.a l f.cause f.epc f.tval) c s
      match s.agent? c.uid with
      | some a => if a.paths.all (!·.act) then s.endHandler c.uid else s
      | none => s
    else
      endExec (fun c s l =>
          chkThen (s.duePart c l) fun s _ => chkThen (s.releaseCheck c l .clu) fun s _ =>
            if co then chkThen (s.lowReady c l 8) fun s _ => s.recordReady c l else (s, .ok ()))
        (fun c s l =>
          let s := (s.acquireTokens c l (lowRegs 8)).levelAll c.uid l
          match (if co then (c.a.lane l).caller else none), s.agent? c.uid with
          | some (cu, cl), some a =>
            let ln := (a.lane l).tokenTimes c.rrb (lowRegs 8)
            s.giveBack cu cl ((List.range 8).map fun i => ln.reg (Fin.ofNat 64 i)) ln.ltime
          | _, _ => s) c s

/-- `INNFLUSH` (R372). -/
def execInnflush (s : State) : Host.Outcome State Fault Refusal :=
  issue .innflush Guard.always s fun c s =>
    s.completeWith c fun s => { s with rooms := s.rooms.map fun (r : Room) =>
      if r.cluster = c.cluster then { r with eligible := true } else r }

/-! ### Moves (R342-R345, R375) -/

/-- A route counter (R345). -/
def State.routeCount (s : State) (cluster e : Nat) : Word := sget 0 (1024 * cluster + e) s.routeCnt

/-- A `ROUTE` arrival is accepted (R345). -/
def State.countRoute (s : State) (cluster : Nat) (e : Option Nat) : State :=
  match e with
  | none => s
  | some e =>
    let n := s.routeCount cluster e
    { s with routeCnt := sput 0 (1024 * cluster + e) (if n = 0xFFFFFFFF then n else n + 1) s.routeCnt }.tally cluster 0x0A 1

/-- A cluster of `CLMASK` (17_isa_control.md R378, 19_traps.md R412). -/
def State.maskCheck (s : State) (c : Ctx) (d : Nat) : State × Chk Nat :=
  (s, if d < 64 ∧ (s.job c.a.job).clmask.getLsbD d then .ok d else .fault 0x27 0 0)

/-- The destination check of a move (R342); the issuer's own cluster needs no mask bit: nothing
moves. -/
def State.destCheck (s : State) (c : Ctx) (d : Nat) : State × Chk Nat :=
  if d = c.cluster then (s, .ok d) else s.maskCheck c d

/-- The destination of a move to the home slot: in that slot itself nothing is checked. -/
def State.homeCheck (s : State) (c : Ctx) : State × Chk Nat :=
  if c.a.place = c.a.home then (s, .ok c.cluster) else s.maskCheck c c.a.home.cluster

/-- Steps 1 and 2 of R342. -/
def State.moveCheck (s : State) (c : Ctx) (l : Nat) : State × Chk Unit :=
  chkThen (s.duePart c l) fun s _ => s.releaseCheck c l .dev

/-- Steps 4 and 5 of R342: the context and the carry window leave. -/
def State.ship (s : State) (c : Ctx) (cluster : Nat) (toHome : Bool) (e : Option Nat) : State :=
  let p := c.a.place
  let ws := (List.range 128).map fun i => s.lword p.coreId (0x400 * p.ctx + i)
  let s := s.updAgent c.uid fun a => { a with status := .travelling, carry := ws, slotA := a.slotA.map fun q => { q with buf := [] } }
  { s with moves := s.moves ++ [⟨s.nextId, c.uid, cluster, toHome, e⟩], nextId := s.nextId + 1 }

/-- `MIGRATE`. -/
def execMigrate (g : Guard) (a : Src) (s : State) : Host.Outcome State Fault Refusal :=
  issue (.migrate g a) g s fun c s =>
    if c.a.kind == .codelet then s.faultAll c 0x18 0
    else memExec [a.w1] [] []
      (fun c s l x => chkThen (s.moveCheck c l) fun s _ => s.destCheck c (x.w 0).toNat)
      (fun c s _ d => if d = c.cluster then s else s.ship c d false none) c s

/-- An entry of the route table (R345): reserved bits clear. -/
def routeReserved (v : Word) : Bool := v &&& 0x7F00C0C0 != 0

/-- The cluster that an entry gives to a token (R345). -/
def routeDest (v : Word) (e tok : Word) : Nat :=
  let h := mix (tok.setWidth 64) e
  if (h.extractLsb' 0 8).toNat < (v.extractLsb' 16 8).toNat then (v.extractLsb' 8 6).toNat else (v.extractLsb' 0 6).toNat

/-- The address of an entry. -/
def State.routeVa (s : State) (c : Ctx) (e : Word) : DWord := (s.job c.a.job).routebase + 4 * e.setWidth 64

/-- `ROUTE`. -/
def execRoute (g : Guard) (a b : Src) (s : State) : Host.Outcome State Fault Refusal :=
  issue (.route g a b) g s fun c s =>
    if c.a.kind == .codelet then s.faultAll c 0x18 0
    else memExec [a.w1, b.w1] [] []
      (fun c s l x =>
        let e := x.w 0
        if 1024 ≤ e.toNat then (s, .fault 0x75 (e.setWidth 64) 0)
        else chkThen (s.heldPeek c l 4 (s.routeVa c e) 4 (some 0)) fun s bs =>
          let v := wordAt bs 0
          if v.getLsbD 31 = false ∨ routeReserved v then (s.dropHeld c.uid (laneBit l), .fault 0x75 (e.setWidth 64) 0)
          else
            match chkThen (s.moveCheck c l) fun s _ => s.destCheck c (routeDest v e (x.w 1)) with
            | (s, .ok d) => (s.dropHeld c.uid (laneBit l), .ok (d, e.toNat))
            | (s, .wait k) => (s, .wait k)
            | (s, r) => (s.dropHeld c.uid (laneBit l), chkMap r))
      (fun c s _ r => if r.1 = c.cluster then s.countRoute c.cluster (some r.2) else s.ship c r.1 false (some r.2)) c s
where
  /-- A result that is none. -/
  chkMap (r : Chk Nat) : Chk (Nat × Nat) :=
    match r with
    | .ok d => .ok (d, 0)
    | .wait k => .wait k
    | .fault x t u => .fault x t u
    | .due d => .due d

/-- `RETHOME`. -/
def execRethome (g : Guard) (s : State) : Host.Outcome State Fault Refusal :=
  issue (.rethome g) g s fun c s =>
    if c.a.kind == .codelet then s.faultAll c 0x18 0
    else memExec [] [] []
      (fun c s l _ => chkThen (s.moveCheck c l) fun s _ => s.homeCheck c)
      (fun c s _ d => if c.a.place = c.a.home then s else s.ship c d true none) c s

/-- A unit takes a barrel slot: the region is zeroed if need be, the carry window is written, it issues (R342). -/
def State.settleIn (s : State) (a : Agent) (p : Place) : State :=
  let s := s.claimSlot p a.job
  let s := (a.carry.zipIdx).foldl (fun s x => s.setLword p.coreId (0x400 * p.ctx + x.2) x.1) s
  let lanes := if 64 ≤ a.place.cluster then a.lanes.map fun ln => { ln with crept := s.now p.cluster } else s.creepDue a p
  s.setAgent { a with lanes := lanes, place := p, status := .issuing, carry := [], idleSince := s.now p.cluster }

/-- `MIGRATION_ARRIVAL` (R342-R344): the home slot, else the slot of R343, else the arrival list, with the record written. -/
def execMigrationArrival (mig : Nat) (s : State) : Host.Outcome State Fault Refusal :=
  match s.moves.find? (·.id == mig) with
  | none => .next s
  | some m =>
    let off (s : State) : State := { s with moves := s.moves.filter (·.id != mig) }
    match s.agent? m.uid with
    | none => .next (off s)
    | some a =>
      if m.toHome then .next ((off s).settleIn a a.home)
      else
        let queue := s.arrivals.any (·.cluster == m.cluster)
        match (if queue then none else s.bestSlot m.cluster) with
        | some p => .next (((off s).settleIn a p).countRoute m.cluster m.expert)
        | none =>
          match s.physWrite m.cluster (s.travAddr a.home) (s.travRec a) with
          | .error l => .next (s.nudge l)
          | .ok s =>
            let s := (off s).setAgent { a with status := .arrived }
            .next (({ s with arrivals := s.arrivals ++ [(⟨m.cluster, m.uid, none⟩ : Arrival)] } : State).countRoute m.cluster
              m.expert)

/-- `ARRIVAL_PLACEMENT` (R344): the oldest of a cluster's list takes a slot that is free; the spawner's tag register of a
child is written (17_isa_control.md R378). -/
def execArrivalPlacement (cluster core slot : Nat) (s : State) : Host.Outcome State Fault Refusal :=
  let p : Place := ⟨cluster, core, slot⟩
  match s.arrivals.find? (·.cluster == cluster) with
  | none => .next s
  | some w =>
    if s.bestSlot cluster ≠ some p then .next s
    else
      let s := { s with arrivals := s.arrivals.filter (·.uid != w.uid) }
      match s.agent? w.uid with
      | none => .next s
      | some a =>
        match w.spawner with
        | none => .next (s.settleIn a p)
        | some (u, l, r) =>
          let a := { a with home := p }
          let s := s.settleIn a p
          .next (s.fillRegs u l [(r, State.ownerTag 20 s { a with place := p } 0)])

/-! ### The route table and its counters (R376, R377) -/

/-- `ROUTESET` (R376). -/
def execRouteset (g : Guard) (a b : Src) (s : State) : Host.Outcome State Fault Refusal :=
  let o : Opnd := ⟨b, 1, true⟩
  issue (.routeset g a b) g s (memExec [a.w1, o] [] []
    (fun c s l x =>
      let e := x.w 0
      if 1024 ≤ e.toNat ∨ routeReserved (x.w 1) then (s, .fault 0x75 (e.setWidth 64) 0)
      else chkThen (s.storeCheck c l (s.routeVa c e) 4 false .dev) fun s segs =>
        (s, .ok (s.routeVa c e, segs, x.w 1, c.opndBad l o)))
    (fun c s l r => s.sendStore c l r.2.1 (toBytes 4 r.2.2.1.toNat) (some 0) false r.2.2.2 r.1))

/-- `RCSNAP` (R377): once per warp; the issuer is held until the words are written. -/
def execRcsnap (g : Guard) (lease : BitVec 3) (base : Src) (off : BitVec 16) (s : State) : Host.Outcome State Fault Refusal :=
  issue (.rcsnap g lease base off) g s fun c s =>
    let l := Mask.lowest c.act
    if c.p.done.getLsbD l then s.completeWith c id
    else if c.p.parked.getLsbD l then s.waitFor c .order
    else
      match s.ready c l [base.w2] [] [] with
      | .wait k => s.waitFor c k
      | .fault x ue t => s.faultAll c x t ue
      | .due d => let f := dueLFault l d; s.faultAll c f.cause f.tval 0 f.due
      | .ok =>
        let va := eaOf (c.value l base.w2) off
        match chkThen (s.placeCheck c { need := .wr, align := 16, localOnly := true } va 4096) fun s segs =>
            s.ownWriteCheck c segs with
        | (s, .wait k) => s.waitFor c k
        | (s, .fault x t ue) => s.faultAll c x t ue
        | (s, .due d) => let f := dueLFault l d; s.faultAll c f.cause f.tval 0 f.due
        | (s, .ok segs) =>
          if c.clash then s.clashFault c
          else
          let s := s.consumeOps c l [base.w2]
          let lo := 1024 * c.cluster
          let bytes := (List.range 1024).flatMap fun e => toBytes 4 (s.routeCount c.cluster e).toNat
          let s := { s with routeCnt := s.routeCnt.filter fun x => !(decide (lo ≤ x.1) && decide (x.1 < lo + 1024)) }
          let core := c.a.place.coreId
          match segs with
          | [.own o _] => (s.putLbytes core o bytes false).complete c
          | [.remote rc o _] =>
            if rc = core then (s.putLbytes core o bytes false).complete c
            else ((s.sendRemote c l rc o (.store bytes) .none false false false false true true va).updPath c.uid c.b fun p =>
              p.lanePark l).waitFor c .order
          | _ => s.complete c

end Sys2Proof.Machine
end

