-- ==== Sys2Proof/Machine/Sched.lean ====
section
/-! DEFINITION. Levels and their counters, launches and their units, codelets, cancel, quiescence and swapping
(18_scheduling.md R392-R394, R398-R410), with `SPAWN`, `TASKMK`, `TASKEND`, `POLL`, `YIELD`, `CANCEL` and `CNTW`
(17_isa_control.md R378-R383). -/

namespace Sys2Proof.Machine

/-! ### Level counters (R393) -/

/-- A counter that is assigned to a job. -/
def State.counterOf (s : State) (job num : Nat) : Option Counter :=
  s.counters.find? fun c => c.num == num && c.job == job

/-- System software assigns a counter to a job; its count stays. -/
def State.assignTurn (s : State) (num job : Nat) : State :=
  if 4096 ≤ num then s
  else if s.counters.any (·.num == num) then
    { s with counters := s.counters.map fun c => if c.num = num then { c with job := job } else c }
  else { s with counters := s.counters ++ [⟨num, job, false, 0, 0⟩] }

/-- Changing a counter. -/
def State.updCounter (s : State) (num : Nat) (f : Counter → Counter) : State :=
  { s with counters := s.counters.map fun c => if c.num = num then f c else c }

/-- A count with more completions, saturating. -/
def satCount (n k : Nat) : BitVec 31 := BitVec.ofNat 31 (min (n + k) (2 ^ 31 - 1))

/-- A level completes: its counter fires (R393). -/
def State.fire (s : State) (num : Nat) (cancelled : Bool) (t : DWord) : State :=
  s.updCounter num fun c =>
    { c with count := satCount c.count.toNat 1, cancelled := c.cancelled || cancelled, time := tmax c.time t }

/-- Changing a host work queue. -/
def State.updQueue (s : State) (q : Nat) (f : Queue → Queue) : State :=
  { s with queues := s.queues.map fun x => if x.num = q then f x else x }

/-- A queue's interrupt (23_host_and_links.md R466). -/
def State.interrupt (s : State) (q : Nat) : State :=
  match s.queues.find? (·.num == q) with
  | some x => { s with reports := s.reports ++ [.msix x.vector] }
  | none => s

/-- A command of a queue completes: its counter fires, then its interrupt is raised (R397). -/
def State.finishCommand (s : State) (queue : Nat) (phase : Option Nat) (counter : Nat) (cancelled irq : Bool) (t : DWord) :
    State :=
  let s := s.fire counter cancelled t
  let s := s.updQueue queue fun q => { q with time := tmax q.time t }
  let s : State := { s with phases := s.phases.map fun p => if phase = some p.id then { p with time := tmax p.time t } else p }
  if irq then s.interrupt queue else s

/-! ### Levels that complete when all in them has (R397, R402, R392) -/

/-- A graph node has completed or been skipped. -/
def NodeState.over : NodeState → Bool
  | .waiting | .running | .stuck => false
  | .done _ | .skipped | .cancelled => true

/-- Commands of a phase that have not completed. -/
def State.inPhase (s : State) (n : Nat) : Bool :=
  s.launches.any (fun l => l.phase == some n && l.graph.isNone) || s.graphs.any (·.phase == some n)
    || s.hostCmds.any (·.phase == some n)

/-- The level's work is over: graphs, then phases that have ended, then jobs whose cancel is under way. -/
def State.tidy (s : State) : State :=
  let s := s.graphs.foldl (fun (s : State) g =>
    if g.nodes.all fun n => n.1.over then
      { s with graphs := s.graphs.filter (·.id != g.id) }.finishCommand g.queue g.phase g.counter g.cancelled g.irq g.time
    else s) s
  let s := s.phases.foldl (fun s p =>
    if p.ended && !s.inPhase p.id then
      let s : State := { s with phases := s.phases.filter (·.id != p.id) }
      let s := s.fire p.counter p.cancelled p.time
      if p.irq then s.interrupt p.queue else s
    else s) s
  s.jobs.foldl (fun s j =>
    if j.cancelled && !j.done && (s.launches.all (·.job != j.id)) && (s.graphs.all (·.job != j.id))
        && s.hostCmds.all (fun h => h.job != j.id || h.failed) then
      let mine := (s.queues.filter (·.job == j.id)).map (·.num)
      let open_ := s.phases.filter fun p => mine.contains p.queue
      let s := open_.foldl (fun s p => s.fire p.counter true p.time) s
      let s := s.fire (j.jobcnt.extractLsb' 0 12).toNat true (open_.foldl (fun t p => tmax t p.time) 0)
      { s with
        phases := s.phases.filter fun p => !mine.contains p.queue
        queues := s.queues.map fun q =>
          if q.job = j.id ∧ q.state ≠ .disabled then { q with state := .stopped, phase := none } else q
        jobs := s.jobs.map fun x => if x.id = j.id then { x with done := true } else x }
    else s) s

/-! ### Starting a cancel (R405) -/

/-- An arrival that is dropped; a child of `SPAWN` gives its spawner all ones (R378). -/
def State.dropArrival (s : State) (w : Arrival) : State :=
  let s : State := { s with arrivals := s.arrivals.filter (·.uid != w.uid) }
  let s := match w.spawner with
    | some (u, l, r) => s.fillRegs u l [(r, 0xFFFFFFFF)]
    | none => s
  match s.agent? w.uid with
  | some a => s.retire a
  | none => s

/-- The cancel of every launch of some numbers: steps 1 and 2, and the coach lanes that serve its units. -/
def State.cancelLaunches (s : State) (ns : List Nat) : State :=
  let of (a : Agent) : Bool := match a.unitOf with | some n => ns.contains n | none => false
  let s : State := { s with
    launches := s.launches.map fun l => if ns.contains l.id then { l with cancelled := true } else l
    rings := s.rings.filter fun r => match r.launch with | some n => !ns.contains n | none => true }
  let s := (s.arrivals.filter fun w => match s.agent? w.uid with | some a => of a | none => false).foldl
    (fun s w => s.dropArrival w) s
  let pc (a : Agent) : DWord := match s.launches.find? fun l => some l.id == a.unitOf with
    | some l => l.cancelPc
    | none => 0
  let out (a : Agent) (l : Nat) : Bool := match (s.launchOf a.uid l).2 with | some n => ns.contains n | none => false
  { s with agents := s.agents.map fun a =>
      if a.kind == .coach then
        { a with lanes := a.lanes.mapIdx fun l ln => { ln with cancelled := ln.cancelled || (ln.caller.isSome && out a l) } }
      else if of a && !a.inCancel && a.cancel.isNone && a.status != .retired then { a with cancel := some (pc a) }
      else a }

/-- The cancel of some launches, graphs and phases: nodes that have not started are skipped. -/
def State.cancelLevels (s : State) (inL : Launch → Bool) (inG : Graph → Bool) (inP : Phase → Bool) : State :=
  let s : State := { s with
    phases := s.phases.map fun p => if inP p then { p with cancelled := true } else p
    graphs := s.graphs.map fun g =>
      if inG g then
        { g with cancelled := true, nodes := g.nodes.map fun n => if n.1 = .waiting ∨ n.1 = .stuck then (.skipped, n.2) else n }
      else g }
  s.cancelLaunches ((s.launches.filter fun l => inL l && !l.cancelled).map (·.id))

/-- The cancel of a launch. -/
def State.cancelLaunch (s : State) (n : Nat) : State := s.cancelLevels (·.id == n) (fun _ => false) fun _ => false

/-- The cancel of a graph. -/
def State.cancelGraph (s : State) (n : Nat) : State :=
  s.cancelLevels (fun l => l.graph.map (·.1) == some n) (·.id == n) fun _ => false

/-- The cancel of a phase. -/
def State.cancelPhase (s : State) (n : Nat) : State :=
  s.cancelLevels (·.phase == some n) (·.phase == some n) (·.id == n)

/-- The cancel of a job. -/
def State.cancelJob (s : State) (j : Nat) : State :=
  let mine := (s.queues.filter (·.job == j)).map (·.num)
  (s.updJob j fun x => { x with cancelled := true }).cancelLevels (·.job == j) (·.job == j) fun p => mine.contains p.queue

/-- `CANCEL` (R382): the level that encloses the issuer. -/
def execCancel (g : Guard) (level : Level) (s : State) : Host.Outcome State Fault Refusal :=
  issue (.cancel g level) g s fun c s =>
    if level = .phase ∧ c.a.levelids.getLsbD 49 = false then s.faultAll c 0x47 0
    else if c.clash then s.clashFault c
    else
      let la := s.launches.find? fun l => some l.id == c.a.launch
      let s := match level, la with
        | .job, _ => s.cancelJob c.a.job
        | .launch, some l => s.cancelLaunch l.id
        | .graph, some l => (match l.graph with | some x => s.cancelGraph x.1 | none => s.cancelLaunch l.id)
        | .phase, some l => (match l.phase with | some p => s.cancelPhase p | none => s)
        | _, none => s
      s.tidy.complete c

/-! ### Cancel points (R405) -/

/-- The waits that are cancel points. -/
def WaitKind.cancels : WaitKind → Bool
  | .order => false
  | _ => true

/-- A cancel may act on a barrel unit inside its handler; on a warp no path of it is inside one. -/
def Agent.cancelOpen (a : Agent) : Bool := !a.wide || a.paths.all (!·.act)

/-- The cancel of a unit may act: it has reached the unit, which stands in its slot or context, with no path about to enter a
handler and none of a warp's inside one. -/
def State.mayCancel (s : State) (a : Agent) : Bool :=
  a.cancel.isSome && (a.status == .issuing || a.status == .inInn || a.status == .swapped)
    && a.cancelOpen && (a.paths.all fun p => p.trap.isNone && p.mode != .halted)
    && !(s.watches.any (·.uid == a.uid)) && !s.propHeld a.uid a.live && !(s.remotes.any fun r => r.uid == a.uid && r.holds && !r.acc.syncs)

/-- The PC at which a lane of a path stops: after the instruction if the lane's access has been performed. -/
def Path.stopPc (p : Path) (l : Nat) : DWord := if p.done.getLsbD l then p.pc + 8 else p.pc

/-- Step 3 for a unit at a cancel point of the path of a slot: none where it has to wait for a producer of `g0` or `g1`. -/
def State.actCancel (s0 : State) (uid : Nat) (b : Bool) : Option State :=
  match s0.agent? uid with
  | none => none
  | some a0 =>
    if !s0.mayCancel a0 then none
    else
      let s := s0.withdraw uid a0.live
      match s.agent? uid, a0.cancel with
      | some a, some pc =>
        let lanes := Mask.list a.live
        let s := lanes.foldl (fun s l => s.leaveInn uid l) s
        let s : State := { s with
          loads := s.loads.filter fun x => !(x.uid == uid && x.kind == LoadKind.held)
          cmds := s.cmds.map fun x => if x.uid = uid then { x with q := true } else x
          mops := s.mops.map fun x => if x.uid = uid then { x with quiet := true } else x
          mdone := s.mdone.map fun x => if x.uid = uid then { x with bad := false } else x
          walkFaults := s.walkFaults.filter (·.uid != uid) }
        if lanes.any fun l => (a.lane l).pend.extractLsb' 0 2 != 0 then none
        else
          let stop (l : Nat) : DWord :=
            (((a.paths.find? fun p => p.mask.getLsbD l).map fun p => p.stopPc l).getD 0)
          let priv := ((a.slot b).map (·.priv)).getD .user
          let act := ((a.slot b).map (·.act)).getD false
          match s.agent? uid with
          | none => none
          | some a =>
            let a : Agent := { a with
              lanes := a.lanes.mapIdx fun l ln =>
                let ln := { ln with struck := false }
                if a.live.getLsbD l then ((ln.setReg 0 (lo32 (stop l))).setReg 1 (hi32 (stop l))) else ln
              due := [], dfovf := false, cancel := none, inCancel := true
              status := if a.status = .inInn then .issuing else a.status
              stack := [], slotB := none, slotA := some { Path.begin pc a.live priv with act := act } }
            let a := a.setLoops act 0 []
            if pc = 0 then some ((s.setAgent a).retire { a with live := 0 }) else some (s.setAgent a)
      | _, _ => none

/-- The lanes of a coach's path at a cancel point that are to leave (step 4), once their watch entries have resolved
and what a cancel waits for has completed (12_waymark.md R277, 10_isa_lane.md R236). -/
def State.leavers (s : State) (a : Agent) (m : Mask) : Mask :=
  Mask.filter m fun l => (a.lane l).cancelled && !(s.watches.any fun w => w.uid == a.uid && w.lane == l)
    && !s.propHeld a.uid (laneBit l)

/-- Lanes of a coach leave it at a cancel point: their callers receive cause 0x16 with inner cause 0x90. -/
def State.leaveAt (s : State) (uid : Nat) (pc : DWord) (m : Mask) : State :=
  match s.agent? uid with
  | none => s
  | some a =>
    let s := (Mask.list m).foldl (fun s l => s.leaveInn uid l) s
    let s : State := { s with cmds := s.cmds.map fun x => if x.uid = uid ∧ m.getLsbD x.lane then { x with q := true } else x }
    let s := s.updAgent uid fun a => { a with due := a.due.filter fun d => !m.getLsbD d.lane }
    let s := (Mask.list m).foldl (fun s l => s.leaveCoach a l 0x90 pc 0) s
    (s.dropLanes uid m).retireIfEmpty uid

/-- `CANCEL_POINT`: the path of a slot waits at a cancel point. -/
def execCancelPoint (unit slot : Nat) (s : State) : Host.Outcome State Fault Refusal :=
  let b := slot == 1
  match s.agent? unit with
  | none => .next s
  | some a =>
    match a.slot b with
    | none => .next s
    | some p =>
      if !((p.wait.map fun w => w.kind.cancels).getD false) || p.mode != .run then .next s
      else if a.kind == .coach then
        let m := s.leavers a p.mask
        if p.act || p.trap.isSome || m == 0 then .next s
        else
          let s := s.withdraw unit m
          match (s.agent? unit).bind (·.slot b) with
          | none => .next s
          | some q => .next (s.leaveAt unit p.pc (m &&& ~~~q.done))
      else if !s.mayCancel a then .next s
      else
        -- an access that has been performed completes first (04_cluster_store.md R87)
        let s' := s.withdraw unit p.mask
        match (s'.agent? unit).bind (·.slot b) with
        | none => .next s
        | some q =>
          if p.parked ≠ 0 ∧ p.mask &&& ~~~q.done = 0 then .next s'
          else .next ((s.actCancel unit b).getD s)

/-- `POLL` (R381): a cancel point and nothing else. -/
def execPoll (s : State) : Host.Outcome State Fault Refusal :=
  issue .poll Guard.always s fun c s =>
    if c.a.kind == .coach && !c.p.act then
      let m := Mask.filter c.p.mask fun l => (c.a.lane l).cancelled
      if m = 0 then s.completeWith c id
      else if s.leavers c.a m ≠ m then s.waitFor c .order
      else if c.p.mask &&& ~~~m = 0 then s.leaveAt c.uid c.p.pc m
      else if c.clash then s.clashFault c
      else (s.complete c).leaveAt c.uid c.p.pc m
    else if c.a.cancel.isNone || !c.a.cancelOpen then s.completeWith c id
    else (s.actCancel c.uid c.b).getD (s.waitFor c .order)

/-- `YIELD` (R381). -/
def execYield (s : State) : Host.Outcome State Fault Refusal :=
  issue .yield Guard.always s fun c s =>
    if c.clash then s.clashFault c
    else
    let s := s.complete c
    if c.a.wide then s.updAgent c.uid fun a => { a with behind := true }
    else s.updPath c.uid c.b fun p => { p with resume := s.now c.cluster + 16 }

/-! ### The ends and beginnings of units (R378-R380, R399, R404) -/

/-- The checks of `TASKEND` in a lane (R380). -/
def State.endCheck (s : State) (c : Ctx) (l : Nat) : State × Chk Unit :=
  chkThen (s.duePart c l) fun s _ =>
    match s.agent? c.uid with
    | none => (s, .ok ())
    | some a =>
      if a.acks ≠ 0 then (s, .wait .order)
      else
        match s.watchCheck c l with
        | .fault x t u => (if x = 0x26 then s.clearLost c.uid else s, .fault x t u)
        | r => (s, r)

/-- `TASKEND` (R380): in a coach it is cause 0x1E; in a shadow wave the lane becomes inactive (18_scheduling.md R408). A
handler whose lanes retire ends (19_traps.md R420). -/
def execTaskend (s : State) : Host.Outcome State Fault Refusal :=
  issue .taskend Guard.always s fun c s =>
    if c.a.kind == .coach then s.faultAll c 0x1E 0
    else
      let s := endExec (fun c s l => s.endCheck c l) (fun _ s _ => s) c s
      match s.agent? c.uid with
      | some a => if c.p.act && a.paths.all (!·.act) then s.endHandler c.uid else s
      | none => s

/-- The time at which a unit starts (R399): `ctime` less 2^29. -/
def State.startTime (s : State) (cluster : Nat) : DWord :=
  let t := s.ctimeOf cluster
  if t.toNat < 2 ^ 29 then 0 else t - 0x20000000

/-- `SPAWN`'s child (R378): a traveller that waits for its slot. -/
def State.child (s : State) (c : Ctx) (l : Nat) (entry : DWord) (launch : Option Nat) : Agent :=
  let ln := (s.agent? c.uid).map (·.lane l) |>.getD Lane.fresh
  let a := Agent.fresh s.nextId c.a.job .traveller ⟨64, 0, 0⟩ 1 entry .user
  { a with
    status := .arrived, launch := launch, levelids := c.a.levelids, s := c.a.s, sBad := c.a.sBad
    lanes := [{ Lane.fresh with
      g := Vector.ofFn fun i : Fin 64 => if i.val < 16 then ln.g[i] else 0
      bad := ln.bad &&& 0xFFFF, ltime := ln.ltime, crept := s.now c.cluster }] }

/-- `SPAWN` (R378). -/
def execSpawn (g : Guard) (d : GReg) (a b : Src) (s : State) : Host.Outcome State Fault Refusal :=
  issue (.spawn g d a b) g s fun c s =>
    busyExec (fun c s => (List.range 32).any fun r => s.sregBusy c.uid c.p.act (BitVec.ofNat 5 r)) [a.w2, b.w1] false
      (memExec [a.w2, b.w1] [] [d]
      (fun c s l x =>
        chkThen (s.lowReady c l 16) fun s _ =>
          let e := x.v 0
          if !targetOk e then (s, .fault 0x05 e 0)
          else if x.w 1 = 0xFFFFFFFF then (s, .ok (e, c.cluster))
          else chkThen (s.maskCheck c (x.w 1).toNat) fun s k => (s, .ok (e, k)))
      (fun c s l r =>
        let la := (s.launchOf c.uid l).2
        let reg := (physG c.rrb d).val
        if s.launches.any fun x => some x.id == la && x.cancelled then s.fillRegs c.uid l [(reg, 0xFFFFFFFF)]
        else
          let ch := s.child c l r.1 la
          let s : State := { s with agents := s.agents ++ [ch], nextId := s.nextId + 1 }
          let queue := s.arrivals.any (·.cluster == r.2)
          match (if queue then none else s.bestSlot r.2) with
          | some p =>
            let ch := { ch with home := p }
            let s := s.settleIn ch p
            s.fillRegs c.uid l [(reg, State.ownerTag 20 s { ch with place := p } 0)]
          | none =>
            { s.updLane c.uid l fun ln => ln.setPending (physG c.rrb d) with
              arrivals := s.arrivals ++ [⟨r.2, ch.uid, some (c.uid, l, reg)⟩] })) c s

/-- `TASKMK` (R379): once per warp. -/
def execTaskmk (g : Guard) (count : BitVec 16) (d : GReg) (a b : Src) (s : State) : Host.Outcome State Fault Refusal :=
  let arg (k : Nat) : Opnd := ⟨rd (d + BitVec.ofNat 6 k), 1, true⟩
  issue (.taskmk g count d a b) g s (onceExec [a.w2, b.w2, arg 0, arg 1, arg 2, arg 3] []
    (fun c s l x =>
      let va := x.v 0
      match classify s c.who va with
      | .error e => (s, .fault e va 0)
      | .ok _ =>
        if va.toNat % 32 ≠ 0 then (s, .fault 0x24 va 0)
        else chkThen (s.recordCheck c va) fun s segs =>
          if count = 0 then (s, .fault 0x46 0 0)
          else if !targetOk (x.v 1) then (s, .fault 0x05 (x.v 1) 0)
          else chkThen (s.writeCheck c l false .dev segs) fun s segs =>
            (s, .ok (va, segs, x, (List.range 4).any fun k => c.opndBad l (arg k))))
    (fun c s l r =>
      let x := r.2.2.1
      let bytes := toBytes 8 (x.v 1).toNat ++ toBytes 4 count.toNat ++ [0, 0, 0, 0]
        ++ (List.range 4).flatMap fun k => toBytes 4 (x.w (2 + k)).toNat
      s.sendStore c l r.2.1 bytes (some 0) false r.2.2.2 r.1))

/-! ### `CNTW` (R383) -/

/-- `CNTW`: once per warp; its destination is empty while it waits. -/
def execCntw (g : Guard) (d : GReg) (a b : Src) (s : State) : Host.Outcome State Fault Refusal :=
  issue (.cntw g d a b) g s fun c s =>
    let l := Mask.lowest c.act
    let lanes := Mask.list c.act
    let mine (p : Pending) : Bool := p.uid == c.uid && c.act.getLsbD p.lane && (match p.kind with | .cntw .. => true | _ => false)
    let waiting := s.pendings.any mine
    let os := [a.w1, b.w1]
    let ready : Ready := if waiting then .ok
      else
        match s.ready c l os [] [d] with
        | .ok => if lanes.any fun l => (c.a.lane l).pend.getLsbD (physG c.rrb d).val then .wait .prod else .ok
        | r => r
    match ready with
    | .wait k => s.waitFor c k
    | .fault x ue t => s.faultAll c x t ue
    | .due e => let f := dueLFault l e; s.faultAll c f.cause f.tval 0 f.due
    | .ok =>
      match s.counterOf c.a.job (lo32 (c.value l a.w1)).toNat with
      | none => s.faultAll c 0x47 0
      | some n =>
        if n.count.toNat < (lo32 (c.value l b.w1)).toNat then
          if c.a.kind == .codelet then s.faultAll c 0x18 0
          else
            let s := if waiting then s
              else lanes.foldl (fun s l =>
                let r := physG c.rrb d
                let p : Pending := ⟨s.nextId, c.uid, l, c.a.place.coreId, .cntw r.val ((c.a.lane l).full.getLsbD r.val)⟩
                { s.updLane c.uid l fun ln => ln.setPending r with pendings := s.pendings ++ [p], nextId := s.nextId + 1 }) s
            s.waitFor c .cntw
        else if c.clash then s.clashFault c
        else
          let s : State := { s with pendings := s.pendings.filter fun p => !mine p }
          let s := s.consumeOps c l os
          let v : Word := BitVec.ofBool n.cancelled ++ n.count
          let s := lanes.foldl (fun s l => s.fillRegs c.uid l [((physG c.rrb d).val, v)]) s
          (s.liftPath c.uid l n.time).complete c

/-! ### Dispatch (R399, R400) -/

/-- `LEVELIDS` of the units of a launch (R394); the job's counter is read with the register. -/
def State.launchIds (s : State) (l : Launch) : DWord :=
  let ph := l.phase.bind fun n => s.phases.find? (·.id == n)
  let gr := l.graph.bind fun x => s.graphs.find? (·.id == x.1)
  let f (n k : Nat) : DWord := BitVec.ofNat 64 (n % 4096 * 2 ^ k)
  (if l.phase.isSome then f 1 49 else 0) ||| f ((ph.map (·.counter)).getD 0) 24
    ||| f ((gr.map (·.counter)).getD l.counter) 12 ||| f l.counter 0

/-- A unit of a launch at its start (R399): its index, on a place. -/
def State.unit (s : State) (l : Launch) (i : Nat) (p : Place) (st : UStatus) : Agent :=
  let t := s.startTime p.cluster
  let nl := if l.wide then 32 else 1
  let sv (k : Nat) : DWord :=
    match k with
    | 0 => l.args
    | 1 => BitVec.ofNat 64 i
    | 2 => BitVec.ofNat 64 l.count
    | 3 => if l.group = 0 then 0 else BitVec.ofNat 64 (i / l.group)
    | 4 => if l.group = 0 then 0 else BitVec.ofNat 64 (i % l.group)
    | _ => 0
  let a := Agent.fresh s.nextId l.job (if l.wide then .warp else .traveller) p nl l.entry .user
  { a with
    status := st, launch := some l.id, levelids := s.launchIds l
    lanes := List.replicate nl { Lane.fresh with ltime := t, crept := s.now p.cluster }
    s := Vector.ofFn fun k : Fin 32 => sv k.val
    idleSince := s.now p.cluster }

/-- Free user slots of a cluster that a new unit may take. -/
def State.clusterSlots (s : State) (cluster : Nat) : Nat :=
  ((List.range 32).map fun k => (s.freeSlots ⟨cluster, k⟩).length).sum

/-- How many units of a launch go together. -/
def Launch.bundle (l : Launch) : Nat := if l.group = 0 then 1 else min l.group (l.count - l.sent)

/-- The next units of a launch can be placed in a cluster now. -/
def State.takes (s : State) (l : Launch) (cluster : Nat) : Bool :=
  !s.gated.getLsbD cluster &&
    (if l.wide then !s.roomBlocks cluster && (s.bestCore cluster 1).isSome
     else !(s.arrivals.any (·.cluster == cluster)) && decide (l.bundle ≤ s.clusterSlots cluster))

/-- The cluster that takes the next unit: the first in ascending order after the one that took the last (R399). -/
def State.nextCluster (s : State) (l : Launch) : Option Nat :=
  let k0 := match l.last with | some k => k + 1 | none => 0
  ((List.range 64).map fun i => (k0 + i) % 64).find? fun k =>
    l.clusters.getLsbD k && (s.job l.job).clmask.getLsbD k && s.takes l k

/-- Placing the next barrel unit of a launch. -/
def State.placeUnit (s : State) (n cluster : Nat) : State :=
  match s.launches.find? (·.id == n), s.bestSlot cluster with
  | some l, some p =>
    let s := s.claimSlot p l.job
    let s := if l.group = 0 then s else s.zeroLocal p.coreId (0x1000 * p.ctx) 0x1000
    let a := s.unit l l.sent p .issuing
    { s.updLaunch n fun l => { l with sent := l.sent + 1, last := some cluster } with
      agents := s.agents ++ [a], nextId := s.nextId + 1 }
  | _, _ => s

/-- Placing the next warp of a launch. -/
def State.placeWarp (s : State) (n cluster core : Nat) : State :=
  match s.launches.find? (·.id == n) with
  | none => s
  | some l =>
    let k : CoreId := ⟨cluster, core⟩
    let r := s.pickContext k
    let st := r.1.startStatus k
    let a := r.1.unit l l.sent ⟨cluster, core, r.2⟩ .issuing
    let s : State := { r.1.updLaunch n fun l => { l with sent := l.sent + 1, last := some cluster } with
      agents := r.1.agents ++ [a], nextId := r.1.nextId + 1 }
    if st = .swapped then s.writeSwap a.uid (s.freeArea k) else s

/-- `UNIT_DISPATCH`: the next unit of a launch, or the next group whole; the row names the place of the (first) unit. Which
free context a warp takes is open. -/
def execUnitDispatch (launch cluster core slot : Nat) (s : State) : Host.Outcome State Fault Refusal :=
  match s.launches.find? (·.id == launch) with
  | none => .next s
  | some l =>
    if l.cancelled || l.count ≤ l.sent || s.nextCluster l != some cluster then .next s
    else if l.wide then .next (if s.bestCore cluster 1 = some core then s.placeWarp launch cluster core else s)
    else if s.bestSlot cluster ≠ some ⟨cluster, core, slot⟩ then .next s
    else .next ((List.range l.bundle).foldl (fun s _ => s.placeUnit launch cluster) s)

/-! ### Codelets (R404) -/

/-- `CODELET_START`: the oldest pushed record of a core starts in its first free user slot. -/
def execCodeletStart (cluster core slot : Nat) (s : State) : Host.Outcome State Fault Refusal :=
  let k : CoreId := ⟨cluster, core⟩
  let p : Place := ⟨cluster, core, slot⟩
  match s.ringOf k with
  | [] => .next s
  | e :: _ =>
    if ((List.range 15).find? fun i => !s.slotTaken ⟨cluster, core, i⟩) ≠ some slot then .next s
    else
      let w (i : Nat) : LWord := s.lword k (e.off / 4 + i)
      let la := s.launches.find? fun l => some l.id == e.launch
      let entry := cat32 (w 1).v (w 0).v
      let va := ownVa e.off
      let t := tmax e.time (s.startTime cluster)
      let t := if e.sys then tmax t s.hws else t
      let gv (i : Nat) : Word := if i < 4 then (w (4 + i)).v else if i = 4 then lo32 va else if i = 5 then hi32 va else 0
      let sv (i : Nat) : DWord := match i with
        | 0 => (la.map (·.args)).getD 0
        | 1 => 0xFFFFFFFF
        | 2 => BitVec.ofNat 64 ((la.map (·.count)).getD 0)
        | _ => 0
      let a := Agent.fresh s.nextId e.job .codelet p 1 entry .user
      let a : Agent := { a with
        launch := e.launch, levelids := (la.map s.launchIds).getD 0, idleSince := s.now cluster
        lanes := [{ Lane.fresh with
          g := Vector.ofFn fun i : Fin 64 => gv i.val, ltime := t, crept := s.now cluster
          bad := BitVec.ofNat 64 (((List.range 4).filter fun i => (w (4 + i)).bad).foldl (fun m i => m + 2 ^ i) 0) }]
        s := Vector.ofFn fun i : Fin 32 => sv i.val
        -- a poisoned ENTRY is met at once (19_traps.md R429)
        slotA := a.slotA.map fun q =>
          if (w 0).bad || (w 1).bad then { q with trap := some (1, 0x26, va, 1, entry) } else q }
      let s := s.claimSlot p e.job
      .next { s with agents := s.agents ++ [a], nextId := s.nextId + 1, rings := s.rings.erase e }

/-! ### Completion (R401) -/

/-- Everything of a launch has ended: its units, children and codelets, their commands and writes. -/
def State.launchOver (s : State) (l : Launch) : Bool :=
  (l.cancelled || decide (l.count ≤ l.sent))
    && (s.agents.all fun a => a.unitOf != some l.id || (a.status == .retired && !s.outstanding a))
    && s.rings.all fun r => r.launch != some l.id

/-- A host-memory line in O, or on its way back: the writes of a launch may be units' or engines'. -/
def State.hostLeft (s : State) : Bool :=
  (s.copies.any fun c => c.isO && regionOf (128 * c.line) == some .host)
    || s.reqs.any fun r => regionOf (128 * r.line) == some .host && (match r.kind with | .writeback .. => true | _ => false)

/-- Every such line is written back. -/
def State.flushAll (s : State) : State :=
  (s.copies.filter fun c => c.isO && regionOf (128 * c.line) == some .host).foldl (fun s c => s.evict c.cluster c.line) s

/-- A launch of a graph is a node of it: it has completed (R402). -/
def State.nodeDone (s : State) (g n : Nat) (x : NodeState) (t : DWord) : State :=
  { s with graphs := s.graphs.map fun y => if y.id = g then
      { y with nodes := y.nodes.modify n fun z => (x, z.2), time := tmax y.time t } else y }

/-! ### Swapping (R409) -/

/-- A swapped warp may have something to issue: a path that is not parked, or a trap to take. -/
def Agent.mayRun (a : Agent) : Bool :=
  (a.slotA.toList ++ a.slotB.toList).any fun p => p.mode == .run && (p.trap.isSome || p.parked &&& p.mask == 0)

/-- The swapped warp of a core that is admitted longest and may run. -/
def State.oldestSwapped (s : State) (c : CoreId) : Option Agent :=
  s.agents.find? fun a => a.place.coreId == c && a.status == .swapped && a.mayRun

/-- A swapped warp becomes resident. -/
def State.swapIn (s : State) (a : Agent) : State :=
  s.setAgent { a with status := .issuing, idleSince := s.now a.place.cluster }

/-- A part of the swap area of a core holds a record. -/
def State.areaUsed (s : State) (c : CoreId) (area : Nat) : Bool :=
  s.agents.any fun x => x.isSwapped && x.place.coreId == c && x.area == area

/-- `WARP_SWAP`: the warp of a context that has been idle, whose acknowledgements have come and whose producers have completed
(06_registers.md R129), gives its residence to a swapped one; while fewer than 16 are
resident a swapped one comes in alone. -/
def execWarpSwap (cluster core ctxOut area : Nat) (s : State) : Host.Outcome State Fault Refusal :=
  let k : CoreId := ⟨cluster, core⟩
  match s.oldestSwapped k with
  | none => .next s
  | some b =>
    if s.residents k < 16 then .next (s.swapIn b)
    else
      match s.agents.find? fun a => a.wide && a.place == ⟨cluster, core, ctxOut⟩ && (a.status == .issuing || a.status == .halted) with
      | none => .next s
      | some a =>
        if s.now cluster < a.idleSince + 2048 || a.acks != 0 || s.producing a || 16 ≤ area || (s.areaUsed k area && area != b.area)
        then .next s
        else .next ((s.writeSwap a.uid area).swapIn b)

/-! ### Quiescence (R410, 19_traps.md R432) -/

/-- A unit is Parked, In the Inn or Spilled. -/
def Agent.quiet (a : Agent) : Bool :=
  a.status == .inInn || a.status == .spilled
    || ((a.status == .issuing || a.status == .swapped) && (a.slotA.toList ++ a.slotB.toList).all fun p =>
        p.trap.isNone && (p.wait.isSome || p.mode == .held || p.mode == .stopped))

/-- Something of a unit is in flight. -/
def State.inFlight (s : State) (u : Nat) : Bool :=
  s.cmds.any (·.uid == u) || s.mops.any (·.uid == u) || s.loads.any (fun l => l.uid == u && l.kind != LoadKind.held)
    || s.writes.any (·.uid == u) || s.reqs.any (·.uid == u) || s.reps.any (·.uid == u) || s.remotes.any (·.uid == u)
    || s.rreplies.any (·.uid == u) || s.winReqs.any (·.uid == u) || s.walks.any fun w => w.waiters.any (·.1 == u)

/-- The conditions of R410 hold for a launch. -/
def State.stalled (s : State) (l : Launch) : Bool :=
  let us := s.agents.filter fun a => a.unitOf == some l.id && a.status != .retired
  !us.isEmpty && us.all Agent.quiet && (l.cancelled || decide (l.count ≤ l.sent)) && (s.rings.all fun r => r.launch != some l.id)
    && (us.all fun a => !s.inFlight a.uid)
    && s.rooms.all fun r => !s.roomEligible r || r.callers.all fun w => us.all fun a => a.uid != w.uid

/-- The lowest cluster of a launch's mask. -/
def Launch.lowest (l : Launch) : Nat := ((List.range 64).find? fun k => l.clusters.getLsbD k).getD 0

/-- `QUIESCENCE`: the detector of a launch looks: it notes since when the conditions hold and fires once after 65,536 cycles
(log entry 16). -/
def execQuiescence (launch : Nat) (s : State) : Host.Outcome State Fault Refusal :=
  match s.launches.find? (·.id == launch) with
  | none => .next s
  | some l =>
    let now := s.now l.lowest
    if !s.stalled l then .next (s.updLaunch launch fun l => { l with quietSince := none })
    else
      match l.quietSince with
      | none => .next (s.updLaunch launch fun l => { l with quietSince := some now })
      | some t =>
        if l.reported || now < t + 65536 then .next s
        else
          let s := s.updLaunch launch fun l => { l with reported := true }
          let s : State := { s with reports := s.reports ++ [.quiescent l.queue l.counter] }
          let s := (s.updQueue l.queue fun q => { q with quiet := l.counter }).interrupt l.queue
          .next (if (s.quietReports.filter (·.1 == l.lowest)).length < 64 then
              { s with quietReports := s.quietReports ++ [(l.lowest, l.counter)] }
            else { s with quietDropped := if s.quietDropped.contains l.lowest then s.quietDropped else s.quietDropped ++ [l.lowest] })

/-- `QUIESCENCE_REPORT` (R432): cause 0x43 at the next instruction boundary of the supervisor traveller in slot 15 of core 0. -/
def execQuiescenceReport (cluster core : Nat) (s : State) : Host.Outcome State Fault Refusal :=
  match s.quietReports.find? (·.1 == cluster),
      s.agents.find? (fun a => a.kind == .supervisor && a.place == ⟨cluster, 0, 15⟩ && a.status == .issuing) with
  | some r, some a =>
    match a.slotA with
    | none => .next s
    | some p =>
      if core ≠ 0 ∨ p.act ∨ p.wait.isSome ∨ p.trap.isSome ∨ p.mode ≠ .run then .next s
      else
        let tval : DWord := BitVec.ofNat 64 r.2 ||| (if s.quietDropped.contains cluster then 0x8000000000000000 else 0)
        let s : State := { s with quietReports := s.quietReports.erase r, quietDropped := s.quietDropped.filter (· != cluster) }
        .next (s.takeTrap a.uid false 0x43 tval 0 p.pc)
  | _, _ => .next s

end Sys2Proof.Machine
end

