-- ==== Sys2Proof/Machine/Queues.lean ====
section
/-! DEFINITION. Host work queues, their commands and graphs (18_scheduling.md R395-R398, R402, R403, 23_host_and_links.md
R464-R466). The device reads for a queue from its edge die, which stands here as core 0 of cluster 64; it keeps no copy of a
line. -/

namespace Sys2Proof.Machine

/-! ### Reading and writing for a queue -/

/-- The edge die as a client of memory: system-scope accesses of class 0 in a job's address space (R397). -/
def edgeClient (id job : Nat) (t : DWord) (wins : List (Nat × Option (List Byte))) : Cmd :=
  ⟨id, id, 0, ⟨64, 0⟩, job, .user, 0, 0, false, (0, 0), .tgenClose 0, t, .waiting, wins⟩

/-- The time of a system-scope acquire of the edge die (23_host_and_links.md R463). -/
def State.edgeTime (s : State) : DWord := tmax (s.ctimeOf 64) s.hws

/-- Reading bytes in a job's address space. -/
def State.edgeRead (s : State) (c : Cmd) (va : DWord) (n : Nat) : EOut (List Byte) := eRead c 0 va n s c.time

/-- What the edge die wrote is at its home at once. -/
def State.edgeSettle (s : State) : State :=
  (s.reqs.filter fun r => r.cluster == 64).foldl (fun s r =>
    let s : State := { s with reqs := s.reqs.filter (·.id != r.id) }
    match r.kind with
    | .writeback d bad wts rts => (s.homeWritebackAt r.line 64 d bad wts rts).getD s
    | _ => s) s

/-- A queue of a number. -/
def State.queueOf (s : State) (q : Nat) : Option Queue := s.queues.find? (·.num == q)

/-- A queue goes to ERROR: the code and a HEAD are posted to the host (R395, 23_host_and_links.md R465). -/
def State.queueError (s : State) (q : Nat) (code : BitVec 8) (head : Word) : State :=
  let s := match s.queueOf q with | some x => s.clearWalkFaults x.id | none => s
  let s := s.updQueue q fun x => { x with state := .error, code := code, errHead := head }
  { s with reports := s.reports ++ [.queueError q code] }

/-! ### Records (R396) -/

/-- The fields of a command record: the eight 64-bit words. -/
structure CRec where
  op : Nat
  cnt : Nat
  indir : Bool
  irq : Bool
  ordered : Bool
  value : Nat
  w : List DWord
  deriving DecidableEq, Repr

/-- The fields of 64 bytes. -/
def CRec.of (bs : List Byte) : CRec :=
  let h := dwAt bs 0
  { op := (h.extractLsb' 0 8).toNat, cnt := (h.extractLsb' 16 12).toNat, indir := h.getLsbD 10, irq := h.getLsbD 9
    ordered := h.getLsbD 8, value := (h.extractLsb' 32 32).toNat, w := (List.range 7).map fun k => dwAt bs (8 + 8 * k) }

/-- Word `k` after the header. -/
def CRec.x (r : CRec) (k : Nat) : DWord := r.w.getD k 0

/-- The bits that an OP uses in the words from 0x08 on. -/
def opFields (op : Nat) : List DWord :=
  let m : DWord := BitVec.allOnes 64
  match op with
  | 1 => [m, m, m, m, m, 0xFFFF0003, 0]
  | 2 => [m, 0xFFFF, 0, 0, 0, 0, 0]
  | 4 | 6 => [0xFFF, 0, 0, 0, 0, 0, 0]
  | 5 => [0x1FFF, 0, 0, 0, 0, 0, 0]
  | 7 => [m, m, m, 0, 0, 0, 0]
  | _ => [0, 0, 0, 0, 0, 0, 0]

/-- KIND and GROUP of a LAUNCH. -/
def CRec.kind (r : CRec) : Nat := ((r.x 5).extractLsb' 0 2).toNat
/-- GROUP. -/
def CRec.group (r : CRec) : Nat := ((r.x 5).extractLsb' 16 16).toNat
/-- The counter that a record names at 0x08. -/
def CRec.named (r : CRec) : Nat := ((r.x 0).extractLsb' 0 12).toNat

/-- The record is malformed (R396, R400). -/
def State.malformed (s : State) (job : Nat) (bs : List Byte) : Bool :=
  let r := CRec.of bs
  let h := dwAt bs 0
  r.op == 0 || 8 < r.op || h.extractLsb' 28 4 != 0 || h.extractLsb' 11 5 != 0 || (r.op != 1 && r.indir)
    || (r.op != 1 && r.op != 4 && r.op != 5 && r.value != 0)
    || (r.w.zip (opFields r.op)).any (fun x => x.1 &&& ~~~x.2 != 0)
    || (s.counterOf job r.cnt).isNone
    || ((r.op == 4 || r.op == 5 || r.op == 6) && (s.counterOf job r.named).isNone)
    || (r.op == 1 && (1 < r.kind || 480 < r.group || (r.group != 0 && r.kind == 1)))
    || (r.op == 2 && ((r.x 1).toNat == 0 || 4096 < (r.x 1).toNat))

/-- A LAUNCH names a cluster outside the job's `CLMASK` when it starts: it is malformed too (R396). -/
def State.badMask (s : State) (job : Nat) (r : CRec) : Bool := r.op == 1 && (r.x 1) &&& ~~~(s.job job).clmask != 0

/-- The record at HEAD (R395): at a physical address, an acquire at system scope; its bytes and whether they hold poison. -/
def State.headBytes (s : State) (q : Queue) : AtHome (State × List Byte × Bool) :=
  let pa := q.base.toNat + 64 * (q.head.toNat % q.size)
  match s.loadNow 64 q.job (pa / 128) s.edgeTime 0 with
  | .error l => .error l
  | .ok (s, d, bad, _) => .ok (s, lineBytes d (pa % 128) 64, bad &&& sectorMask (pa % 128) 64 != 0)

/-- Every earlier command of a queue has completed (R397). -/
def State.queueDone (s : State) (q : Nat) : Bool :=
  s.launches.all (fun l => l.queue != q || l.graph.isSome) && s.graphs.all (·.queue != q) && s.hostCmds.all (·.queue != q)
    && s.phases.all fun p => p.queue != q || !p.ended

/-- What a WAIT, a FENCE and an ORDERED command wait for (R395). -/
def State.mayStart (s : State) (q : Queue) (r : CRec) : Bool :=
  (!(r.ordered || r.op == 8) || s.queueDone q.num)
    && (r.op != 4 || (match s.counterOf q.job r.named with | some c => decide (r.value ≤ c.count.toNat) | none => false))

/-- The level that a command of a queue would start in is cancelled (R405). -/
def State.levelGone (s : State) (job : Nat) (phase : Option Nat) (graph : Option (Nat × Nat)) : Bool :=
  (s.job job).cancelled || s.phases.any (fun p => some p.id == phase && p.cancelled)
    || s.graphs.any fun g => graph.map (·.1) == some g.id && g.cancelled

/-- A command that is complete at once. -/
def State.finishNow (s : State) (x : Queue) (r : CRec) (t : DWord) (cancelled : Bool := false) : State :=
  (s.finishCommand x.num x.phase r.cnt cancelled r.irq t).tidy

/-- A queue comes to the command of an OP at its HEAD: it starts, or the queue waits (R395, R397). A record that holds
poison is an error with the cause of the read (log entry 17). A command of a cancelled phase or job is cancelled at once (R405); a
LAUNCH and a GRAPH then place nothing, and a PHASE ends the phase and with it the cancel. -/
def State.command (q op : Nat) (k : State → Queue → CRec → State) (s : State) : State :=
  match s.queueOf q with
  | none => s
  | some x =>
    if (x.state != .running && x.state != .waiting) || x.head == x.tail then s
    else
      match s.headBytes x with
      | .error l => s.nudge l
      | .ok (s, bs, bad) =>
        let r := CRec.of bs
        if bad then s.queueError q 0x26 x.head
        else if s.malformed x.job bs || r.op != op then s
        else if !s.mayStart x r then s.updQueue q fun x => { x with state := .waiting }
        else if s.badMask x.job r then s
        else
          let s := s.updQueue q fun x => { x with state := .running, head := x.head + 1, wins := [] }
          if 4 ≤ op ∧ s.levelGone x.job x.phase none then s.finishNow x r 0 true else k s x r

/-! ### LAUNCH (R398) -/

/-- The time of what a launch comes after: the completed commands of its queue and the completed nodes of its graph (R398). -/
def State.afterTime (s : State) (x : Queue) (graph : Option (Nat × Nat)) : DWord :=
  (s.graphs.filter fun g => graph.map (·.1) == some g.id).foldl (fun t g => tmax t g.time) x.time

/-- A launch of a record, with its count and the time of what it comes after. -/
def State.addLaunch (s : State) (x : Queue) (phase : Option Nat) (graph : Option (Nat × Nat)) (r : CRec) (n : Nat)
    (clusters : DWord) (t : DWord) : State :=
  let l : Launch := {
    id := s.nextId, job := x.job, queue := x.num, counter := r.cnt, phase := phase, graph := graph, entry := r.x 0
    wide := r.kind == 1, count := n, clusters := clusters, group := r.group, args := r.x 2, cancelPc := r.x 4, irq := r.irq
    sent := 0, last := none, time := t, cancelled := s.levelGone x.job phase graph, quietSince := none, reported := false }
  { s with launches := s.launches ++ [l], nextId := s.nextId + 1 }

/-- Starting a launch: its count is VALUE or the word at COUNTADDR. A count whose read faults leaves a launch that places
nothing and never completes, and the queue in ERROR (R398). `wait` is what is done while the count cannot be read yet. -/
def State.startLaunch (s : State) (x : Queue) (phase : Option Nat) (graph : Option (Nat × Nat)) (r : CRec) (head : Word)
    (wait : State → State) : State :=
  let t := s.afterTime x graph
  if !r.indir || s.levelGone x.job phase graph then s.addLaunch x phase graph r r.value (r.x 1) t
  else
    let c := edgeClient x.id x.job s.edgeTime x.wins
    match s.edgeRead c (r.x 3) 4 with
    | .ok s u bs => s.addLaunch x phase graph r (wordAt bs 0).toNat (r.x 1) (tmax t u)
    | .fault s _ c _ => (s.addLaunch x phase graph r 1 0 t).queueError x.num c head
    | .wait h => wait (s.askHold c h)

/-- `LAUNCH`. -/
def execLaunch (queue : Nat) (s : State) : Host.Outcome State Fault Refusal :=
  .next (State.command queue 1 (fun s x r =>
    -- a count that is not there yet: the command has not started
    let back (s : State) : State := s.updQueue queue fun q => { q with head := x.head, wins := x.wins }
    s.startLaunch x x.phase none r x.head back) s)

/-! ### GRAPH (R402, R403) -/

/-- KIND of a node. -/
def nodeKind (ws : List DWord) : Nat := ((ws.getD 0 0).extractLsb' 0 2).toNat
/-- NPRED of a node. -/
def nodePreds (ws : List DWord) : Nat := ((ws.getD 0 0).extractLsb' 16 16).toNat
/-- SUCC`k` of a node. -/
def nodeSucc (ws : List DWord) (k : Nat) : Nat := ((ws.getD 2 0).extractLsb' (16 * k) 16).toNat

/-- The edges into a node: predecessor and which of its successors. -/
def edgesInto (nodes : List (List DWord)) (n : Nat) : List (Nat × Nat) :=
  (nodes.zipIdx).flatMap fun x => ((List.range 4).filter fun k => nodeSucc x.1 k == n).map fun k => (x.2, k)

/-- A node of an array of `n` is well formed (R402). -/
def nodeOk (nodes : List (List DWord)) (i : Nat) (ws : List DWord) : Bool :=
  let n := nodes.length
  nodeKind ws != 3 && (ws.getD 0 0).extractLsb' 2 14 == 0 && (ws.getD 0 0).extractLsb' 32 32 == 0
    && (nodeKind ws != 2 || ws.getD 1 0 == 0) && (ws.drop 3).all (· == 0)
    && (List.range 4).all (fun k => nodeSucc ws k == 0xFFFF || decide (nodeSucc ws k < n))
    && nodePreds ws == (edgesInto nodes i).length

/-- How the edges into a waiting node stand: none while a predecessor is not over; otherwise whether the node runs (R402,
R403): it is skipped where a predecessor was cancelled, where a conditional skips it, or where every one was skipped. -/
def nodeRuns (nodes : List (NodeState × List DWord)) (n : Nat) : Option Bool :=
  let es := (edgesInto (nodes.map (·.2)) n).map fun e => (e, ((nodes[e.1]?).map (·.1)).getD .skipped)
  if es.any fun e => !e.2.over then none
  else
    let live (e : (Nat × Nat) × NodeState) : Bool := match e.2 with | .done m => m.getLsbD e.1.2 | _ => false
    let dead (e : (Nat × Nat) × NodeState) : Bool := match e.2 with
      | .done m => !m.getLsbD e.1.2 && !(es.any fun f => f.1.1 == e.1.1 && live f)
      | .cancelled => true
      | _ => false
    some (es.isEmpty || (es.any live && !es.any dead))

/-- The first conditional node of a graph that runs now (R403). -/
def Graph.nextRead (g : Graph) : Option (Nat × List DWord) :=
  (g.nodes.zipIdx.find? fun x => x.1.1 == .waiting && nodeKind x.1.2 == 1 && nodeRuns g.nodes x.2 == some true).map fun x =>
    (x.2, x.1.2)

/-- Every conditional node whose last predecessor is over reads its predicate at that moment, in ascending order; the fuel is the
number of nodes (R403). A read that faults stops its node and the queue. -/
def State.readPredicates (graph : Nat) : Nat → State → EOut Unit
  | 0, s => .ok s 0 ()
  | n + 1, s =>
    match s.graphs.find? (·.id == graph) with
    | none => .ok s 0 ()
    | some g =>
      match g.nextRead, s.queueOf g.queue with
      | some (i, ws), some x =>
        match s.edgeRead (edgeClient x.id g.job s.edgeTime x.wins) (ws.getD 1 0) 4 with
        | .wait h => .wait h
        | .fault s _ e _ => State.readPredicates graph n ((s.nodeDone graph i .stuck 0).queueError g.queue e x.head)
        | .ok s t bs => State.readPredicates graph n (s.nodeDone graph i (.done (if wordAt bs 0 = 0 then 0xC else 0x3)) t)
      | _, _ => .ok s 0 ()

/-- A node of a graph is over, which makes `s0` to `s`: the predicates that are due are read, then `k` follows. While a read is held
up the node is not over yet. -/
def State.nodeOver (s0 s : State) (graph : Nat) (k : State → State) : State :=
  match s0.graphs.find? (·.id == graph) with
  | none => k s
  | some g =>
    match s0.queueOf g.queue, s.readPredicates graph g.nodes.length with
    | some x, .wait h => s0.askHold (edgeClient x.id g.job s0.edgeTime x.wins) h
    | none, .wait _ => k s
    | _, .ok s _ _ | _, .fault s _ _ _ => k (s.updQueue g.queue fun q => { q with wins := [] })

/-- `GRAPH`: the node array is read and checked; the nodes run by events of their own. -/
def execGraph (queue : Nat) (s : State) : Host.Outcome State Fault Refusal :=
  .next (State.command queue 2 (fun s x r =>
    let back (s : State) : State := s.updQueue queue fun q => { q with head := x.head, wins := x.wins }
    let n := (r.x 1).toNat
    if (r.x 0).toNat % 64 ≠ 0 then (back s).queueError queue 0x01 x.head
    else
      let c := edgeClient x.id x.job s.edgeTime x.wins
      match s.edgeRead c (r.x 0) (64 * n) with
      | .wait h => back (s.askHold c h)
      | .fault s _ c _ => (back s).queueError queue c x.head
      | .ok s _ bs =>
        let nodes := (List.range n).map fun i => (List.range 8).map fun k => dwAt bs (64 * i + 8 * k)
        if nodes.zipIdx.any fun y => !nodeOk nodes y.2 y.1 then (back s).queueError queue 0x01 x.head
        else
          let gone := s.levelGone x.job x.phase none
          let g : Graph := ⟨s.nextId, x.job, queue, r.cnt, nodes.map fun ws => (if gone then .skipped else .waiting, ws), x.phase,
            r.irq, gone, 0⟩
          match State.readPredicates g.id n { s with graphs := s.graphs ++ [g], nextId := s.nextId + 1 } with
          | .wait h => back (s.askHold c h)
          | .ok s _ _ | .fault s _ _ _ => s.tidy) s)

/-- `NODE_RUN` (R402, R403). -/
def execNodeRun (graph node : Nat) (s : State) : Host.Outcome State Fault Refusal :=
  match s.graphs.find? (·.id == graph) with
  | none => .next s
  | some g =>
    match g.nodes[node]?, s.queueOf g.queue with
    | some (.waiting, ws), some x =>
      match nodeRuns g.nodes node with
      | none => .next s
      | some false => .next (s.nodeOver (s.nodeDone graph node .skipped 0) graph State.tidy)
      | some true =>
        let s0 := s
        let target := ws.getD 1 0
        let c := edgeClient x.id g.job s.edgeTime x.wins
        let stuck (s : State) (code : BitVec 8) : State :=
          (s.nodeDone graph node .stuck 0).queueError g.queue code x.head
        let used (s : State) : State := s.updQueue g.queue fun q => { q with wins := [] }
        match nodeKind ws with
        | 0 =>
          .next (match s.edgeRead c target 64 with
            | .wait h => s0.askHold c h
            | .fault s _ e _ => stuck (used s) e
            | .ok s _ bs =>
              let r := CRec.of bs
              if r.op ≠ 1 ∨ s.malformed g.job bs ∨ s.badMask g.job r then stuck (used s) 0x01
              else
                let s := (used s).nodeDone graph node .running 0
                s.startLaunch { x with job := g.job } g.phase (some (graph, node)) r x.head fun s =>
                  (s.nodeDone graph node .waiting 0).updQueue g.queue fun q => { q with wins := x.wins })
        | 1 => .next (s.nodeOver s graph State.tidy)
        | _ => .next (s.nodeOver (s.nodeDone graph node (.done 0xF) 0) graph State.tidy)
    | _, _ => .next s

/-! ### Completion of a launch (R401) -/

/-- `LAUNCH_COMPLETION`: a release at system scope, so what lies in clusters for host memory is written back first. A node of a graph
is over with it, before its counter fires (R403). -/
def execLaunchCompletion (launch : Nat) (s : State) : Host.Outcome State Fault Refusal :=
  match s.launches.find? (·.id == launch) with
  | none => .next s
  | some l =>
    if !s.launchOver l then .next s
    else if s.hostLeft then .next s.flushAll
    else
      let t := (s.agents.filter fun a => a.unitOf == some l.id).foldl (fun t a => tmax t a.lastTime) l.time
      let s1 : State := { s with agents := s.agents.filter fun a => a.unitOf != some l.id, launches := s.launches.filter (·.id != l.id) }
      match l.graph with
      | none => .next (s1.finishCommand l.queue l.phase l.counter l.cancelled l.irq t).tidy
      | some (g, n) =>
        .next (s.nodeOver (s1.nodeDone g n (if l.cancelled then .cancelled else .done 0xF) t) g fun s =>
          let s := s.fire l.counter l.cancelled t
          (if l.irq then s.interrupt l.queue else s).tidy)

/-! ### The other commands (R397) -/

/-- `PHASE`: the open phase of the queue ends and another opens. -/
def execPhase (queue : Nat) (s : State) : Host.Outcome State Fault Refusal :=
  .next (State.command queue 3 (fun s x r =>
    let s : State := { s with
      phases := s.phases.map fun (p : Phase) => if x.phase = some p.id then { p with ended := true, irq := r.irq } else p }
    let p : Phase := ⟨s.nextId, queue, r.cnt, false, false, false, 0⟩
    let s : State := { s with phases := s.phases ++ [p], nextId := s.nextId + 1 }
    let s := s.updQueue queue fun q => { q with phase := some p.id }
    let s := if x.phase.isNone && r.irq then s.interrupt queue else s
    s.tidy) s)

/-- `WAIT`: satisfied when it starts, an acquire at system scope of what the counter's firings released (R393). -/
def execWait (queue : Nat) (s : State) : Host.Outcome State Fault Refusal :=
  .next (State.command queue 4 (fun s x r =>
    s.finishNow x r (tmax s.hws (((s.counterOf x.job r.named).map (·.time)).getD 0))) s)

/-- `SIGNAL`: a release of every completed command of the queue. -/
def execSignal (queue : Nat) (s : State) : Host.Outcome State Fault Refusal :=
  .next (State.command queue 5 (fun s x r =>
    let s := s.updCounter r.named fun c =>
      if (r.x 0).getLsbD 12 then
        { c with count := satCount 0 r.value, cancelled := false, time := tmax c.time x.time }
      else { c with count := satCount c.count.toNat r.value, time := tmax c.time x.time }
    s.finishNow x r x.time) s)

/-- `HOST_CANCEL` (R405): every running level of the job that is bound to the counter. -/
def execHostCancel (queue : Nat) (s : State) : Host.Outcome State Fault Refusal :=
  .next (State.command queue 6 (fun s x r =>
    let k := r.named
    let mine := (s.queues.filter (·.job == x.job)).map (·.num)
    let s := (s.launches.filter fun l => l.job == x.job && l.counter == k).foldl (fun s l => s.cancelLaunch l.id) s
    let s := (s.graphs.filter fun g => g.job == x.job && g.counter == k).foldl (fun s g => s.cancelGraph g.id) s
    let s := (s.phases.filter fun p => mine.contains p.queue && p.counter == k).foldl (fun s p => s.cancelPhase p.id) s
    let s := if ((s.job x.job).jobcnt.extractLsb' 0 12).toNat = k then s.cancelJob x.job else s
    s.finishNow x r 0) s)

/-- `HOST_FENCE`: every earlier command has completed with its release. -/
def execHostFence (queue : Nat) (s : State) : Host.Outcome State Fault Refusal :=
  .next (State.command queue 8 (fun s x r => s.finishNow x r x.time) s)

/-- Changing a command in progress. -/
def State.updHostCmd (s : State) (id : Nat) (f : HostCmd → HostCmd) : State :=
  { s with hostCmds := s.hostCmds.map fun h => if h.id = id then f h else h }

/-- The work of a COPY: the parts of its range, in an order that R397 leaves open (log entry 57). -/
def State.copyWork (s : State) (h : HostCmd) : EWork × State :=
  let g := s.grain
  let b := g.2.chooseNat 2
  (⟨0, 0, none, h.dst.toNat % 4 != h.src.toNat % 4 || b.1 == 1, (cutOf g.1 h.dst h.len).map fun o =>
    ⟨some (h.src + BitVec.ofNat 64 o.1, o.2), .copy (h.dst + BitVec.ofNat 64 o.1), none⟩, [], none, [], [(h.dst, h.len)], []⟩, b.2)

/-- A COPY in progress: its bytes are copied part by part, then it completes once the scale-up window has acknowledged its
stores. -/
def State.workCopy (s : State) (id : Nat) : State :=
  match s.hostCmds.find? (·.id == id) with
  | none => s
  | some h =>
    if h.failed then s
    else if h.performed then
      if s.winReqs.any (fun w => match w.kind with | .estore k _ _ => k == id | _ => false) then s
      else ({ s with hostCmds := s.hostCmds.filter (·.id != id) }.finishCommand h.queue h.phase h.counter false h.irq h.time).tidy
    else
      let c := edgeClient id h.job (tmax s.edgeTime h.time) h.wins
      let w := match h.work with | some w => (w, s) | none => s.copyWork h
      let n := w.2.chooseNat (2 * w.1.todo.length + 1)
      let keep (s : State) (t : DWord) (w : EWork) : State := s.edgeSettle.updHostCmd id fun h =>
        { h with work := some w, performed := w.todo.isEmpty, time := t }
      match c.steps (2 * w.1.todo.length - n.1) w.1 n.2 c.time with
      | (s, t, w, .more) => keep s t w
      | (s, t, w, .held x) => (keep s t w).askHold c x
      | (s, t, w, .fault e _) =>
        (((keep s t w).updHostCmd id fun h => { h with failed := true, performed := false }).clearWalkFaults id).queueError h.queue e
          ((s.queueOf h.queue).map (·.head) |>.getD 0)

/-- The COPY at HEAD starts (R397). -/
def State.startCopy (queue : Nat) (s : State) : State :=
  State.command queue 7 (fun s x r =>
    let h : HostCmd := ⟨s.nextId, queue, x.job, x.phase, r.cnt, r.irq, r.x 0, r.x 1, (r.x 2).toNat, [], false, false, x.time, none⟩
    let s : State := { s with hostCmds := s.hostCmds ++ [h], nextId := s.nextId + 1 }
    (s.workCopy h.id).workCopy h.id) s

/-- `HOST_COPY`: a COPY of the queue in progress goes on, or the one at HEAD starts; which of them is open (R397). -/
def execHostCopy (queue : Nat) (s : State) : Host.Outcome State Fault Refusal :=
  match s.hostCmds.filter fun h => h.queue == queue && !h.failed with
  | [] => .next (State.startCopy queue s)
  | hs =>
    let n := s.chooseNat (hs.length + 1)
    match hs[n.1]? with
    | some h => .next ((n.2.workCopy h.id).workCopy h.id)
    | none => .next (State.startCopy queue n.2)

/-- `MALFORMED_RECORD` (R396): nothing of the record runs. -/
def execMalformedRecord (queue : Nat) (s : State) : Host.Outcome State Fault Refusal :=
  match s.queueOf queue with
  | none => .next s
  | some x =>
    if (x.state != .running && x.state != .waiting) || x.head == x.tail then .next s
    else
      match s.headBytes x with
      | .error l => .next (s.nudge l)
      | .ok (s, bs, bad) =>
        let r := CRec.of bs
        let wrong := s.malformed x.job bs || (s.mayStart x r && s.badMask x.job r)
        .next (if !bad && wrong then s.queueError queue 0x01 x.head else s)

/-! ### Doorbells and the state of a queue (R395, 23_host_and_links.md R464, R465) -/

/-- `DBELL` (R465). -/
def execDbell (queue : Nat) (tail : Word) (s : State) : Host.Outcome State Fault Refusal :=
  match s.queueOf queue with
  | none => .next s
  | some x =>
    if x.state ≠ .running ∧ x.state ≠ .waiting then .next s
    else if tail = x.tail ∨ 2 ^ 31 ≤ (tail - x.tail).toNat then .next s
    else if x.size < (tail - x.head).toNat then .next (s.queueError queue 0x02 x.head)
    else .next (s.updQueue queue fun x => { x with tail := tail })

/-- A ring may have this size and lie there (R395). -/
def ringOk (base : DWord) (size : Nat) : Bool :=
  (List.range 16).any (fun k => size == 2 ^ (k + 1)) && base.toNat % 64 == 0 && homed base.toNat

/-- `QUEUE_ENABLE`: a queue that is DISABLED runs, with one of the 2,048 vectors (23_host_and_links.md R460); HEAD and TAIL start at 0 (log entry 17). -/
def execQueueEnable (queue : Nat) (base : DWord) (size job vector : Nat) (s : State) :
    Host.Outcome State Fault Refusal :=
  let free := (match s.queueOf queue with | some x => x.state == .disabled | none => true) && s.lifecycle != .decommissioned
  if 16384 ≤ queue ∨ 2048 ≤ vector ∨ !free ∨ !ringOk base size then .next s
  else
    let x : Queue := ⟨queue, .running, base, size, job, vector, 0, 0, 0, 0, 0, none, 0, s.nextId, []⟩
    .next { s with queues := (s.queues.filter (·.num != queue)) ++ [x], nextId := s.nextId + 1 }

/-- `QUEUE_RESET`: ERROR or STOPPED becomes DISABLED; a COPY that has faulted is forgotten, and the open phase with it. -/
def execQueueReset (queue : Nat) (s : State) : Host.Outcome State Fault Refusal :=
  match s.queueOf queue with
  | none => .next s
  | some x =>
    if x.state ≠ .error ∧ x.state ≠ .stopped then .next s
    else
      let s := s.updQueue queue fun x => { x with state := .disabled, phase := none }
      .next { s with hostCmds := s.hostCmds.filter fun h => h.queue != queue || !h.failed
                     phases := s.phases.filter fun p => x.phase != some p.id }

end Sys2Proof.Machine
end

