-- ==== Sys2Proof/Machine/Spill.lean ====
section
/-! DEFINITION. The spill engine of a cluster: spilling and restoring a barrel slot, pre-empting and resuming a warp
(19_traps.md R422-R427). Its commands are written through `SPCMD` (R423); an event of a command is one look of the engine at
its target, which waits, refuses or performs. -/

namespace Sys2Proof.Machine

/-- The engine of a cluster runs a command of this OP on this core and context: the job that wrote it. -/
def State.spCommand (s : State) (op cluster core ctx : Nat) : Option Nat :=
  match (s.spillOf cluster).cmd with
  | some (v, job) => if spFields v = (op, core, ctx) then some job else none
  | none => none

/-- The command completes: DONE (R423). -/
def State.spDone (s : State) (cluster : Nat) : State :=
  (s.setSpill ⟨cluster, none, none, true, false, 0⟩).tally cluster 0x0E 1

/-- The engine refuses the command: ERR with its code (R423). -/
def State.spFail (s : State) (cluster : Nat) (code : BitVec 8) : State := s.setSpill ⟨cluster, none, none, false, true, code⟩

/-- A path of a unit is inside a handler, about to enter one, or stopped by a double trap: the command waits (R424, R426,
R427). -/
def Agent.inHandler (a : Agent) : Bool := a.isHalted || a.paths.any fun p => p.act || p.trap.isSome

/-- What is parked in the unit leaves: its synchronising accesses, its places in rooms, the reads that an instruction has
begun (R424 step 2, R425, 04_cluster_store.md R87). -/
def State.unpark (s : State) (a : Agent) : State :=
  let s := s.withdraw a.uid a.live
  let s := (Mask.list a.live).foldl (fun s l => if (a.lane l).chain.isSome then s else s.leaveInn a.uid l) s
  let s : State := { s with loads := s.loads.filter fun x => !(x.uid == a.uid && x.kind == LoadKind.held)
                            walkFaults := s.walkFaults.filter (·.uid != a.uid) }
  s.updAgent a.uid fun a =>
    { a.mapPaths fun p => if p.parked &&& p.mask = 0 then { p with wait := none } else p with
      status := if a.status = .inInn ∧ ¬ (a.lanes.any fun ln => ln.chain.isSome) then .issuing else a.status }

/-- An access of a path has been performed for every lane: it completes before the command goes on (R87). -/
def Agent.finishing (a : Agent) : Bool :=
  a.paths.any fun p => p.done != 0 && p.parked &&& p.mask == 0 && p.mask &&& ~~~p.done == 0

/-- The unit is out of its slot. -/
def State.setSpilled (s : State) (uid : Nat) : State :=
  s.updAgent uid fun a => { a.mapPaths fun p => { p with buf := [] } with status := .spilled }

/-- A restored PC that R365 of 17_isa_control.md rejects is cause 0x05 (log entry 15). -/
def Path.checked (p : Path) : Path :=
  if targetOk p.pc || p.trap.isSome then p else { p with trap := some (p.mask, 0x05, p.pc, 0, p.pc) }

/-! ### Barrel slots (R424, R425) -/

/-- The unit that stands in a barrel slot. -/
def State.inSlotOf (s : State) (p : Place) : Option Agent := s.agents.find? fun a => !a.wide && a.inSlot && a.place == p

/-- The unit whose home is a barrel slot (15_travellers.md R331): the job's own, else the one that has it. -/
def State.homedAt (s : State) (p : Place) (job : Nat) : Option Agent :=
  let here := s.agents.filter fun a => a.barrel && !a.wide && a.home == p
  (here.find? (·.job == job)) <|> (here.find? fun a => !s.lent a)

/-- The record of a unit's home slot lies in a tier (R422, R423). -/
def State.travInTier (s : State) (a : Agent) : Bool := recordOk (s.travAddr a.home) 1024

/-- Spilling a traveller of the writer's job that stands in a slot (R424 steps 1 to 4). -/
def State.spillTrav (s : State) (cluster job : Nat) (a : Agent) : State :=
  if a.job ≠ job then s.spFail cluster 0x27
  else if !s.travInTier a then s.spFail cluster 0x28
  else if a.inHandler then s
  else
    let s := s.unpark a
    match s.agent? a.uid with
    | none => s
    | some a =>
      if a.finishing || !s.settled a then s
      else
        match s.physWrite cluster (s.travAddr a.home) (s.travRec a) with
        | .error l => s.nudge l
        | .ok s => (s.setSpilled a.uid).spDone cluster

/-- `SPILL_SLOT` (R424): the record goes to the home slot's place. A traveller of the slot that travels is spilled where it arrives;
one on the arrival list counts as spilled; with no unit in the slot there is nothing to do. -/
def execSpillSlot (cluster core slot : Nat) (s : State) : Host.Outcome State Fault Refusal :=
  let p : Place := ⟨cluster, core, slot⟩
  match s.spCommand 0 cluster core slot with
  | none => .next s
  | some job =>
    match (s.spillOf cluster).target.bind s.agent? with
    | some a =>
      .next (if a.status = .travelling then s else if a.inSlot then s.spillTrav cluster job a else s.spDone cluster)
    | none =>
      match s.inSlotOf p with
      | some a => .next (s.spillTrav cluster job a)
      | none =>
        .next (match s.homedAt p job with
          | none => s.spDone cluster
          | some a =>
            if a.job ≠ job then s.spFail cluster 0x27
            else if a.status = .travelling then s.setSpill { s.spillOf cluster with target := some a.uid }
            else s.spDone cluster)

/-- A traveller as its record gives it; a call that has ended since the spill stays ended. -/
def State.restored (s : State) (a : Agent) (p : Place) (xs : List Chunk) : Agent :=
  let b := a.ofTrav xs
  let ended := (a.lane 0).chain.isNone && a.slotA.any fun q => q.trap.isSome
  let b := if ended then b.updLane 0 fun ln => { ln with chain := none, cfault := (a.lane 0).cfault } else b
  { b with
    lanes := s.creepDue { b with lanes := b.lanes.map fun ln => { ln with crept := (a.lane 0).crept } } p
    place := p, home := p
    slotA := b.slotA.map fun q => if (b.lane 0).chain.isSome then q else { q.checked with wait := none, parked := 0 }
    idleSince := s.now p.cluster
    status := if (b.lane 0).chain.isSome then .inInn else .issuing }

/-- `RESTORE_SLOT` (R425): into an occupied slot it is refused, and into one that a unit of another job holds (R428); a record of no spilled unit of the slot makes a traveller of
the writer's job. -/
def execRestoreSlot (cluster core slot : Nat) (s : State) : Host.Outcome State Fault Refusal :=
  let p : Place := ⟨cluster, core, slot⟩
  match s.spCommand 1 cluster core slot with
  | none => .next s
  | some job =>
    if (s.inSlotOf p).isSome then .next (s.spFail cluster 0x01)
    else if !recordOk (s.travAddr p) 1024 then .next (s.spFail cluster 0x28)
    else if s.agents.any fun a => a.job != job && s.holdsSlot p a then .next (s.spFail cluster 0x27)
    else
      match s.homedAt p job with
      | some a =>
        if a.status = .arrived then
          -- on the arrival list: its context is the device's own
          .next (({ s with arrivals := s.arrivals.filter (·.uid != a.uid) }.settleIn a p).spDone cluster)
        else if a.status ≠ .spilled then .next (s.spFail cluster 0x01)
        else
          match s.physRead cluster (s.travAddr p / 128) 8 with
          | .error l => .next (s.nudge l)
          | .ok (s, xs) =>
            if !travOk xs then .next (s.spFail cluster 0x19)
            else .next (((s.claimSlot p job).setAgent (s.restored a p xs)).spDone cluster)
      | none =>
        match s.physRead cluster (s.travAddr p / 128) 8 with
        | .error l => .next (s.nudge l)
        | .ok (s, xs) =>
          if !travOk xs then .next (s.spFail cluster 0x19)
          else
            let a := Agent.fresh s.nextId job .traveller p 1 0 .user
            let a := { a with lanes := a.lanes.map fun ln => { ln with crept := s.now cluster } }
            let s := s.claimSlot p job
            .next (({ s with agents := s.agents ++ [s.restored a p xs], nextId := s.nextId + 1 } : State).spDone cluster)

/-! ### Warps (R426) -/

/-- The warps that a command names: the one in the context, and its coach or shadow wave. -/
def State.pairAt (s : State) (p : Place) (ok : Agent → Bool) : List Agent :=
  match s.agents.find? fun a => a.wide && a.place == p && ok a with
  | none => []
  | some a => a :: ((a.partner.bind s.agent?).toList.filter ok)

/-- Writing the records of some warps. -/
def State.writeWarps (cluster : Nat) : List Agent → State → AtHome State
  | [], s => .ok s
  | a :: as, s =>
    match s.physWrite cluster (s.warpAddr a.place) (s.warpRec a) with
    | .error l => .error l
    | .ok s => State.writeWarps cluster as s

/-- `PREEMPT_WARP`: resident or swapped (R428). It waits while a lane's gang call is served. -/
def execPreemptWarp (cluster core ctx : Nat) (s : State) : Host.Outcome State Fault Refusal :=
  match s.spCommand 2 cluster core ctx with
  | none => .next s
  | some job =>
    let ws := s.pairAt ⟨cluster, core, ctx⟩ Agent.admitted
    if ws.isEmpty then .next (s.spDone cluster)
    else if ws.any fun a => a.job != job then .next (s.spFail cluster 0x27)
    else if ws.any fun a => !recordOk (s.warpAddr a.place) 9728 then .next (s.spFail cluster 0x28)
    else if ws.any fun a => a.inHandler || a.lanes.any fun ln => ln.chain.isSome then .next s
    else
      let s := ws.foldl (fun s a => s.unpark a) s
      let ws := ws.filterMap fun a => s.agent? a.uid
      if ws.any fun a => a.finishing || !s.settled a then .next s
      else
        match State.writeWarps cluster ws s with
        | .error l => .next (s.nudge l)
        | .ok s => .next ((ws.foldl (fun s a => s.setSpilled a.uid) s).spDone cluster)

/-- A warp as its record gives it. -/
def State.restoredWarp (s : State) (a : Agent) (xs : List Chunk) : Agent :=
  let b := a.ofWarp xs
  let p := a.place
  { b with
    lanes := s.creepDue { b with lanes := b.lanes.mapIdx fun l ln => { ln with crept := (a.lane l).crept } } p
    slotA := b.slotA.map Path.checked
    slotB := b.slotB.map Path.checked
    idleSince := s.now p.cluster
    status := .issuing }

/-- Restoring some warps from their records: none where the record of one fails its checks. -/
def State.readWarps (cluster : Nat) : List Agent → State → AtHome (State × Option (List Agent))
  | [], s => .ok (s, some [])
  | a :: as, s =>
    match s.physRead cluster (s.warpAddr a.place / 128) 76 with
    | .error l => .error l
    | .ok (s, xs) =>
      if !warpOk xs then .ok (s, none)
      else
        match State.readWarps cluster as s with
        | .error l => .error l
        | .ok (s, r) => .ok (s, r.map fun bs => s.restoredWarp a xs :: bs)

/-- A restored warp gets its context back, resident or swapped (18_scheduling.md R409). -/
def State.admitWarp (s : State) (b : Agent) : State :=
  let k := b.place.coreId
  -- it is admitted last (18_scheduling.md R407)
  let s : State := { s with agents := (s.agents.filter (·.uid != b.uid)) ++ [b] }
  match s.startStatus k with
  | .issuing => s.setAgent b
  | _ => (s.setAgent b).writeSwap b.uid (s.freeArea k)

/-- The lanes that the paths of a warp hold, those on the divergence stack as the wide store has them (R346). -/
def State.lanesHeld (s : State) (a : Agent) : Mask :=
  (List.range a.stack.length).foldl (fun m k => m ||| (s.lword a.place.coreId (stackWord a.place.ctx k 2)).v)
    ((a.slotA.toList ++ a.slotB.toList).foldl (fun m p => m ||| p.mask) 0)

/-- `RESUME_WARP`: into the same core and context, which must be free. -/
def execResumeWarp (cluster core ctx : Nat) (s : State) : Host.Outcome State Fault Refusal :=
  let p : Place := ⟨cluster, core, ctx⟩
  match s.spCommand 3 cluster core ctx with
  | none => .next s
  | some job =>
    let found := s.pairAt p fun a => a.status == .spilled
    let ws := if found.isEmpty then
        [{ Agent.fresh s.nextId job .warp p 32 0 .user with
           status := .spilled, lanes := List.replicate 32 { Lane.fresh with crept := s.now cluster }, slotA := none }]
      else found
    let taken (q : Place) : Bool := s.agents.any fun a => a.wide && a.admitted && a.place == q
    if ws.any fun a => a.job != job then .next (s.spFail cluster 0x27)
    else if ws.any fun a => taken a.place then .next (s.spFail cluster 0x01)
    else if ws.any fun a => !recordOk (s.warpAddr a.place) 9728 then .next (s.spFail cluster 0x28)
    else
      match State.readWarps cluster ws s with
      | .error l => .next (s.nudge l)
      | .ok (s, none) => .next (s.spFail cluster 0x19)
      | .ok (s, some bs) =>
        let s : State := if found.isEmpty then { s with agents := s.agents ++ ws, nextId := s.nextId + 1 } else s
        let bs := if found.isEmpty then bs.map fun b => { b with live := s.lanesHeld b } else bs
        .next ((bs.foldl (fun s b => s.admitWarp b) s).spDone cluster)

end Sys2Proof.Machine
end

