-- ==== Sys2Proof/Machine/Host.lean ====
section
/-! DEFINITION. The host's CXL requests and snoops (02_lines_and_homes.md R55, 23_host_and_links.md R461-R463), the flits of
the Halette links and the scale-up window (R467-R469). -/

namespace Sys2Proof.Machine

/-! ### The host's requests -/

/-- Writing an entry of the error log: the last 4,096 stay, and an overwritten entry sets the overflow flag
(24_security_power_health.md R477). -/
def State.logError (s : State) (place : LogPlace) (tier : Tier) (addr job : Nat) : State :=
  let l := s.life
  let e : LogEntry := ⟨place, tier, addr, job, s.timebase⟩
  { s with life := { l with log := (l.log ++ [e]).drop (l.log.length + 1 - 4096),
                            overflow := l.overflow || decide (4096 ≤ l.log.length) } }

/-- The tier that an HDM decoder shows: its first address and its size (R461). -/
def hdmTier (k : Fin 2) : Nat × Nat := if k = 0 then (0, 0x6000000000) else (0x10000000000, 0x20000000000)

/-- The device address that a host address reaches: through a decoder the tier that it shows (R461), else the host's own memory
(R462). -/
def State.hostPa (s : State) (a : Nat) : Option Nat :=
  let through (k : Fin 2) : Option Nat := s.hdm[k].bind fun b =>
    if b ≤ a ∧ a < b + (hdmTier k).2 then some ((hdmTier k).1 + (a - b)) else none
  (through 0) <|> (through 1) <|> (if a < 2 ^ 46 then some (0x800000000000 + a) else none)

/-- System software places the host addresses of a decoder. -/
def State.setDecoderTurn (s : State) (k base : Nat) : State :=
  if h : k < 2 then (if base % 128 = 0 then { s with hdm := s.hdm.set k (some base) } else s) else s

/-- The host's own memory: the device is its caching agent (R462). -/
def hostOwn (line : Nat) : Bool := regionOf (128 * line) == some .host

/-- Whether the host keeps a copy of a device line that it has read is the host's choice; of its own memory the home keeps
no note. -/
def State.hostKeeps (s : State) (line : Nat) (sure : Bool) : State :=
  if hostOwn line then s
  else
    let r := s.choose
    if sure || r.1 then r.2.setHome line { r.2.homeOf line with host := true } else r.2

/-- A store at the home at raise(`htime`, `rts` + 1), as of the host or of a peer (R55, R462; log entry 19): the bytes, whose
whole sectors clear poison, with the sectors that are poisoned (19_traps.md R430). The stamp. -/
def State.homeStore (s : State) (line off : Nat) (bytes : List Byte) (bad : BitVec 8) : State × Stamp :=
  let h := s.homeOf line
  let st := smax s.htime[sliceOf line] (h.rts + 1)
  let full := BitVec.ofNat 8 (((List.range 8).filter fun i =>
    decide (off ≤ 16 * i ∧ 16 * i + 16 ≤ off + bytes.length)).foldl (fun m i => m + 2 ^ i) 0)
  let b := (h.bad &&& ~~~full) ||| bad
  let s := { s with mem := Memory.writeBytes s.mem (128 * line + off) bytes }
  ((s.setHome line { h with wts := st, rts := st, bad := b }).noteStamp line st, st)

/-- `HWS` covers the stamp of a write from outside the device (R463). -/
def State.coverHost (s : State) (x : Stamp) : State := { s with hws := raise s.hws x }

/-- A write of the host, or of a peer, which synchronises at system scope as the host does (R326): `HWS` covers its stamp (R463).
For a peer's write DEDUCED, log entry 57. -/
def State.hostStore (s : State) (line off : Nat) (bytes : List Byte) (bad : BitVec 8 := 0) : State :=
  let r := s.homeStore line off bytes bad
  r.1.coverHost r.2

/-- A request from outside the device recalls the line's O and U copies, after every request that has reached the home before
it (R45, R55). -/
def State.hostRecall (s : State) (line : Nat) : AtHome State :=
  if s.lineHeld line none then .error line else s.recallAll line

/-- What the host gets of a line. -/
def State.tellHost (s : State) (line : Nat) : State :=
  { s with reports := s.reports ++ [.hostData line (lineAt s.mem line) (s.homeOf line).bad] }

/-- `HOST_READ` (R55, R461): a read at `htime`, of length 0: the host's copies hold no lease. The line is one of the host's address
space. -/
def execHostRead (line : Nat) (s : State) : Host.Outcome State Fault Refusal :=
  match s.hostPa (128 * line) with
  | none => .fault (.unassignedAddress (128 * line))
  | some pa =>
    let line := pa / 128
    match s.homeReadAt line (s.htime[sliceOf line].setWidth 64) 0 with
    | .error _ => .next s
    | .ok (s, _) => .next ((s.hostKeeps line false).tellHost line)

/-- The parts of a host write at a device address, line by line, in order; poisoned data is installed poisoned (R469). -/
def State.hostParts (s : State) (addr : Nat) (data : List Byte) (bad : Bool) : AtHome State :=
  (linesOf (data.length / 128 + 2) addr data.length).foldl (fun r x =>
    match r with
    | .error l => .error l
    | .ok s =>
      match s.hostRecall x.1 with
      | .error l => .error l
      | .ok s => .ok (s.hostStore x.1 x.2.1 ((data.drop (128 * x.1 + x.2.1 - addr)).take x.2.2)
          (if bad then sectorMask x.2.1 x.2.2 else 0))) (.ok s)

/-- `HOST_WRITE` (R55, R463): a store at raise(`htime`, `rts` + 1), after the recalls; `HWS` is raised to cover it. -/
def execHostWrite (addr : Nat) (data : HostBytes) (s : State) : Host.Outcome State Fault Refusal :=
  match s.hostPa addr, s.hostPa (addr + data.bytes.length - 1) with
  | some pa, some pb =>
    if pb ≠ pa + data.bytes.length - 1 then .fault (.unassignedAddress addr)
    else
      match s.hostParts pa data.bytes data.bad with
      | .error _ => .next s
      | .ok s => .next s
  | _, _ => .fault (.unassignedAddress addr)

/-- `HOST_OWNERSHIP_REQUEST` (R55): the owner and the U copies are recalled, and the host holds the line. -/
def execHostOwnershipRequest (line : Nat) (s : State) : Host.Outcome State Fault Refusal :=
  match s.hostPa (128 * line) with
  | none => .fault (.unassignedAddress (128 * line))
  | some pa =>
    match s.hostRecall (pa / 128) with
    | .error _ => .next s
    | .ok s => .next ((s.hostKeeps (pa / 128) true).tellHost (pa / 128))

/-- `BACK_INVALIDATE_REPLY` (R461, R469): the host holds the line no more; its dirty data is merged as a write of the host, with its
poisoned sectors. -/
def execBackInvalidateReply (snoop : Nat) (dirty : Option DirtyLine) (s : State) :
    Host.Outcome State Fault Refusal :=
  match s.snoops.find? (·.1 == snoop) with
  | none => .next s
  | some x =>
    let s : State := { s with snoops := s.snoops.filter (·.1 != snoop) }
    let s := s.setHome x.2 { s.homeOf x.2 with host := false }
    .next (match dirty with
      | some d => s.hostStore x.2 0 (toBytes 128 d.data.toNat) d.bad
      | none => s)

/-- A snoop of the host's own memory (R462): what the home serves, the data, and the stamp of the host's write (log
entry 19). -/
def State.snooped (s : State) (line : Nat) (served : AtHome State) : State :=
  if !hostOwn line then s
  else
    match served with
    | .error _ => s
    | .ok s => (s.tellHost line).hostStore line 0 []

/-- `SNOOP_INVALIDATE` (R462): the O and U copies are recalled, the data goes back and the line is given up. -/
def execSnoopInvalidate (line : Nat) (s : State) : Host.Outcome State Fault Refusal :=
  .next (s.snooped line (s.hostRecall line))

/-- `SNOOP_DATA` (R462): a read. -/
def execSnoopData (line : Nat) (s : State) : Host.Outcome State Fault Refusal :=
  .next (s.snooped line ((s.homeReadAt line (s.htime[sliceOf line].setWidth 64) 0).map (·.1)))

/-! ### Links (R467) -/

/-- A link of a number. -/
def State.linkNo (s : State) (n : Nat) : Option Link := s.links.find? (·.num == n)

/-- ACK names the last flit that the peer has received intact: what was sent up to it is dropped. -/
def Link.acknowledge (x : Link) (ack : Nat) : Link :=
  match x.sent.findIdx? fun f => f.seq == ack % 4096 with
  | some i => { x with sent := x.sent.drop (i + 1), replaying := false }
  | none => x

/-- A flit that is intact: it is accepted in SEQ order only. -/
def State.accept (s : State) (link seq ack : Nat) : Option State :=
  match s.linkNo link with
  | none => none
  | some x =>
    if seq % 4096 = (x.inSeq + 1) % 4096 then
      some (s.updLink link fun x => { x.acknowledge ack with inSeq := seq % 4096 })
    else none

/-! The layout of the 256 bytes of a flit (R467); fields of two bytes are little-endian. -/

/-- The bytes before the CRC: TYPE and SEQ, the reserved bits and ACK, the payload. -/
def Flit.body (f : Flit) : List Byte :=
  toBytes 2 (f.ty % 16 * 4096 + f.seq % 4096) ++ toBytes 2 (f.ack % 4096) ++ f.payload.toList

/-- The 256 bytes. -/
def Flit.raw (f : Flit) : List Byte := f.body ++ (Config.flitCrc f.body).toList

/-- Reading 256 bytes: none where the CRC fails. The mark of poison stands in the payload, whose layout the spec does not give. -/
def flitOf (raw : List Byte) : Option Flit :=
  let body := raw.take 244
  if raw.length ≠ 256 ∨ raw.drop 244 ≠ (Config.flitCrc body).toList then none
  else
    let w := ofBytes (body.take 2)
    let p := body.drop 4
    some ⟨w / 4096, w % 4096, ofBytes ((body.drop 2).take 2) % 4096, flitPayload p, Config.flitPoisoned p⟩

/-- The tiers of this device that a peer reaches (R468). -/
def peerReaches (pa : Nat) : Bool :=
  match regionOf pa with
  | some .near | some .capacity => true
  | _ => false

/-- The element operations by number. -/
def eopOf (n : Nat) : EOp :=
  [EOp.add, .and, .or, .xor, .mins, .maxs, .minu, .maxu, .xchg, .cas, .fadd, .fmin, .fmax].getD n .add

/-- The updates of a queue header by number. -/
def headOpOf (kind x y : Nat) : HeadOp :=
  match kind with
  | 0 => .reserve true x
  | 1 => .reserve false x
  | 2 => .publish x y false
  | 3 => .publish x y true
  | _ => .close

/-- A peer's atomic action at this device's home, covered by `HWS` as its writes are: the type of the answer, the old bytes,
their mark of poison. -/
def State.peerAct (s : State) (line off n : Nat) (f : List Byte → List Byte) : AtHome (State × Nat × List Byte × Bool) :=
  (s.homeActAt line off n (s.htime[sliceOf line].setWidth 64) f).map fun r =>
    (if r.2.2.2 then r.1 else r.1.coverHost (r.2.2.1.extractLsb' 0 32), 2, r.2.1, r.2.2.2)

/-- The bytes of a peer's read, line by line, with their mark of poison. -/
def State.peerRead : List (Nat × Nat × Nat) → State → AtHome (State × List Byte × Bool)
  | [], s => .ok (s, [], false)
  | x :: l, s =>
    match s.homeReadAt x.1 (s.htime[sliceOf x.1].setWidth 64) 0 with
    | .error e => .error e
    | .ok (s, r) => (State.peerRead l s).map fun y =>
        (y.1, lineBytes r.data x.2.1 x.2.2 ++ y.2.1, decide (r.bad &&& sectorMask x.2.1 x.2.2 ≠ 0) || y.2.2)

/-- The lines of a range that the host holds are snooped before a peer writes them. -/
def State.peerHeld (s : State) (a n : Nat) : Option Nat := ((linesOf (n / 128 + 2) a n).map (·.1)).find? s.hostHolds

/-- A peer's request at this device's home (R468): none where the home waits. The bytes and the type of the answer. -/
def State.servePeer (s : State) (q : Config.PeerReq) : AtHome (State × Nat × List Byte × Bool) :=
  match q with
  | .read a n => (State.peerRead (linesOf (n / 128 + 2) a n) s).map fun r => (r.1, 3, r.2.1, r.2.2)
  | .write a bs bad =>
    match s.peerHeld a bs.length with
    | some line => .error line
    | none => (s.hostParts a bs bad).map fun s => (s, 2, [], false)
  | .element a n op v c =>
    let line := a / 128
    let e : EAct := ⟨a % 128, n, eopOf op, v, c, none⟩
    s.peerAct line e.off n e.apply
  | .header a k x y => s.peerAct (a / 128) (a % 128) 64 fun old => ((headOpOf k x y).apply (QHead.of old)).bytes

/-- The first and the last address of a peer's request. -/
def peerRange (q : Config.PeerReq) : Nat × Nat :=
  match q with
  | .read a n | .element a n _ _ _ => (a, a + n - 1)
  | .write a bs _ => (a, a + bs.length - 1)
  | .header a _ _ _ => (a, a + 63)

/-- `REQUEST_FLIT` (R467, R468): a peer's request is served at the home, and its answer is sent on the link; while the home
waits the flit is not accepted. -/
def execRequestFlit (link seq ack : Nat) (bytes : List Byte) (s : State) : Host.Outcome State Fault Refusal :=
  match s.accept link seq ack with
  | none => .next s
  | some s1 =>
    match Config.peerRequest (flitPayload bytes).toList with
    | none => .next s1
    | some q =>
      if !(peerReaches (peerRange q).1 && peerReaches (peerRange q).2) then .next s1
      else
        match s1.servePeer q with
        | .error l => .next (s.nudge l)
        | .ok (s2, ty, bs, bad) => .next (s2.sendFlit link ty bs bad)

/-! ### Answers from the scale-up window (R468, R469) -/

/-- A request of a number. -/
def State.winOf (s : State) (id : Nat) : Option WinReq := s.winReqs.find? (·.id == id)

/-- A request is answered, or given up. -/
def State.dropWin (s : State) (id : Nat) : State := { s with winReqs := s.winReqs.filter (·.id != id) }

/-- What a client has read of the window, or that it was lost. -/
def State.addWin (s : State) (id addr : Nat) (x : Option (List Byte)) : State :=
  { s with
    cmds := s.cmds.map fun c => if c.id = id then { c with wins := c.wins ++ [(addr, x)] } else c
    mops := s.mops.map fun m => if m.id = id then { m with wins := m.wins ++ [(addr, x)] } else m
    hostCmds := s.hostCmds.map fun h => if h.id = id then { h with wins := h.wins ++ [(addr, x)] } else h
    queues := s.queues.map fun q => if q.id = id then { q with wins := q.wins ++ [(addr, x)] } else q }

/-- The pieces of a load that a request was for are bound. -/
def State.bindWin (s : State) (r : WinReq) (load : Nat) (bytes : List Byte) (bad lost : Bool) : State :=
  (s.updLoad load fun l =>
    { l with lost := l.lost || lost
             pieces := l.pieces.map fun p =>
               if p.val.isNone && !p.queued && 128 * p.line + p.off == r.addr && p.len == r.len then
                 { p with val := some (bytes.take r.len, bad) }
               else p }).finishLoad load

/-- A value has come for a request that reads: a load's bytes, an atomic's old value, what an engine read, a fetched word.
Bytes of which the mark of poison is set are poisoned; an engine or a fetch takes them as a failed read. -/
def State.winValue (s : State) (r : WinReq) (bytes : List Byte) (bad : Bool) : State :=
  let s := s.dropWin r.id
  let bytes := (bytes ++ List.replicate r.len 0).take r.len
  match r.kind with
  | .load n =>
    let acq := s.loads.any fun l => l.id == n && l.acq && l.sys
    let s := if acq then s.liftPath r.uid r.lane s.hws else s
    s.bindWin r n bytes bad false
  | .atomic _ dst acq sys =>
    let s := if acq && sys then s.liftPath r.uid r.lane s.hws else s
    s.writeDest r.uid r.lane dst (BitVec.ofNat 64 (ofBytes bytes)) 0 bad
  | .eread n => s.addWin n r.addr (if bad then none else some bytes)
  | .ehead n _ => s.addWin n (headKey r.addr) (if bad then none else some bytes)
  | .fetch b va =>
    s.updPath r.uid b fun p =>
      if bad then (if p.pc.toNat ≤ va.toNat ∧ va.toNat ≤ p.pc.toNat + 8 then
        { p with trap := some (p.mask, 0x26, va, 0, p.pc) } else p)
      else { p with buf := (va.toNat, BitVec.ofNat 32 (ofBytes bytes)) :: p.buf }
  | _ => s

/-- A write of the window is acknowledged (13_isa_return.md R289). -/
def State.winDone (s : State) (r : WinReq) : State :=
  let s := s.dropWin r.id
  match r.kind with
  | .store .. | .red .. => s.updAgent r.uid fun a => { a with acks := a.acks - 1 }
  | _ => s

/-- `DATA_FLIT`: the answer of a request that reads. -/
def execDataFlit (link seq ack : Nat) (bytes : List Byte) (s : State) : Host.Outcome State Fault Refusal :=
  match s.accept link seq ack with
  | none => .next s
  | some s =>
    .next (match (Config.answered (flitPayload bytes).toList).bind s.winOf with
      | some r =>
        let d := (flitPayload bytes).toList
        if r.link = link then s.winValue r (Config.flitData d) (Config.flitPoisoned d) else s
      | none => s)

/-- `RESPONSE_FLIT`: a write has been performed at the owning device's home, or an atomic has, with its old value. -/
def execResponseFlit (link seq ack : Nat) (bytes : List Byte) (s : State) : Host.Outcome State Fault Refusal :=
  match s.accept link seq ack with
  | none => .next s
  | some s =>
    .next (match (Config.answered (flitPayload bytes).toList).bind s.winOf with
      | some r =>
        if r.link ≠ link then s
        else
          match r.kind with
          | .store .. | .red .. | .estore .. | .ered .. => s.winDone r
          | .atomic .. | .ehead .. =>
            let d := (flitPayload bytes).toList
            s.winValue r (Config.flitData d) (Config.flitPoisoned d)
          | _ => s
      | none => s)

/-- `CREDIT_FLIT`: only its SEQ and ACK act; the spec gives credits no further effect. -/
def execCreditFlit (link seq ack : Nat) (_bytes : List Byte) (s : State) : Host.Outcome State Fault Refusal :=
  .next ((s.accept link seq ack).getD s)

/-- `IDLE_FLIT`: only its SEQ and ACK act. -/
def execIdleFlit (link seq ack : Nat) (_bytes : List Byte) (s : State) : Host.Outcome State Fault Refusal :=
  .next ((s.accept link seq ack).getD s)

/-- `FLIT_CRC_FAILURE` (R467): the flit is discarded; the ACK that the device sends stays, so the peer replays. -/
def execFlitCrcFailure (_link : Nat) (s : State) : Host.Outcome State Fault Refusal := .next s

/-- One more retry of a link, saturating at 48 bits (24_security_power_health.md R477). -/
def State.countRetry (s : State) (link : Nat) : State :=
  if h : link < 25 then
    { s with life := { s.life with linkRetries := s.life.linkRetries.set link (min (s.life.linkRetries[link] + 1) (2 ^ 48 - 1)) } }
  else s

/-- `FLIT_REPLAY` (R467, R469): the device sends every flit from ACK + 1 again and counts a retry. A replay that follows
another with nothing acknowledged between them is the link's failed replay: its requests count from then (log entry 18). -/
def execFlitReplay (link : Nat) (s : State) : Host.Outcome State Fault Refusal :=
  match s.linkNo link with
  | none => .next s
  | some x =>
    if x.sent.isEmpty then .next s
    else
      let s := (s.countRetry link).updLink link fun x => { x with replaying := true }
      if x.replaying then
        .next { s with winReqs := s.winReqs.map fun r =>
          if r.link = link ∧ r.failed = none then { r with failed := some (s.now (s.coreOf r.uid).cluster) } else r }
      else .next s

/-- The registers that an atomic would have filled. -/
def State.loseAtomic (s : State) (r : WinReq) (dst : Dest) : State :=
  let x := s.chooseNat (2 ^ 64)
  (x.2.writeDest r.uid r.lane dst (BitVec.ofNat 64 x.1) 0 true).loseDest r.uid r.lane dst r.va

/-- A request of the window is given up (R469): what it would have read raises cause 0x26 at its consumer; a write is
dropped, logged and acknowledged, and its issuer is marked. -/
def State.giveUp (s : State) (r : WinReq) : State :=
  let job := match s.agent? r.uid with | some a => a.job | none => 0
  let logged (s : State) : State := s.logError (.lostStore r.link) .links r.addr job
  match r.kind with
  | .load n =>
    let x := s.chooseNat (2 ^ 1024)
    (x.2.dropWin r.id).bindWin r n (toBytes r.len x.1) true true
  | .atomic _ dst _ _ => (s.dropWin r.id).loseAtomic r dst
  | .eread n => (s.dropWin r.id).addWin n r.addr none
  | .ehead n _ => (s.dropWin r.id).addWin n (headKey r.addr) none
  | .fetch .. => s.winValue r [] true
  | .store .. | .red .. => (logged (s.updAgent r.uid fun a => { a with lost := a.lost.or (some r.va) })).winDone r
  | .estore n .. | .ered n _ =>
    let s := logged ((s.updAgent r.uid fun a => { a with lost := a.lost.or (some r.va) }).dropWin r.id)
    match s.hostCmds.find? (·.id == n) with
    | none => s
    | some h =>
      let s : State := { s with hostCmds := s.hostCmds.map fun x => if x.id = n then { x with failed := true } else x
                                queues := s.queues.map fun q => if q.num = h.queue then
                                  { q with state := .error, code := 0x26, errHead := q.head } else q }
      { s with reports := s.reports ++ [.queueError h.queue 0x26] }

/-- `WINDOW_REQUEST_TIMEOUT` (R469): 2^24 cycles after the link failed replay. -/
def execWindowRequestTimeout (wreq : Nat) (s : State) : Host.Outcome State Fault Refusal :=
  match s.winOf wreq with
  | none => .next s
  | some r =>
    match r.failed with
    | none => .next s
    | some c => if s.now (s.coreOf r.uid).cluster < c + 2 ^ 24 then .next s else .next (s.giveUp r)

/-- Firmware gives the device its own number, which no link reaches (R468). -/
def State.setNumberTurn (s : State) (n : Nat) : State :=
  if 16 ≤ n then s else { s with deviceNo := some n, links := s.links.filter (·.peer != n) }

/-- Firmware sets the peer that a link reaches (R467, 24_security_power_health.md R475); peer numbers are 0 to 15 without the
device's own (R468), and there are 24 links. -/
def State.setPeerTurn (s : State) (link peer : Nat) : State :=
  if 24 ≤ link ∨ 16 ≤ peer ∨ s.deviceNo = some peer then s
  else { s with links := s.links.filter (·.num != link) ++ [⟨link, peer, 4095, 4095, false, []⟩] }

end Sys2Proof.Machine
end

