-- ==== Sys2Proof/Machine/Secure.lean ====
section
/-! DEFINITION. Attestation, lifecycle and debug level, power, bring-up, soft errors, the actions of firmware and the field
health records (24_security_power_health.md R470-R477, 19_traps.md R411, R418, R429-R431); the queue window that a coach and
its shadow wave share (18_scheduling.md R408). -/

namespace Sys2Proof.Machine

/-! ### Attestation (R471). The code numbers are those of SPDM 1.3 (log entry 20) -/

/-- A response of the SPDM responder. -/
def State.respond (s : State) (code : Nat) (body : List Nat) : State := { s with spdm := s.spdm ++ [⟨code, body⟩] }

/-- The ERROR response. -/
def State.spdmError (s : State) : State := s.respond 0x7F []

/-- The SHA-384 digest of a signed object, over which both of its signatures are (R470). -/
def digestOf (o : Config.Signed) : BitVec 384 :=
  Config.sha384 (match o with
    | .image n => Config.imageBytes n
    | .certificate slot => [Config.certificate slot]
    | .measurements block => block)

/-- The two signatures of an object: an image and a chain carry theirs, the measurement block gets the device's. -/
def signaturesOf (o : Config.Signed) : BitVec 3072 × Nat :=
  match o with
  | .measurements _ => (Config.rsaSign (digestOf o), Config.slhSign (digestOf o))
  | o => (Config.rsaCarried o, Config.slhCarried o)

/-- An object is accepted when both signatures verify, RSA first (R470). -/
def accepted (o : Config.Signed) : Bool :=
  Config.rsaVerifies (digestOf o) (signaturesOf o).1 && Config.slhVerifies (digestOf o) (signaturesOf o).2

/-- A response that needs the identity keys, which a decommissioned device has erased (R472), and an accepted certificate chain
(R470). -/
def State.attested (s : State) (slot : Nat) (f : State → State) : State :=
  if s.lifecycle = .decommissioned ∨ accepted (.certificate slot) = false then s.spdmError else f s

/-- Signing a response with RSA-3072 PSS and SHA-384 (R471). -/
def State.respondSigned (s : State) (code : Nat) (body : List Nat) : State :=
  s.respond code (body ++ [(Config.rsaSign (Config.sha384 body)).toNat])

/-- The number of a lifecycle state, as a lifecycle request names it and attestation reports it. -/
def Lifecycle.code (l : Lifecycle) : Nat :=
  match l with
  | .manufacturing => 0
  | .production => 1
  | .productionDebug => 2
  | .decommissioned => 3

/-- The measurements but for 0xF0: the security versions of the running images, the lifecycle, the debug level. -/
def State.measurements (s : State) : List (Nat × Nat) :=
  [(1, (Config.imageVersion s.image.1).toNat), (2, (Config.imageVersion s.image.2).toNat), (3, s.lifecycle.code), (4, s.debug)]

/-- One measurement, or the whole block with its two signatures (R470); index 0xF0 is the SLH-DSA signature over all the others. -/
def State.measured (s : State) (index : BitVec 8) : List Nat :=
  let all := s.measurements.map (·.2)
  let sg := signaturesOf (.measurements all)
  if index = 0xF0 then [sg.2]
  else if index = 0xFF then all ++ [sg.2, sg.1.toNat]
  else if index = 0 then [s.measurements.length + 1]
  else (s.measurements.filter fun m => m.1 == index.toNat).map (·.2)

/-- `GET_VERSION`: SPDM 1.3. -/
def execGetVersion (s : State) : Host.Outcome State Fault Refusal := .next (s.respond 0x04 [0x13])

/-- `GET_CAPABILITIES`: the requests that are answered; key exchange and sessions are not among them. -/
def execGetCapabilities (s : State) : Host.Outcome State Fault Refusal :=
  .next (s.respond 0x61 [0x84, 0xE1, 0xE3, 0x81, 0x82, 0x83, 0xE0])

/-- `NEGOTIATE_ALGORITHMS`: RSA-3072 PSS, where it is offered, and SHA-384. -/
def execNegotiateAlgorithms (offered : Word) (s : State) : Host.Outcome State Fault Refusal :=
  .next (s.respond 0x63 [(offered &&& 8).toNat, 2])

/-- `GET_DIGESTS`: the SHA-384 digest of the certificate chain. -/
def execGetDigests (s : State) : Host.Outcome State Fault Refusal :=
  .next (s.attested 0 fun s => s.respond 0x01 [(digestOf (.certificate 0)).toNat])

/-- `GET_CERTIFICATE`: bytes of the chain. -/
def execGetCertificate (slot off len : Nat) (s : State) : Host.Outcome State Fault Refusal :=
  .next (s.attested slot fun s => s.respond 0x02 [slot, Config.certificate slot / 256 ^ off % 256 ^ len])

/-- `CHALLENGE`: signed with RSA-3072 PSS and SHA-384. -/
def execChallenge (slot : Nat) (nonce : Nat) (s : State) : Host.Outcome State Fault Refusal :=
  .next (s.attested slot fun s =>
    s.respondSigned 0x03 [slot, nonce, (digestOf (.certificate slot)).toNat, (Config.sha384 (s.measured 0xFF)).toNat])

/-- `GET_MEASUREMENTS`. -/
def execGetMeasurements (index : BitVec 8) (nonce : Nat) (s : State) : Host.Outcome State Fault Refusal :=
  .next (s.attested 0 fun s => s.respondSigned 0x60 ([index.toNat, nonce] ++ s.measured index))

/-! ### Lifecycle and debug level (R472) -/

/-- A combination that the table of R472 permits: debug level 0 none, 1 non-invasive counters, 2 invasive. -/
def levelOk (l : Lifecycle) (debug : Nat) : Bool :=
  match l with
  | .manufacturing | .productionDebug => decide (debug ≤ 2)
  | .production => decide (debug ≤ 1)
  | .decommissioned => debug == 0

/-- The local stores of a cluster's cores become 0 and empty (04_cluster_store.md R77), and their tile state 0. -/
def State.clearCluster (s : State) (cluster : Nat) : State :=
  let mine (key per : Nat) : Bool := key / per == cluster
  { s with lwords := s.lwords.filter fun x => !mine x.1 (64 * 2 ^ 18)
           regionJob := s.regionJob.filter fun x => !mine x.1 (64 * 16)
           tiles := s.tiles.filter fun t => t.core.cluster != cluster }

/-- No cluster is gated: the local stores of those that were reset (R473). -/
def State.ungateAll (s : State) : State :=
  let s := ((List.range 64).filter fun k => s.gated.getLsbD k).foldl (fun s k => s.clearCluster k) s
  { s with gated := 0 }

/-- In Production-Debug at the invasive level no cluster is gated (R472). -/
def noGating (l : Lifecycle) (debug : Nat) : Bool := l == .productionDebug && debug == 2

/-- `DEBUG_LEVEL_CHANGE`: by firmware and in Standby only; a request for a refused combination is logged. -/
def execDebugLevelChange (level : Nat) (authorised : Bool) (s : State) : Host.Outcome State Fault Refusal :=
  if levelOk s.lifecycle level = false then .next (s.logError (.refusedLevel level) .sram 0 0)
  else if !authorised || s.power != .standby then .next s
  else .next { (if noGating s.lifecycle level then s.ungateAll else s) with debug := level }

/-- The lifecycle of a number. -/
def lifecycleOf (n : Nat) : Option Lifecycle :=
  match n with
  | 0 => some .manufacturing
  | 1 => some .production
  | 2 => some .productionDebug
  | 3 => some .decommissioned
  | _ => none

/-- The steps forward. -/
def forward (a b : Lifecycle) : Bool :=
  match a, b with
  | .manufacturing, .production | .manufacturing, .productionDebug | .production, .decommissioned
  | .productionDebug, .decommissioned => true
  | _, _ => false

/-- `LIFECYCLE_CHANGE`: a step forward, which takes effect at the next reset; any other request is discarded and logged. -/
def execLifecycleChange (level : Nat) (s : State) : Host.Outcome State Fault Refusal :=
  match lifecycleOf level with
  | none => .next s
  | some l =>
    if forward s.lifecycle l then .next { s with nextLifecycle := some l }
    else .next (s.logError (.refusedLevel level) .sram 0 0)

/-! ### Reset and bring-up (R475) -/

/-- An image that both signatures and its security version admit (R470). -/
def imageOk (image : Nat) : Bool :=
  accepted (.image image) && decide (Config.minVersion.toNat ≤ (Config.imageVersion image).toNat)

/-- What stays when the device is reset: the lifetime records, the images, the lifecycle and debug level, the agenda, the
messages to the host, the contents of the memories with their poison, and the peer table, which firmware writes again. -/
def State.cleared (s : State) : State :=
  { State.reset with
    agenda := s.agenda, nextId := s.nextId, choices := s.choices, mem := s.mem
    homes := s.homes.foldl (fun hs x => sput Home.fresh x.1 { Home.fresh with bad := x.2.bad } hs) []
    links := s.links.map fun l => ⟨l.num, l.peer, 4095, 4095, false, []⟩, deviceNo := s.deviceNo
    reports := s.reports, spdm := s.spdm, image := s.image, lifecycle := s.lifecycle, nextLifecycle := s.nextLifecycle
    debug := s.debug, recbase := s.recbase, life := s.life, power := .standby }

/-- One bank at the image check: an accepted image replaces the one in the bank, a rejected one is logged (R470). -/
def State.loadBank (s : State) (bank image : Nat) : State :=
  if imageOk image then { s with image := if bank = 0 then (image, s.image.2) else (s.image.1, image) }
  else s.logError (.badImage bank) .sram 0 0

/-- A pending lifecycle change takes effect; a debug level that it does not permit becomes none (R472). -/
def State.takeLifecycle (s : State) : State :=
  let l := s.nextLifecycle.getD s.lifecycle
  { s with lifecycle := l, nextLifecycle := none, debug := if levelOk l s.debug then s.debug else 0 }

/-- `DEVICE_RESET`: the sequence of R475. A rejected first image stops it: the device is in Standby and the second is not looked
at. A decommissioned device does not become Active (R472). -/
def execDeviceReset (imageA imageB : Nat) (s : State) : Host.Outcome State Fault Refusal :=
  let s := s.cleared.takeLifecycle.loadBank 0 imageA
  if imageOk imageA = false then .next s
  else
    let s := s.loadBank 1 imageB
    .next (if s.lifecycle = .decommissioned then s else { s with power := .active, reports := s.reports ++ [.ready] })

/-- A reset whose bring-up fails in step 2 to 5: the sequence stops there, in Standby, with the error logged (R475). -/
def State.bringUpFailsTurn (s : State) (image step : Nat) : State :=
  let s := s.cleared.takeLifecycle.loadBank 0 image
  if imageOk image = false then s else s.logError (.bringUp step) .sram 0 0

/-! ### Power (R473, R474) -/

/-- `THROTTLE`: it changes timing only. -/
def execThrottle (s : State) : Host.Outcome State Fault Refusal :=
  .next (if s.power = .active then { s with power := .throttled } else s)

/-- `THROTTLE_RECOVERY`. -/
def execThrottleRecovery (s : State) : Host.Outcome State Fault Refusal :=
  .next (if s.power = .throttled then { s with power := .active } else s)

/-- `STANDBY`: queues must be DISABLED before. -/
def execStandby (s : State) : Host.Outcome State Fault Refusal :=
  .next (if (s.power = .active ∨ s.power = .throttled) ∧ s.queues.all (·.state == .disabled) then { s with power := .standby }
    else s)

/-- `RECOVERY`: from Standby; R472 does not permit a decommissioned device to be Active. -/
def execRecovery (s : State) : Host.Outcome State Fault Refusal :=
  .next (if s.power = .standby ∧ s.lifecycle ≠ .decommissioned then { s with power := .active } else s)

/-- Off: device memory is lost. -/
def State.turnOff (s : State) : State :=
  let t := s.cleared
  { t with power := .off, homes := [], mem := t.mem.filter fun c => regionOf c.1 == some .host, image := s.image }

/-- `POWER_OFF`. -/
def execPowerOff (s : State) : Host.Outcome State Fault Refusal := .next s.turnOff

/-- `OVER_TEMPERATURE`. -/
def execOverTemperature (s : State) : Host.Outcome State Fault Refusal := .next s.turnOff

/-- Something that a cluster has asked of a home is unanswered. -/
def State.unanswered (s : State) (cluster : Nat) : Bool :=
  s.misses.any (·.cluster == cluster) || s.reqs.any (·.cluster == cluster) || s.reps.any (·.cluster == cluster)
    || s.walks.any (·.cluster == cluster)

/-- `CLUSTER_GATE`: a cluster that no job holds, in which no unit stands and which waits for no home keeps no state: its copies go
home, its cached translations and issue records are dropped, its counters and its `ctime` are cleared. Its Waymark slots stay
(12_waymark.md R268; log entry 44). -/
def execClusterGate (cluster : Nat) (s : State) : Host.Outcome State Fault Refusal :=
  if 64 ≤ cluster || s.jobs.any (fun j => j.clmask.getLsbD cluster)
      || s.agents.any (fun a => a.place.cluster == cluster && a.admitted)
      || noGating s.lifecycle s.debug || s.unanswered cluster || !(s.power == .active || s.power == .throttled) then .next s
  else
    let s := (s.copies.filter (·.cluster == cluster)).foldl (fun s c => if c.isU then s.recallU c.line else s.evict cluster c.line) s
    let s := s.clearCluster cluster
    .next { s with tlb := s.tlb.filter (·.1 != cluster), utlb := s.utlb.filter (·.1.cluster != cluster),
                    wcache := s.wcache.filter (·.cluster != cluster),
                   evc := s.evc.filter (·.cluster != cluster),
                   spills := s.spills.filter (·.cluster != cluster), rings := s.rings.filter (·.core.cluster != cluster),
                   lrt := s.lrt.filter (fun x => x.1 / 64 != cluster),
                   routeCnt := s.routeCnt.filter (fun x => x.1 / 1024 != cluster),
                   ctime := s.ctime.set (cluster % 64) 0 (Nat.mod_lt _ (by decide)),
                   cores := s.cores.filter (fun x => x.core.cluster != cluster),
                   departs := s.departs.filter (fun x => x.1 != cluster),
                   gated := setBit s.gated cluster true }

/-- `CLUSTER_UNGATE`: its local stores reset. -/
def execClusterUngate (cluster : Nat) (s : State) : Host.Outcome State Fault Refusal :=
  if 64 ≤ cluster ∨ s.gated.getLsbD cluster = false then .next s
  else .next { s.clearCluster cluster with gated := setBit s.gated cluster false }

/-- `SUPPLY_SAG`: the period becomes (8 + k)/8 of the nominal one; no value that a program sees changes (R474). -/
def execSupplySag (die k : Nat) (s : State) : Host.Outcome State Fault Refusal :=
  if 6 ≤ die ∨ 8 < k then .next s
  else .next { s with sag := s.sag.filter (·.die != die) ++ [⟨die, k, none⟩] }

/-- Changing the sag record of a die; one whose k is 0 is dropped. -/
def State.updSag (s : State) (die : Nat) (f : Sag → Sag) : State :=
  { s with sag := (s.sag.map fun x => if x.die = die then f x else x).filter (·.k != 0) }

/-- `SUPPLY_RECOVERY`: the 256-cycle steps begin. -/
def execSupplyRecovery (die : Nat) (s : State) : Host.Outcome State Fault Refusal :=
  .next (s.updSag die fun x => if x.since.isNone then { x with since := some (s.now (16 * die)) } else x)

/-- `SAG_RECOVERY_STEP`: k steps down by 1 every 256 cycles. -/
def execSagRecoveryStep (die : Nat) (s : State) : Host.Outcome State Fault Refusal :=
  .next (s.updSag die fun x => match x.since with
    | some t => if t + 256 ≤ s.now (16 * die) then { x with k := x.k - 1, since := some (t + 256) } else x
    | none => x)

/-! ### Firmware's actions at a context (19_traps.md R411, R418, R475) -/

/-- A path that stood stopped goes on. -/
def Path.restart (p : Path) : Path := if p.mode = .halted then { p with mode := .run } else p

/-- A path of a context that firmware lets go on: firmware runs in it no longer (R411, R418). -/
def Path.handBack (p : Path) : Path := { p.restart with priv := if p.priv = .firmware then .super else p.priv }

/-- Where a unit stands that has taken a double trap and goes on. -/
def Agent.awake (a : Agent) : UStatus := if a.status = .haltedOut then .swapped else .issuing

/-- `FIRMWARE_RESUME` (R418): a double-trapped context goes on in supervisor mode at firmware's PC, with ACT 0 and no loop
levels. -/
def execFirmwareResume (unit slot : Nat) (pc : DWord) (s : State) : Host.Outcome State Fault Refusal :=
  let b := slot == 1
  match s.agent? unit with
  | none => .next s
  | some a =>
    if a.isHalted = false ∨ (a.slot b).isNone then .next s
    else
      let a := a.mapPaths Path.handBack
      let p := (a.slot b).map fun p =>
        { p with pc := pc, act := false, priv := .super, mode := .run, trap := none, wait := none, done := 0, parked := 0, buf := [] }
      let free (q : Path) : Path := if q.mode = .held ∧ q.hold = none then { q with mode := .run } else q
      let a := { a.mapPaths free with status := a.awake, loops := [], hloops := [], sloops := [], hrrb := 0 }
      .next ((s.setAgent (a.setSlot b p)).settle unit)

/-- The context of a cancelled job leaves the handler in which it has stopped, and stops as at a cancel point (log entry
21). -/
def State.cancelStopped (s : State) (unit : Nat) (b : Bool) : State :=
  match s.agent? unit with
  | none => s
  | some a =>
    let out (p : Path) : Path :=
      { p.restart with act := false, trap := none, wait := none, priv := if p.act then a.frame.ppriv else p.priv }
    let s := s.setAgent { a.mapPaths out with status := a.awake, loops := [], hloops := [], sloops := [], hrrb := 0 }
    if a.kind == .coach then
      a.paths.foldl (fun s p => match s.agent? unit with
        | some a => s.leaveAt unit p.pc (s.leavers a p.mask)
        | none => s) s
    else (s.actCancel unit b).getD s

/-- `FIRMWARE_JOB_CANCEL` (R418): the job of a double-trapped context is cancelled (18_scheduling.md R405). -/
def execFirmwareJobCancel (unit slot : Nat) (s : State) : Host.Outcome State Fault Refusal :=
  match s.agent? unit with
  | none => .next s
  | some a =>
    if a.isHalted = false then .next s
    else .next (((s.cancelJob a.job).cancelStopped unit (slot == 1)).tidy)

/-- `HALT_RESTART` (R475): a context that `HALT` has stopped issues again. -/
def execHaltRestart (unit slot : Nat) (s : State) : Host.Outcome State Fault Refusal :=
  match s.agent? unit with
  | none => .next s
  | some a =>
    let stopped := match a.slot (slot == 1) with | some p => p.mode == .halted | none => false
    if a.isHalted || !stopped then .next s else .next (s.setAgent (a.mapPaths Path.restart))

/-- `SUPERVISOR_START` (R411): in slot 15 of a barrel core. -/
def execSupervisorStart (job cluster core : Nat) (entry : DWord) (s : State) : Host.Outcome State Fault Refusal :=
  let p : Place := ⟨cluster, core, 15⟩
  if 64 ≤ cluster || 32 ≤ core || (s.inSlotOf p).isSome then .next s
  else
    let a := Agent.fresh s.nextId job .supervisor p 1 entry .super
    let a := { a with lanes := a.lanes.map fun ln => { ln with crept := s.now cluster, ltime := s.ctimeOf cluster }
                      idleSince := s.now cluster }
    .next { (s.needJob job).claimSlot p job with agents := s.agents ++ [a], nextId := s.nextId + 1 }

/-! ### Soft errors and records (19_traps.md R429-R431, R477) -/

/-- The tier of a place (R477). -/
def tierOf (p : ErrPlace) : Tier :=
  match p with
  | .home a => (match regionOf a with | some .capacity => .capacity | _ => .near)
  | .link _ => .links
  | _ => .sram

/-- The number of a tier in the record of correctable errors. -/
def tierIndex (t : Tier) : Fin 4 :=
  match t with
  | .near => 0
  | .capacity => 1
  | .sram => 2
  | .links => 3

/-- The cluster whose counters count an error. -/
def State.errCluster (s : State) (p : ErrPlace) : Nat :=
  match p with
  | .home a => (sliceOf (a / 128)).val / 2
  | .copy c _ | .store c _ _ | .tile c _ _ => c
  | .link _ => 64
  | .reg u _ _ | .uniform u _ | .preds u _ => (s.coreOf u).cluster

/-- The physical address and the job of an entry. Which job a line, a tile or a link belongs to, and the address of what lies in no
tier, the spec does not say: those are free (log entry 70). A word of a barrel slot's region belongs to the job that has it, a
register to the job of its unit. -/
def State.errOwner (s : State) (p : ErrPlace) : State × Nat × Nat :=
  let anyJob := s.chooseNat (2 ^ 32)
  let anyAddr (s : State) (job : Nat) : State × Nat × Nat := let r := s.chooseNat (2 ^ 48); (r.2, r.1, job)
  let known (job : Option Nat) : State × Nat × Nat := match job with
    | some j => anyAddr s j
    | none => anyAddr anyJob.2 anyJob.1
  match p with
  | .home a | .copy _ a => (anyJob.2, a, anyJob.1)
  | .store c k w =>
    known (match (if k < 32 then sget 0 ((c * 64 + k) * 16 + w / 0x400) s.regionJob else 0) with | 0 => none | j + 1 => some j)
  | .tile .. | .link _ => known none
  | .reg u _ _ | .uniform u _ | .preds u _ => known ((s.agent? u).map (·.job))

/-- Poisoning the data of a place (R429, R430); an L copy is dropped and refetched. -/
def State.poisonPlace (s : State) (p : ErrPlace) : State :=
  match p with
  | .home a =>
    if homed a then
      let h := s.homeOf (a / 128)
      s.setHome (a / 128) { h with bad := h.bad ||| sectorMask (a % 128) 1 }
    else s
  | .copy c a =>
    match s.copyOf c (a / 128) with
    | none => s
    | some x =>
      if x.isO || x.isU then s.updCopy c (a / 128) fun x => { x with bad := x.bad ||| sectorMask (a % 128) 1 }
      else s.dropCopy c (a / 128)
  | .store c k w =>
    if 4 * w < lsize k then s.setLword ⟨c, k⟩ w { s.lword ⟨c, k⟩ w with bad := true } else s
  | .reg u l r => s.updLane u l fun ln => ln.poison (Fin.ofNat 64 r)
  | .uniform u r => s.updAgent u fun a => { a with sBad := setBit a.sBad (r % 33) true }
  | .preds u l => s.updLane u l fun ln => { ln with pbad := 0xFFFE }
  | .link _ => s
  | .tile c k n =>
    { s with tiles := s.tiles.map fun t => if t.core = ⟨c, k⟩ then { t with bad := setBit t.bad (n % 12) true } else t }

/-- `SOFT_ERROR`: counted if it is correctable (saturating at 48 bits), else poisoned and logged. -/
def execSoftError (place : ErrPlace) (correctable : Bool) (s : State) : Host.Outcome State Fault Refusal :=
  if correctable then
    let k := tierIndex (tierOf place)
    let s := s.tally (s.errCluster place) 0x0F 1
    .next { s with life := { s.life with correctable := s.life.correctable.set k.val (min (s.life.correctable[k] + 1) (2 ^ 48 - 1)) k.isLt } }
  else
    let o := s.errOwner place
    .next ((o.1.poisonPlace place).logError (.error place) (tierOf place) o.2.1 o.2.2)

/-- `LOG_CLEAR` (R477): the whole of the lifetime records, or the error log with its overflow flag. -/
def execLogClear (whole : Bool) (s : State) : Host.Outcome State Fault Refusal :=
  .next (if whole then { s with life := State.reset.life } else { s with life := { s.life with log := [], overflow := false } })

/-- An hour of a die in its temperature and voltage bins, saturating as the counts do (R477; log entry 71). -/
def State.hourTurn (s : State) (die temp volt : Nat) : State :=
  let bump (v : Vector (Vector Nat 16) 6) (k : Nat) : Vector (Vector Nat 16) 6 :=
    let d := Fin.ofNat 6 die
    let i := Fin.ofNat 16 k
    v.set d.val (v[d].set i.val (min (v[d][i] + 1) (2 ^ 48 - 1)) i.isLt) d.isLt
  { s with life := { s.life with temps := bump s.life.temps temp, volts := bump s.life.volts volt } }

/-! ### The queue window (18_scheduling.md R408) -/

/-- A register with its bits, its poison and its token. -/
structure Cell where
  v : Word
  full : Bool
  pend : Bool
  bad : Bool
  gone : List (Nat × DWord)
  toks : List Tok
  deriving DecidableEq, Repr

/-- A register of a lane. -/
def Lane.cell (ln : Lane) (r : Fin 64) : Cell :=
  ⟨ln.reg r, ln.full.getLsbD r.val, ln.pend.getLsbD r.val, ln.bad.getLsbD r.val, ln.gone.filter (·.1 == r.val),
    ln.toks.filter fun t => t.lo == r.val || t.hi == r.val⟩

/-- A register of a lane as another lane has it. -/
def Lane.putCell (ln x : Lane) (r : Fin 64) : Lane :=
  let c := x.cell r
  { ln with
    g := ln.g.set r.val c.v r.isLt
    full := setBit ln.full r.val c.full, pend := setBit ln.pend r.val c.pend, bad := setBit ln.bad r.val c.bad
    gone := (ln.gone.filter fun y => y.1 != r.val) ++ c.gone
    toks := ln.dropTok r ++ c.toks }

/-- The registers of the window. -/
def windowRegs : List (Fin 64) := [48, 49, 50, 51, 52, 53, 54, 55]

/-- One register of one lane of a coach and its shadow wave: what one of them has changed since, the other has. -/
def State.mirror1 (s0 s : State) (co sh l : Nat) (r : Fin 64) : State :=
  let at_ (s : State) (u : Nat) : Option Lane := (s.agent? u).map (·.lane l)
  match at_ s co, at_ s sh with
  | some x, some y =>
    if x.cell r = y.cell r then s
    else if (at_ s0 sh).map (·.cell r) = some (y.cell r) then s.updLane sh l fun ln => ln.putCell x r
    else s.updLane co l fun ln => ln.putCell y r
  | _, _ => s

/-- A coach and its shadow wave share the window of each lane, with its bits: after a step from `s0`, what the step has
written in one is in the other. -/
def State.mirror (s0 s : State) : State :=
  (s.agents.filter (·.kind == .shadow)).foldl (fun s sh => match sh.partner with
    | some co => (List.range 32).foldl (fun s l => windowRegs.foldl (fun s r => State.mirror1 s0 s co sh.uid l r) s) s
    | none => s) s

/-- While the device is Off only a reset acts (R473). -/
def State.answers (s : State) (e : Instr) : Bool :=
  s.power != .off || (match e with | .deviceReset .. => true | _ => false)

end Sys2Proof.Machine
end

