-- ==== Sys2Proof/Machine/Dispatch.lean ====
section
/-! DEFINITION. The dispatch: one arm for each constructor of `Instr`, in the order of spec/opcode_table.json. -/

namespace Sys2Proof.Machine

/-- The meaning of an instruction or event in a state. -/
def exec (i : Instr) (s : State) : Host.Outcome State Fault Refusal :=
  match i with
  | .brJ32 disp => Sys2Proof.Machine.execBrJ32 disp s
  | .callJ32 disp => Sys2Proof.Machine.execCallJ32 disp s
  | .chk disp => Sys2Proof.Machine.execChk disp s
  | .calli a => Sys2Proof.Machine.execCalli a s
  | .calliTail a => Sys2Proof.Machine.execCalliTail a s
  | .drainArrive a => Sys2Proof.Machine.execDrainArrive a s
  | .addZ32 t d a b => Sys2Proof.Machine.execAddZ32 t d a b s
  | .subZ32 t d a b => Sys2Proof.Machine.execSubZ32 t d a b s
  | .mulZ32 t d a b => Sys2Proof.Machine.execMulZ32 t d a b s
  | .mulhZ32 t d a b => Sys2Proof.Machine.execMulhZ32 t d a b s
  | .minZ32 t d a b => Sys2Proof.Machine.execMinZ32 t d a b s
  | .maxZ32 t d a b => Sys2Proof.Machine.execMaxZ32 t d a b s
  | .andZ32 t d a b => Sys2Proof.Machine.execAndZ32 t d a b s
  | .orZ32 t d a b => Sys2Proof.Machine.execOrZ32 t d a b s
  | .xorZ32 t d a b => Sys2Proof.Machine.execXorZ32 t d a b s
  | .andnZ32 t d a b => Sys2Proof.Machine.execAndnZ32 t d a b s
  | .shlZ32 t d a b => Sys2Proof.Machine.execShlZ32 t d a b s
  | .shrZ32 t d a b => Sys2Proof.Machine.execShrZ32 t d a b s
  | .sarZ32 t d a b => Sys2Proof.Machine.execSarZ32 t d a b s
  | .rotZ32 t d a b => Sys2Proof.Machine.execRotZ32 t d a b s
  | .selZ32 p d a b => Sys2Proof.Machine.execSelZ32 p d a b s
  | .movZ32 t d a => Sys2Proof.Machine.execMovZ32 t d a s
  | .addI32 d a imm => Sys2Proof.Machine.execAddI32 d a imm s
  | .mulI32 d a imm => Sys2Proof.Machine.execMulI32 d a imm s
  | .minI32 d a imm => Sys2Proof.Machine.execMinI32 d a imm s
  | .maxI32 d a imm => Sys2Proof.Machine.execMaxI32 d a imm s
  | .andI32 d a imm => Sys2Proof.Machine.execAndI32 d a imm s
  | .orI32 d a imm => Sys2Proof.Machine.execOrI32 d a imm s
  | .xorI32 d a imm => Sys2Proof.Machine.execXorI32 d a imm s
  | .shlI32 d a n => Sys2Proof.Machine.execShlI32 d a n s
  | .shrI32 d a n => Sys2Proof.Machine.execShrI32 d a n s
  | .sarI32 d a n => Sys2Proof.Machine.execSarI32 d a n s
  | .rotI32 d a n => Sys2Proof.Machine.execRotI32 d a n s
  | .moviI32 d imm => Sys2Proof.Machine.execMoviI32 d imm s
  | .trap code a => Sys2Proof.Machine.execTrap code a s
  | .ldI32 d a imm => Sys2Proof.Machine.execLdI32 d a imm s
  | .stI32 d a imm => Sys2Proof.Machine.execStI32 d a imm s
  | .notZ32 t d a => Sys2Proof.Machine.execNotZ32 t d a s
  | .negZ32 t d a => Sys2Proof.Machine.execNegZ32 t d a s
  | .absZ32 t d a => Sys2Proof.Machine.execAbsZ32 t d a s
  | .clzZ32 t d a => Sys2Proof.Machine.execClzZ32 t d a s
  | .popcZ32 t d a => Sys2Proof.Machine.execPopcZ32 t d a s
  | .brevZ32 t d a => Sys2Proof.Machine.execBrevZ32 t d a s
  | .faddZ32 d a b => Sys2Proof.Machine.execFaddZ32 d a b s
  | .fsubZ32 d a b => Sys2Proof.Machine.execFsubZ32 d a b s
  | .fmulZ32 d a b => Sys2Proof.Machine.execFmulZ32 d a b s
  | .fminZ32 d a b => Sys2Proof.Machine.execFminZ32 d a b s
  | .fmaxZ32 d a b => Sys2Proof.Machine.execFmaxZ32 d a b s
  | .pand d a b => Sys2Proof.Machine.execPand d a b s
  | .por d a b => Sys2Proof.Machine.execPor d a b s
  | .pxor d a b => Sys2Proof.Machine.execPxor d a b s
  | .pnot d a => Sys2Proof.Machine.execPnot d a s
  | .addQ64 g t sat d a b => Sys2Proof.Machine.execAddQ64 g t sat d a b s
  | .subQ64 g t sat d a b => Sys2Proof.Machine.execSubQ64 g t sat d a b s
  | .mulQ64 g t sat d a b => Sys2Proof.Machine.execMulQ64 g t sat d a b s
  | .mulhQ64 g t d a b => Sys2Proof.Machine.execMulhQ64 g t d a b s
  | .minQ64 g t d a b => Sys2Proof.Machine.execMinQ64 g t d a b s
  | .maxQ64 g t d a b => Sys2Proof.Machine.execMaxQ64 g t d a b s
  | .andQ64 g t d a b => Sys2Proof.Machine.execAndQ64 g t d a b s
  | .orQ64 g t d a b => Sys2Proof.Machine.execOrQ64 g t d a b s
  | .xorQ64 g t d a b => Sys2Proof.Machine.execXorQ64 g t d a b s
  | .andnQ64 g t d a b => Sys2Proof.Machine.execAndnQ64 g t d a b s
  | .shlQ64 g t d a b => Sys2Proof.Machine.execShlQ64 g t d a b s
  | .shrQ64 g t d a b => Sys2Proof.Machine.execShrQ64 g t d a b s
  | .sarQ64 g t d a b => Sys2Proof.Machine.execSarQ64 g t d a b s
  | .rotQ64 g t d a b => Sys2Proof.Machine.execRotQ64 g t d a b s
  | .div g t d a b => Sys2Proof.Machine.execDiv g t d a b s
  | .rem g t d a b => Sys2Proof.Machine.execRem g t d a b s
  | .mad g t sat d a b c => Sys2Proof.Machine.execMad g t sat d a b c s
  | .notQ64 g t d a => Sys2Proof.Machine.execNotQ64 g t d a s
  | .negQ64 g t sat d a => Sys2Proof.Machine.execNegQ64 g t sat d a s
  | .absQ64 g t sat d a => Sys2Proof.Machine.execAbsQ64 g t sat d a s
  | .clzQ64 g t d a => Sys2Proof.Machine.execClzQ64 g t d a s
  | .popcQ64 g t d a => Sys2Proof.Machine.execPopcQ64 g t d a s
  | .brevQ64 g t d a => Sys2Proof.Machine.execBrevQ64 g t d a s
  | .bfe g signed pos len d a => Sys2Proof.Machine.execBfe g signed pos len d a s
  | .bfi g signed pos len d a => Sys2Proof.Machine.execBfi g signed pos len d a s
  | .selQ64 g p w64 notp d a b => Sys2Proof.Machine.execSelQ64 g p w64 notp d a b s
  | .movQ64 g t d a => Sys2Proof.Machine.execMovQ64 g t d a s
  | .movs g t d a => Sys2Proof.Machine.execMovs g t d a s
  | .leaQ64 g signed d base idx sh disp => Sys2Proof.Machine.execLeaQ64 g signed d base idx sh disp s
  | .cmp g t c d a b => Sys2Proof.Machine.execCmp g t c d a b s
  | .fcmp g c d a ma b mb => Sys2Proof.Machine.execFcmp g c d a ma b mb s
  | .faddQ64 g r sat d a ma b mb => Sys2Proof.Machine.execFaddQ64 g r sat d a ma b mb s
  | .fsubQ64 g r sat d a ma b mb => Sys2Proof.Machine.execFsubQ64 g r sat d a ma b mb s
  | .fmulQ64 g r sat d a ma b mb => Sys2Proof.Machine.execFmulQ64 g r sat d a ma b mb s
  | .ffma g r sat d a na b nb c nc => Sys2Proof.Machine.execFfma g r sat d a na b nb c nc s
  | .fminQ64 g d a ma b mb => Sys2Proof.Machine.execFminQ64 g d a ma b mb s
  | .fmaxQ64 g d a ma b mb => Sys2Proof.Machine.execFmaxQ64 g d a ma b mb s
  | .frcp g r sat d a ma => Sys2Proof.Machine.execFrcp g r sat d a ma s
  | .frsq g r sat d a ma => Sys2Proof.Machine.execFrsq g r sat d a ma s
  | .fsqrt g r sat d a ma => Sys2Proof.Machine.execFsqrt g r sat d a ma s
  | .fexp2 g r sat d a ma => Sys2Proof.Machine.execFexp2 g r sat d a ma s
  | .flog2 g r sat d a ma => Sys2Proof.Machine.execFlog2 g r sat d a ma s
  | .cvt g dt st r sat d a ma => Sys2Proof.Machine.execCvt g dt st r sat d a ma s
  | .pack g dt r sat d a ma b mb => Sys2Proof.Machine.execPack g dt r sat d a ma b mb s
  | .upk g t raw idx d a ma => Sys2Proof.Machine.execUpk g t raw idx d a ma s
  | .dot4 g t d a b c => Sys2Proof.Machine.execDot4 g t d a b c s
  | .dot8 g t d a b c => Sys2Proof.Machine.execDot8 g t d a b c s
  | .shfl g m w64 d a b => Sys2Proof.Machine.execShfl g m w64 d a b s
  | .bcast g w64 d a b => Sys2Proof.Machine.execBcast g w64 d a b s
  | .vote g op d a => Sys2Proof.Machine.execVote g op d a s
  | .redl g op t r d a => Sys2Proof.Machine.execRedl g op t r d a s
  | .scanl g op t r d a => Sys2Proof.Machine.execScanl g op t r d a s
  | .first g d a => Sys2Proof.Machine.execFirst g d a s
  | .rand g f32 d a b => Sys2Proof.Machine.execRand g f32 d a b s
  | .hsift g t bot k d a b => Sys2Proof.Machine.execHsift g t bot k d a b s
  | .bins g t lt m lease d a b => Sys2Proof.Machine.execBins g t lt m lease d a b s
  | .twalk g lease n d a b => Sys2Proof.Machine.execTwalk g lease n d a b s
  | .tmask g d a b n1 => Sys2Proof.Machine.execTmask g d a b n1 s
  | .ldQ64 g size sx acq lease d m => Sys2Proof.Machine.execLdQ64 g size sx acq lease d m s
  | .ldu g size sx acq lease d m => Sys2Proof.Machine.execLdu g size sx acq lease d m s
  | .ldw g size sx lease d m => Sys2Proof.Machine.execLdw g size sx lease d m s
  | .ldf g w64 acq d m => Sys2Proof.Machine.execLdf g w64 acq d m s
  | .take g w64 acq d m => Sys2Proof.Machine.execTake g w64 acq d m s
  | .fill g w64 rel d m => Sys2Proof.Machine.execFill g w64 rel d m s
  | .setf g w64 rel d m => Sys2Proof.Machine.execSetf g w64 rel d m s
  | .clrf g w64 m => Sys2Proof.Machine.execClrf g w64 m s
  | .pref g lease m => Sys2Proof.Machine.execPref g lease m s
  | .probe g kind d m => Sys2Proof.Machine.execProbe g kind d m s
  | .tinv g dev job a am => Sys2Proof.Machine.execTinv g dev job a am s
  | .stQ64 g size rel lease d m => Sys2Proof.Machine.execStQ64 g size rel lease d m s
  | .fence g kind ord scope => Sys2Proof.Machine.execFence g kind ord scope s
  | .barinit g d m => Sys2Proof.Machine.execBarinit g d m s
  | .bararr g rel d m => Sys2Proof.Machine.execBararr g rel d m s
  | .barwait g acq d m => Sys2Proof.Machine.execBarwait g acq d m s
  | .barexp g dir rel d scope base off => Sys2Proof.Machine.execBarexp g dir rel d scope base off s
  | .depdec g rel m => Sys2Proof.Machine.execDepdec g rel m s
  | .waitt g cls n => Sys2Proof.Machine.execWaitt g cls n s
  | .mfc g idx d => Sys2Proof.Machine.execMfc g idx d s
  | .mtc g w32 idx a => Sys2Proof.Machine.execMtc g w32 idx a s
  | .brc g disp join => Sys2Proof.Machine.execBrc g disp join s
  | .bru g disp => Sys2Proof.Machine.execBru g disp s
  | .brkd g off => Sys2Proof.Machine.execBrkd g off s
  | .loop a off => Sys2Proof.Machine.execLoop a off s
  | .loopr stages1 a off => Sys2Proof.Machine.execLoopr stages1 a off s
  | .lsave g lease m => Sys2Proof.Machine.execLsave g lease m s
  | .lrest g lease m => Sys2Proof.Machine.execLrest g lease m s
  | .gcall g a b => Sys2Proof.Machine.execGcall g a b s
  | .gcalli g a b => Sys2Proof.Machine.execGcalli g a b s
  | .retg g => Sys2Proof.Machine.execRetg g s
  | .migrate g a => Sys2Proof.Machine.execMigrate g a s
  | .route g a b => Sys2Proof.Machine.execRoute g a b s
  | .rethome g => Sys2Proof.Machine.execRethome g s
  | .routeset g a b => Sys2Proof.Machine.execRouteset g a b s
  | .rcsnap g lease base off => Sys2Proof.Machine.execRcsnap g lease base off s
  | .spawn g d a b => Sys2Proof.Machine.execSpawn g d a b s
  | .taskmk g count d a b => Sys2Proof.Machine.execTaskmk g count d a b s
  | .cancel g level => Sys2Proof.Machine.execCancel g level s
  | .cntw g d a b => Sys2Proof.Machine.execCntw g d a b s
  | .role g r => Sys2Proof.Machine.execRole g r s
  | .wmopen g lmin lmax d a => Sys2Proof.Machine.execWmopen g lmin lmax d a s
  | .wmclose g a => Sys2Proof.Machine.execWmclose g a s
  | .wmapp g k1 a b => Sys2Proof.Machine.execWmapp g k1 a b s
  | .wmprop g dc1 d a b => Sys2Proof.Machine.execWmprop g dc1 d a b s
  | .wmlen g f d a => Sys2Proof.Machine.execWmlen g f d a s
  | .wmsave g close lease base off h => Sys2Proof.Machine.execWmsave g close lease base off h s
  | .wmload g lease d base off => Sys2Proof.Machine.execWmload g lease d base off s
  | .wmown g a b => Sys2Proof.Machine.execWmown g a b s
  | .tcfg g t fmt rows1 rb => Sys2Proof.Machine.execTcfg g t fmt rows1 rb s
  | .tpack g wc t a row0 woff => Sys2Proof.Machine.execTpack g wc t a row0 woff s
  | .tunpk g wc d t row0 woff => Sys2Proof.Machine.execTunpk g wc d t row0 woff s
  | .tzero g t => Sys2Proof.Machine.execTzero g t s
  | .accz g acc => Sys2Proof.Machine.execAccz g acc s
  | .cellp g a => Sys2Proof.Machine.execCellp g a s
  | .tsave g lease m => Sys2Proof.Machine.execTsave g lease m s
  | .trest g lease m => Sys2Proof.Machine.execTrest g lease m s
  | .twait g => Sys2Proof.Machine.execTwait g s
  | .moviX96 g k d imm => Sys2Proof.Machine.execMoviX96 g k d imm s
  | .atom g op w64 ord d m v c => Sys2Proof.Machine.execAtom g op w64 ord d m v c s
  | .red g op t rel d m => Sys2Proof.Machine.execRed g op t rel d m s
  | .copy g shape q d a b bar => Sys2Proof.Machine.execCopy g shape q d a b bar s
  | .gather g q d a b c e => Sys2Proof.Machine.execGather g q d a b c e s
  | .scadd g q d a b c e => Sys2Proof.Machine.execScadd g q d a b c e s
  | .quant g q d a b => Sys2Proof.Machine.execQuant g q d a b s
  | .tgenNew g q d a b c mt => Sys2Proof.Machine.execTgenNew g q d a b c mt s
  | .tgenApp g q d a b c mt => Sys2Proof.Machine.execTgenApp g q d a b c mt s
  | .tgenClose g q d a => Sys2Proof.Machine.execTgenClose g q d a s
  | .tld g q lease d t m stride => Sys2Proof.Machine.execTld g q lease d t m stride s
  | .tst g q lease d t m stride => Sys2Proof.Machine.execTst g q lease d t m stride s
  | .mma g acc ta tb m0 n0 => Sys2Proof.Machine.execMma g acc ta tb m0 n0 s
  | .mmas g acc ta tb sa sb m0 n0 => Sys2Proof.Machine.execMmas g acc ta tb sa sb m0 n0 s
  | .mmc g acc ta tb m0 n0 => Sys2Proof.Machine.execMmc g acc ta tb m0 n0 s
  | .accld g lease acc m stride m0 n0 m1 n1 => Sys2Proof.Machine.execAccld g lease acc m stride m0 n0 m1 n1 s
  | .accst g lease acc m stride m0 n0 m1 n1 => Sys2Proof.Machine.execAccst g lease acc m stride m0 n0 m1 n1 s
  | .acccvt g sat sint t acc m0 n0 => Sys2Proof.Machine.execAcccvt g sat sint t acc m0 n0 s
  | .accsend g ty sat sint acc a b c m1 n1 => Sys2Proof.Machine.execAccsend g ty sat sint acc a b c m1 n1 s
  | .brX96 imm => Sys2Proof.Machine.execBrX96 imm s
  | .callX96 imm => Sys2Proof.Machine.execCallX96 imm s
  | .leaX96 g d base imm => Sys2Proof.Machine.execLeaX96 g d base imm s
  | .leaPc g d imm => Sys2Proof.Machine.execLeaPc g d imm s
  | .illegalInstruction w0 w1 => Sys2Proof.Machine.execIllegalInstruction w0 w1 s
  | .fetchFault cause addr => Sys2Proof.Machine.execFetchFault cause addr s
  | .homeRead req => Sys2Proof.Machine.execHomeRead req s
  | .homeRenewal req => Sys2Proof.Machine.execHomeRenewal req s
  | .homeOwnership req => Sys2Proof.Machine.execHomeOwnership req s
  | .homeWriteback req => Sys2Proof.Machine.execHomeWriteback req s
  | .homeAtomic req => Sys2Proof.Machine.execHomeAtomic req s
  | .homeUpdateJoin req => Sys2Proof.Machine.execHomeUpdateJoin req s
  | .watchRenewal req => Sys2Proof.Machine.execWatchRenewal req s
  | .fillReply rep => Sys2Proof.Machine.execFillReply rep s
  | .ownershipGrant rep => Sys2Proof.Machine.execOwnershipGrant rep s
  | .confirm rep => Sys2Proof.Machine.execConfirm rep s
  | .strike rep => Sys2Proof.Machine.execStrike rep s
  | .sweep line => Sys2Proof.Machine.execSweep line s
  | .sweepNotice note => Sys2Proof.Machine.execSweepNotice note s
  | .timeExchange cluster slice => Sys2Proof.Machine.execTimeExchange cluster slice s
  | .creep unit lane => Sys2Proof.Machine.execCreep unit lane s
  | .clusterEviction cluster line => Sys2Proof.Machine.execClusterEviction cluster line s
  | .tableWalk walk => Sys2Proof.Machine.execTableWalk walk s
  | .acknowledge ack => Sys2Proof.Machine.execAcknowledge ack s
  | .remoteAccess rid => Sys2Proof.Machine.execRemoteAccess rid s
  | .remoteReply rid => Sys2Proof.Machine.execRemoteReply rid s
  | .remoteReissue rid => Sys2Proof.Machine.execRemoteReissue rid s
  | .depdecResend rid => Sys2Proof.Machine.execDepdecResend rid s
  | .waitLimit unit slot => Sys2Proof.Machine.execWaitLimit unit slot s
  | .divCompletion op => Sys2Proof.Machine.execDivCompletion op s
  | .wmpropCompletion op => Sys2Proof.Machine.execWmpropCompletion op s
  | .copyExecute cmd => Sys2Proof.Machine.execCopyExecute cmd s
  | .gatherExecute cmd => Sys2Proof.Machine.execGatherExecute cmd s
  | .scaddExecute cmd => Sys2Proof.Machine.execScaddExecute cmd s
  | .quantExecute cmd => Sys2Proof.Machine.execQuantExecute cmd s
  | .tgenExecute cmd => Sys2Proof.Machine.execTgenExecute cmd s
  | .tgenPublish cmd => Sys2Proof.Machine.execTgenPublish cmd s
  | .tgenCloseExecute cmd => Sys2Proof.Machine.execTgenCloseExecute cmd s
  | .tileLoadExecute cmd => Sys2Proof.Machine.execTileLoadExecute cmd s
  | .tileStoreExecute cmd => Sys2Proof.Machine.execTileStoreExecute cmd s
  | .commandCompletion cmd => Sys2Proof.Machine.execCommandCompletion cmd s
  | .matrixExecute mop => Sys2Proof.Machine.execMatrixExecute mop s
  | .accsendFlag mop => Sys2Proof.Machine.execAccsendFlag mop s
  | .roomLimit cluster room => Sys2Proof.Machine.execRoomLimit cluster room s
  | .roomDepart cluster room core => Sys2Proof.Machine.execRoomDepart cluster room core s
  | .migrationArrival mig => Sys2Proof.Machine.execMigrationArrival mig s
  | .arrivalPlacement cluster core slot => Sys2Proof.Machine.execArrivalPlacement cluster core slot s
  | .unitDispatch launch cluster core slot => Sys2Proof.Machine.execUnitDispatch launch cluster core slot s
  | .codeletStart cluster core slot => Sys2Proof.Machine.execCodeletStart cluster core slot s
  | .launchCompletion launch => Sys2Proof.Machine.execLaunchCompletion launch s
  | .nodeRun graph node => Sys2Proof.Machine.execNodeRun graph node s
  | .cancelPoint unit slot => Sys2Proof.Machine.execCancelPoint unit slot s
  | .quiescence launch => Sys2Proof.Machine.execQuiescence launch s
  | .quiescenceReport cluster core => Sys2Proof.Machine.execQuiescenceReport cluster core s
  | .warpSwap cluster core ctxOut area => Sys2Proof.Machine.execWarpSwap cluster core ctxOut area s
  | .launch queue => Sys2Proof.Machine.execLaunch queue s
  | .graph queue => Sys2Proof.Machine.execGraph queue s
  | .phase queue => Sys2Proof.Machine.execPhase queue s
  | .wait queue => Sys2Proof.Machine.execWait queue s
  | .signal queue => Sys2Proof.Machine.execSignal queue s
  | .hostCancel queue => Sys2Proof.Machine.execHostCancel queue s
  | .hostCopy queue => Sys2Proof.Machine.execHostCopy queue s
  | .hostFence queue => Sys2Proof.Machine.execHostFence queue s
  | .dbell queue tail => Sys2Proof.Machine.execDbell queue tail s
  | .queueEnable queue base size job vector => Sys2Proof.Machine.execQueueEnable queue base size job vector s
  | .queueReset queue => Sys2Proof.Machine.execQueueReset queue s
  | .spillSlot cluster core slot => Sys2Proof.Machine.execSpillSlot cluster core slot s
  | .restoreSlot cluster core slot => Sys2Proof.Machine.execRestoreSlot cluster core slot s
  | .preemptWarp cluster core ctx => Sys2Proof.Machine.execPreemptWarp cluster core ctx s
  | .resumeWarp cluster core ctx => Sys2Proof.Machine.execResumeWarp cluster core ctx s
  | .evsel cluster k v => Sys2Proof.Machine.execEvsel cluster k v s
  | .ltimeWrite unit lane v => Sys2Proof.Machine.execLtimeWrite unit lane v s
  | .clgrantWrite job v => Sys2Proof.Machine.execClgrantWrite job v s
  | .clmaskWrite job v => Sys2Proof.Machine.execClmaskWrite job v s
  | .leasesWrite job hi v => Sys2Proof.Machine.execLeasesWrite job hi v s
  | .registerWrite unit lane idx v => Sys2Proof.Machine.execRegisterWrite unit lane idx v s
  | .hostRead line => Sys2Proof.Machine.execHostRead line s
  | .hostWrite addr data => Sys2Proof.Machine.execHostWrite addr data s
  | .hostOwnershipRequest line => Sys2Proof.Machine.execHostOwnershipRequest line s
  | .backInvalidateReply snoop dirty => Sys2Proof.Machine.execBackInvalidateReply snoop dirty s
  | .snoopInvalidate line => Sys2Proof.Machine.execSnoopInvalidate line s
  | .snoopData line => Sys2Proof.Machine.execSnoopData line s
  | .requestFlit link seq ack bytes => Sys2Proof.Machine.execRequestFlit link seq ack bytes s
  | .responseFlit link seq ack bytes => Sys2Proof.Machine.execResponseFlit link seq ack bytes s
  | .dataFlit link seq ack bytes => Sys2Proof.Machine.execDataFlit link seq ack bytes s
  | .creditFlit link seq ack bytes => Sys2Proof.Machine.execCreditFlit link seq ack bytes s
  | .idleFlit link seq ack bytes => Sys2Proof.Machine.execIdleFlit link seq ack bytes s
  | .flitReplay link => Sys2Proof.Machine.execFlitReplay link s
  | .windowRequestTimeout wreq => Sys2Proof.Machine.execWindowRequestTimeout wreq s
  | .negotiateAlgorithms offered => Sys2Proof.Machine.execNegotiateAlgorithms offered s
  | .getCertificate slot off len => Sys2Proof.Machine.execGetCertificate slot off len s
  | .challenge slot nonce => Sys2Proof.Machine.execChallenge slot nonce s
  | .getMeasurements index nonce => Sys2Proof.Machine.execGetMeasurements index nonce s
  | .deviceReset imageA imageB => Sys2Proof.Machine.execDeviceReset imageA imageB s
  | .firmwareResume unit slot pc => Sys2Proof.Machine.execFirmwareResume unit slot pc s
  | .firmwareJobCancel unit slot => Sys2Proof.Machine.execFirmwareJobCancel unit slot s
  | .haltRestart unit slot => Sys2Proof.Machine.execHaltRestart unit slot s
  | .clusterGate cluster => Sys2Proof.Machine.execClusterGate cluster s
  | .clusterUngate cluster => Sys2Proof.Machine.execClusterUngate cluster s
  | .supplySag die k => Sys2Proof.Machine.execSupplySag die k s
  | .sagRecoveryStep die => Sys2Proof.Machine.execSagRecoveryStep die s
  | .debugLevelChange level authorised => Sys2Proof.Machine.execDebugLevelChange level authorised s
  | .lifecycleChange level => Sys2Proof.Machine.execLifecycleChange level s
  | .logClear whole => Sys2Proof.Machine.execLogClear whole s
  | .malformedRecord queue => Sys2Proof.Machine.execMalformedRecord queue s
  | .flitCrcFailure link => Sys2Proof.Machine.execFlitCrcFailure link s
  | .softError place correctable => Sys2Proof.Machine.execSoftError place correctable s
  | .hsiftCompletion op => Sys2Proof.Machine.execHsiftCompletion op s
  | .supplyRecovery die => Sys2Proof.Machine.execSupplyRecovery die s
  | .supervisorStart job cluster core entry => Sys2Proof.Machine.execSupervisorStart job cluster core entry s
  | .nop => Sys2Proof.Machine.execNop s
  | .ret => Sys2Proof.Machine.execRet s
  | .brk => Sys2Proof.Machine.execBrk s
  | .yield => Sys2Proof.Machine.execYield s
  | .poll => Sys2Proof.Machine.execPoll s
  | .taskend => Sys2Proof.Machine.execTaskend s
  | .innflush => Sys2Proof.Machine.execInnflush s
  | .drain => Sys2Proof.Machine.execDrain s
  | .isync => Sys2Proof.Machine.execIsync s
  | .eret => Sys2Proof.Machine.execEret s
  | .halt => Sys2Proof.Machine.execHalt s
  | .getVersion => Sys2Proof.Machine.execGetVersion s
  | .getCapabilities => Sys2Proof.Machine.execGetCapabilities s
  | .getDigests => Sys2Proof.Machine.execGetDigests s
  | .throttle => Sys2Proof.Machine.execThrottle s
  | .throttleRecovery => Sys2Proof.Machine.execThrottleRecovery s
  | .standby => Sys2Proof.Machine.execStandby s
  | .powerOff => Sys2Proof.Machine.execPowerOff s
  | .overTemperature => Sys2Proof.Machine.execOverTemperature s
  | .recovery => Sys2Proof.Machine.execRecovery s

end Sys2Proof.Machine
end

