-- ==== Sys2Proof/Machine/Manage.lean ====
section
/-! DEFINITION. What the host and management reach without an event of the opcode table: the registers behind the BARs
(23_host_and_links.md R464, R466, 24_security_power_health.md R476, R477), the bytes of a flit (R467), and the access that the
invasive debug level opens (R472). Each is a turn of the agenda. -/

namespace Sys2Proof.Machine

/-! ### Host registers -/

/-- The number of a queue's state in QSTAT (R464). -/
def QState.code (x : QState) : BitVec 8 :=
  match x with
  | .disabled => 0
  | .running => 1
  | .waiting => 2
  | .error => 3
  | .stopped => 4

/-- QSTAT (R464). -/
def Queue.stat (x : Queue) : DWord := x.state.code ++ x.code ++ (0 : BitVec 4) ++ BitVec.ofNat 12 x.quiet ++ x.errHead

/-- The registers of a queue's page that are read: QHEAD and QSTAT. A queue that was never enabled is DISABLED with HEAD 0. -/
def State.queueRegs (s : State) (q : Nat) : DWord × DWord :=
  match s.queueOf q with
  | some x => (x.head.setWidth 64, x.stat)
  | none => (0, 0)

/-- A level counter as the host reads it: JOB, CANCELLED, COUNT (R466). -/
def Counter.word (c : Counter) : DWord := BitVec.ofNat 32 c.job ++ BitVec.ofBool c.cancelled ++ c.count

/-- The value of a register behind a BAR; none where the access is discarded: any of BAR2 but the naturally aligned reads of 4 and 8
bytes in QHEAD and QSTAT (R464), an event counter below the debug level that opens it (R476; log entry 72). -/
def State.hostValue (s : State) (r : HostReg) : Option (List Nat) :=
  match r with
  | .counter n =>
    if 4096 ≤ n then none else some [(((s.counters.find? (·.num == n)).map Counter.word).getD 0).toNat]
  | .bar2 off len =>
    let o := off % 4096
    let regs := s.queueRegs (off / 4096)
    let whole := toBytes 8 regs.1.toNat ++ toBytes 8 regs.2.toNat
    if 2 ^ 26 ≤ off ∨ o < 8 ∨ 24 < o + len ∨ ¬ (len = 4 ∨ len = 8) ∨ o % len ≠ 0 then none
    else some [ofBytes ((whole.drop (o - 8)).take len)]
  | .evsel c k => if s.debug = 0 ∨ 64 ≤ c ∨ 8 ≤ k then none else some [((s.evOf c).sel[Fin.ofNat 8 k]).toNat]
  | .evcnt c k => if s.debug = 0 ∨ 64 ≤ c ∨ 8 ≤ k then none else some [((s.evOf c).cnt[Fin.ofNat 8 k]).toNat]
  | .temps d => if h : d < 6 then some s.life.temps[d].toList else none
  | .volts d => if h : d < 6 then some s.life.volts[d].toList else none
  | .correctable t => some [s.life.correctable[tierIndex t]]
  | .retries l => if h : l < 25 then some [s.life.linkRetries[l]] else none
  | .errorLog => none

/-- The host reads through a BAR. -/
def State.hostRegisterTurn (s : State) (r : HostReg) : State :=
  match r, s.hostValue r with
  | .errorLog, _ => { s with reports := s.reports ++ [.errorLog s.life.log s.life.overflow] }
  | r, some v => { s with reports := s.reports ++ [.hostValue r v] }
  | _, none => s

/-- The host writes bytes at an offset of BAR2: an aligned write of 4 bytes to a DBELL rings it, every other is discarded (R464). -/
def bar2WriteTurn (off : Nat) (bytes : List Byte) (s : State) : Host.Outcome State Fault Refusal :=
  if off % 4096 = 0 ∧ off < 2 ^ 26 ∧ bytes.length = 4 then execDbell (off / 4096) (BitVec.ofNat 32 (ofBytes bytes)) s else .next s

/-! ### Flits -/

/-- The bytes of a flit come in: by its TYPE it is one of the five events, one whose CRC fails is discarded; a TYPE that the table of
R467 does not give only counts in SEQ order. -/
def flitInTurn (link : Nat) (raw : List Byte) (s : State) : Host.Outcome State Fault Refusal :=
  match flitOf raw with
  | none => execFlitCrcFailure link s
  | some f =>
    let bytes := f.payload.toList
    match f.ty with
    | 1 => execRequestFlit link f.seq f.ack bytes s
    | 2 => execResponseFlit link f.seq f.ack bytes s
    | 3 => execDataFlit link f.seq f.ack bytes s
    | 4 => execCreditFlit link f.seq f.ack bytes s
    | _ => execIdleFlit link f.seq f.ack bytes s

/-! ### The invasive debug level (R472; log entry 73) -/

/-- A register of a lane as management reads it. -/
def State.debugReg (s : State) (a : Agent) (lane : Nat) (r : DebugReg) : DWord :=
  let act := a.paths.any fun p => p.mask.getLsbD lane && p.act
  match r with
  | .general n => ((a.lane lane).reg (Fin.ofNat 64 n)).setWidth 64
  | .uniform n => a.s[Fin.ofNat 32 n]
  | .preds => (a.lane lane).p.setWidth 64
  | .control i => s.creg a act lane i

/-- Management reads a register. -/
def State.debugReadTurn (s : State) (uid lane : Nat) (r : DebugReg) : State :=
  match s.agent? uid with
  | some a => if s.debug ≠ 2 then s else { s with reports := s.reports ++ [.debugValue uid lane r (s.debugReg a lane r)] }
  | none => s

/-- Management writes a register; a control register as firmware does. -/
def State.debugWriteTurn (s : State) (uid lane : Nat) (r : DebugReg) (v : DWord) : State :=
  match s.agent? uid with
  | none => s
  | some a =>
    if s.debug ≠ 2 then s
    else
      match r with
      | .general n => s.updLane uid lane fun ln => ln.setReg (Fin.ofNat 64 n) (lo32 v)
      | .uniform n => s.updAgent uid fun a => a.setSreg false (BitVec.ofNat 5 n) v
      | .preds => s.updLane uid lane fun ln => { ln with p := v.setWidth 16 ||| 1, pbad := 0 }
      | .control i =>
        if (cregCause i v).isSome then s
        else
          (s.cregLane uid lane i v).cregOnce uid (a.paths.any fun p => p.mask.getLsbD lane && p.act) .firmware i v

/-- Management stops a context in every path; `HALT_RESTART` lets it go on. -/
def State.debugHaltTurn (s : State) (uid : Nat) : State :=
  if s.debug ≠ 2 then s
  else s.updAgent uid fun a => a.mapPaths fun p => if p.mode = .run then { p with mode := .halted } else p

end Sys2Proof.Machine
end

