-- ==== Sys2Proof/Machine/Fetch.lean ====
section
/-! DEFINITION. Fetching an instruction: one word at a virtual address (01_main_memory.md R21, R26, R28,
08_encoding.md R171, R172), the words of an instruction, and the turns of the agenda that are no rows of the opcode table. -/

namespace Sys2Proof.Machine

/-- What fetching a word comes to. -/
inductive Got where
  | word (w : Word)
  | fault (cause : BitVec 8) (addr : DWord)
  | wait
  deriving DecidableEq, Repr

/-- The class check of a fetch (R18, R21): translated addresses only. -/
def fetchClass (va : DWord) : Option (BitVec 8) :=
  if va.extractLsb' 56 8 ≠ 0 then some 0x2A
  else if va.extractLsb' 48 8 = (0xFF : BitVec 8) then some 0x23
  else none

/-- The time of a fetch: the largest of the path's lanes (R154), not below the floor (02_lines_and_homes.md R51). -/
def State.fetchTime (s : State) (a : Agent) (p : Path) : DWord :=
  s.floorT a.place.cluster ((Mask.list p.mask).foldl (fun t l => tmax t (a.lane l).ltime) 0)

/-- Reading one word through the translation and the cluster cache, with the page's lease class (R28), at the path's time;
the fetch raises the times of the path's lanes to the floor and to the line's `wts` (R154, 02_lines_and_homes.md R43). -/
def State.fetchMem (s : State) (a : Agent) (p : Path) (va : DWord) : State × Got :=
  let w : Who := ⟨a.uid, a.place.coreId, a.job, p.priv, p.mask⟩
  let t := s.fetchTime a p
  match fetchClass va with
  | some c => (s, .fault c va)
  | none =>
    match s.checkBlock w { need := .x } va 4 with
    | (s, .fault c a _) => (s, .fault c a)
    | (s, .due _) => (s, .wait)
    | (s, .wait _) => (s, .wait)
    | (s, .ok (.mem pa _ leaf)) =>
      if regionOf pa = some .window then
        -- the word comes from its device and is then held as one fetched ahead (23_host_and_links.md R468)
        let b := match s.focus with | some x => x.2 | none => false
        if s.winReqs.any fun r => r.uid == a.uid && r.kind == .fetch b va then (s, .wait)
        else (s.sendWin a.uid (Mask.lowest p.mask) pa 4 (.fetch b va) va, .wait)
      else
        let line := pa / 128
        let hit := if (s.hitAt w.core.cluster line t).isSome then (s.copyOf w.core.cluster line).map (·.wts) else none
        match s.loadNow w.core.cluster w.job line t (leaf.extractLsb' 60 3).toNat with
        | .error l => (if s.hostHolds l then s.snoopHost l else s, .wait)
        | .ok (s, d, bad, _) =>
          -- floor(t) of each time first, as for any plain load
          let s := (Mask.list p.mask).foldl (fun s l => s.floorLane a.uid l) s
          let wts := hit.getD (s.homeOf line).wts
          let s := (Mask.list p.mask).foldl (fun s l => s.raiseLane a.uid l wts) s
          if bad &&& sectorMask (pa % 128) 4 ≠ 0 then (s, .fault 0x26 va)
          else (s, .word (d.extractLsb' (8 * (pa % 128)) 32))
    | (s, .ok _) => (s, .fault 0x23 va)

/-- One word: a word fetched ahead of its issue, or one read now (R172). -/
def State.fetchWord (s : State) (a : Agent) (p : Path) (va : DWord) : State × Got :=
  match p.buf.find? fun x => x.1 == va.toNat with
  | some x => (s, .word x.2)
  | none => s.fetchMem a p va

/-- What fetching an instruction comes to. -/
inductive Fetched where
  /-- Checks 2 and 4 to 5 of R171 fail, or the instruction. -/
  | illegal (w0 w1 : Word)
  | instr (i : Instr)
  | fault (cause : BitVec 8) (addr : DWord)
  | wait
  deriving DecidableEq, Repr

/-- Decoding fetched words. -/
def decoded (w0 w1 w2 : Word) : Fetched :=
  match decodeWords w0 w1 w2 with
  | .ok i => .instr i
  | .error _ => .illegal w0 (if w0.extractLsb' 0 2 = 0 ∨ w0.extractLsb' 0 2 = 3 then 0 else w1)

/-- The instruction of some words that have been fetched. -/
def Fetched.ofWords (ws : List Word) : Fetched := decoded (ws.getD 0 0) (ws.getD 1 0) (ws.getD 2 0)

/-- Fetching an instruction's words (R171): word 0, its LEN, the other words, the decoder. -/
def State.fetchWords (s : State) (a : Agent) (p : Path) : State × Fetched :=
  match s.fetchWord a p p.pc with
  | (s, .wait) => (s, .wait)
  | (s, .fault c v) => (s, .fault c v)
  | (s, .word w0) =>
    let len := (w0.extractLsb' 0 2).toNat
    if len = 3 then (s, .illegal w0 0)
    else if len = 0 then (s, decoded w0 0 0)
    else
      match s.fetchWord a p (p.pc + 4) with
      | (s, .wait) => (s, .wait)
      | (s, .fault c v) => (s, .fault c v)
      | (s, .word w1) =>
        if len = 1 then (s, decoded w0 w1 0)
        else
          match s.fetchWord a p (p.pc + 8) with
          | (s, .wait) => (s, .wait)
          | (s, .fault c v) => (s, .fault c v)
          | (s, .word w2) => (s, decoded w0 w1 w2)

/-- FETCH (R171): an instruction that waits is not fetched again (04_cluster_store.md R86, R87); another keeps its words for the
case that it waits. -/
def State.fetchInstr (s : State) (a : Agent) (p : Path) : State × Fetched :=
  if p.wait.isSome && !p.words.isEmpty then (s, Fetched.ofWords p.words)
  else
    let r := s.fetchWords a p
    let b := match s.focus with | some x => x.2 | none => false
    (match r.2 with
      | .instr i => r.1.updPath a.uid b fun p => { p with words := encode i }
      | _ => r.1, r.2)

/-- Paths issue in these power states (24_security_power_health.md R473), in clusters that are not gated. -/
def State.powered (s : State) (cluster : Nat) : Bool :=
  (s.power == .active || s.power == .throttled) && !s.gated.getLsbD cluster

/-- floor(t) of the lanes that hold a completed token, which the instruction may read (02_lines_and_homes.md R51). -/
def State.floorTokens (s : State) (a : Agent) (p : Path) : State :=
  (Mask.list p.mask).foldl (fun s l =>
    if (a.lane l).toks.isEmpty then s
    else s.updLane a.uid l fun ln => { ln with ltime := s.floorT a.place.cluster ln.ltime }) s

/-- What comes before the meaning of an instruction: an issue is counted once (24_security_power_health.md R476), not when an
instruction that waits tries again; and the floor of a token read. -/
def State.countIssue (s : State) (a : Agent) (p : Path) : State :=
  (if p.wait.isNone then s.tally a.place.cluster (if a.wide then 0x03 else 0x02) 1 else s).floorTokens a p

/-- A path whose record held poison takes cause 0x26 at its next instruction (19_traps.md R429; log entry 66). -/
def Path.recordTrap (p : Path) : Path :=
  if p.spoilt && p.wait.isNone && p.trap.isNone then { p with spoilt := false, trap := some (p.mask, 0x26, 0, 2, p.pc) } else p

/-- A trap entry that waited for watch entries, or for its unit to come back to a slot (19_traps.md R416); a cause inside a handler is
a double trap (R418). -/
def State.pendingTrap (s : State) : Option State :=
  match s.focus with
  | none => none
  | some (uid, b) =>
    match s.agent? uid with
    | none => none
    | some a =>
      match ((a.slot b).map Path.recordTrap).bind (·.trap) with
      | none => none
      | some (m, c, t, ue, epc) =>
        let other (q : Option Path) : Bool := match q with | some q => q.act | none => false
        if a.status != .issuing || s.watchesHeld uid m || s.propHeld uid m || other (a.slot (!b)) || a.stack.any (·.act) then some s
        else if ((a.slot b).map (·.act)).getD false then some (s.doubleTrap uid (Mask.lowest m) c epc)
        else some (((s.withdraw uid m).enterTrap uid b c t ue epc).settle uid)

/-! ### Turns of the agenda that are no rows of the table -/

/-- The clock of a die counts; the cycle counters of its clusters count (24_security_power_health.md R476). -/
def State.clockTurn (s : State) (die n : Nat) : State :=
  let s := { s with cycle := s.cycle.set (die % 6) (s.cycle[die % 6]'(Nat.mod_lt _ (by decide)) + n)
                      (Nat.mod_lt _ (by decide)) }
  if 4 ≤ die % 6 then s else (List.range 16).foldl (fun s k => s.tally (16 * (die % 6) + k) 0x01 n) s

/-- A path fetches a word ahead (R172). -/
def State.fetchAheadTurn (s : State) (uid : Nat) (b : Bool) (va : DWord) : State :=
  match s.agent? uid with
  | none => s
  | some a =>
    match a.slot b with
    | none => s
    | some p =>
      match s.fetchMem a p va with
      | (s, .word w) => s.updPath uid b fun p => { p with buf := (va.toNat, w) :: p.buf }
      | _ => s

/-- A slice evicts a line's stamps for capacity; the owner and holder fields are never lost (03_watch_table.md R62,
02_lines_and_homes.md R45). -/
def State.dropStampsTurn (s : State) (line : Nat) : State :=
  let h := s.homeOf line
  if h.owner = none ∧ h.holders = 0 then s.setHome line { h with wts := 0, rts := 0, evicted := true } else s

end Sys2Proof.Machine
end

