-- ==== Sys2Proof/Machine/Select.lean ====
section
/-! DEFINITION. Issue selection (18_scheduling.md R406, R407): which path of a core is ready, and which of the ready ones
issues in a cycle. -/

namespace Sys2Proof.Machine

/-- Replacing a core's record. -/
def State.setIssueRec (s : State) (r : IssueRec) : State :=
  { s with cores := s.cores.filter (·.core != r.core) ++ [r] }

/-- The paths in the PC slots of a core's units, in the order in which the units came, slot A before slot B. -/
def State.corePaths (s : State) (c : CoreId) : List (Nat × Bool) :=
  (s.agents.filter fun a => a.place.coreId == c && a.status == .issuing).flatMap fun a =>
    (if a.slotA.isSome then [(a.uid, false)] else []) ++ (if a.slotB.isSome then [(a.uid, true)] else [])

/-- The unit, the path and its slot where a path can issue its next instruction: it is in the rotation, waits for nothing
and its words are there. -/
def State.canIssue (s : State) (x : Nat × Bool) : Option (Agent × Path) :=
  let s : State := { s with focus := some x }
  match s.focused with
  | none => none
  | some (a, p, _) =>
    if p.wait.isNone && s.powered a.place.cluster && (s.fetchInstr a p).2 != .wait then some (a, p) else none

/-- The paths of a core that wait: each tries again, which is no issue (04_cluster_store.md R80; log entry 23). -/
def State.waitingPaths (s : State) (c : CoreId) : List (Nat × Bool) :=
  (s.corePaths c).filter fun x => (s.canIssue x).isNone

/-- The ready paths of a core (R406, R407): a slot of a barrel core has not issued in the last 3 cycles. -/
def State.readyPaths (s : State) (c : CoreId) : List ((Nat × Bool) × Agent) :=
  (s.corePaths c).filterMap fun x =>
    match s.canIssue x with
    | none => none
    | some (a, _) =>
      if a.place.coreId != c || (!isWideCore c.core && s.justIssued c a.place.ctx) then none else some (x, a)

/-- Since when each path of a core has been ready and not issued. -/
def State.noteReady (s : State) (c : CoreId) : State :=
  let r := s.issueRec c
  s.setIssueRec { r with ready := (s.readyPaths c).map fun x =>
    (x.1, ((r.ready.find? (·.1 == x.1)).map (·.2)).getD (s.now c.cluster)) }

/-- A core has issued in this cycle. -/
def State.hasIssued (s : State) (c : CoreId) : Bool :=
  match (s.issueRec c).last with
  | some l => l.1 == s.now c.cluster
  | none => false

/-- How long after the slot that issued last a slot's turn comes, in ascending order with wrap-around (R406). -/
def slotDistance (last : Option (Nat × Nat)) (ctx : Nat) : Nat :=
  match last with
  | some l => (ctx + 16 - (l.2 + 1) % 16) % 16
  | none => ctx

/-- The class of a warp (R407): loaders with the shadow waves first, then storers, then computers. -/
def Agent.roleClass (a : Agent) : Nat :=
  if a.kind == .shadow then 0 else match a.role with
    | .load => 0
    | .store => 1
    | .comp => 2

/-- The first element of a list whose key is least. -/
def leastBy {α : Type} (key : α → Nat) : List α → Option α
  | [] => none
  | x :: l => match leastBy key l with
    | none => some x
    | some y => if key y < key x then some y else some x

/-- The path that issues in this cycle (R406, R407): slot 15 whenever it is ready, otherwise the next ready slot; on a wide
core a path that has been ready for 64 cycles, the oldest first, otherwise by class, within it what has not yielded (17_isa_control.md
R381), then by admission. -/
def State.selected (s : State) (c : CoreId) : Option (Nat × Bool) :=
  if s.hasIssued c then none
  else
    let r := s.issueRec c
    let ps := s.readyPaths c
    if !isWideCore c.core then
      match ps.find? fun x => x.2.place.ctx == 15 with
      | some x => some x.1
      | none => (leastBy (fun x => slotDistance r.last x.2.place.ctx) ps).map (·.1)
    else
      let since (x : (Nat × Bool) × Agent) : Nat := ((r.ready.find? (·.1 == x.1)).map (·.2)).getD (s.now c.cluster)
      match leastBy since (ps.filter fun x => decide (since x + 64 ≤ s.now c.cluster)) with
      | some x => some x.1
      | none => (leastBy (fun x => 2 * x.2.roleClass + x.2.behind.toNat) ps).map (·.1)

/-- A path of a core issues in this cycle; what a `YIELD` asked of this selection is done (17_isa_control.md R381). -/
def State.noteSelected (s : State) (c : CoreId) (x : Nat × Bool) : State :=
  let r := s.issueRec c
  let ctx := match s.agent? x.1 with | some a => a.place.ctx | none => 0
  let now := s.now c.cluster
  let s : State := { s with agents := s.agents.map fun a => if a.place.coreId = c then { a with behind := false } else a }
  { s.setIssueRec { r with last := some (now, ctx), slots := (r.slots.filter (·.1 != ctx)) ++ [(ctx, now)],
                           ready := r.ready.filter (·.1 != x) } with focus := some x }

end Sys2Proof.Machine
end

