-- ==== Sys2Proof/Machine/Step.lean ====
section
/-! DEFINITION. One step: the next turn of the agenda, or, where the agenda is empty, the next instruction of the path in
focus (log entry 1); and placing an instruction where the next step fetches it. -/

namespace Sys2Proof.Machine

/-- The path in focus fetches, decodes and runs its next instruction. -/
def issueStep (s : State) : Host.Outcome State Fault Refusal :=
  match s.pendingTrap with
  | some s' => .next s'
  | none =>
    match s.focused with
    | none => .next s
    | some (a, p, _) =>
      if s.powered a.place.cluster = false then .next s
      else
        match s.fetchInstr a p with
        | (s', .instr i) => exec i (s'.countIssue a p)
        | (s', .illegal w0 w1) => exec (.illegalInstruction w0 w1) s'
        | (s', .fault c v) => exec (.fetchFault c v) s'
        | (s', .wait) => .next s'

/-- What every outcome from `s` ends with: accesses parked for lanes that have left are withdrawn (04_cluster_store.md R87), the
coach lane fault entries are written (15_travellers.md R341), and the shared queue windows agree (18_scheduling.md R408). -/
def mirrored (s : State) : Host.Outcome State Fault Refusal → Host.Outcome State Fault Refusal
  | .next t => .next (State.mirror s t.dropOrphans.writeCoachFaults)
  | o => o

/-- Paths that wait try again, one after another. -/
def retryStep : List (Nat × Bool) → State → Host.Outcome State Fault Refusal
  | [], s => .next s
  | x :: l, s =>
    match mirrored s (issueStep { s with focus := some x }) with
    | .next t => retryStep l t
    | o => o

/-- The issue cycle of a core (18_scheduling.md R406, R407): what waits tries again, then the selected path issues. -/
def coreStep (c : CoreId) (s : State) : Host.Outcome State Fault Refusal :=
  match retryStep (s.waitingPaths c) s with
  | .next t =>
    let t := t.noteReady c
    match t.selected c with
    | some x => mirrored t (issueStep (t.noteSelected c x))
    | none => .next t
  | o => o

/-- One turn of the agenda. -/
def turnStep (t : Turn) (s : State) : Host.Outcome State Fault Refusal :=
  match t with
  | .core c => coreStep c s
  -- what cannot be decoded or fetched is met at a fetch only
  | .event (.illegalInstruction ..) | .event (.fetchFault ..) => .next s
  | .event e => if e.isEvent && s.answers e then exec e s else .next s
  | .clock die n => .next (s.clockTurn die n)
  | .timebase n => .next { s with timebase := s.timebase + n }
  | .fetchAhead uid b va => .next (s.fetchAheadTurn uid b va)
  | .dropStamps line => .next (s.dropStampsTurn line)
  | .assignCounter num job => .next (s.assignTurn num job)
  | .setPeer link peer => .next (s.setPeerTurn link peer)
  | .hour die temp volt => .next (s.hourTurn die temp volt)
  | .setDecoder k base => .next (s.setDecoderTurn k base)
  | .setNumber n => .next (s.setNumberTurn n)
  | .hostRegister r => .next (s.hostRegisterTurn r)
  | .bar2Write off bytes => bar2WriteTurn off bytes s
  | .flitIn link raw => flitInTurn link raw s
  | .portRetry => .next (s.countRetry 24)
  | .bringUpFails image step => .next (s.bringUpFailsTurn image step)
  | .debugHalt uid => .next (s.debugHaltTurn uid)
  | .debugRead uid lane r => .next (s.debugReadTurn uid lane r)
  | .debugWrite uid lane r v => .next (s.debugWriteTurn uid lane r v)

/-- ONE STEP of the device. -/
def step (s : State) : Host.Outcome State Fault Refusal :=
  mirrored s (match s.agenda with
    | [] => issueStep s
    | t :: rest => turnStep t { s with agenda := rest })

/-! ### Placing an instruction -/

/-- The page of the placed instruction: virtual and physical address (log entry 6). -/
def placeVa : DWord := 0x10000
/-- The physical address. -/
def placePa : Nat := 0x10000

/-- A user-mode leaf that maps the page for execution, reading and writing, A and D set. -/
def placeLeaf : DWord := BitVec.ofNat 64 placePa ||| 0x37B

/-- `s` with the instruction of `nbits` bits `w` as the next of a traveller in slot 0 of core 0 of cluster 0, on which the
step's focus is: its page is mapped and its bytes, and zeros up to three words, stand in memory (log entry 6). -/
def State.withFetchWord (s : State) (nbits w : Nat) : State :=
  let j := s.nextId
  let u := s.nextId + 1
  let job : Job := ⟨j, 0, 0, 1, 0, 1, 0, leases0Reset, leases1Reset, false, false⟩
  { s with
    agenda := []
    focus := some (u, false)
    nextId := s.nextId + 2
    power := .active
    gated := 0
    jobs := s.jobs ++ [job]
    agents := s.agents ++ [Agent.fresh u j .traveller ⟨0, 0, 0⟩ 1 placeVa .user]
    tlb := (0, ⟨j, false, placeVa.toNat / 65536, 16, placeLeaf, 0⟩) :: s.tlb
    copies := s.copies.filter fun c => c.line != placePa / 128
    homes := sput Home.fresh (placePa / 128) Home.fresh s.homes
    mem := Memory.writeBytes s.mem placePa (toBytes 12 (w % 2 ^ nbits)) }

end Sys2Proof.Machine
end

