-- ==== Sys2Proof/Certificates/Slice0/Terms.lean ====
section
/-! DEFINITION. The terms in which the obligations are stated: an instruction that a path may issue, lanes whose operands are
readable, what a register instruction leaves behind, and lanes whose checks pass one after another. -/

namespace Sys2Proof.Terms

open Sys2Proof.Machine

/-- The state in which an instruction that issues is performed (18_scheduling.md R409, R410). -/
def atIssue (s : State) (c : Ctx) : State := s.noteIssue c.a.uid c.a.place.cluster c.p

/-- The path in focus issues `i` under the guard `g`, in the context `c`: it is running, the checks of 08_encoding.md R171
pass, the guard is true in at least one lane, and no lane's guard is a poisoned predicate. -/
structure Runs (i : Instr) (g : Guard) (s : State) (c : Ctx) : Prop where
  focus : s.focused = some (c.a, c.p, c.b)
  uid : c.uid = c.a.uid
  npc : c.npc = c.p.pc + 4 * BitVec.ofNat 64 (encode i).length
  checks : preCheck c.a c.p i = none
  act : c.act = Mask.filter c.p.mask fun l => guardOn c.a c.p l g
  some : c.act ≠ 0
  guards : c.badGuards g = []

/-- The same where completing the instruction meets no loop's END in a diverged warp (16_loops.md R358). -/
structure Issues (i : Instr) (g : Guard) (s : State) (c : Ctx) : Prop extends Runs i g s c where
  together : c.clash = false

/-- The path in focus issues an instruction that the guard does not mask as a whole (08_encoding.md R158). -/
structure Branches (i : Instr) (g : Guard) (s : State) (c : Ctx) : Prop where
  focus : s.focused = some (c.a, c.p, c.b)
  uid : c.uid = c.a.uid
  npc : c.npc = c.p.pc + 4 * BitVec.ofNat 64 (encode i).length
  checks : preCheck c.a c.p i = none
  act : c.act = c.p.mask
  guards : c.badGuards g = []

/-- Every active lane's sources are readable and its destinations wait for no producer (06_registers.md R119-R121). -/
def Reads (s : State) (c : Ctx) (os : List Opnd) (ps : List PReg) (ds : List GReg) : Prop :=
  ∀ l ∈ Mask.list c.act, s.ready c l os ps ds = .ok

/-- The inputs of the lanes that take part. -/
def table (c : Ctx) (os : List Opnd) (ps : List PReg) : List (Nat × LaneIn) :=
  (Mask.list c.act).map fun l => (l, c.inputs l os ps)

/-- What lane `l` of a register instruction answers, with the value function of the instruction. -/
def answer (c : Ctx) (os : List Opnd) (ps : List PReg) (f : Ctx → List (Nat × LaneIn) → Nat → LaneIn → LaneOut) (l : Nat) :
    LaneOut := f c (table c os ps) l (c.inputs l os ps)

/-- No lane faults, and no flag that a lane raises is enabled (07_number_formats.md R146). -/
def NoTrap (c : Ctx) (out : Nat → LaneOut) : Prop :=
  ∀ l ∈ Mask.list c.act, (out l).fault = none ∧ flagCause c.a.fpctl (out l).flags = none

/-- The unit after a register instruction: in each active lane the reads in mode 10 and the destinations are done, every
flag is ORed into `FPFLAGS`, a uniform register is written; nothing else of the unit has changed. -/
def ranUnit (c : Ctx) (os : List Opnd) (out : Nat → LaneOut) (a : Agent) : Agent :=
  (Mask.list c.act).foldl (fun a l =>
    (((a.acquireTokens c l os).updLane l fun ln => ln.write c.rrb os (out l)).orFlags (out l).flags).writeUni c.p.act (out l).uni) a

/-- The state after a register instruction, before its path goes on: no other unit, no memory and nothing else differs. -/
def ran (s : State) (c : Ctx) (os : List Opnd) (out : Nat → LaneOut) : State :=
  (atIssue s c).updAgent c.uid (ranUnit c os out)

/-- A register instruction with these operands and this value function completes: every state in which it issues with
readable operands and without a trap goes to the state in which every active lane has its results and the path goes on. -/
def LaneResult (i : Instr) (g : Guard) (os : List Opnd) (ps : List PReg) (ds : List GReg)
    (f : Ctx → List (Nat × LaneIn) → Nat → LaneIn → LaneOut) : Prop :=
  ∀ (s : State) (c : Ctx), Issues i g s c → Reads s c os ps ds → NoTrap c (answer c os ps f) →
    exec i s = .next ((ran s c os (answer c os ps f)).complete c)

/-- The checks of some lanes pass one after another, from `s` to `t`, with what they answer. -/
def Pass {β : Type} (check : State → Nat → State × Chk β) : List Nat → State → State → List (Nat × β) → Prop
  | [], s, t, bs => t = s ∧ bs = []
  | l :: ls, s, t, bs => ∃ s1 b rest, check s l = (s1, .ok b) ∧ Pass check ls s1 t rest ∧ bs = (l, b) :: rest

/-- An instruction that meets the rest of the device completes: its lanes' operands are readable and their checks pass; then
they are performed in ascending order (13_isa_return.md R290) and the path goes on. -/
def Performs {β : Type} (i : Instr) (g : Guard) (os : List Opnd) (ds : List GReg)
    (check : Ctx → State → Nat → LaneIn → State × Chk β) (perform : Ctx → State → Nat → β → State) : Prop :=
  ∀ (s : State) (c : Ctx) (t : State) (bs : List (Nat × β)), Issues i g s c → Reads s c os [] ds →
    Pass (fun s l => check c s l (c.inputs l os [])) (Mask.list c.act) (atIssue s c) t bs →
    exec i s = .next ((((bs.foldl (fun s x =>
      perform c (s.consumeOps c x.1 os) x.1 x.2) t).clearWalkFaults c.uid c.p.mask).noteFlight c.uid t.nextId c.p.mask).complete c)

/-- An instruction performed once for the warp with the operands of its lowest active lane completes. -/
def PerformsOnce {β : Type} (i : Instr) (g : Guard) (os : List Opnd) (ds : List GReg)
    (check : Ctx → State → Nat → LaneIn → State × Chk β) (perform : Ctx → State → Nat → β → State) : Prop :=
  ∀ (s : State) (c : Ctx) (t : State) (b : β), Issues i g s c →
    s.ready c (Mask.lowest c.act) os [] ds = .ok →
    check c (atIssue s c) (Mask.lowest c.act) (c.inputs (Mask.lowest c.act) os []) = (t, .ok b) →
    exec i s = .next ((perform c ((t.clearWalkFaults c.uid c.p.mask).consumeOps c (Mask.lowest c.act) os) (Mask.lowest c.act)
      b).complete c)

/-- Every lane that takes part has performed. -/
def allDone (u : State) (c : Ctx) : Bool :=
  match u.agent? c.uid with
  | some a => (match a.slot c.b with | some p => (c.act &&& ~~~p.done) == 0 | none => true)
  | none => true

/-- An instruction whose lanes may park (04_cluster_store.md R81), issued for the first time: its lanes' operands are readable
and their checks pass; then each attempts its part, and the instruction completes if every lane has performed and waits
otherwise. -/
def Parks {β : Type} (i : Instr) (g : Guard) (os : List Opnd) (ds : List GReg) (kind : State → WaitKind)
    (check : Ctx → State → Nat → LaneIn → State × Chk β) (attempt : Ctx → State → Nat → β → State)
    (more : Ctx → Prop) (last : Ctx → State → State) : Prop :=
  ∀ (s : State) (c : Ctx) (t : State) (bs : List (Nat × β)), Issues i g s c → c.p.done = 0 → c.p.parked = 0 → more c →
    Reads s c os [] ds → Pass (fun s l => check c s l (c.inputs l os [])) (Mask.list c.act) (atIssue s c) t bs →
    let u := ((bs.foldl (fun s x => attempt c s x.1 x.2) t).noteFlight c.uid t.nextId c.p.mask).dropHeld c.uid 0
    exec i s = .next (last c (if allDone u c then u.complete c else u.waitFor c (kind u)))

/-- A branch that some lanes take and others do not completes (15_travellers.md R346, 17_isa_control.md R366): with no lane
taking it the path falls through, with every lane the path goes on at the target, and otherwise the path goes on at the target
with the lanes that take it and the others become a path at the next instruction, in the other slot or on the stack, both
with join `j` before their own. -/
def Diverges (i : Instr) (g : Guard) (take : Ctx → Mask) (t : Ctx → DWord) (j : Ctx → List (DWord × Bool))
    (pre : Ctx → State → State) (more : State → Ctx → Prop) : Prop :=
  ∀ (s : State) (c : Ctx), Branches i g s c → more (atIssue s c) c →
    (take c = 0 → c.clash = false → exec i s = .next ((atIssue s c).complete c)) ∧
    (take c ≠ 0 → c.a.outOfRange c.p.act (t c) = false → c.p.mask &&& ~~~(take c) = 0 →
      exec i s = .next ((pre c (atIssue s c)).jump c (t c))) ∧
    (take c ≠ 0 → c.a.outOfRange c.p.act (t c) = false → c.p.mask &&& ~~~(take c) ≠ 0 → c.a.atEnd c.p.act c.npc = false →
      c.a.room c.b ≠ 0 →
      exec i s = .next ((((pre c (atIssue s c)).updPath c.uid c.b fun p =>
          { p with mask := take c, pc := t c, joins := j c ++ p.joins, wait := none, done := 0, parked := 0 }).placePath c.uid c.b
        { c.p.part (c.p.mask &&& ~~~(take c)) c.npc .run none with joins := j c ++ c.p.joins, done := 0, parked := 0 }).settle
          c.uid))

/-- A lane's link registers as one value. -/
def link (c : Ctx) (l : Nat) : DWord := c.value l (rd 62).w2

/-- An instruction that ends the lanes that take part: their checks pass; they perform and leave, and what is left of the
path goes on, which a diverged warp does not do past its loop's END (16_loops.md R356, R358). -/
def Ends (i : Instr) (g : Guard) (more : Ctx → Prop) (check : Ctx → State → Nat → State × Chk Unit)
    (perform : Ctx → State → Nat → State) (after : Ctx → State → State) : Prop :=
  ∀ (s : State) (c : Ctx) (t : State) (bs : List (Nat × Unit)), Runs i g s c → more c →
    (c.p.mask &&& ~~~c.act ≠ 0 → c.clash = false) →
    Pass (check c) (Mask.list c.act) (atIssue s c) t bs →
    let u := ((Mask.list c.act).foldl (perform c) t).dropLanes c.uid c.act
    exec i s = .next (after c ((if c.p.mask &&& ~~~c.act = 0 then u else u.complete c).retireIfEmpty c.uid))

/-- A queue comes to a command (18_scheduling.md R395, R397): it runs or waits, its ring is not empty, the record at HEAD can be
read, holds no poison, is well formed and is of this OP, its condition holds, and a `LAUNCH` names no cluster outside `CLMASK`. `u` is the state in which the command acts:
HEAD has moved on and the queue runs. -/
structure Starts (op q : Nat) (s : State) (x : Queue) (r : CRec) (u : State) : Prop where
  queue : s.queueOf q = some x
  live : x.state = .running ∨ x.state = .waiting
  some : x.head ≠ x.tail
  record : ∃ bs v, s.headBytes x = .ok (v, bs, false) ∧ r = CRec.of bs ∧ v.malformed x.job bs = false ∧ r.op = op ∧
    v.mayStart x r = true ∧ v.badMask x.job r = false ∧ u = v.updQueue q fun x => { x with state := .running, head := x.head + 1, wins := [] }

/-- The spill engine of a cluster has a command of this OP for this core and context, written by `job` (19_traps.md R423). -/
def Commanded (s : State) (op cluster core ctx job : Nat) : Prop := s.spCommand op cluster core ctx = some job

/-- The guard that the second word of an instruction holds (08_encoding.md R157); a one-word form has none. -/
def guardOf (i : Instr) : Guard := (Fields.of ((encode i).getD 0 0) ((encode i).getD 1 0) ((encode i).getD 2 0)).g

/-- The branches whose guard is their condition, and the other forms that the guard does not mask (R158, R364). -/
def ownGuard : Instr → Bool
  | .brJ32 .. | .brX96 .. | .brc .. | .bru .. | .chk .. | .callJ32 .. | .callX96 .. | .calli .. | .calliTail .. | .ret | .loop ..
  | .loopr .. | .brk | .brkd .. | .eret => true
  | _ => false

/-- Units have numbers of their own, below those of units to come, and a shadow wave and its coach, while it is there, name each
other and have 32 lanes (18_scheduling.md R408). -/
def Paired (s : State) : Prop :=
  (s.agents.map (·.uid)).Nodup ∧
  (∀ a ∈ s.agents, a.uid < s.nextId ∧ ∀ u, a.partner = some u → u < s.nextId) ∧
  ∀ sh ∈ s.agents, ∀ co ∈ s.agents, sh.kind = .shadow → sh.partner = some co.uid →
    co.kind = .coach ∧ co.partner = some sh.uid ∧ co.lanes.length = 32 ∧ sh.lanes.length = 32

/-- A coach and its shadow wave have one queue window: the same values, full and pending bits and poison in `g48`-`g55` of
each lane (R408). -/
def Shared (s : State) : Prop :=
  ∀ sh ∈ s.agents, ∀ co ∈ s.agents, sh.kind = .shadow → sh.partner = some co.uid → ∀ l < 32, ∀ r ∈ windowRegs,
    (sh.lane l).reg r = (co.lane l).reg r ∧ (sh.lane l).full.getLsbD r.val = (co.lane l).full.getLsbD r.val ∧
    (sh.lane l).pend.getLsbD r.val = (co.lane l).pend.getLsbD r.val ∧ (sh.lane l).bad.getLsbD r.val = (co.lane l).bad.getLsbD r.val

/-- The outcome of a step from the outcome of what it ran: accesses parked for lanes that have left are withdrawn (R87), the
coach lane fault entries are written (R341), and the two copies of each queue window become one (R408). -/
def afterStep (s : State) : Host.Outcome State Fault Refusal → Host.Outcome State Fault Refusal
  | .next t => .next (State.mirror s t.dropOrphans.writeCoachFaults)
  | o => o

/-- The integer that a source value of a type stands for. -/
def plain (t : ITy) (v : DWord) : Int :=
  match t with
  | .i32 => (lo32 v).toInt
  | .n32 => (lo32 v).toNat
  | .i64 => v.toInt
  | .n64 => v.toNat

/-- The least integer of a type. -/
def least : ITy → Int
  | .i32 => -(2 ^ 31)
  | .i64 => -(2 ^ 63)
  | .n32 | .n64 => 0

/-- The greatest integer of a type. -/
def greatest : ITy → Int
  | .i32 => 2 ^ 31 - 1
  | .n32 => 2 ^ 32 - 1
  | .i64 => 2 ^ 63 - 1
  | .n64 => 2 ^ 64 - 1

/-- Integer arithmetic of a type wraps modulo this (R211). -/
def modulus (t : ITy) : Int := if t.is64 then 2 ^ 64 else 2 ^ 32

/-- The value function of an integer operation of two sources (R213). -/
def intOut (op : IOp) (t : ITy) (sat : Bool) (d : GReg) : Ctx → List (Nat × LaneIn) → Nat → LaneIn → LaneOut :=
  fun _ _ _ x => { outT t d (iopR op t sat (x.v 0) (x.v 1)).1 with flags := (iopR op t sat (x.v 0) (x.v 1)).2 }

/-- The same with an immediate second operand, of type `.i32`. -/
def immOut (op : IOp) (d : GReg) (imm : DWord) : Ctx → List (Nat × LaneIn) → Nat → LaneIn → LaneOut :=
  fun _ _ _ x => out1 d (lo32 (iopR op .i32 false (x.v 0) imm).1)

/-- The value function of an integer operation of one source (R214): the counts are one register in every type. -/
def int1Out (op : UOp) (t : ITy) (sat : Bool) (d : GReg) : Ctx → List (Nat × LaneIn) → Nat → LaneIn → LaneOut :=
  fun _ _ _ x => { (if op.counts then out1 d (lo32 (uopR op t sat (x.v 0)).1) else outT t d (uopR op t sat (x.v 0)).1) with
    flags := (uopR op t sat (x.v 0)).2 }

/-- The value function of a floating operation of two sources with modifiers (R223). -/
def flt2Out (f : RM → Bool → Nat → Nat → FRes) (r : Rnd) (sat : Bool) (d : GReg) (ma mb : FMod) :
    Ctx → List (Nat × LaneIn) → Nat → LaneIn → LaneOut :=
  fun c _ _ x => outFl d (f (Rnd.mode r c.a.fpctl) sat (x.f 0 ma) (x.f 1 mb))

/-- The value function of a floating operation of one source (R223). -/
def flt1Out (f : RM → Bool → Nat → FRes) (r : Rnd) (sat : Bool) (d : GReg) (ma : FMod) :
    Ctx → List (Nat × LaneIn) → Nat → LaneIn → LaneOut :=
  fun c _ _ x => outFl d (f (Rnd.mode r c.a.fpctl) sat (x.f 0 ma))

end Sys2Proof.Terms
end

