-- ==== Sys2Proof/Certificates/Slice0/Obligations.lean ====
section
/-! DEFINITION. The statements for the provers. -/

open Sys2Proof Sys2Proof.Machine Sys2Proof.Terms
/-! ### Encoding, the step, reset, traps, frames -/

/-- R155-R160, R171: encoding and decoding agree. The words of every well-formed instruction of the table, with every operand at
every value that the encoding admits, decode to it, and LEN says how many they are. -/
def Obligations.RoundTrip : Prop :=
  ∀ i : Instr, i.wf = true → i.isEvent = false →
    decodeWords ((encode i).getD 0 0) ((encode i).getD 1 0) ((encode i).getD 2 0) = .ok i ∧
    lenWords ((encode i).getD 0 0) = some (encode i).length

/-- The table of encodings worked in R364, and words that R171 rejects: LEN 11, an unassigned opcode, an unused field that is
not zero. -/
def Obligations.SpecWords : Prop :=
  decodeWords 0x00000010 0 0 = .ok .ret ∧
  decodeWords 0x10140014 0 0 = .ok (.calliTail 20) ∧
  decodeWords 0x38C500B0 0 0 = .ok (.trap 0xE3 5) ∧
  decodeWords 0x00004255 0x00200003 0 = .ok (.brc ⟨3, false⟩ 0x10 0x20) ∧
  decodeWords 0x0000124D 0x00030000 0 = .ok (.mfc Guard.always 3 (.pair 4)) ∧
  decodeWords 0x10040265 0x00090000 0 = .ok (.loopr 1 (.g 4 .wait) 9) ∧
  decodeWords 0x02880271 0 0 = .ok (.gcall Guard.always (.g 8 .wait) (.g 10 .wait)) ∧
  decodeWords 0x01440281 0 0 = .ok (.route Guard.always (.g 4 .wait) (.g 5 .wait)) ∧
  (∀ w0 w1 w2 : Word, w0.extractLsb' 0 2 = 3 → decodeWords w0 w1 w2 = .error .length) ∧
  (∀ w0 w1 w2 : Word, w0.extractLsb' 0 2 = 0 → 0x40 ≤ (w0.extractLsb' 2 8).toNat → decodeWords w0 w1 w2 = .error .opcode) ∧
  (∀ w : Word, decodeWords w 0 0 = .ok .ret → w = 0x00000010)

/-- R171, R172: a step of a path that may issue fetches word 0, the words that its LEN announces, and runs the instruction that
they decode to; words that decode to none take cause 0x01, and a fetch that faults takes that fault. A path whose
record held poison outside registers takes cause 0x26 instead. After the instruction the queue window of each coach is that of its
shadow wave (R408).
Choices of the model that it rests on: log entries 1, 66. -/
def Obligations.StepRunsDecoded : Prop :=
  ∀ (s s1 : State) (a : Agent) (p : Path) (b : Bool) (w0 w1 w2 : Word) (i : Instr), s.agenda = [] → s.focused = some (a, p, b) →
    (p.spoilt = true → p.wait.isSome = true) → s.powered a.place.cluster = true → s.fetchWord a p p.pc = (s1, .word w0) →
    (decodeWords w0 0 0 = .ok i → lenWords w0 = some 1 → step s = afterStep s (exec i (s1.countIssue a p))) ∧
    (∀ s2, s1.fetchWord a p (p.pc + 4) = (s2, .word w1) → lenWords w0 = some 2 →
      (decodeWords w0 w1 0 = .ok i → step s = afterStep s (exec i (s2.countIssue a p))) ∧
      (∀ e, decodeWords w0 w1 0 = .error e → step s = afterStep s (exec (.illegalInstruction w0 w1) s2))) ∧
    (∀ s2 s3, s1.fetchWord a p (p.pc + 4) = (s2, .word w1) → s2.fetchWord a p (p.pc + 8) = (s3, .word w2) →
      lenWords w0 = some 3 →
      (decodeWords w0 w1 w2 = .ok i → step s = afterStep s (exec i (s3.countIssue a p))) ∧
      (∀ e, decodeWords w0 w1 w2 = .error e → step s = afterStep s (exec (.illegalInstruction w0 w1) s3))) ∧
    (∀ s2 x v, s1.fetchWord a p (p.pc + 4) = (s2, .fault x v) → (lenWords w0 = some 2 ∨ lenWords w0 = some 3) →
      step s = afterStep s (exec (.fetchFault x v) s2)) ∧
    (∀ s2 s3 x v, s1.fetchWord a p (p.pc + 4) = (s2, .word w1) → s2.fetchWord a p (p.pc + 8) = (s3, .fault x v) →
      lenWords w0 = some 3 → step s = afterStep s (exec (.fetchFault x v) s3)) ∧
    (∀ e, decodeWords w0 0 0 = .error e → (lenWords w0 = some 1 ∨ lenWords w0 = none) →
      step s = afterStep s (exec (.illegalInstruction w0 0) s1)) ∧
    (∀ (t : State) (x : BitVec 8) (v : DWord), t.agenda = [] → t.focused = some (a, p, b) → t.powered a.place.cluster = true →
      t.fetchWord a p p.pc = (s1, .fault x v) → step t = afterStep t (exec (.fetchFault x v) s1)) ∧
    (∀ (t : State) (e : Instr) (rest : List Turn), t.agenda = .event e :: rest → e.isEvent = true → t.power ≠ .off →
      (∀ x y, e ≠ .illegalInstruction x y) → (∀ x y, e ≠ .fetchFault x y) →
      step t = afterStep t (exec e { t with agenda := rest })) ∧
    (∀ (t : State) (q : Path), t.agenda = [] → t.focused = some (a, q, b) → q.spoilt = true → q.wait = none → q.act = false →
      t.watchesHeld a.uid q.mask = false → t.propHeld a.uid q.mask = false → (∀ x, a.slot (!b) = some x → x.act = false) →
      (∀ x ∈ a.stack, x.act = false) →
      step t = afterStep t (.next (((t.withdraw a.uid q.mask).enterTrap a.uid b 0x26 0 2 q.pc).settle a.uid)))

/-- R77: after reset every local-store word holds 0 and is empty, and zeroing a region makes each of its words so and no other.
What else reset leaves (R475, R40, R463): no copy or watch entry, every clock, time and stamp 0, no Waymark slot, and the lease
lengths of a job; the invariants of the model hold: units and their queue windows are paired (R408), and memory, the local stores
and the stamps are in their canonical form. Choices of the model that it rests on: that no unit, job, queue or assigned counter is
there and that the device is Active (log entries 5, 6). -/
def Obligations.ResetValues : Prop :=
  State.reset.power = .active ∧ State.reset.agents = [] ∧ State.reset.copies = [] ∧ State.reset.watches = [] ∧
  State.reset.jobs = [] ∧ (∀ q, State.reset.queueOf q = none) ∧ State.reset.wm = [] ∧ State.reset.counters = [] ∧
  (∀ k, State.reset.ctimeOf k = 0) ∧ (∀ i : Fin 128, State.reset.htime[i] = 0) ∧ (∀ i : Fin 6, State.reset.cycle[i] = 0) ∧
  State.reset.hws = 0 ∧ (∀ c w, State.reset.lword c w = ⟨0, false, false⟩) ∧ (∀ n, State.reset.homeOf n = ⟨0, 0, none, 0, false, false, 0⟩) ∧
  (∀ j, (List.range 8).map ((State.reset.needJob j).leaseLen j) = [0, 16, 64, 256, 1024, 4096, 16384, 65535]) ∧
  (∀ (s : State) (k c : CoreId) (off n w : Nat), swf LWord.fresh s.lwords = true → k.core < 64 → c.core < 64 → w < 2 ^ 18 →
    off % 4 = 0 → n % 4 = 0 → off + n ≤ 2 ^ 20 →
    (s.zeroLocal k off n).lword c w = if c = k ∧ off ≤ 4 * w ∧ 4 * w < off + n then ⟨0, false, false⟩ else s.lword c w) ∧
  Paired State.reset ∧ Shared State.reset ∧ Memory.wf State.reset.mem = true ∧ swf LWord.fresh State.reset.lwords = true ∧
  swf Home.fresh State.reset.homes = true

/-- What every step keeps, whatever it does, from every state that has it: units have numbers of their own and a coach and its
shadow wave are paired (18_scheduling.md R408), so that with `WindowShared` they share one queue window along every run; memory,
the local stores and the stamps of the homes keep their canonical form. -/
def Obligations.StepKeepsInvariants : Prop :=
  ∀ s t : State, step s = .next t →
    (Paired s → Paired t) ∧ (Memory.wf s.mem = true → Memory.wf t.mem = true) ∧
    (swf LWord.fresh s.lwords = true → swf LWord.fresh t.lwords = true) ∧
    (swf Home.fresh s.homes = true → swf Home.fresh t.homes = true)

/-- R408: the shadow wave and its coach share one queue window, in the state after every step from any state, whatever the step
was. That the pairing lasts is `StepKeepsInvariants`. -/
def Obligations.WindowShared : Prop :=
  ∀ s t : State, step s = .next t → Paired t → Shared t

/-- No step is refused, and none stops but at a host access to an address that the spec does not give the device: every turn, every
instruction and every event answers a next state.
Readings of the model that it rests on: log entries 1, 52. -/
def Obligations.NoStepStops : Prop :=
  ∀ s : State, (∃ t, step s = .next t) ∨
    ∃ a rest, step s = .fault (.unassignedAddress a) ∧ ((∃ n, s.agenda = .event (.hostRead n) :: rest) ∨
      (∃ n, s.agenda = .event (.hostOwnershipRequest n) :: rest) ∨ ∃ d, s.agenda = .event (.hostWrite a d) :: rest)

/-- R158, R171: the checks at issue, for every instruction of the table: a check that fails gives every lane of the path its cause
together, with words 0 and 1 in TVAL; an instruction that the guard masks in every lane only advances the PC. -/
def Obligations.IssueChecks : Prop :=
  ∀ (i : Instr) (s : State) (a : Agent) (p : Path) (b : Bool), i.wf = true → i.isEvent = false → s.focused = some (a, p, b) →
    (∀ x, preCheck a p i = some x →
      exec i s = .next (s.faultAll ⟨a.uid, b, a, p, p.mask, p.pc + 4 * BitVec.ofNat 64 (encode i).length⟩ x
        ((encode i).getD 1 0 ++ (encode i).getD 0 0))) ∧
    (∀ c : Ctx, ownGuard i = false → preCheck a p i = none → c = ⟨a.uid, b, a, p, 0, p.pc + 4 * BitVec.ofNat 64 (encode i).length⟩ →
      (a.atEnd p.act c.npc && a.diverged p.act) = false → c.badGuards (guardOf i) = [] →
      (Mask.filter p.mask fun l => guardOn a p l (guardOf i)) = 0 →
      exec i s = .next ((atIssue s c).complete c))

/-- R406, R407: the issue cycle of a core. What waits tries again; then one ready path issues, if the core has not issued in this
cycle. A path is ready when its unit is Issuing and it waits for nothing; a slot of a barrel core has not issued in the last 3
cycles. On a barrel core slot 15 issues whenever it is ready, otherwise the next ready slot after the one that issued last. On a
wide core a path that has been ready for 64 cycles issues, the oldest first; otherwise the class decides, within it what has not just yielded
(17_isa_control.md R381), then the admission.
Readings of the model that it rests on: log entries 1, 23. -/
def Obligations.IssueSelection : Prop :=
  ∀ (s : State) (c : CoreId),
    (∀ rest t, s.agenda = .core c :: rest →
      retryStep ((State.waitingPaths { s with agenda := rest } c)) { s with agenda := rest } = .next t →
      (∀ x, (t.noteReady c).selected c = some x →
        step s = mirrored s (mirrored (t.noteReady c) (issueStep ((t.noteReady c).noteSelected c x)))) ∧
      ((t.noteReady c).selected c = none → step s = mirrored s (.next (t.noteReady c)))) ∧
    (∀ x a, (x, a) ∈ s.readyPaths c → s.agent? x.1 = some a ∧ a.place.coreId = c ∧ a.status = .issuing ∧
      (∃ p, a.slot x.2 = some p ∧ p.mode = .run ∧ p.wait = none ∧ p.trap = none ∧ s.yields a p = false) ∧
      (c.core < 32 → ∀ y ∈ (s.issueRec c).slots, y.1 = a.place.ctx → y.2 + 3 < s.now c.cluster)) ∧
    (s.hasIssued c = true → s.selected c = none) ∧
    (s.hasIssued c = false → s.readyPaths c ≠ [] → (s.selected c).isSome = true) ∧
    (∀ x, s.selected c = some x → ∃ a, (x, a) ∈ s.readyPaths c) ∧
    (∀ x a y b, s.selected c = some x → (x, a) ∈ s.readyPaths c → (y, b) ∈ s.readyPaths c → c.core < 32 →
      (b.place.ctx = 15 → a.place.ctx = 15) ∧
      (a.place.ctx ≠ 15 → slotDistance (s.issueRec c).last a.place.ctx ≤ slotDistance (s.issueRec c).last b.place.ctx)) ∧
    (∀ (since : Nat × Bool → Nat) x, since = (fun z => (((s.issueRec c).ready.find? (·.1 == z)).map (·.2)).getD (s.now c.cluster)) →
      s.selected c = some x → 32 ≤ c.core →
      (∀ y ∈ s.readyPaths c, since y.1 + 64 ≤ s.now c.cluster → since x + 64 ≤ s.now c.cluster ∧ since x ≤ since y.1) ∧
      ((∀ y ∈ s.readyPaths c, s.now c.cluster < since y.1 + 64) → ∃ pre a post, s.readyPaths c = pre ++ (x, a) :: post ∧
        (∀ z ∈ pre, 2 * a.roleClass + a.behind.toNat < 2 * z.2.roleClass + z.2.behind.toNat) ∧
        ∀ z ∈ post, 2 * a.roleClass + a.behind.toNat ≤ 2 * z.2.roleClass + z.2.behind.toNat)) ∧
    ((s.readyPaths c).map (·.1)).Sublist (s.corePaths c) ∧
    (∀ x, (s.noteSelected c x).hasIssued c = true) ∧
    (∀ t l k, l < 16 → k < 16 → slotDistance (some (t, l)) k = if l < k then k - l - 1 else k + 15 - l)

/-- R416-R418, R421: a precise cause outside a handler waits for the path's watch entries, saves the PC, the cause, the value and
the status, clears STRUCK, saves the loop levels and holds them aside, and goes on in supervisor mode at `TRAPVEC` + 64 × cause; a faulting
instruction of a barrel unit does nothing else; inside a handler a cause stops the context in every path and firmware is told;
beside a path of the warp that is in a handler the path is held instead (R420); `ERET` restores what was saved, in a barrel unit and
in a warp, and frees the paths that were held.
Readings of the model that it rests on: log entries 13, 79. -/
def Obligations.TrapsTaken : Prop :=
  ∀ (s : State) (uid : Nat) (b : Bool) (cause : BitVec 8) (tval epc : DWord) (ue : BitVec 2) (a : Agent) (p : Path),
    s.agent? uid = some a → a.slot b = some p →
    (p.act = false → a.otherAct b = false → s.watchesHeld uid p.mask = false → s.propHeld uid p.mask = false → a.status = .issuing →
      ∃ x q, (s.takeTrap uid b cause tval ue epc).agent? uid = some x ∧ x.slot b = some q ∧
        q.pc = (s.job a.job).trapvec + 64 * cause.setWidth 64 ∧ q.act = true ∧ q.priv = .super ∧ q.mask = p.mask ∧
        x.status = .issuing ∧ x.place = a.place ∧ (s.takeTrap uid b cause tval ue epc).tiles = s.tiles ∧
        x.frame = { a.frame with
          epc := epc, cause := cause, tval := tval, gmask := p.mask, srrb := a.rrb, sdepth := BitVec.ofNat 3 a.loops.length
          uesrc := ue, coach := a.kind == .coach || a.kind == .shadow, ppriv := p.priv } ∧
        x.loops = a.loops ∧ x.sloops = a.loops ∧ x.hloops = [] ∧ x.hrrb = 0 ∧ x.s = a.s ∧ x.fpctl = a.fpctl ∧ x.fpflags = a.fpflags ∧
        x.waitlim = a.waitlim ∧ x.tl = a.tl ∧ x.lanes.length = a.lanes.length ∧
        (∀ l < a.lanes.length, (x.lane l).g = (a.lane l).g ∧ (x.lane l).p = (a.lane l).p ∧ (x.lane l).ltime = (a.lane l).ltime ∧
          (p.mask.getLsbD l = true → (x.lane l).spred = (a.lane l).p.extractLsb' 8 8 ∧ (x.lane l).swatch = (a.lane l).struck ∧
            (x.lane l).struck = false)) ∧
        (s.takeTrap uid b cause tval ue epc).mem = s.mem ∧ (s.takeTrap uid b cause tval ue epc).lwords = s.lwords) ∧
    (p.act = false → s.watchesHeld uid p.mask = true →
      s.takeTrap uid b cause tval ue epc = s.updPath uid b fun p =>
        { p with trap := some (p.mask, cause, tval, ue, epc), wait := none, done := 0, parked := 0, mode := .run }) ∧
    (∀ c : Ctx, c.uid = uid → c.b = b → c.p = p → c.act ≠ 0 → p.act = false → a.wide = false →
      s.faultAll c cause tval = s.takeTrap uid b cause tval 0 p.pc) ∧
    (∀ c : Ctx, c.uid = uid → c.b = b → c.p = p → c.act = p.mask → p.mask ≠ 0 → p.act = false → a.wide = true →
      a.kind ≠ .coach → a.kind ≠ .shadow → a.otherAct b = true →
      s.faultAll c cause tval =
        (s.updAgent uid fun a => a.setSlot b (some (p.part p.mask p.pc .held none))).settle uid) ∧
    (p.act = true →
      (s.takeTrap uid b cause tval ue epc).reports =
        s.reports ++ [.doubleTrap uid (a.selfId (Mask.lowest p.mask)) cause p.pc] ∧
      ∃ x, (s.takeTrap uid b cause tval ue epc).agent? uid = some x ∧ x.status = .halted ∧ x.lanes = a.lanes ∧ x.frame = a.frame ∧
        ∃ q, x.slot b = some q ∧ q.mode = .halted ∧ q.priv = .firmware) ∧
    (a.wide = false → p.act = true → p.mask = a.frame.gmask &&& a.live → targetOk a.frame.epc = true →
      s.watchesHeld uid p.mask = false →
      ∃ x q, (s.returnTrap uid b).agent? uid = some x ∧ x.slot b = some q ∧ q.pc = a.frame.epc ∧ q.act = false ∧
        q.priv = a.frame.ppriv ∧ x.rrb = a.frame.srrb ∧ x.loops = a.sloops ∧ x.hloops = [] ∧
        (∀ l < a.lanes.length, p.mask.getLsbD l = true →
          (x.lane l).p = (a.lane l).spred ++ (a.lane l).p.extractLsb' 0 8 ∧
          (x.lane l).struck = ((a.lane l).swatch || (p.wait.isSome && (a.lane l).struck)))) ∧
    (p.act = true → p.mask = a.frame.gmask &&& a.live → targetOk a.frame.epc = true → s.watchesHeld uid p.mask = false →
      (∀ q, a.slot (!b) = some q → q.pc ≠ a.frame.epc) → (∀ q ∈ s.records a, q.pc ≠ a.frame.epc) →
      ∃ x q, s.returnTrap uid b = (s.setAgent x).settle uid ∧ x.uid = uid ∧ x.slot b = some q ∧ q.pc = a.frame.epc ∧
        q.mask = p.mask ∧ q.act = false ∧ q.priv = a.frame.ppriv ∧ q.mode = .run ∧ x.rrb = a.frame.srrb ∧ x.loops = a.sloops ∧
        x.hloops = [] ∧ x.frame = a.frame ∧
        (∀ l < a.lanes.length, p.mask.getLsbD l = true →
          (x.lane l).p = (a.lane l).spred ++ (a.lane l).p.extractLsb' 0 8 ∧
          (x.lane l).struck = ((a.lane l).swatch || (p.wait.isSome && (a.lane l).struck))) ∧
        x.slot (!b) = (a.slot (!b)).map (fun r => if r.mode = .held ∧ r.hold = none then { r with mode := .run } else r) ∧
        x.stack = a.stack.map (fun r => if r.mode = .held ∧ r.hold = none then { r with mode := .run } else r))

/-- The frame of the register instructions (R119, R145): what such an instruction leaves unchanged when it completes. Memory, its
homes and copies, every other unit, the trap registers and the other control registers of the unit keep
their values; of a lane, every register that is not a destination, and every predicate that is no destination while the unit is
in no loop; `FPFLAGS` gains the flags of the lanes. -/
def Obligations.RegisterFrame : Prop :=
  ∀ (s t : State) (c : Ctx) (os : List Opnd) (out : Nat → LaneOut) (a : Agent), s.agent? c.uid = some a →
    c.a.uid = c.uid → t = (ran s c os out).complete c → (∀ l ∈ Mask.list c.act, (out l).uni = none) →
    (t.mem = s.mem ∧ t.homes = s.homes ∧ t.copies = s.copies ∧ t.tiles = s.tiles ∧ t.wm = s.wm ∧ t.jobs = s.jobs ∧
      t.queues = s.queues ∧ t.counters = s.counters ∧ t.reqs = s.reqs ∧ t.writes = s.writes ∧ t.loads = s.loads ∧
      (a.wide = false → t.lwords = s.lwords)) ∧
    (∀ u x, u ≠ c.uid → s.agent? u = some x → t.agent? u = some x) ∧
    ∃ x, t.agent? c.uid = some x ∧ x.frame = a.frame ∧ x.s = a.s ∧ x.fpctl = a.fpctl ∧ x.thctl = a.thctl ∧ x.waitlim = a.waitlim ∧
      x.tl = a.tl ∧ x.issued = a.issued ∧ x.acks = a.acks ∧ x.role = a.role ∧ x.due = a.due ∧ x.live = a.live ∧
      x.fpflags = (Mask.list c.act).foldl (fun f l => f ||| (out l).flags.setWidth 64) a.fpflags ∧
      x.lanes.length = a.lanes.length ∧
      ∀ l < a.lanes.length,
        (∀ r : Fin 64, (l ∈ Mask.list c.act → ∀ d ∈ (out l).regs, physG c.rrb d.1 ≠ r) → (x.lane l).reg r = (a.lane l).reg r) ∧
        (∀ k < 16, a.loops = [] → a.hloops = [] → (l ∈ Mask.list c.act → ∀ d ∈ (out l).preds, physP c.rrb d.1 ≠ k) →
          (x.lane l).p.getLsbD k = (a.lane l).p.getLsbD k)

/-- The frame of the stores (R44, R78, R293, R430): writing bytes changes exactly those bytes, in memory, in a line and in a local
store, and keeps the canonical form; a store of a lane to its own store writes its bytes there and nothing else of memory, and of
its unit no more than the floor of the lane's time (R51); one to
translated memory writes nothing yet, and when it is performed its cluster's copy of the line gets its bytes. -/
def Obligations.StoreFrames : Prop :=
  (∀ (m : List Host.Cell) (a x : Nat) (bs : List Byte), Memory.wf m = true →
    Memory.wf (Memory.writeBytes m a bs) = true ∧
    Memory.read (Memory.writeBytes m a bs) x = if a ≤ x ∧ x < a + bs.length then bs.getD (x - a) 0 else Memory.read m x) ∧
  (∀ (d : LineData) (off i : Nat) (bs : List Byte), off + bs.length ≤ 128 → i < 128 →
    lineBytes (setLineBytes d off bs) i 1 = if off ≤ i ∧ i < off + bs.length then [bs.getD (i - off) 0] else lineBytes d i 1) ∧
  (∀ (s t : State) (c : Ctx) (l off n : Nat) (bytes : List Byte) (cls : Option Nat) (rel bad : Bool) (va : DWord),
    swf LWord.fresh s.lwords = true → c.a.place.coreId.core < 64 → off + bytes.length ≤ 2 ^ 20 →
    t = s.sendStore c l [.own off n] bytes cls rel bad va →
    t.mem = s.mem ∧ t.copies = s.copies ∧ t.agents = (s.floorLane c.uid l).agents ∧ swf LWord.fresh t.lwords = true ∧
    ∀ (k : CoreId) (o : Nat), k.core < 64 → o < 2 ^ 20 →
      t.lbyte k o = (if k = c.a.place.coreId ∧ off ≤ o ∧ o < off + bytes.length then bytes.getD (o - off) 0 else s.lbyte k o) ∧
      (t.lword k (o / 4)).full = (s.lword k (o / 4)).full) ∧
  (∀ (s t : State) (c : Ctx) (l pa n : Nat) (leaf : DWord) (bytes : List Byte) (cls : Option Nat) (rel bad : Bool) (va : DWord),
    Seg.dev (.mem pa n leaf) = false → t = s.sendStore c l [.mem pa n leaf] bytes cls rel bad va →
    t.mem = s.mem ∧ t.copies = s.copies ∧ t.lwords = s.lwords ∧ t.homes = s.homes) ∧
  (∀ (s t : State) (w : Write) (k : Nat) (q : WPiece) (x : Copy), s.writes.find? (·.id == w.id) = some w → w.kind = .store →
    w.pieces[k]? = some q → q.performed = false → s.mayWrite w q.line = true → s.copyOf w.core.cluster q.line = some x →
    x.isO = true → t = s.performPiece w.id k →
    t.mem = s.mem ∧ t.lwords = s.lwords ∧
    ((t.copyOf w.core.cluster q.line).map (·.data)) = some (setLineBytes x.data q.off q.bytes) ∧
    ∀ cl line, (cl, line) ≠ (w.core.cluster, q.line) → t.copyOf cl line = s.copyOf cl line)

/-! ### Lane instructions on registers (10_isa_lane.md) -/
/-- R213: the two-source integer instructions complete with the results of the table, in every type, with and without
`.sat`, from every kind of source, in the three forms. -/
def Obligations.IntegerTwoSources : Prop :=
  ∀ (g : Guard) (t : ITy) (sat : Bool) (d a b : GReg) (x y : Src) (imm : BitVec 10) (n : BitVec 5),
    (∀ p ∈ [(Instr.addZ32 t d a b, IOp.add), (.subZ32 t d a b, .sub), (.mulZ32 t d a b, .mul), (.mulhZ32 t d a b, .mulh),
        (.minZ32 t d a b, .min), (.maxZ32 t d a b, .max), (.andZ32 t d a b, .and), (.orZ32 t d a b, .or),
        (.xorZ32 t d a b, .xor), (.andnZ32 t d a b, .andn), (.shlZ32 t d a b, .shl), (.shrZ32 t d a b, .shr),
        (.sarZ32 t d a b, .sar), (.rotZ32 t d a b, .rot)],
      LaneResult p.1 Guard.always [(rd a).wT t, if p.2.shifts then (rd b).w1 else (rd b).wT t] [] (dstT t d)
        (intOut p.2 t false d)) ∧
    (∀ p ∈ [(Instr.addQ64 g t sat d x y, IOp.add), (.subQ64 g t sat d x y, .sub), (.mulQ64 g t sat d x y, .mul)],
      LaneResult p.1 g [x.wT t, y.wT t] [] (dstT t d) (intOut p.2 t sat d)) ∧
    (∀ p ∈ [(Instr.mulhQ64 g t d x y, IOp.mulh), (.minQ64 g t d x y, .min), (.maxQ64 g t d x y, .max),
        (.andQ64 g t d x y, .and), (.orQ64 g t d x y, .or), (.xorQ64 g t d x y, .xor), (.andnQ64 g t d x y, .andn),
        (.shlQ64 g t d x y, .shl), (.shrQ64 g t d x y, .shr), (.sarQ64 g t d x y, .sar), (.rotQ64 g t d x y, .rot)],
      LaneResult p.1 g [x.wT t, if p.2.shifts then y.w1 else y.wT t] [] (dstT t d) (intOut p.2 t false d)) ∧
    (∀ p ∈ [(Instr.addI32 d a imm, IOp.add), (.mulI32 d a imm, .mul), (.minI32 d a imm, .min), (.maxI32 d a imm, .max),
        (.andI32 d a imm, .and), (.orI32 d a imm, .or), (.xorI32 d a imm, .xor)],
      LaneResult p.1 Guard.always [(rd a).w1] [] [d] (immOut p.2 d ((imm.signExtend 32).setWidth 64))) ∧
    (∀ p ∈ [(Instr.shlI32 d a n, IOp.shl), (.shrI32 d a n, .shr), (.sarI32 d a n, .sar), (.rotI32 d a n, .rot)],
      LaneResult p.1 Guard.always [(rd a).w1] [] [d] (immOut p.2 d (n.setWidth 64)))

/-- R211, and values of R213: results in plain arithmetic of 32 and of 64 bits. Without `.sat` sums, differences, products,
`MAD`, `NEG` and `ABS` wrap; with it the exact result is clamped to the range of the type, SAT is raised exactly when the clamp
changes the value, and it traps with cause 0x85 when ESAT is 1; there is no other flag. `MULH` is the high half of the exact
product; the shifts take the count modulo the width. -/
def Obligations.IntegerValues : Prop :=
  ∀ (a b z fpctl : DWord) (t : ITy),
    (t.is64 = false →
      lo32 (iopR .add t false a b).1 = lo32 a + lo32 b ∧ lo32 (iopR .sub t false a b).1 = lo32 a - lo32 b ∧
      lo32 (iopR .mul t false a b).1 = lo32 a * lo32 b ∧ lo32 (iopR .and t false a b).1 = lo32 a &&& lo32 b ∧
      lo32 (iopR .or t false a b).1 = lo32 a ||| lo32 b ∧ lo32 (iopR .xor t false a b).1 = lo32 a ^^^ lo32 b ∧
      lo32 (iopR .andn t false a b).1 = lo32 a &&& ~~~(lo32 b) ∧
      lo32 (iopR .shl t false a b).1 = lo32 a <<< ((lo32 b).toNat % 32) ∧
      lo32 (iopR .shr t false a b).1 = lo32 a >>> ((lo32 b).toNat % 32) ∧
      lo32 (iopR .sar t false a b).1 = (lo32 a).sshiftRight ((lo32 b).toNat % 32) ∧
      lo32 (iopR .rot t false a b).1 = (lo32 a).rotateLeft ((lo32 b).toNat % 32)) ∧
    (t.is64 = true →
      (iopR .add t false a b).1 = a + b ∧ (iopR .sub t false a b).1 = a - b ∧ (iopR .mul t false a b).1 = a * b ∧
      (iopR .and t false a b).1 = a &&& b ∧ (iopR .or t false a b).1 = a ||| b ∧ (iopR .xor t false a b).1 = a ^^^ b ∧
      (iopR .andn t false a b).1 = a &&& ~~~b ∧ (iopR .shl t false a b).1 = a <<< ((lo32 b).toNat % 64) ∧
      (iopR .shr t false a b).1 = a >>> ((lo32 b).toNat % 64) ∧
      (iopR .sar t false a b).1 = a.sshiftRight ((lo32 b).toNat % 64) ∧
      (iopR .rot t false a b).1 = a.rotateLeft ((lo32 b).toNat % 64)) ∧
    lo32 (iopR .mulh .i32 false a b).1 = (((lo32 a).signExtend 64 * (lo32 b).signExtend 64).extractLsb' 32 32) ∧
    lo32 (iopR .mulh .n32 false a b).1 = (((lo32 a).setWidth 64 * (lo32 b).setWidth 64).extractLsb' 32 32) ∧
    (iopR .mulh .i64 false a b).1 = ((a.signExtend 128 * b.signExtend 128).extractLsb' 64 64) ∧
    (iopR .mulh .n64 false a b).1 = ((a.setWidth 128 * b.setWidth 128).extractLsb' 64 64) ∧
    lo32 (iopR .min .i32 false a b).1 = (if (lo32 a).sle (lo32 b) then lo32 a else lo32 b) ∧
    lo32 (iopR .max .i32 false a b).1 = (if (lo32 a).sle (lo32 b) then lo32 b else lo32 a) ∧
    lo32 (iopR .min .n32 false a b).1 = (if (lo32 a).ule (lo32 b) then lo32 a else lo32 b) ∧
    lo32 (iopR .max .n32 false a b).1 = (if (lo32 a).ule (lo32 b) then lo32 b else lo32 a) ∧
    (iopR .min .i64 false a b).1 = (if a.sle b then a else b) ∧ (iopR .max .i64 false a b).1 = (if a.sle b then b else a) ∧
    (iopR .min .n64 false a b).1 = (if a.ule b then a else b) ∧ (iopR .max .n64 false a b).1 = (if a.ule b then b else a) ∧
    (∀ r ∈ [(iopR .add t false a b, plain t a + plain t b), (iopR .sub t false a b, plain t a - plain t b),
        (iopR .mul t false a b, plain t a * plain t b), (madR t false a b z, plain t a * plain t b + plain t z),
        (uopR .neg t false a, -plain t a), (uopR .abs t false a, ((plain t a).natAbs : Int))],
      (plain t r.1.1 - r.2) % modulus t = 0 ∧ r.1.2 = 0) ∧
    (∀ r ∈ [(iopR .add t true a b, plain t a + plain t b), (iopR .sub t true a b, plain t a - plain t b),
        (iopR .mul t true a b, plain t a * plain t b), (madR t true a b z, plain t a * plain t b + plain t z),
        (uopR .neg t true a, -plain t a), (uopR .abs t true a, ((plain t a).natAbs : Int))],
      plain t r.1.1 = max (least t) (min (greatest t) r.2) ∧
      r.1.2 = (if r.2 < least t ∨ greatest t < r.2 then 0x20 else 0)) ∧
    (∀ (op : IOp) (sat : Bool), (iopR op t sat a b).2 = 0 ∨ (iopR op t sat a b).2 = 0x20) ∧
    (∀ (op : UOp) (sat : Bool), (uopR op t sat a).2 = 0 ∨ (uopR op t sat a).2 = 0x20) ∧
    (∀ (x : Agent) (o : LaneOut), o.fault = none → o.flags = 0x20 →
      (x.orFlags o.flags).fpflags = x.fpflags ||| 0x20 ∧
      (fpctl.getLsbD 13 = true → (o.trapped fpctl).fault = some (0x85, 0x20)) ∧ (fpctl.getLsbD 13 = false → o.trapped fpctl = o))

/-- R214, R216, R217, R218, R219, R220, R221: the one-source integer instructions, `MAD`, the field instructions, the moves,
`SEL`, `LEA` and `CMP` complete with their results. -/
def Obligations.IntegerOthers : Prop :=
  ∀ (g : Guard) (t : ITy) (sat sg notp : Bool) (d a b : GReg) (x y z : Src) (p q : PReg) (u : SReg) (cnd : Cond)
    (imm : BitVec 10) (w : Word) (pos : BitVec 5) (len : BitVec 6) (sh : BitVec 3) (disp : BitVec 13),
    (∀ e ∈ [(Instr.movZ32 t d a, UOp.mov), (.notZ32 t d a, .not), (.negZ32 t d a, .neg), (.absZ32 t d a, .abs),
        (.clzZ32 t d a, .clz), (.popcZ32 t d a, .popc), (.brevZ32 t d a, .brev)],
      LaneResult e.1 Guard.always [(rd a).wT t] [] (if e.2.counts then [d] else dstT t d) (int1Out e.2 t false d)) ∧
    (∀ e ∈ [(Instr.movQ64 g t d x, UOp.mov), (.notQ64 g t d x, .not), (.clzQ64 g t d x, .clz), (.popcQ64 g t d x, .popc),
        (.brevQ64 g t d x, .brev)],
      LaneResult e.1 g [x.wT t] [] (if e.2.counts then [d] else dstT t d) (int1Out e.2 t false d)) ∧
    (∀ e ∈ [(Instr.negQ64 g t sat d x, UOp.neg), (.absQ64 g t sat d x, .abs)],
      LaneResult e.1 g [x.wT t] [] (dstT t d) (int1Out e.2 t sat d)) ∧
    LaneResult (.mad g t sat d x y z) g [x.wT t, y.wT t, z.wT t] [] (dstT t d) (fun _ _ _ i =>
      { outT t d (madR t sat (i.v 0) (i.v 1) (i.v 2)).1 with flags := (madR t sat (i.v 0) (i.v 1) (i.v 2)).2 }) ∧
    LaneResult (.moviI32 d imm) Guard.always [] [] [d] (fun _ _ _ _ => out1 d (imm.signExtend 32)) ∧
    LaneResult (.moviX96 g .word d w) g [] [] [d] (fun _ _ _ _ => out1 d w) ∧
    LaneResult (.moviX96 g .pairSext d w) g [] [] [d, d + 1] (fun _ _ _ _ => out2 d (w.signExtend 64)) ∧
    LaneResult (.moviX96 g .pairZext d w) g [] [] [d, d + 1] (fun _ _ _ _ => out2 d (w.setWidth 64)) ∧
    LaneResult (.bfe g false pos len d x) g [x.w1] [] [d] (fun _ _ _ i =>
      out1 d ((i.w 0 >>> pos.toNat) &&& BitVec.ofNat 32 (2 ^ len.toNat - 1))) ∧
    LaneResult (.bfe g true pos len d x) g [x.w1] [] [d] (fun _ _ _ i =>
      out1 d (if ((i.w 0 >>> pos.toNat) &&& BitVec.ofNat 32 (2 ^ len.toNat - 1)).getLsbD (len.toNat - 1)
        then ((i.w 0 >>> pos.toNat) &&& BitVec.ofNat 32 (2 ^ len.toNat - 1)) ||| ~~~(BitVec.ofNat 32 (2 ^ len.toNat - 1))
        else (i.w 0 >>> pos.toNat) &&& BitVec.ofNat 32 (2 ^ len.toNat - 1))) ∧
    LaneResult (.bfi g sg pos len d x) g [x.w1, (rd d).w1] [] [d] (fun _ _ _ i =>
      out1 d ((i.w 1 &&& ~~~(BitVec.ofNat 32 (2 ^ len.toNat - 1) <<< pos.toNat)) |||
        ((i.w 0 <<< pos.toNat) &&& (BitVec.ofNat 32 (2 ^ len.toNat - 1) <<< pos.toNat)))) ∧
    LaneResult (.selZ32 p d a b) Guard.always [(rd a).w1, (rd b).w1] [p] [d] (fun _ _ _ i =>
      out1 d (if i.p 0 then i.w 0 else i.w 1)) ∧
    LaneResult (.selQ64 g p false notp d x y) g [x.w1, y.w1] [p] [d] (fun _ _ _ i =>
      out1 d (lo32 (if i.p 0 != notp then i.v 0 else i.v 1))) ∧
    LaneResult (.selQ64 g p true notp d x y) g [x.w2, y.w2] [p] [d, d + 1] (fun _ _ _ i =>
      out2 d (if i.p 0 != notp then i.v 0 else i.v 1)) ∧
    (∀ (s : State) (c : Ctx) (o : Opnd), o = (match x with | .s _ => x.w2 | .g .. => x.wT t) →
      s.sregBusy c.uid c.p.act u = false → Issues (.movs g t u x) g s c → Reads s c [o] [] [] →
      exec (.movs g t u x) s = .next ((ran s c [o] (fun l =>
        if (Mask.list c.act).head? = some l then
          { uni := some (u, match x, t with
              | .s _, _ => c.value l o
              | .g .., .i32 => (lo32 (c.value l o)).signExtend 64
              | .g .., .n32 => (lo32 (c.value l o)).setWidth 64
              | .g .., _ => c.value l o) }
        else {})).complete c)) ∧
    LaneResult (.leaQ64 g sg d x y sh disp) g [x.w2, y.w1] [] [d, d + 1] (fun _ _ _ i =>
      out2 d (i.v 0 + ((if sg then (i.w 1).signExtend 64 else (i.w 1).setWidth 64) <<< sh.toNat) + disp.signExtend 64)) ∧
    LaneResult (.leaX96 g d x w) g [x.w2] [] [d, d + 1] (fun _ _ _ i => out2 d (i.v 0 + w.signExtend 64)) ∧
    LaneResult (.leaPc g d w) g [] [] [d, d + 1] (fun c _ _ _ => out2 d (c.p.pc + w.signExtend 64)) ∧
    LaneResult (.cmp g t cnd q x y) g [x.wT t, y.wT t] [] [] (fun _ _ _ i => outP q (cmpR cnd t (i.v 0) (i.v 1)))

/-- R222: the predicate instructions: their words, with F = 0 and, in `PNOT`, B = 0; what each lane writes; the renaming of
`p8`-`p15` in sources and destinations (R122); and the encodings that R222 works out. -/
def Obligations.Predicates : Prop :=
  (∀ d a b : PReg,
    (∀ e ∈ [(Instr.pand d a b, (0x3B : BitVec 8), b), (.por d a b, 0x3C, b), (.pxor d a b, 0x3D, b), (.pnot d a, 0x3E, 0)],
      decodeWords (0#4 ++ (0#2 ++ e.2.2) ++ (0#2 ++ a) ++ (0#2 ++ d) ++ e.2.1 ++ 0#2) 0 0 = .ok e.1) ∧
    LaneResult (.pand d a b) Guard.always [] [a, b] [] (fun _ _ _ i => outP d (i.p 0 && i.p 1)) ∧
    LaneResult (.por d a b) Guard.always [] [a, b] [] (fun _ _ _ i => outP d (i.p 0 || i.p 1)) ∧
    LaneResult (.pxor d a b) Guard.always [] [a, b] [] (fun _ _ _ i => outP d (i.p 0 != i.p 1)) ∧
    LaneResult (.pnot d a) Guard.always [] [a, 0] [] (fun _ _ _ i => outP d (!i.p 0))) ∧
  (∀ w : Word, w.extractLsb' 0 10 = 0xEC ∨ w.extractLsb' 0 10 = 0xF0 ∨ w.extractLsb' 0 10 = 0xF4 ∨ w.extractLsb' 0 10 = 0xF8 →
    w.extractLsb' 28 4 ≠ 0 ∨ (w.extractLsb' 0 10 = 0xF8 ∧ w.extractLsb' 22 6 ≠ 0) → ∃ e, decodeWords w 0 0 = .error e) ∧
  (∀ (ln : Lane) (rrb : BitVec 4) (p : PReg) (v : Bool),
    ln.pred rrb 0 = true ∧ ln.setPred rrb 0 v = ln ∧
    (0 < p.toNat → p.toNat < 8 → ln.pred rrb p = ln.p.getLsbD p.toNat) ∧
    (8 ≤ p.toNat → ln.pred rrb p = ln.p.getLsbD (8 + (p.toNat - 8 + rrb.toNat) % 8)) ∧
    (p ≠ 0 → ∀ k < 16, (ln.setPred rrb p v).p.getLsbD k =
      if k = (if p.toNat < 8 then p.toNat else 8 + (p.toNat - 8 + rrb.toNat) % 8) then v else ln.p.getLsbD k)) ∧
  decodeWords 0x22061040 0 0 = .ok (.addZ32 .i64 4 6 8) ∧
  decodeWords 0x01C30CA0 0 0 = .ok (.shrI32 3 3 7) ∧
  decodeWords 0x00840575 0x00020400 0 = .ok (.cmp Guard.always .i32 .lt 1 (.g 4 .wait) (.s 2)) ∧
  decodeWords 0x830B298D 0x4A8D0002 0 = .ok (.ffma ⟨2, false⟩ .rz false 10 (.g 11 .wait) false (.g 12 .wait) true
    (.g 13 .consume) false) ∧
  decodeWords 0xB20615AD 0x00080000 0 = .ok (.cvt Guard.always .e4m3 .f32 .dyn true 5 (.g 6 .wait) ⟨false, false⟩)

/-- R223-R226: the floating instructions complete with the results of their operations, under the rounding and the
modifiers of the instruction, and raise the flags of their operations.
Readings of the model that it rests on: log entry 9. -/
def Obligations.FloatingResults : Prop :=
  ∀ (g : Guard) (r : Rnd) (sat na nb nc : Bool) (d a b : GReg) (p : PReg) (x y z : Src) (ma mb : FMod) (k : FCond),
    (∀ e ∈ [(Instr.faddZ32 d a b, faddR), (.fsubZ32 d a b, fsubR), (.fmulZ32 d a b, fmulR),
        (.fminZ32 d a b, fun _ _ => minmaxF .f32 false), (.fmaxZ32 d a b, fun _ _ => minmaxF .f32 true)],
      LaneResult e.1 Guard.always [(rd a).w1, (rd b).w1] [] [d] (flt2Out e.2 .dyn false d ⟨false, false⟩ ⟨false, false⟩)) ∧
    (∀ e ∈ [(Instr.faddQ64 g r sat d x ma y mb, faddR), (.fsubQ64 g r sat d x ma y mb, fsubR),
        (.fmulQ64 g r sat d x ma y mb, fmulR)],
      LaneResult e.1 g [x.w1, y.w1] [] [d] (flt2Out e.2 r sat d ma mb)) ∧
    (∀ e ∈ [(Instr.fminQ64 g d x ma y mb, false), (.fmaxQ64 g d x ma y mb, true)],
      LaneResult e.1 g [x.w1, y.w1] [] [d] (flt2Out (fun _ _ => minmaxF .f32 e.2) .dyn false d ma mb)) ∧
    (∀ e ∈ [(Instr.frcp g r sat d x ma, frcpR), (.frsq g r sat d x ma, frsqR), (.fsqrt g r sat d x ma, fsqrtR),
        (.fexp2 g r sat d x ma, fexp2R), (.flog2 g r sat d x ma, flog2R)],
      LaneResult e.1 g [x.w1] [] [d] (flt1Out e.2 r sat d ma)) ∧
    LaneResult (.ffma g r sat d x na y nb z nc) g [x.w1, y.w1, z.w1] [] [d] (fun c _ _ i =>
      outFl d (ffmaR (Rnd.mode r c.a.fpctl) sat (i.f 0 ⟨na, false⟩) (i.f 1 ⟨nb, false⟩) (i.f 2 ⟨nc, false⟩))) ∧
    LaneResult (.fcmp g k p x ma y mb) g [x.w1, y.w1] [] [] (fun _ _ _ i =>
      { outP p (fcmpR k (i.f 0 ma) (i.f 1 mb)).1 with flags := (fcmpR k (i.f 0 ma) (i.f 1 mb)).2 })

/-- R227-R231: conversion, packing and the packed sums complete with the results of their operations. -/
def Obligations.ConversionResults : Prop :=
  ∀ (g : Guard) (dt st t : Ty) (r : Rnd) (sat : Bool) (d : GReg) (x y z : Src) (ma mb : FMod) (idx : BitVec 3),
    LaneResult (.cvt g dt st r sat d x ma) g [⟨x, if st.is64 then 2 else 1, false⟩] []
      (if dt.is64 then [d, d + 1] else [d]) (fun c _ _ i =>
        let v := convert dt st (Rnd.mode r c.a.fpctl) sat (srcElem st ma (i.v 0))
        { (if dt.is64 then out2 d (extend dt v.bits) else out1 d (lo32 (extend dt v.bits))) with flags := v.flags }) ∧
    (dt.width = 16 → LaneResult (.pack g dt r sat d x ma y mb) g [x.w1, y.w1] [] [d] (fun c _ _ i =>
        let f : Ty := if dt.isFloat then .f32 else .i32
        let u := convert dt f (Rnd.mode r c.a.fpctl) sat (srcElem f ma (i.v 0))
        let v := convert dt f (Rnd.mode r c.a.fpctl) sat (srcElem f mb (i.v 1))
        { out1 d (BitVec.ofNat 32 (v.bits * 2 ^ 16 + u.bits)) with flags := u.flags ||| v.flags })) ∧
    (dt.width ≠ 16 → LaneResult (.pack g dt r sat d x ma y mb) g [x.w1, y.w1, (rd d).w1] [] [d] (fun c _ _ i =>
        let f : Ty := if dt.isFloat then .f32 else .i32
        let u := convert dt f (Rnd.mode r c.a.fpctl) sat (srcElem f ma (i.v 0))
        let v := convert dt f (Rnd.mode r c.a.fpctl) sat (srcElem f mb (i.v 1))
        { out1 d ((i.w 2 >>> (2 * dt.width)) ||| (BitVec.ofNat 32 (v.bits * 2 ^ dt.width + u.bits) <<< (32 - 2 * dt.width)))
          with flags := u.flags ||| v.flags })) ∧
    LaneResult (.upk g t true idx d x ma) g [x.w1] [] [d] (fun _ _ _ i =>
      out1 d (BitVec.ofNat 32 (elem t (i.w 0).toNat idx.toNat))) ∧
    LaneResult (.upk g t false idx d x ma) g [x.w1] [] [d] (fun _ _ _ i =>
      if t.isFloat then outFl d (convert .f32 t .ne false (FMod.apply ma t (elem t (i.w 0).toNat idx.toNat)))
      else out1 d (lo32 (extend t (elem t (i.w 0).toNat idx.toNat)))) ∧
    LaneResult (.dot4 g t d x y z) g [x.w1, y.w1, z.w1] [] [d] (fun _ _ _ i => outFl d (dotR t 4 (i.w 0) (i.w 1) (i.w 2))) ∧
    LaneResult (.dot8 g t d x y z) g [x.w1, y.w1, z.w1] [] [d] (fun _ _ _ i => outFl d (dotR t 8 (i.w 0) (i.w 1) (i.w 2)))

/-- R232-R234, R239: the cross-lane instructions, `RAND` and `TMASK` complete; each lane's result is a function of the
values of the lanes that take part. -/
def Obligations.CrossLaneResults : Prop :=
  ∀ (g : Guard) (m : ShflMode) (d : GReg) (x y : Src) (p : PReg) (u : SReg) (op : RedlOp) (t : Ty) (r : Rnd) (n1 : BitVec 5),
    LaneResult (.shfl g m false d x y) g [x.w1, y.w1] [] [d] (fun _ tbl l i =>
      out1 d (lo32 (laneVal tbl (shflLane m l (i.w 1)) i 0))) ∧
    LaneResult (.shfl g m true d x y) g [x.w2, y.w1] [] [d, d + 1] (fun _ tbl l i =>
      out2 d (laneVal tbl (shflLane m l (i.w 1)) i 0)) ∧
    LaneResult (.bcast g false d x y) g [x.w1, y.w1] [] [d] (fun _ tbl _ i =>
      let low := (tbl.head?.map (·.2)).getD i
      out1 d (lo32 (laneVal tbl (some ((low.w 1).toNat % 32)) low 0))) ∧
    LaneResult (.bcast g true d x y) g [x.w2, y.w1] [] [d, d + 1] (fun _ tbl _ i =>
      let low := (tbl.head?.map (·.2)).getD i
      out2 d (laneVal tbl (some ((low.w 1).toNat % 32)) low 0)) ∧
    LaneResult (.vote g .any d p) g [] [p] [] (fun _ tbl _ _ => outP (d.setWidth 4) (tbl.any fun y => y.2.p 0)) ∧
    LaneResult (.vote g .all d p) g [] [p] [] (fun _ tbl _ _ => outP (d.setWidth 4) (tbl.all fun y => y.2.p 0)) ∧
    LaneResult (.vote g .uni d p) g [] [p] [] (fun _ tbl _ i => outP (d.setWidth 4) (tbl.all fun y => y.2.p 0 == i.p 0)) ∧
    LaneResult (.vote g .ballot d p) g [] [p] [d] (fun _ tbl _ _ =>
      out1 d (Mask.ofList ((tbl.filter fun y => y.2.p 0).map (·.1)))) ∧
    LaneResult (.first g d p) g [] [p] [d] (fun _ tbl _ _ =>
      out1 d (match tbl.find? fun y => y.2.p 0 with | some y => BitVec.ofNat 32 y.1 | none => 32)) ∧
    LaneResult (.redl g op t r d x) g [⟨x, if t.is64 then 2 else 1, false⟩] [] (if t.is64 then [d, d + 1] else [d])
      (fun c tbl _ i =>
        let run := redlRun op t (Rnd.mode r c.a.fpctl) tbl
        let v := (run.1.getLast?.map (·.2)).getD (i.v 0)
        { (if t.is64 then out2 d v else out1 d (lo32 v)) with flags := run.2 }) ∧
    LaneResult (.scanl g op t r d x) g [⟨x, if t.is64 then 2 else 1, false⟩] [] (if t.is64 then [d, d + 1] else [d])
      (fun c tbl l i =>
        let run := redlRun op t (Rnd.mode r c.a.fpctl) tbl
        let v := ((run.1.find? (·.1 == l)).map (·.2)).getD (i.v 0)
        { (if t.is64 then out2 d v else out1 d (lo32 v)) with flags := run.2 }) ∧
    LaneResult (.rand g false d x y) g [x.w2, y.w1] [] [d] (fun _ _ _ i => out1 d (mix (i.v 0) (i.w 1))) ∧
    LaneResult (.rand g true d x y) g [x.w2, y.w1] [] [d] (fun _ _ _ i => out1 d (BitVec.ofNat 32
      (finish .f32 .ne false 0 ((⟨((mix (i.v 0) (i.w 1) >>> 8).toNat : Nat), -24⟩ : Dy).out false)).bits)) ∧
    LaneResult (.tmask g d u y n1) g ([(Src.s u).w2, (Src.s (u + 1)).w2, (Src.s (u + 2)).w2, (Src.s (u + 3)).w2, y.w1]) [] [d]
      (fun _ _ _ i =>
        let par := tmaskParent [i.v 0, i.v 1, i.v 2, i.v 3]
        if ((List.range (n1.toNat + 1)).any fun j => decide (par j < -1) || decide ((j : Int) - 1 < par j))
            || decide (n1.toNat + 1 ≤ (i.w 4).toNat) then outF 0x73
        else out1 d (ancestors par 32 (i.w 4).toNat))

/-! ### Instructions that meet the rest of the device (09_isa_arrival.md, 13_isa_return.md, 10_isa_lane.md R235-R240) -/

/-- R187-R192, R197-R199: the loads, `PREF`, `PROBE` and `TINV` complete in every lane whose address passes the checks: own
store, another core's store, device registers and translated memory alike; `LDU` once for the warp. -/
def Obligations.LoadsComplete : Prop :=
  ∀ (g : Guard) (z : Size) (sx acq dev : Bool) (lease : BitVec 3) (d a : GReg) (u : SReg) (imm : BitVec 10) (m : MemArg)
    (k : ProbeKind) (am : ReadMode),
    Performs (.ldI32 d a imm) Guard.always [(rd a).w2] [d]
      (fun c s l x => chkThen (s.loadCheck c l (x.v 0 + imm.signExtend 64) 4) fun s segs =>
        (s, .ok (x.v 0 + imm.signExtend 64, segs)))
      (fun c s l b => s.sendLoad c l b.2 (.regs (physRegs c.rrb d 1) 4 false) none false false b.1) ∧
    Performs (.ldQ64 g z sx acq lease d m) g [m.base.w2] (dstSz z d)
      (fun c s l x => chkThen (s.loadCheck c l (x.v 0 + m.off.signExtend 64) z.bytes) fun s segs =>
        (s, .ok (x.v 0 + m.off.signExtend 64, segs)))
      (fun c s l b => s.sendLoad c l b.2 (.regs (physRegs c.rrb d ((z.bytes + 3) / 4)) z.bytes sx) (some lease.toNat) acq
        (m.scope == .sys) b.1) ∧
    Performs (.ldw g z sx lease d m) g [m.base.w2] (dstSz z d)
      (fun c s l x => chkThen (s.watchedCheck c l (x.v 0 + m.off.signExtend 64) z.bytes) fun s segs =>
        (s, .ok (x.v 0 + m.off.signExtend 64, segs)))
      (fun c s l b => s.sendWatched c l b.2 z.bytes sx d lease b.1) ∧
    (∀ (s : State) (c : Ctx) (t : State) (segs : List Seg) (va : DWord),
      Issues (.ldu g z sx acq lease u m) g s c → s.sregBusy c.uid c.p.act u = false →
      s.ready c (Mask.lowest c.act) [m.base.w2] [] [] = .ok →
      va = c.value (Mask.lowest c.act) m.base.w2 + m.off.signExtend 64 →
      (atIssue s c).loadCheck c (Mask.lowest c.act) va z.bytes = (t, .ok segs) →
      exec (.ldu g z sx acq lease u m) s = .next ((((t.clearWalkFaults c.uid c.p.mask).consumeOps c (Mask.lowest c.act) [m.base.w2]).sendLoad c (Mask.lowest c.act) segs (.uni (sregNum c.p.act u) z.bytes sx)
          (some lease.toNat) acq (m.scope == .sys) va).complete c)) ∧
    Performs (.pref g lease m) g [m.base.w2] [] (fun _ s _ x => (s, .ok (x.v 0 + m.off.signExtend 64)))
      (fun c s l va => ({ s with nextId := s.nextId + 1 }).prefetch ⟨s.nextId, c.uid, l, c.a.place.coreId, c.a.job, c.p.priv, va,
        lease.toNat, match s.agent? c.uid with | some a => (a.lane l).ltime | none => 0⟩) ∧
    Performs (.probe g k d m) g [m.base.w2] [d, d + 1] (fun c s _ x => s.probe c k (x.v 0 + m.off.signExtend 64))
      (fun c s l v => s.fillRegs c.uid l ((physRegs c.rrb d 2).zip [lo32 v, hi32 v])) ∧
    Performs (.tinv g dev d a am) g [(Src.g a am).w2, (rd d).w1] []
      (fun c s _ x =>
        if (match s.agent? c.uid with | some a => a.acks | none => 0) ≠ 0 then (s, .wait .order)
        else
          (s.dropTlbs (if dev then none else some c.cluster) (x.w 1).toNat (x.v 0),
            if (s.dropTlbs (if dev then none else some c.cluster) (x.w 1).toNat (x.v 0)).usedBefore
              (if dev then none else some c.cluster) (match c.p.wait with
                | some w => if w.kind = .inval then w.start else s.nextId
                | none => s.nextId) then .wait .inval else .ok ()))
      (fun _ s _ _ => s)

/-- R292, R293, R295-R299: the stores, `ATOM` and `RED` complete in every lane whose address passes the checks; the data is
read after the address, and poisoned data is carried along. -/
def Obligations.StoresComplete : Prop :=
  ∀ (g : Guard) (z : Size) (rel w64 : Bool) (lease : BitVec 3) (d : Src) (e a : GReg) (imm : BitVec 10) (m : MemArg)
    (op : AtomOp) (ord : Ord4) (v k : Src) (rop : RedOp) (t : RedTy),
    Performs (.stI32 e a imm) Guard.always [(rd a).w2, ⟨rd e, 1, true⟩] []
      (fun c s l x => chkThen (s.storeCheck c l (x.v 0 + imm.signExtend 64) 4 false .dev) fun s segs =>
        (s, .ok (x.v 0 + imm.signExtend 64, segs, toBytes 4 (x.v 1).toNat, c.opndBad l ⟨rd e, 1, true⟩)))
      (fun c s l b => s.sendStore c l b.2.1 b.2.2.1 none false b.2.2.2 b.1) ∧
    Performs (.stQ64 g z rel lease d m) g (m.base.w2 :: dataOps z d) []
      (fun c s l x => chkThen (s.storeCheck c l (x.v 0 + m.off.signExtend 64) z.bytes rel m.scope) fun s segs =>
        (s, .ok (x.v 0 + m.off.signExtend 64, segs, storeBytes z x, (dataOps z d).any (c.opndBad l))))
      (fun c s l b => s.sendStore c l b.2.1 b.2.2.1 (some lease.toNat) rel b.2.2.2 b.1) ∧
    Performs (.atom g op w64 ord e m v k) g
      ([m.base.w2, if w64 then v.w2 else v.w1] ++ (if op = .cas then [if w64 then k.w2 else k.w1] else [])) (dstW w64 e)
      (fun c s l x => chkThen (s.atomCheck c l (x.v 0 + m.off.signExtend 64) (if w64 then 8 else 4) ord.isRel m.scope true)
        fun s segs => (s, .ok (x.v 0 + m.off.signExtend 64, segs, x.v 1, x.v 2)))
      (fun c s l b => s.sendAtomic c l b.2.1 ⟨0, if w64 then 8 else 4, AtomOp.eop op, b.2.2.1, b.2.2.2, none⟩
        (.regs (physRegs c.rrb e (if w64 then 2 else 1)) (if w64 then 8 else 4) false) ord.isRel ord.isAcq
        (m.scope == .sys) b.1) ∧
    Performs (.red g rop t rel d m) g [m.base.w2, ⟨d, if t.bytes = 8 then 2 else 1, true⟩] []
      (fun c s l x => chkThen (s.atomCheck c l (x.v 0 + m.off.signExtend 64) t.bytes rel m.scope false) fun s segs =>
        (s, .ok (x.v 0 + m.off.signExtend 64, segs, x.v 1, c.opndBad l ⟨d, if t.bytes = 8 then 2 else 1, true⟩, s.nextId)))
      (fun c s l b => s.sendRed c l b.2.1 ⟨0, t.bytes, redEop rop t, b.2.2.1, 0, some t⟩ rel b.2.2.2.1 b.1 b.2.2.2.2)

/-- R195, R300-R308: `SETF`, `CLRF`, the barrier instructions that never wait, `DEPDEC`, `FENCE` and `DRAIN` complete in
every lane whose checks and waits pass.
Readings of the model that it rests on: log entry 30. -/
def Obligations.LocalFormsComplete : Prop :=
  ∀ (g : Guard) (rel w64 : Bool) (d : Src) (e : GReg) (m : MemArg) (dir : BarDir) (sc : Scope) (b : Src) (off : BitVec 14)
    (kind : FenceKind) (ord : Ord4),
    Performs (.setf g w64 rel d m) g [m.base.w2, ⟨d, if w64 then 2 else 1, true⟩] []
      (fun c s l x => chkThen (s.localCheck c (x.v 0 + m.off.signExtend 64) (if w64 then 8 else 4)) fun s segs =>
        chkThen (s.poisonCheck c segs (x.v 0 + m.off.signExtend 64)) fun s segs =>
          chkThen (s.writeCheck c l rel m.scope segs) fun s segs => chkThen (s.ackedCheck c rel) fun s _ =>
            (s, .ok (x.v 0 + m.off.signExtend 64, segs, x.v 1, c.opndBad l ⟨d, if w64 then 2 else 1, true⟩)))
      (fun c s l b => s.sendLocal c l b.2.1 (.setf w64 b.2.2.1) .none rel b.2.2.2 b.1) ∧
    Performs (.clrf g w64 m) g [m.base.w2] []
      (fun c s l x => chkThen (s.localCheck c (x.v 0 + m.off.signExtend 64) (if w64 then 8 else 4)) fun s segs =>
        chkThen (s.poisonCheck c segs (x.v 0 + m.off.signExtend 64)) fun s segs =>
          chkThen (s.writeCheck c l false m.scope segs) fun s segs => (s, .ok (x.v 0 + m.off.signExtend 64, segs)))
      (fun c s l b => s.sendLocal c l b.2 (.clrf w64) .none false false b.1) ∧
    Performs (.barinit g d m) g [m.base.w2, d.w1] []
      (fun c s l x => chkThen (s.barCheck c l (x.v 0 + m.off.signExtend 64) false m.scope) fun s segs =>
        (s, if 2 ^ 20 ≤ (x.w 1).toNat then .fault 0x46 0 0 else .ok (x.v 0 + m.off.signExtend 64, segs, (x.w 1).toNat)))
      (fun c s l b => s.sendLocal c l b.2.1 (.bar (.init b.2.2)) .none false false b.1) ∧
    Performs (.bararr g rel e m) g [m.base.w2] [e]
      (fun c s l x => chkThen (s.barCheck c l (x.v 0 + m.off.signExtend 64) rel m.scope) fun s segs =>
        (s, .ok (x.v 0 + m.off.signExtend 64, segs)))
      (fun c s l b => s.sendLocal c l b.2 (.bar .arrive) (.regs (physRegs c.rrb e 1) 4 false) rel false b.1) ∧
    Performs (.barexp g dir rel d sc b off) g [b.w2, d.w1] []
      (fun c s l x => chkThen (s.barCheck c l (x.v 0 + 4 * off.signExtend 64) rel sc) fun s segs =>
        (s, .ok (x.v 0 + 4 * off.signExtend 64, segs, (x.w 1).toInt)))
      (fun c s l b => s.sendLocal c l b.2.1 (.bar (.expect (dir != .outb) (dir != .inb) b.2.2)) .none rel false b.1) ∧
    Performs (.depdec g rel m) g [m.base.w2] []
      (fun c s l x => chkThen (s.recordCheck c (x.v 0 + m.off.signExtend 64)) fun s segs =>
        chkThen (s.poisonCheck c (segs.map Seg.countWords) (x.v 0 + m.off.signExtend 64 + 8)) fun s _ =>
          chkThen (s.writeCheck c l rel m.scope segs) fun s segs =>
            (s, if s.decRoom c segs then .ok (x.v 0 + m.off.signExtend 64, segs) else .wait .order))
      (fun c s l b => s.sendDec c l b.2 rel (m.scope == .sys) b.1) ∧
    Performs (.fence g kind ord sc) g [] []
      (fun c s l _ =>
        chkThen (if ord.isRel then s.watchLost c l else (s, .ok ())) fun s _ =>
          chkThen (s.lostCheck c (kind != .ld)) fun s _ =>
            ((s.fenceWaits c kind sc).1, if (s.fenceWaits c kind sc).2 then .ok () else .wait .order))
      (fun c s _ _ => s.fenced c ord sc) ∧
    Performs .drain Guard.always [] [] (fun c s l _ => s.releaseCheck c l .dev) (fun _ s _ _ => s) ∧
    Performs (.drainArrive e) Guard.always [(rd e).w2] []
      (fun c s l x => chkThen (s.releaseCheck c l .dev) fun s _ =>
        chkThen (s.barCheck c l (x.v 0) false .thr) fun s segs => (s, .ok (x.v 0, segs)))
      (fun c s l b => s.sendLocal c l b.2 (.bar .arrive) .none true false b.1)

/-- R215, R235-R240: `DIV` and `REM` compute at issue and leave their destinations empty until their completion; `HSIFT`,
`BINS` and `TWALK` do so once their addresses have passed the checks. -/
def Obligations.ProducersComplete : Prop :=
  ∀ (g : Guard) (t : ITy) (k : KeyTy) (bot lt : Bool) (d : GReg) (x y : Src) (kk : BitVec 6) (mm : BitVec 8)
    (lease : BitVec 3) (n : BitVec 16),
    (∀ e ∈ [(Instr.div g t d x y, false), (.rem g t d x y, true)],
      Performs e.1 g [x.wT t, y.wT t] (dstT t d) (fun _ s _ i => (s, .ok (divR e.2 t (i.v 0) (i.v 1))))
        (fun c s l v => s.produce c l (physRegs c.rrb d (if t.is64 then 2 else 1))
          (.value v (physRegs c.rrb d (if t.is64 then 2 else 1))))) ∧
    Performs (.hsift g k bot kk d x y) g [x.w2, y.w2] [d, d + 1]
      (fun c s _ i => chkThen (s.acqCheck c.uid) fun s _ =>
        match heapAt c (i.v 0) (8 * kk.toNat) with
        | .error e => (s, .fault e.1 e.2 0)
        | .ok off =>
          match s.lbad c.a.place.coreId off (8 * kk.toNat) with
          | some o => (s, .fault 0x26 (i.v 0 + BitVec.ofNat 64 (o - off)) 1)
          | none => (s, if s.loadsBound c.uid s.nextId && !s.decBusy c.who then .ok (off, i.v 1) else .wait .order))
      (fun c s l r => s.produce c l (physRegs c.rrb d 2)
        (.hsift k bot kk.toNat r.1 (lo32 r.2) (hi32 r.2) (physRegs c.rrb d 2))) ∧
    Performs (.bins g k lt mm lease d x y) g [x.w1, y.w2] [d]
      (fun c s l i => chkThen (State.binsCheck c l mm.toNat s (i.v 1)) fun s r => (s, .ok (i.w 0, r)))
      (fun c s l r =>
        let dst : Dest := .regs (physRegs c.rrb d 1) 4 false
        let s := ((s.touch c.uid l).1).pendDest c.uid l dst
        let q := r.2.foldl (fun (q : State × List Piece) y =>
          let e := q.1.elemPieces c l s.nextId q.2.length y.2 (some lease.toNat) y.1
          (e.1, q.2 ++ e.2)) ({ s with nextId := s.nextId + 1 }, [])
        { q.1 with loads := q.1.loads ++ [(⟨s.nextId, c.uid, l, .bins k lt r.1, dst, q.2, false, false, 0, false⟩ : Load)] }.presentAll
          s.nextId) ∧
    Performs (.twalk g lease n d x y) g [x.w2, y.w2] [d, d + 1]
      (fun c s l i => chkThen (s.acqCheck c.uid) fun s _ =>
        State.walkCheck c l (i.v 0) (i.v 1) n.toNat lease.toNat (2 * n.toNat + 2) (s.openWalk c l))
      (fun c s l r =>
        let dst : Dest := .regs (physRegs c.rrb d 2) 8 false
        { s.pendDest c.uid l dst with
          loads := s.loads ++ [⟨s.nextId, c.uid, l, .plain, dst,
            [⟨0, 0, 8, some (toBytes 4 r.1.toNat ++ toBytes 4 r.2, false), false, 0⟩], false, false, 0, false⟩]
          nextId := s.nextId + 1 })

/-! ### Control (17_isa_control.md, 15_travellers.md, 16_loops.md) -/

/-- R364-R366, R353, R346, R347, R348, R63: `BR` in both forms goes on at PC + 4 × displacement, with no back edge; a target
outside the current loop's range is cause 0x11 of every lane. `BRC` parts the lanes by the guard, with its join where it names
one; `CHK` parts the lanes that are struck, clearing STRUCK in them, once the path holds no watch entry; `BRU` needs its lanes to
agree, or UBLOW, under which the lowest lane decides and UBSEEN records it.
Readings of the model that it rests on: log entry 12. -/
def Obligations.BranchesComplete : Prop :=
  (∀ (disp : BitVec 22) (imm : Word) (s : State) (c : Ctx),
    (∀ e ∈ [(Instr.brJ32 disp, c.p.pc + 4 * disp.signExtend 64), (.brX96 imm, c.p.pc + 4 * imm.signExtend 64)],
      Branches e.1 Guard.always s c →
        (c.a.outOfRange c.p.act e.2 = false → exec e.1 s = .next ((atIssue s c).jump c e.2)) ∧
        (c.a.outOfRange c.p.act e.2 = true → exec e.1 s = .next ((atIssue s c).faultAll c 0x11 0)))) ∧
  ∀ (g : Guard) (disp : BitVec 22) (join : BitVec 16),
    Diverges (.brc g disp join) g (fun c => Mask.filter c.p.mask fun l => guardOn c.a c.p l g)
      (fun c => c.p.pc + 4 * disp.signExtend 64)
      (fun c => if join = 0 then [] else [(c.p.pc + 4 * join.signExtend 64, false)]) (fun _ s => s) (fun _ _ => True) ∧
    Diverges (.chk disp) Guard.always (fun c => Mask.filter c.p.mask fun l => (c.a.lane l).struck)
      (fun c => c.p.pc + 4 * disp.signExtend 64) (fun _ => [])
      (fun c s => (Mask.list (Mask.filter c.p.mask fun l => (c.a.lane l).struck)).foldl
        (fun s l => s.updLane c.uid l fun ln => { ln with struck := false }) s)
      (fun s c => s.watchesHeld c.uid c.p.mask = false) ∧
    (∀ (s : State) (c : Ctx) (tk : Mask), Branches (.bru g disp) g s c →
      tk = (Mask.filter c.p.mask fun l => guardOn c.a c.p l g) → c.p.mask ≠ 0 →
      c.a.outOfRange c.p.act (c.p.pc + 4 * disp.signExtend 64) = false →
      (tk = c.p.mask → exec (.bru g disp) s = .next ((atIssue s c).jump c (c.p.pc + 4 * disp.signExtend 64))) ∧
      (c.clash = false → tk = 0 →
        exec (.bru g disp) s = .next ((atIssue s c).complete c)) ∧
      (tk ≠ c.p.mask → tk ≠ 0 → c.a.thctl.getLsbD 0 = false →
        exec (.bru g disp) s = .next ((atIssue s c).faultAll c 0x13 0)) ∧
      (tk ≠ c.p.mask → tk ≠ 0 → c.a.thctl.getLsbD 0 = true → tk.getLsbD (Mask.lowest c.p.mask) = true →
        exec (.bru g disp) s = .next (((atIssue s c).updAgent c.uid fun a => { a with thctl := a.thctl ||| 2 }).jump c
          (c.p.pc + 4 * disp.signExtend 64))) ∧
      (c.clash = false → tk ≠ c.p.mask → tk ≠ 0 → c.a.thctl.getLsbD 0 = true →
        tk.getLsbD (Mask.lowest c.p.mask) = false →
        exec (.bru g disp) s = .next (((atIssue s c).updAgent c.uid fun a => { a with thctl := a.thctl ||| 2 }).complete c)))

/-- R367, R368, R355: the calls write the link into every lane, freeze every loop level, set `RRB` to 0 and go on at the target;
the link's fields are the return address, `RRB` and the number of levels that were not frozen. `CALLI` serves the lowest lane's
target first and holds the others; `CALLI.tail` writes no link and refuses a level of its own.
Readings of the model that it rests on: log entry 12. -/
def Obligations.CallsComplete : Prop :=
  ∀ (disp : BitVec 22) (imm : Word) (r : GReg) (s : State) (c : Ctx),
    (∀ e ∈ [(Instr.callJ32 disp, c.p.pc + 4 * disp.signExtend 64), (.callX96 imm, c.p.pc + 4 * imm.signExtend 64)],
      Branches e.1 Guard.always s c → Reads s c [] [] [62, 63] →
        exec e.1 s = .next ((atIssue s c).call c c.p.mask e.2 false)) ∧
    (Branches (.calli r) Guard.always s c → Reads s c [(rd r).w2] [] [62, 63] →
      (∀ l ∈ Mask.list c.p.mask, targetOk (c.value l (rd r).w2) = true) →
      ∀ (t : DWord) (g : Mask), t = c.value (Mask.lowest c.p.mask) (rd r).w2 →
        g = Mask.ofList ((Mask.list c.p.mask).filter fun l => c.value l (rd r).w2 == t) → c.p.mask ≠ 0 →
        (c.p.mask &&& ~~~g = 0 →
          exec (.calli r) s = .next (((atIssue s c).readTargets c r g).call c g t false)) ∧
        (c.p.mask &&& ~~~g ≠ 0 → c.a.room c.b ≠ 0 →
          exec (.calli r) s = .next (((((atIssue s c).readTargets c r g).updPath c.uid c.b fun p => { p with mask := g }).placePath
            c.uid c.b { c.p.part (c.p.mask &&& ~~~g) c.p.pc .held none with
              hold := some (c.npc, g), joins := c.p.pushRet c.npc true, done := 0, parked := 0 }).call c g t true))) ∧
    (Branches (.calliTail r) Guard.always s c → Reads s c [(rd r).w2] [] [] → c.p.mask ≠ 0 → c.a.unfrozen c.p.act = 0 →
      ∀ t : DWord, (∀ l ∈ Mask.list c.p.mask, c.value l (rd r).w2 = t) → targetOk t = true →
        exec (.calliTail r) s = .next ((((atIssue s c).readTargets c r c.p.mask).updAgent c.uid fun a =>
          a.setLoops c.p.act 0 (a.loopsOf c.p.act)).jump c t)) ∧
    (∀ (a : Agent) (act : Bool) (ret : DWord), (a.loopsOf act).length ≤ 4 →
      (callLink a act ret).extractLsb' 0 56 = ret.extractLsb' 0 56 ∧ (callLink a act ret).extractLsb' 56 4 = a.rrbOf act ∧
      ((callLink a act ret).extractLsb' 60 3).toNat = ((a.loopsOf act).filter fun l => !l.frz).length ∧
      (callLink a act ret).getLsbD 63 = false)

/-- R369, R355: `RET` checks the links of every lane before it changes anything; then the lanes return, the link's `RRB` is
restored and as many levels as UNFRZ says are unfrozen. In a barrel unit the PC is the return address, with the back edge where
that is the END of the restored current loop. A malformed link is cause 0x12 in its lanes.
Readings of the model that it rests on: log entry 12. -/
def Obligations.ReturnsComplete : Prop :=
  ∀ (s : State) (c : Ctx), Branches .ret Guard.always s c → Reads s c [(rd 62).w2] [] [] →
    ((∀ l ∈ Mask.list c.p.mask, badLink c.a c.p.act (link c l) = false ∧ (linkAddr (link c l)).extractLsb' 0 2 = 0) →
      exec .ret s = .next ((atIssue s c).ret c ((Mask.list c.p.mask).map fun l => (l, link c l))) ∧
      (∀ v a, c.a.wide = false → c.p.mask = 1 → link c 0 = v →
        a = unfreeze (v.extractLsb' 60 3).toNat (c.a.loopsOf c.p.act) →
        (c.a.setLoops c.p.act (v.extractLsb' 56 4) a).atEnd c.p.act (linkAddr v) = false → c.p.joins = [] →
        exec .ret s = .next (((((atIssue s c).consumeOps c 0 [(rd 62).w2]).updAgent c.uid fun x =>
          x.setLoops c.p.act (v.extractLsb' 56 4) (unfreeze (v.extractLsb' 60 3).toNat (x.loopsOf c.p.act))).updPath c.uid c.b
            fun p => { p with mask := 1, pc := linkAddr v, joins := [], back := none, wait := none, done := 0, parked := 0 }).settle
              c.uid))) ∧
    ((∀ l ∈ Mask.list c.p.mask, badLink c.a c.p.act (link c l) = true) → c.p.mask ≠ 0 →
      exec .ret s = .next ((atIssue s c).faultPart c ((Mask.list c.p.mask).map fun l => ⟨l, 0x12, 0, 0, none⟩)))

/-- R373, R350: `LOOP` and `LOOPR` push a level from the operand of the lowest lane and go on at the next instruction; a count of
0 goes on at END with no level, by a jump that performs no back edge (the model's reading, log entry 28). `LOOPR` adds STAGES - 1 passes and starts the stage predicates. A fifth level is cause 0x10; an
END at or before the body, or beyond the current loop's END, is cause 0x11; a diverged warp is cause 0x1C. -/
def Obligations.LoopsBegin : Prop :=
  ∀ (n : Src) (off : BitVec 16) (st : BitVec 3) (s : State) (c : Ctx) (k : Word) (stop : DWord),
    s.ready c (Mask.lowest c.act) [n.w1] [] [] = .ok → k = lo32 (c.value (Mask.lowest c.act) n.w1) →
    stop = c.p.pc + 4 * off.setWidth 64 →
    (∀ e ∈ [(Instr.loop n off, 0, k.toNat), (.loopr st n off, st.toNat + 1, k.toNat + st.toNat)],
      Branches e.1 Guard.always s c →
      (4 ≤ (c.a.loopsOf c.p.act).length → exec e.1 s = .next ((atIssue s c).faultAll c 0x10 0)) ∧
      ((c.a.loopsOf c.p.act).length < 4 → stop.toNat ≤ c.npc.toNat →
        exec e.1 s = .next ((atIssue s c).faultAll c 0x11 0)) ∧
      (∀ lp, (c.a.loopsOf c.p.act).length < 4 → c.a.curLoop c.p.act = some lp → lp.stop.toNat < stop.toNat →
        exec e.1 s = .next ((atIssue s c).faultAll c 0x11 0)) ∧
      ((c.a.loopsOf c.p.act).length < 4 → c.npc.toNat < stop.toNat →
        (∀ lp, c.a.curLoop c.p.act = some lp → stop.toNat ≤ lp.stop.toNat) →
        (c.a.diverged c.p.act = true → exec e.1 s = .next ((atIssue s c).faultAll c 0x1C 0)) ∧
        (c.a.diverged c.p.act = false →
          (k = 0 → exec e.1 s = .next (((atIssue s c).consumeOps c (Mask.lowest c.act) [n.w1]).jump c stop)) ∧
          (k ≠ 0 → exec e.1 s = .next ((((atIssue s c).consumeOps c (Mask.lowest c.act) [n.w1]).updAgent c.uid fun a =>
              let a := a.setLoops c.p.act (a.rrbOf c.p.act)
                (⟨c.npc, stop, false, BitVec.ofNat 4 e.2.1, BitVec.ofNat 40 e.2.2⟩ :: a.loopsOf c.p.act)
              if e.2.1 = 0 then a else a.startStages (a.rrbOf c.p.act)).jump c c.npc))))) ∧
    (∀ (a : Agent) (rrb : BitVec 4) (l : Nat) (q : PReg), l < a.lanes.length →
      ((a.startStages rrb).lane l).pred rrb q = if q.toNat < 8 then (a.lane l).pred rrb q else decide (q = 8))

/-- R354, R357: `BRK` and `BRKD` take lanes out of the current loop to its END. In a barrel unit the level is popped; in a warp
whose every lane leaves, the path owes END; where some lanes leave, they become a path that waits at END. `BRKD` with no lane
falls through, and a target other than END is cause 0x11. With no level, or none that is not frozen, both are cause 0x11 in every
lane.
Readings of the model that it rests on: log entry 12; that the lanes that stay keep the slot: log entry 64. -/
def Obligations.LoopsEnd : Prop :=
  (∀ (g : Guard) (off : BitVec 16) (s : State) (c : Ctx), (∀ l ∈ c.a.loopsOf c.p.act, l.frz = true) →
    (Branches .brk Guard.always s c → exec .brk s = .next ((atIssue s c).faultAll c 0x11 0)) ∧
    (Branches (.brkd g off) g s c → exec (.brkd g off) s = .next ((atIssue s c).faultAll c 0x11 0))) ∧
  ∀ (g : Guard) (off : BitVec 16) (s : State) (c : Ctx) (lp : Loop), c.a.curLoop c.p.act = some lp →
    (∀ e ∈ [(Instr.brk, Guard.always, c.p.mask),
        (.brkd g off, g, Mask.filter c.p.mask fun l => guardOn c.a c.p l g)],
      Branches e.1 e.2.1 s c → (e.1 = .brk ∨ c.p.pc + 4 * off.signExtend 64 = lp.stop) →
      (e.2.2 = 0 → c.clash = false →
        exec e.1 s = .next ((atIssue s c).complete c)) ∧
      (e.2.2 ≠ 0 → c.a.wide = false →
        exec e.1 s = .next (((atIssue s c).updAgent c.uid fun a =>
          a.setLoops c.p.act (a.rrbOf c.p.act) (replaceCur (a.loopsOf c.p.act) none)).jump c lp.stop)) ∧
      (e.2.2 ≠ 0 → c.a.wide = true → c.p.mask &&& ~~~e.2.2 = 0 →
        exec e.1 s = .next ((((atIssue s c).oweEnd c.uid c.p.act lp).updPath c.uid c.b fun p =>
          { p with pc := lp.stop, joins := leaveJoins lp p.joins, wait := none, done := 0, parked := 0 }).settle c.uid)) ∧
      (e.2.2 ≠ 0 → c.a.wide = true → c.p.mask &&& ~~~e.2.2 ≠ 0 → c.clash = false →
        c.a.room c.b ≠ 0 →
        exec e.1 s = .next (((((atIssue s c).oweEnd c.uid c.p.act lp).updPath c.uid c.b fun p =>
          { p with mask := c.p.mask &&& ~~~e.2.2 }).placePath c.uid c.b
            { c.p.part e.2.2 lp.stop .run none with joins := leaveJoins lp c.p.joins, done := 0, parked := 0 }).complete c))) ∧
    (Branches (.brkd g off) g s c → c.p.pc + 4 * off.signExtend 64 ≠ lp.stop →
      exec (.brkd g off) s = .next ((atIssue s c).faultAll c 0x11 0))

/-- R374, R360: `LSAVE` stores the loop image of the path as a plain store and leaves DEPTH 0 and `RRB` 0; `LREST` reads an image
and, if it is well formed, takes its levels, `RRB` and `p8`-`p15`; a malformed image is cause 0x19. A well-formed loop state
comes back from its image. That the levels that are frozen are replaced too is the model's reading (log entry 49), and that `LSAVE`
drops the levels before its own back edge its choice (log entry 76). -/
def Obligations.LoopImages : Prop :=
  ∀ (g : Guard) (lease : BitVec 3) (m : MemArg),
    PerformsOnce (.lsave g lease m) g [m.base.w2] []
      (fun c s l x => if (x.v 0 + m.off.signExtend 64).toNat % 64 ≠ 0 then (s, .fault 0x24 (x.v 0 + m.off.signExtend 64) 0)
        else chkThen (s.placeCheck c { need := .wr, align := 64 } (x.v 0 + m.off.signExtend 64) 128) fun s segs =>
        if c.a.diverged c.p.act then (s, .fault 0x1C 0 0)
        else chkThen (s.writeCheck c l false m.scope segs) fun s segs => (s, .ok (x.v 0 + m.off.signExtend 64, segs)))
      (fun c s l b => (s.sendStore c l b.2 (loopImage (c.a.loopsOf c.p.act) c.rrb (c.a.lane l).p8to15) (some lease.toNat) false
        false b.1).updAgent c.uid fun a => a.setLoops c.p.act 0 []) ∧
    PerformsOnce (.lrest g lease m) g [m.base.w2] []
      (fun c s l x =>
        chkThen (if (x.v 0 + m.off.signExtend 64).toNat % 64 ≠ 0 then (s, .fault 0x24 (x.v 0 + m.off.signExtend 64) 0)
          else if (s.walkOf c.uid l).isSome then (s, .ok ())
          else chkThen (s.placeCheck c { need := .rd, align := 64 } (x.v 0 + m.off.signExtend 64) 128) fun s _ =>
            (s, if c.a.diverged c.p.act then .fault 0x1C 0 0 else .ok ())) fun s _ =>
          chkThen (s.heldRead c l 64 (x.v 0 + m.off.signExtend 64) 128 (some lease.toNat)) fun s bs =>
            match loopOfImage bs with
            | none => (s, .fault 0x19 0 0)
            | some r => (s, .ok r))
      (fun c s _ r => s.updAgent c.uid fun a =>
        { a.setLoops c.p.act r.2.1 r.1 with
          lanes := a.lanes.map fun ln => { ln with p := r.2.2 ++ ln.p.extractLsb' 0 8, pbad := ln.pbad &&& 0x00FF } }) ∧
    (∀ (ls : List Loop) (rrb : BitVec 4) (ps : BitVec 8), ls.length ≤ 4 → (∀ l ∈ ls, l.stages.toNat ≤ 8) →
      loopOfImage (loopImage ls rrb ps) = some (ls, rrb, ps))

/-- R385, R386, R389, R390, R171, R154: `TRAP` consumes its operand, performs the back edge and traps every lane with its code and
the operand as TVAL; `ERET` returns from the handler; `NOP` only goes on; `HALT` stops every path of the unit; `ISYNC` discards
what was fetched ahead once no write is unacknowledged; words that do not decode trap with cause 0x01 and the words as TVAL, and a
fault on fetch with its address. -/
def Obligations.TrapsAndStops : Prop :=
  ∀ (code cause : BitVec 8) (r : GReg) (w0 w1 : Word) (addr : DWord) (s : State) (c : Ctx),
    (Issues (.trap code r) Guard.always s c → Reads s c [(rd r).w1] [] [] → c.act = c.p.mask →
      (c.a.wide && !c.p.act && !c.a.leaves && c.a.otherAct c.b) = false →
      ∀ (u : State) (a : Agent) (x : Agent × DWord),
        u = (Mask.list c.p.mask).foldl (fun s l => s.consumeOps c l [(rd r).w1]) (atIssue s c) →
        u.agent? c.uid = some a → x = backEdge c.p.act (a.loopsOf c.p.act).length a c.npc →
        exec (.trap code r) s = .next (((u.setAgent x.1).updPath c.uid c.b fun p => { p with pc := x.2, wait := none }).raiseFaults
          c.uid c.b ((Mask.list c.p.mask).map fun l => ⟨l, code, c.value (Mask.lowest c.p.mask) (rd r).w1, 0, none⟩) c.p.mask 0 0
          x.2 none)) ∧
    (Branches .eret Guard.always s c → exec .eret s = .next ((atIssue s c).returnTrap c.uid c.b)) ∧
    (Issues .nop Guard.always s c → exec .nop s = .next ((atIssue s c).complete c)) ∧
    (∀ a : Agent, (atIssue s c).agent? c.uid = some a → (atIssue s c).complete c =
      ((atIssue s c).setAgent (backEdge c.p.act (a.loopsOf c.p.act).length a c.npc).1).jump c
        (backEdge c.p.act (a.loopsOf c.p.act).length a c.npc).2) ∧
    (∀ (a : Agent) (act : Bool) (npc : DWord) (lp : Loop), a.curLoop act = some lp → lp.stop = npc → 1 < lp.remain.toNat →
      lp.stages = 0 → backEdge act (a.loopsOf act).length a npc =
        (a.setLoops act (a.rrbOf act) (replaceCur (a.loopsOf act) (some { lp with remain := lp.remain - 1 })), lp.start)) ∧
    (∀ (a : Agent) (p : Path) (b : Bool), s.focused = some (a, p, b) → p.priv ≠ .firmware →
      exec .halt s = .next (s.faultAll ⟨a.uid, b, a, p, p.mask, p.pc + 4⟩ 0x04 0x38)) ∧
    (∀ t, Issues .halt Guard.always s c → exec .halt s = .next t → t.focused = none) ∧
    (∀ (unit slot : Nat) (a : Agent) (p : Path), s.agent? unit = some a → a.status ≠ .halted → a.status ≠ .haltedOut →
      a.slot (slot == 1) = some p →
      p.mode = .halted → exec (.haltRestart unit slot) s = .next (s.setAgent (a.mapPaths fun p =>
        if p.mode = .halted then { p with mode := .run } else p))) ∧
    (Issues .halt Guard.always s c →
      exec .halt s = .next (((atIssue s c).complete c).updAgent c.uid fun a => a.mapPaths fun p => { p with mode := .halted })) ∧
    (Issues .isync Guard.always s c → c.a.acks = 0 →
      exec .isync s = .next (((atIssue s c).updAgent c.uid fun a => a.mapPaths fun p => { p with buf := [] }).complete c)) ∧
    (∀ (a : Agent) (p : Path) (b : Bool), s.focused = some (a, p, b) →
      exec (.illegalInstruction w0 w1) s =
        .next ((s.clearWalkFaults a.uid p.mask).faultAll ⟨a.uid, b, a, p, p.mask, p.pc⟩ 0x01 (w1 ++ w0)) ∧
      exec (.fetchFault cause addr) s =
        .next ((s.clearWalkFaults a.uid p.mask).faultAll ⟨a.uid, b, a, p, p.mask, p.pc⟩ cause addr))

/-! ### Waiting forms, control registers, tasks, gangs, tiles and engine commands -/

/-- R195, R196, R306, R81, 04_cluster_store.md R83: `LDF`, `TAKE`, `FILL` and `BARWAIT` attempt their access in every lane: it
performs where its condition holds in the own store, parks there where it does not, and goes to the owning port of another
store. -/
def Obligations.SyncFormsComplete : Prop :=
  ∀ (g : Guard) (w64 acq rel : Bool) (d : GReg) (v : Src) (m : MemArg) (n : Nat), n = (if w64 then 2 else 1) →
    Parks (.ldf g w64 acq d m) g [m.base.w2] (dstW w64 d) (fun _ => .sync)
      (fun c s l x => s.syncCheck c l (x.v 0 + m.off.signExtend 64) (4 * n) (.ldf w64) false false m.scope)
      (fun c s l b => s.attempt c [m.base.w2] l b (.regs (physRegs c.rrb d n) (4 * n) false) false acq (m.scope == .sys))
      (fun _ => True) (fun _ s => s) ∧
    Parks (.take g w64 acq d m) g [m.base.w2] (dstW w64 d) (fun _ => .sync)
      (fun c s l x => s.syncCheck c l (x.v 0 + m.off.signExtend 64) (4 * n) (.take w64) false false m.scope)
      (fun c s l b => s.attempt c [m.base.w2] l b (.regs (physRegs c.rrb d n) (4 * n) false) false acq (m.scope == .sys))
      (fun _ => True) (fun _ s => s) ∧
    Parks (.fill g w64 rel v m) g [m.base.w2, ⟨v, n, true⟩] [] (fun _ => .sync)
      (fun c s l x => s.syncCheck c l (x.v 0 + m.off.signExtend 64) (4 * n) (.fill w64 (x.v 1)) (c.opndBad l ⟨v, n, true⟩) rel
        m.scope)
      (fun c s l b => s.attempt c [m.base.w2, ⟨v, n, true⟩] l b .none rel false false) (fun _ => True) (fun _ s => s) ∧
    Parks (.barwait g acq v m) g [m.base.w2, v.w1] [] (fun _ => .barwait)
      (fun c s l x => s.syncCheck c l (x.v 0 + m.off.signExtend 64) 16 (.barwait ((x.w 1).toNat % 16)) false false m.scope)
      (fun c s l b => s.attempt c [m.base.w2, v.w1] l b .none false acq (m.scope == .sys)) (fun _ => True) (fun _ s => s)

/-- R387, R388, R384, R116: `MFC` writes the register's value for each lane into its destination, and of a poisoned `SCRATCH` takes
cause 0x26 (19_traps.md R429); `MTC` writes the per-lane part
in every active lane and the rest once, with the value of the lowest active lane; `ROLE` sets the unit's role and nothing in a
shadow wave.
Choices of the model that it rests on: what `MTC` does in firmware mode and to read-only fields (log entry 35), a COUNT whose STAGES
is above 8 (log entry 75). -/
def Obligations.ControlRegisterForms : Prop :=
  ∀ (g : Guard) (idx : BitVec 12) (d : GReg) (u : SReg) (w32 : Bool) (a : Src) (r : Role),
    (∀ (s : State) (c : Ctx),
      (Issues (.mfc g idx (.pair d)) g s c → (idx = 0x105 → s.sregBusy c.uid true 31 = false ∧ c.a.sBad.getLsbD 32 = false) → Reads s c [] [] [d, d + 1] →
        exec (.mfc g idx (.pair d)) s = .next ((ran s c [] (fun l => out2 d (s.creg c.a c.p.act l idx.toNat))).complete c)) ∧
      (Issues (.mfc g idx (.word d)) g s c → (idx = 0x105 → s.sregBusy c.uid true 31 = false ∧ c.a.sBad.getLsbD 32 = false) → Reads s c [] [] [d] →
        exec (.mfc g idx (.word d)) s = .next ((ran s c [] (fun l => out1 d (lo32 (s.creg c.a c.p.act l idx.toNat)))).complete c)) ∧
      (Issues (.mfc g idx (.uni u)) g s c → (idx = 0x105 → s.sregBusy c.uid true 31 = false ∧ c.a.sBad.getLsbD 32 = false) →
        s.sregBusy c.uid c.p.act u = false →
        exec (.mfc g idx (.uni u)) s = .next ((ran s c [] (fun l =>
          if (Mask.list c.act).head? = some l then { uni := some (u, s.creg c.a c.p.act l idx.toNat) } else {})).complete c)) ∧
      (∀ k : MfcDst, Issues (.mfc g 0x105 k) g s c → s.sregBusy c.uid true 31 = false → c.a.sBad.getLsbD 32 = true → c.a.sGone = [] →
        exec (.mfc g 0x105 k) s = .next ((atIssue s c).faultAll c 0x26 0 2))) ∧
    Performs (.mtc g w32 idx a) g [if w32 then a.w1 else a.w2] []
      (fun c s _ x => match cregCause idx.toNat (c.value (Mask.lowest c.act) (if w32 then a.w1 else a.w2)) with
        | some e => (s, .fault e (if e = 0x01 then wordsTval (encode (.mtc g w32 idx a)) else 0) 0)
        | none => (s, .ok (x.v 0)))
      (fun c s l v => if l = Mask.lowest c.act then (s.cregLane c.uid l idx.toNat v).cregOnce c.uid c.p.act c.p.priv idx.toNat v
        else s.cregLane c.uid l idx.toNat v) ∧
    (∀ (s : State) (c : Ctx), Issues (.role g r) g s c →
      exec (.role g r) s = .next (((atIssue s c).updAgent c.uid fun x =>
        if x.kind == .shadow then x else { x with role := r }).complete c)) ∧
    (∀ (s : State) (x : Agent) (p : Path) (b : Bool), s.focused = some (x, p, b) → x.wide = false →
      exec (.role g r) s = .next (s.faultAll ⟨x.uid, b, x, p, p.mask, p.pc + 8⟩ 0x03
        ((encode (.role g r)).getD 1 0 ++ (encode (.role g r)).getD 0 0)))

/-- R207, R267, R105: `WAITT` completes once its class's timeline has reached its number and nothing is due, raising the lanes'
times; it faults with cause 0x58 beyond what has issued and delivers what is due. `TWAIT` completes once the unit's tile
instructions have, and delivers a cause 0x26 that is due, with UESRC 11 (log entry 32).
That every lane of the path is raised, where R207 says every active lane, is the model's choice: log entry 55. -/
def Obligations.WaitsComplete : Prop :=
  ∀ (g : Guard) (cls : BitVec 2) (n : WaitN) (s : State) (c : Ctx) (os : List Opnd) (v : DWord),
    os = (match n with | .imm _ => [] | .src a => [a.w2]) →
    v = (match n with | .imm i => i.setWidth 64 | .src a => c.value (Mask.lowest c.act) a.w2) →
    (Issues (.waitt g cls n) g s c → s.ready c (Mask.lowest c.act) os [] [] = .ok →
      (c.a.issued[Fin.ofNat 4 cls.toNat].toNat < v.toNat →
        exec (.waitt g cls n) s = .next ((atIssue s c).faultAll c 0x58 0)) ∧
      (v.toNat ≤ c.a.issued[Fin.ofNat 4 cls.toNat].toNat → v.toNat ≤ c.a.tl[Fin.ofNat 4 cls.toNat].toNat →
        (c.a.dueAt fun d => d.cls == cls.toNat && decide (d.num.toNat ≤ v.toNat)) = none →
        exec (.waitt g cls n) s = .next ((((atIssue s c).consumeOps c (Mask.lowest c.act) os).liftPath c.uid
          (Mask.lowest c.act) (c.a.timeUpTo cls.toNat v)).complete c)) ∧
      (v.toNat ≤ c.a.issued[Fin.ofNat 4 cls.toNat].toNat → v.toNat ≤ c.a.tl[Fin.ofNat 4 cls.toNat].toNat →
        ∀ d f, (c.a.dueAt fun d => d.cls == cls.toNat && decide (d.num.toNat ≤ v.toNat)) = some d →
        f = dueLFault (Mask.lowest c.act) d →
        exec (.waitt g cls n) s = .next ((atIssue s c).faultAll c f.cause f.tval 0 f.due))) ∧
    (Issues (.twait g) g s c → s.tilesOpen c.uid = false →
      ∀ mine, mine = s.mdone.filter (·.uid == c.uid) → (mine.any (·.bad)) = false →
        exec (.twait g) s = .next
          (({ atIssue s c with mdone := s.mdone.filter (·.uid != c.uid) }.liftPath c.uid (Mask.lowest c.act)
            c.a.tileTime).complete c)) ∧
    (Issues (.twait g) g s c → s.tilesOpen c.uid = false → (∃ d ∈ s.mdone, d.uid = c.uid ∧ d.bad = true) →
      exec (.twait g) s = .next ((atIssue s c).faultAll c 0x26 0 3 (some (5, 0))))

/-- R334, R370, R340: `GCALL` and `GCALLI` check the descriptor, the depth, due faults, the release and the first sixteen
registers of every lane; then each lane parks, in a room or waiting for one, and the instruction waits for its returns. Lanes of
`GCALL` with different descriptors take cause 0x1B.
Readings of the model that it rests on: log entry 36. -/
def Obligations.GangCallsPark : Prop :=
  ∀ (g : Guard) (a b : Src),
    (∀ e ∈ [(Instr.gcall g a b, true), (.gcalli g a b, false)], ∀ (s : State) (c : Ctx) (t : State) (bs : List (Nat × (Leaf × Word))),
      Issues e.1 g s c → c.p.done = 0 → c.p.parked = 0 → c.a.kind ≠ .codelet → Reads s c [a.w2, b.w1] [] [] →
      (e.2 = true → ∀ l ∈ Mask.list c.act, c.value l a.w2 = c.value (Mask.lowest c.act) a.w2) →
      Pass (fun s l => s.callCheck c l (c.value l a.w2) (lo32 (c.value l b.w1))) (Mask.list c.act) (atIssue s c) t bs →
      ∀ u, u = ((bs.foldl (fun s x => s.park c [a.w2, b.w1] x.1 x.2) t).noteFlight c.uid t.nextId c.p.mask).dropHeld c.uid 0 → allDone u c = false →
      exec e.1 s = .next ((u.waitFor c (if u.roomWaits.any (·.caller.uid == c.uid) then .room else .inn)).noteRooms c.cluster)) ∧
    (∀ (s : State) (c : Ctx), Runs (.gcall g a b) g s c → c.a.kind ≠ .codelet → c.p.done = 0 → c.p.parked = 0 →
      Reads s c [a.w2, b.w1] [] [] →
      (∃ l ∈ Mask.list c.act, ∃ k ∈ Mask.list c.act, c.value l a.w2 ≠ c.value k a.w2) →
      exec (.gcall g a b) s = .next ((atIssue s c).faultAll c 0x1B 0))

/-- R339, R341, R380, R408: `RETG` ends the lanes of a coach: each gives its first eight registers and its time back to its
caller, which goes on; in a unit that is no coach or shadow wave it is cause 0x1A. `TASKEND` retires the lanes; in a coach it is
cause 0x1E.
Readings of the model that it rests on: log entry 38. -/
def Obligations.LanesEnd : Prop :=
  ∀ (g : Guard),
    Ends (.retg g) g (fun c => c.a.kind = .coach ∧ c.p.act = false)
      (fun c s l => chkThen (s.duePart c l) fun s _ => chkThen (s.releaseCheck c l .clu) fun s _ =>
        chkThen (s.lowReady c l 8) fun s _ => s.recordReady c l)
      (fun c s l =>
        let u := (s.acquireTokens c l (lowRegs 8)).levelAll c.uid l
        match (c.a.lane l).caller, u.agent? c.uid with
        | some (cu, cl), some a =>
          u.giveBack cu cl ((List.range 8).map fun i => ((a.lane l).tokenTimes c.rrb (lowRegs 8)).reg (Fin.ofNat 64 i))
            ((a.lane l).tokenTimes c.rrb (lowRegs 8)).ltime
        | _, _ => u) (fun _ s => s) ∧
    Ends (.retg g) g (fun c => c.a.kind = .shadow ∧ c.p.act = false)
      (fun c s l => chkThen (s.duePart c l) fun s _ => chkThen (s.releaseCheck c l .clu) fun s _ => (s, .ok ()))
      (fun c s l => (s.acquireTokens c l (lowRegs 8)).levelAll c.uid l) (fun _ s => s) ∧
    (∀ (s : State) (c : Ctx), Runs (.retg g) g s c → c.a.kind ≠ .coach → c.a.kind ≠ .shadow →
      exec (.retg g) s = .next ((atIssue s c).faultAll c 0x1A 0)) ∧
    Ends .taskend Guard.always (fun c => c.a.kind ≠ .coach ∧ c.p.act = false) (fun c s l => s.endCheck c l) (fun _ s _ => s)
      (fun _ s => s) ∧
    (∀ (s : State) (c : Ctx), Runs .taskend Guard.always s c → c.a.kind = .coach →
      exec .taskend s = .next ((atIssue s c).faultAll c 0x1E 0))

/-- R342-R345, R375-R377: the moves check their release and the job's cluster mask in every lane, and the unit leaves for its
destination, or goes on where it is there already; a codelet takes cause 0x18. `ROUTESET` stores a route-table entry. `RCSNAP`
writes the cluster's route counters to its own store and clears them.
Readings of the model that it rests on: log entry 37. -/
def Obligations.MovesComplete : Prop :=
  ∀ (g : Guard) (a b : Src) (lease : BitVec 3) (off : BitVec 16),
    (∀ (s : State) (c : Ctx) (t : State) (bs : List (Nat × Nat)), c.a.kind ≠ .codelet →
      (Issues (.migrate g a) g s c → Reads s c [a.w1] [] [] →
        Pass (fun s l => chkThen (s.moveCheck c l) fun s _ => s.destCheck c (lo32 (c.value l a.w1)).toNat) (Mask.list c.act)
          (atIssue s c) t bs →
        exec (.migrate g a) s = .next (((bs.foldl (fun s x =>
          let s := s.consumeOps c x.1 [a.w1]
          if x.2 = c.cluster then s else s.ship c x.2 false none) t).clearWalkFaults c.uid c.p.mask).noteFlight c.uid t.nextId
            c.p.mask |>.complete c)) ∧
      (Issues (.rethome g) g s c →
        Pass (fun s l => chkThen (s.moveCheck c l) fun s _ => s.homeCheck c) (Mask.list c.act)
          (atIssue s c) t bs →
        exec (.rethome g) s = .next (((bs.foldl (fun s x =>
          let s := s.consumeOps c x.1 []
          if c.a.place = c.a.home then s else s.ship c x.2 true none) t).clearWalkFaults c.uid c.p.mask).noteFlight c.uid t.nextId
            c.p.mask |>.complete c))) ∧
    (∀ (s : State) (c : Ctx), c.a.kind = .codelet →
      (∀ e ∈ [Instr.migrate g a, .route g a b, .rethome g], Runs e g s c →
        exec e s = .next ((atIssue s c).faultAll c 0x18 0))) ∧
    (∀ (s t : State) (c : Ctx) (l : Nat) (e : Word) (d : Nat), Issues (.route g a b) g s c → c.a.kind ≠ .codelet →
      Mask.list c.act = [l] → Reads s c [a.w1, b.w1] [] [] → e = lo32 (c.value l a.w1) → e.toNat < 1024 →
      ∀ v s1 s2, (atIssue s c).heldPeek c l 4 (State.routeVa (atIssue s c) c e) 4 (some 0) = (s1, .ok v) →
        (wordAt v 0).getLsbD 31 = true → routeReserved (wordAt v 0) = false →
        s1.moveCheck c l = (s2, .ok ()) → d = routeDest (wordAt v 0) e (lo32 (c.value l b.w1)) → d < 64 →
        d = c.cluster ∨ (s2.job c.a.job).clmask.getLsbD d = true →
        t = (s2.dropHeld c.uid (laneBit l)).consumeOps c l [a.w1, b.w1] →
        exec (.route g a b) s = .next (((if d = c.cluster then t.countRoute c.cluster (some e.toNat)
          else t.ship c d false (some e.toNat)).clearWalkFaults c.uid c.p.mask).noteFlight c.uid
            (s2.dropHeld c.uid (laneBit l)).nextId c.p.mask |>.complete c)) ∧
    Performs (.routeset g a b) g [a.w1, ⟨b, 1, true⟩] []
      (fun c s l x =>
        if 1024 ≤ (x.w 0).toNat ∨ routeReserved (x.w 1) then (s, .fault 0x75 ((x.w 0).setWidth 64) 0)
        else chkThen (s.storeCheck c l (s.routeVa c (x.w 0)) 4 false .dev) fun s segs =>
          (s, .ok (s.routeVa c (x.w 0), segs, x.w 1, c.opndBad l ⟨b, 1, true⟩)))
      (fun c s l r => s.sendStore c l r.2.1 (toBytes 4 r.2.2.1.toNat) (some 0) false r.2.2.2 r.1) ∧
    (∀ (s t : State) (c : Ctx) (va : DWord) (o n : Nat), Issues (.rcsnap g lease a off) g s c → c.p.done = 0 → c.p.parked = 0 →
      s.ready c (Mask.lowest c.act) [a.w2] [] [] = .ok → va = c.value (Mask.lowest c.act) a.w2 + off.signExtend 64 →
      (chkThen ((atIssue s c).placeCheck c { need := .wr, align := 16, localOnly := true } va 4096) fun s segs =>
        s.ownWriteCheck c segs) = (t, .ok [.own o n]) →
      exec (.rcsnap g lease a off) s = .next ((({ t.consumeOps c (Mask.lowest c.act) [a.w2] with
          routeCnt := t.routeCnt.filter fun x => !(decide (1024 * c.cluster ≤ x.1) && decide (x.1 < 1024 * c.cluster + 1024))
            }.putLbytes c.a.place.coreId o
          ((List.range 1024).flatMap fun e => toBytes 4 (t.routeCount c.cluster e).toNat) false).complete c)))

/-- R372, R378, R379, R381-R383, R393: `INNFLUSH` makes the cluster's rooms eligible; `SPAWN` makes a child in every lane whose
entry and cluster pass; `TASKMK` stores a codelet record; `CANCEL` cancels the level named; `CNTW` answers the counter and its
CANCELLED bit once it has reached the operand; `POLL` with no cancel that may act only goes on, and else the cancel acts; a warp that yields
stands behind the ready warps of its class at the next selection, and a barrel slot stands back for at most 16 cycles.
Choices of the model that it rests on: the launch of a coach's child (log entry 14), the state in which a cancelled unit goes on (log
entry 39), and that `CNTW` raises every lane of its path (log entry 55). -/
def Obligations.TasksComplete : Prop :=
  ∀ (g : Guard) (d : GReg) (a b : Src) (count : BitVec 16) (level : Level),
    (∀ (s : State) (c : Ctx), Issues .innflush Guard.always s c →
      exec .innflush s = .next (({ atIssue s c with rooms := (atIssue s c).rooms.map fun (r : Room) =>
        if r.cluster = c.cluster then { r with eligible := true } else r }).complete c)) ∧
    (∀ (a : Agent) (p : Path), preCheck a p .innflush = none) ∧
    (∀ (s : State) (c : Ctx) (t : State) (bs : List (Nat × (DWord × Nat))), Issues (.spawn g d a b) g s c →
      (∀ r < 32, s.sregBusy c.uid c.p.act (BitVec.ofNat 5 r) = false) → Reads s c [a.w2, b.w1] [] [d] →
      Pass (fun s l => chkThen (s.lowReady c l 16) fun s _ =>
          if !targetOk (c.value l a.w2) then (s, .fault 0x05 (c.value l a.w2) 0)
          else if lo32 (c.value l b.w1) = 0xFFFFFFFF then (s, .ok (c.value l a.w2, c.cluster))
          else chkThen (s.maskCheck c (lo32 (c.value l b.w1)).toNat) fun s k => (s, .ok (c.value l a.w2, k))) (Mask.list c.act) (atIssue s c) t bs →
      exec (.spawn g d a b) s = .next (((bs.foldl (fun s x =>
        let l := x.1
        let s := s.consumeOps c l [a.w2, b.w1]
        let la := (s.launchOf c.uid l).2
        let reg := (physG c.rrb d).val
        if s.launches.any fun y => some y.id == la && y.cancelled then s.fillRegs c.uid l [(reg, 0xFFFFFFFF)]
        else
          let ch := s.child c l x.2.1 la
          let s : State := { s with agents := s.agents ++ [ch], nextId := s.nextId + 1 }
          match (if s.arrivals.any (·.cluster == x.2.2) then none else s.bestSlot x.2.2) with
          | some p => (s.settleIn { ch with home := p } p).fillRegs c.uid l
              [(reg, State.ownerTag 20 (s.settleIn { ch with home := p } p) { ch with home := p, place := p } 0)]
          | none =>
            { s.updLane c.uid l fun ln => ln.setPending (physG c.rrb d) with
              arrivals := s.arrivals ++ [⟨x.2.2, ch.uid, some (c.uid, l, reg)⟩] }) t).clearWalkFaults c.uid c.p.mask).noteFlight c.uid
                t.nextId c.p.mask |>.complete c)) ∧
    (count ≠ 0 → PerformsOnce (.taskmk g count d a b) g
      ([a.w2, b.w2] ++ (List.range 4).map fun k => ⟨rd (d + BitVec.ofNat 6 k), 1, true⟩) []
      (fun c s l x =>
        match classify s c.who (x.v 0) with
        | .error e => (s, .fault e (x.v 0) 0)
        | .ok _ =>
          if (x.v 0).toNat % 32 ≠ 0 then (s, .fault 0x24 (x.v 0) 0)
          else chkThen (s.recordCheck c (x.v 0)) fun s segs =>
            if !targetOk (x.v 1) then (s, .fault 0x05 (x.v 1) 0)
            else chkThen (s.writeCheck c l false .dev segs) fun s segs =>
              (s, .ok (segs, x, (List.range 4).any fun k => c.opndBad l ⟨rd (d + BitVec.ofNat 6 k), 1, true⟩)))
      (fun c s l r => s.sendStore c l r.1
        (toBytes 8 (r.2.1.v 1).toNat ++ toBytes 4 count.toNat ++ [0, 0, 0, 0]
          ++ (List.range 4).flatMap fun k => toBytes 4 (r.2.1.w (2 + k)).toNat) (some 0) false r.2.2 (r.2.1.v 0))) ∧
    (∀ (s : State) (c : Ctx) (la : Launch), Issues (.cancel g level) g s c →
      (level = .phase → c.a.levelids.getLsbD 49 = true) → (s.launches.find? fun l => some l.id == c.a.launch) = some la →
      exec (.cancel g level) s = .next ((match level with
        | .job => (atIssue s c).cancelJob c.a.job
        | .launch => (atIssue s c).cancelLaunch la.id
        | .graph => (match la.graph with
            | some x => (atIssue s c).cancelGraph x.1
            | none => (atIssue s c).cancelLaunch la.id)
        | .phase => (match la.phase with | some p => (atIssue s c).cancelPhase p | none => atIssue s c)).tidy.complete c)) ∧
    (∀ (s : State) (c : Ctx) (n : Counter), Issues (.cntw g d a b) g s c →
      s.ready c (Mask.lowest c.act) [a.w1, b.w1] [] [d] = .ok →
      (∀ l ∈ Mask.list c.act, (c.a.lane l).pend.getLsbD (physG c.rrb d).val = false) →
      (∀ p ∈ s.pendings, p.uid ≠ c.uid) →
      s.counterOf c.a.job (lo32 (c.value (Mask.lowest c.act) a.w1)).toNat = some n →
      (lo32 (c.value (Mask.lowest c.act) b.w1)).toNat ≤ n.count.toNat →
      exec (.cntw g d a b) s = .next ((((Mask.list c.act).foldl (fun s l =>
          s.fillRegs c.uid l [((physG c.rrb d).val, BitVec.ofBool n.cancelled ++ n.count)])
        ((atIssue s c).consumeOps c (Mask.lowest c.act) [a.w1, b.w1])).liftPath c.uid (Mask.lowest c.act)
          n.time).complete c)) ∧
    (∀ (s : State) (c : Ctx), Issues .poll Guard.always s c → c.a.kind ≠ .coach →
      (c.a.cancel = none → exec .poll s = .next ((atIssue s c).complete c)) ∧
      (c.a.cancelOpen = false → exec .poll s = .next ((atIssue s c).complete c)) ∧
      (∀ t, c.a.cancel ≠ none → c.a.cancelOpen = true → (atIssue s c).actCancel c.uid c.b = some t →
        exec .poll s = .next t)) ∧
    (∀ (s : State) (c : Ctx), Issues .yield Guard.always s c →
      (c.a.wide = false → exec .yield s = .next (((atIssue s c).complete c).updPath c.uid c.b fun p =>
        { p with resume := ((atIssue s c).complete c).now c.cluster + 16 })) ∧
      (c.a.wide = true → exec .yield s = .next (((atIssue s c).complete c).updAgent c.uid fun a =>
        { a with behind := true })))

/-- R202, R102, R103, R201-R206: an engine command of class 0, 1 or 2 joins its queue in every active lane, once no acquire is
open and the class has room: it takes the next number of its class, its token is empty, and its operands are those read. -/
def Obligations.CommandsIssue : Prop :=
  ∀ (g : Guard) (sh : CopyShape) (q : Bool) (d r : GReg) (a b : Src) (bar : Option Src3) (x y : Src3) (mt : BitVec 8),
    (∀ e ∈ [(Instr.copy g sh q d a b bar, 0, [a.w2, b.w2] ++ (bar.map fun x => x.src.w2).toList,
          fun (v : LaneIn) => CmdOp.copy (match sh with | .d1 => 1 | .d2 => 2 | .d3 => 3) (v.v 0) (v.v 1) (bar.map fun _ => v.v 2)),
        (.gather g q d a b x y, 1, [a.w2, b.w2, x.src.w2, y.src.w1],
          fun v => .gather (v.v 0) (v.v 1) (v.v 2) (v.w 3).toNat),
        (.scadd g q d a b x y, 1, [a.w2, b.w2, x.src.w2, y.src.w1],
          fun v => .scadd (v.v 0) (v.v 1) (v.v 2) (v.w 3).toNat),
        (.quant g q d a b, 2, [a.w2, b.w2], fun v => .quant (v.v 0) (v.v 1)),
        (.tgenNew g q d a b r mt, 2, [a.w2, b.w2, (rd r).w1, (rd (r + 1)).w1, (rd (r + 2)).w1, (rd (r + 3)).w1],
          fun v => .tgen false (v.v 0) (v.v 1) (v.w 2) (v.w 3) (v.w 4) (v.w 5) mt.toNat),
        (.tgenApp g q d a b r mt, 2, [a.w2, b.w2, (rd r).w1, (rd (r + 1)).w1, (rd (r + 2)).w1, (rd (r + 3)).w1],
          fun v => .tgen true (v.v 0) (v.v 1) (v.w 2) (v.w 3) (v.w 4) (v.w 5) mt.toNat),
        (.tgenClose g q d a, 2, [a.w2], fun v => .tgenClose (v.v 0))],
      Performs e.1 g e.2.2.1 [d, d + 1]
        (fun c s _ v => chkThen (s.acqCheck c.uid) fun s _ =>
          (s, if s.cmdRoom c e.2.1 then .ok (e.2.2.2 v) else .wait .order))
        (fun c s l o => s.issueCmd c l e.2.1 q d o)) ∧
    (∀ (s : State) (c : Ctx) (l cls : Nat) (op : CmdOp) (u : State) (t : DWord) (n : DWord), cls < 4 →
      s.touch c.uid l = (u, t) → ∀ (w : Agent), u.agent? c.uid = some w → n = w.issued[Fin.ofNat 4 cls] + 1 →
      ((s.issueCmd c l cls q d op).cmds = u.cmds ++ [⟨u.nextId, c.uid, l, c.a.place.coreId, c.a.job, c.p.priv, cls, n, q,
          ((physG c.rrb d).val, (physG c.rrb (d + 1)).val), op, t, .waiting, []⟩]) ∧
      (s.issueCmd c l cls q d op).nextId = u.nextId + 1)

/-- R280-R288: the Waymark instructions act in the one active lane: `WMOPEN` takes the lowest free slot, `WMCLOSE` frees one,
`WMAPP` appends tokens, `WMPROP` starts a proposal, `WMLEN` reads a field, `WMOWN` sets the owner once its handle has passed the
checks (a bad one is its cause whatever the new owner's register holds), `WMSAVE` stores the slot's
record, `WMLOAD` opens a slot from one.
Readings of the model that it rests on: log entry 34. -/
def Obligations.WaymarkComplete : Prop :=
  ∀ (g : Guard) (lmin lmax : BitVec 6) (d b : GReg) (a h : Src) (k1 : BitVec 3) (f : WmField) (close : Bool) (lease : BitVec 3)
    (off : BitVec 16) (s : State) (c : Ctx) (l : Nat), Mask.list c.act = [l] →
    (Issues (.wmopen g lmin lmax d a) g s c → Reads s c [a.w1] [] [d] → wmSizeOk (lo32 (c.value l a.w1)).toNat = true →
      (if lmin = 0 then 2 else lmin.toNat) ≤ (if lmax = 0 then 32 else lmax.toNat) →
      ∀ r, ((((atIssue s c).clearWalkFaults c.uid c.p.mask).consumeOps c l [a.w1]).wmOpen c l (lo32 (c.value l a.w1)).toNat (if lmin = 0 then 2 else lmin.toNat)
          (if lmax = 0 then 32 else lmax.toNat) [] 0) = .ok r →
        exec (.wmopen g lmin lmax d a) s = .next (((r.1.putG c l d r.2).noteFlight c.uid (atIssue s c).nextId c.p.mask).complete c)) ∧
    (Issues (.wmload g lease d a off) g s c → Reads s c [a.w2] [] [d] →
      ∀ t bs r, State.wmRead c l (c.value l a.w2 + off.signExtend 64) lease.toNat 3 ((atIssue s c).openWalk c l) = (t, .ok bs) →
        (((t.clearWalkFaults c.uid c.p.mask).consumeOps c l [a.w2]).wmOpen c l (recWord bs.1 4) (recWord bs.1 0xC % 256) (recWord bs.1 0xC / 256) bs.2
          (dwordAt bs.1 0x10)) = .ok r →
        exec (.wmload g lease d a off) s = .next (((r.1.putG c l d r.2).noteFlight c.uid t.nextId c.p.mask).complete c)) ∧
    (∀ (w : WmSlot) (u u' : State), u' = (atIssue s c).clearWalkFaults c.uid c.p.mask → u = u'.consumeOps c l [a.w1] →
      (u.wmCheck c l (lo32 (c.value l a.w1)) = .ok w →
        (Issues (.wmclose g a) g s c → Reads s c [a.w1] [] [] →
          exec (.wmclose g a) s = .next (((u.setWm { w with isOpen := false, win := [] }).noteFlight c.uid (atIssue s c).nextId
            c.p.mask).complete c)) ∧
        (∀ os, os = a.w1 :: (List.range (k1.toNat + 1)).map (fun k => (Src.plus h k).w1) →
          Issues (.wmapp g k1 a h) g s c → Reads s c os [] [] → (u'.consumeOps c l os).wmCheck c l (lo32 (c.value l a.w1)) = .ok w →
          exec (.wmapp g k1 a h) s = .next ((((u'.consumeOps c l os).setWm (w.append ((List.range (k1.toNat + 1)).map fun k =>
            lo32 (c.value l (Src.plus h k).w1)))).noteFlight c.uid (atIssue s c).nextId c.p.mask).complete c)) ∧
        (∀ ds, ds = (List.range (k1.toNat + 1)).map (fun k => d + BitVec.ofNat 6 k) →
          Issues (.wmprop g k1 d a b) g s c → Reads s c [a.w1] [] (b :: ds) →
          exec (.wmprop g k1 d a b) s = .next ((({ u.updLane c.uid l fun ln =>
              ((physG c.rrb b).val :: ds.map fun x => (physG c.rrb x).val).foldl
                (fun ln y => ln.setPending (Fin.ofNat 64 y)) ln with
            pendings := u.pendings ++ [(⟨u.nextId, c.uid, l, c.a.place.coreId,
              .wmprop (w.propose (k1.toNat + 1)).2 (ds.map fun x => (physG c.rrb x).val) (physG c.rrb b).val
                (BitVec.ofNat 32 ((w.propose (k1.toNat + 1)).2.length * 65536 + (w.propose (k1.toNat + 1)).1))⟩ : Pending)]
            nextId := u.nextId + 1 } : State).noteFlight c.uid (atIssue s c).nextId c.p.mask).complete c)) ∧
        (Issues (.wmlen g f d a) g s c → Reads s c [a.w1] [] [d] →
          exec (.wmlen g f d a) s = .next (((u.putG c l d (match f with
            | .len => BitVec.ofNat 32 w.win.length
            | .cap => BitVec.ofNat 32 w.w
            | .total => lo32 w.total
            | .bounds => BitVec.ofNat 32 (w.lmax * 256 + w.lmin))).noteFlight c.uid (atIssue s c).nextId c.p.mask).complete c)))) ∧
    (Issues (.wmown g a h) g s c → Reads s c [a.w1] [] [] →
      (∀ w, (atIssue s c).wmCheck c l (lo32 (c.value l a.w1)) = .ok w → (atIssue s c).ready c l [h.w1] [] [] = .ok →
        tagOk (lo32 (c.value l h.w1)) = true →
        exec (.wmown g a h) s = .next ((((atIssue s c).consumeOps c l [a.w1, h.w1]).setWm
          { w with owner := lo32 (c.value l h.w1) }).complete c)) ∧
      (∀ e, (atIssue s c).wmCheck c l (lo32 (c.value l a.w1)) = .error e →
        exec (.wmown g a h) s = .next ((atIssue s c).faultSome c [⟨l, e, 0, 0, none⟩] none))) ∧
    (Issues (.wmsave g close lease a off h) g s c → Reads s c [a.w2, h.w1] [] [] →
      ∀ (w w' : WmSlot) (va : DWord) (t u : State) (segs : List Seg), va = c.value l a.w2 + off.signExtend 64 →
        (atIssue s c).wmCheck c l (lo32 (c.value l h.w1)) = .ok w → va.toNat % 64 = 0 →
        (chkThen ((atIssue s c).placeCheck c { need := .wr } va (64 + 4 * w.win.length)) fun s segs =>
          s.writeCheck c l false .dev segs) = (t, .ok segs) →
        u = (t.clearWalkFaults c.uid c.p.mask).consumeOps c l [a.w2, h.w1] → u.wmCheck c l (lo32 (c.value l h.w1)) = .ok w' →
        exec (.wmsave g close lease a off h) s = .next (((if close then
              (u.sendStore c l segs w'.record (some lease.toNat) false false va).setWm { w' with isOpen := false, win := [] }
            else u.sendStore c l segs w'.record (some lease.toNat) false false va).noteFlight c.uid t.nextId c.p.mask).complete c))

/-- R245-R248, R252-R267: a tile instruction that passes its checks takes its place in its core's matrix pipeline order with what
it read at issue; `TCFG` and `CELLP` write their register at once; `TPACK` takes the lanes' words; `TUNPK` reads the tile where no
earlier instruction writes it, and else takes its place and waits.
Readings of the model that it rests on: log entry 33. -/
def Obligations.TilesIssue : Prop :=
  ∀ (g : Guard) (q sat sint : Bool) (lease : BitVec 3) (t ta tb sa sb : TReg) (acc : AccReg) (fmt : BitVec 4) (rows1 rb : BitVec 7)
    (a b : Src) (v : Src3) (d : GReg) (m : MemArg) (m0 m1 : BitVec 6) (n0 n1 : BitVec 7) (ty : Ty),
    (∀ e ∈ [(Instr.tzero g t, fun (_ : Tiles) => Except.ok (MKind.tzero t.toNat)),
        (.accz g acc, fun _ => .ok (.accz acc.toNat)),
        (.mma g acc ta tb m0 n0, fun x => if mmaCheck (x.desc ta.toNat) (x.desc tb.toNat) m0.toNat n0.toNat then
            .ok (.mma acc.toNat ta.toNat tb.toNat (x.desc ta.toNat) (x.desc tb.toNat) m0.toNat n0.toNat) else .error 0x61),
        (.mmc g acc ta tb m0 n0, fun x =>
          if cellOk x.prog = false then .error 0x63
          else if (twoTys (x.desc ta.toNat) (x.desc tb.toNat)).isNone || tdK (x.desc ta.toNat) != tdK (x.desc tb.toNat) ||
              !shapeOk (x.desc ta.toNat) (x.desc tb.toNat) m0.toNat n0.toNat then .error 0x61
          else .ok (.mmc acc.toNat ta.toNat tb.toNat (x.desc ta.toNat) (x.desc tb.toNat) x.prog m0.toNat n0.toNat)),
        (.acccvt g sat sint t acc m0 n0, fun x =>
          if (tdTy (x.desc t.toNat)).isNone || decide (64 < m0.toNat + tdRows (x.desc t.toNat) ∨
              128 < n0.toNat + tdK (x.desc t.toNat)) then .error 0x61
          else .ok (.acccvt t.toNat acc.toNat (x.desc t.toNat) sat sint m0.toNat n0.toNat))],
      PerformsOnce e.1 g [] [] (fun c s _ _ => match e.2 (s.tilesOf c.a.place.coreId) with
          | .error k => (s, .fault k 0 0)
          | .ok k => (s, .ok k)) (fun c s l k => s.queueMop c l k)) ∧
    PerformsOnce (.mmas g acc ta tb sa sb m0 n0) g [] []
      (fun c s _ _ =>
        let x := s.tilesOf c.a.place.coreId
        let da := x.desc ta.toNat
        let db := x.desc tb.toNat
        let dp := x.desc sa.toNat
        let dq := x.desc sb.toNat
        if (match twoTys da db with | some (u, v) => mmasPair u v | none => false) && mmaCheck da db m0.toNat n0.toNat
            && tdFmt dp == 0xC && tdFmt dq == 0xC && tdRows dp == tdRows da && tdRows dq == tdRows db
            && decide ((tdK da + 7) / 8 ≤ tdBytes dp ∧ (tdK da + 7) / 8 ≤ tdBytes dq)
            && sa != ta && sa != tb && sb != ta && sb != tb then
          (s, .ok (MKind.mmas acc.toNat ta.toNat tb.toNat sa.toNat sb.toNat da db m0.toNat n0.toNat))
        else (s, .fault 0x61 0 0))
      (fun c s l k => s.queueMop c l k) ∧
    PerformsOnce (.tcfg g t fmt rows1 rb) g [] []
      (fun c s _ _ => match s.writeTd c.a.place.coreId t.toNat (if fmt = 0 then 0
          else BitVec.ofNat 64 ((rb.toNat + 1) * 4 * 65536 + (rows1.toNat + 1) * 256 + fmt.toNat)) with
        | .error e => (s, .fault e 0 0)
        | .ok _ => (s, .ok (if fmt = 0 then (0 : DWord)
          else BitVec.ofNat 64 ((rb.toNat + 1) * 4 * 65536 + (rows1.toNat + 1) * 256 + fmt.toNat))))
      (fun c s _ v => (s.writeTd c.a.place.coreId t.toNat v).toOption.getD s) ∧
    PerformsOnce (.cellp g a) g [a.w2] []
      (fun c s _ x => match s.writeProg c.a.place.coreId (x.v 0) with
        | .error e => (s, .fault e 0 0)
        | .ok _ => (s, .ok (x.v 0))) (fun c s _ v => (s.writeProg c.a.place.coreId v).toOption.getD s) ∧
    (∀ (s : State) (c : Ctx) (wc : WordCount) (row0 : BitVec 7) (woff : BitVec 9) (os : List Opnd) (ds : List GReg),
      os = (List.range wc.n).map (fun k => (Src.plus a k).w1) → ds = (List.range wc.n).map (fun k => d + BitVec.ofNat 6 k) →
      packCheck (((atIssue s c).tilesOf c.a.place.coreId).desc t.toNat) c.act row0.toNat woff.toNat wc.n = none →
      (Issues (.tpack g wc t a row0 woff) g s c → Reads s c os [] [] →
        exec (.tpack g wc t a row0 woff) s = .next ((((Mask.list c.act).foldl (fun s l =>
            s.consumeOps c l os) (atIssue s c)).queueMop c (Mask.lowest c.act)
          (.tpack t.toNat woff.toNat ((Mask.list c.act).map fun l => (row0.toNat + l, os.map fun o => lo32 (c.value l o))))).complete
            c)) ∧
      (Issues (.tunpk g wc d t row0 woff) g s c → Reads s c [] [] ds → c.p.wait = none →
        ∀ (mine : Unpack → Bool) (u : State), (mine = fun x => x.uid == c.uid && x.slotB == c.b) → u = atIssue s c →
        (u.tileWriter c.a.place.coreId t.toNat u.nextId = false → (u.tilesOf c.a.place.coreId).bad.getLsbD t.toNat = false →
          exec (.tunpk g wc d t row0 woff) s = .next (((Mask.list c.act).foldl (fun (s : State) l =>
            s.updLane c.uid l fun ln => ds.zipIdx.foldl (fun ln y => ln.setReg (physG c.rrb y.1)
              (tileWord ((u.tilesOf c.a.place.coreId).tile t.toNat) (row0.toNat + l) (woff.toNat + y.2))) ln)
            ({ u with unpacks := u.unpacks.filter fun x => !mine x } : State)).complete c)) ∧
        (u.tileWriter c.a.place.coreId t.toNat u.nextId = true →
          exec (.tunpk g wc d t row0 woff) s = .next (({ u with
            unpacks := (u.unpacks.filter fun x => !mine x) ++
              [⟨u.nextId, c.uid, c.a.place.coreId, c.b, c.p.pc, t.toNat⟩]
            nextId := u.nextId + 1 } : State).waitFor c .order)))) ∧
    (∀ e ∈ [(Instr.tld g q lease d t m a, true), (.tst g q lease d t m a, false)],
      PerformsOnce e.1 g [m.base.w2, a.w1] [d, d + 1]
        (fun c s l x =>
          let td := (s.tilesOf c.a.place.coreId).desc t.toNat
          if td = 0 then (s, .fault 0x61 0 0)
          else chkThen (s.acqCheck c.uid) fun s _ => (s, if s.cmdRoom { c with act := laneBit l } 3 then
            .ok (td, x.v 0 + m.off.signExtend 64, (x.w 1).toInt) else .wait .order))
        (fun c s l r =>
          { { s with nextId := s.nextId + 1 }.issueCmd c l 3 q d (if e.2 then .tld t.toNat r.2.1 r.2.2 r.1 lease.toNat s.nextId
              else .tst t.toNat r.2.1 r.2.2 r.1 lease.toNat s.nextId) with
            mops := ({ s with nextId := s.nextId + 1 }.issueCmd c l 3 q d
                (if e.2 then .tld t.toNat r.2.1 r.2.2 r.1 lease.toNat s.nextId
                  else .tst t.toNat r.2.1 r.2.2 r.1 lease.toNat s.nextId)).mops ++
              [⟨s.nextId, c.uid, c.a.place.coreId, c.p.priv, c.a.job, l, 0,
                if e.2 then .tload t.toNat (s.nextId + 1) else .tstore t.toNat (s.nextId + 1), false, [], 0⟩] })) ∧
    PerformsOnce (.accld g lease acc m a m0 n0 m1 n1) g [m.base.w2, a.w1] []
      (fun c s _ x => accPlaces true m.off m0.toNat n0.toNat (m1.toNat + 1) (n1.toNat + 1) c s x)
      (fun c s l r => s.queueMop c l (.accld acc.toNat r m0.toNat n0.toNat (m1.toNat + 1) (n1.toNat + 1) lease.toNat)) ∧
    PerformsOnce (.accst g lease acc m a m0 n0 m1 n1) g [m.base.w2, a.w1] []
      (fun c s _ x => accPlaces false m.off m0.toNat n0.toNat (m1.toNat + 1) (n1.toNat + 1) c s x)
      (fun c s l r => s.queueMop c l (.accst acc.toNat r m0.toNat n0.toNat (m1.toNat + 1) (n1.toNat + 1) lease.toNat)) ∧
    PerformsOnce (.accsend g ty sat sint acc a b v m1 n1) g [a.w2, b.w2, v.src.w1] []
      (fun c s _ x =>
        match sendCheck s c (x.v 0) (x.v 1) ((m1.toNat + 1) * (n1.toNat + 1) * (ty.width / 8)) with
        | .error e => (s, .fault e.1 e.2 0)
        | .ok (core, doff, foff) => chkThen (s.acqCheck c.uid) fun s _ =>
          (s, .ok (MKind.accsend acc.toNat ty sat sint (m1.toNat + 1) (n1.toNat + 1) core doff foff (x.w 2) 0 none)))
      (fun c s l k => s.queueMop c l k) ∧
    PerformsOnce (.tsave g lease m) g [m.base.w2] []
      (fun c s _ x =>
        match recordClass (x.v 0 + m.off.signExtend 64) with
        | some e => (s, .fault e (x.v 0 + m.off.signExtend 64) 0)
        | none =>
          match recordOut (x.v 0 + m.off.signExtend 64) 0x80500 with
          | some (b, e) => chkThen (State.rowsCheck c { need := .wr } s
              [(x.v 0 + m.off.signExtend 64, (b - (x.v 0 + m.off.signExtend 64)).toNat)]) fun s _ => (s, .fault e b 0)
          | none => State.rowsCheck c { need := .wr } s (partRanges (x.v 0 + m.off.signExtend 64) recordParts))
      (fun c s l r => s.queueMop c l (.tsave r lease.toNat (s.tilesOf c.a.place.coreId).td.toList
        (s.tilesOf c.a.place.coreId).prog)) ∧
    PerformsOnce (.trest g lease m) g [m.base.w2] []
      (fun c s l x =>
        chkThen (if (s.walkOf c.uid l).isSome then (s, .ok ())
          else match recordClass (x.v 0 + m.off.signExtend 64) with
            | some e => (s, .fault e (x.v 0 + m.off.signExtend 64) 0)
            | none =>
              match recordOut (x.v 0 + m.off.signExtend 64) 0x80500 with
              | some (b, e) => chkThen (State.rowsCheck c { need := .rd } s
                  [(x.v 0 + m.off.signExtend 64, (b - (x.v 0 + m.off.signExtend 64)).toNat)]) fun s _ => (s, .fault e b 0)
              | none => (s, .ok ())) fun s _ =>
          chkThen (s.heldRead c l 256 (x.v 0 + m.off.signExtend 64) 0x80500 (some lease.toNat)) fun s bs =>
            (s, if tileRecordOk bs then .ok bs else .fault 0x19 0 0))
      (fun c s l bs => (s.setTiles { s.tilesOf c.a.place.coreId with
        td := Vector.ofFn fun k : Fin 8 => tdFields (dwAt bs (8 * k.val)), prog := dwAt bs 0x40 }).queueMop c l (.trest bs))

/-! ### Device events: lines, homes, time (02_lines_and_homes.md, 03_watch_table.md) -/

/-- R43-R45, R47, R48, R53, R60, R61: the home serves a request of each kind, one at a time: a read, a renewal (no data where `wts`
has not changed), ownership, a write-back, an atomic after its issuer's earlier accesses, a joining of the update holders, and a
watch renewal (a confirm where `wts` has not changed, else a strike); a reply reaches its cluster: a fill or renewal, the value of
an atomic, a grant of ownership, a confirm, a strike.
Readings and choices of the model that it rests on: log entries 29, 30, 55, 56. -/
def Obligations.HomesServeAndReply : Prop :=
  (∀ (req : Nat) (s u : State) (r : Req) (a : ReadAns), s.reqs.find? (·.id == req) = some r →
    (r.kind = .read → s.homeReadAt r.line r.time r.n (some req) = .ok (u, a) →
      exec (.homeRead req) s = .next (u.reply r (.fill (some a.data)) a.wts a.e a.bad r.time)) ∧
    (∀ l, r.kind = .read → s.homeReadAt r.line r.time r.n (some req) = .error l →
      exec (.homeRead req) s = .next (s.holdAt r l)) ∧
    (r.kind = .renew → s.homeReadAt r.line r.time r.n (some req) = .ok (u, a) →
      exec (.homeRenewal req) s = .next (u.reply r (.fill (if a.wts = r.wts ∧ a.bad = 0 then none else some a.data)) a.wts a.e
        a.bad r.time)) ∧
    (r.kind = .own → s.homeOwnAt r.line r.cluster (some req) = .ok (u, a) →
      exec (.homeOwnership req) s = .next (u.reply r (.grant a.data) a.wts a.e a.bad r.time)) ∧
    (∀ e, r.kind = .watch e → s.homeReadAt r.line r.time r.n (some req) = .ok (u, a) →
      exec (.watchRenewal req) s = .next (u.reply r (if a.wts = r.wts then .confirm e else .strike e a.data) a.wts a.e a.bad
        r.time)) ∧
    (∀ d bad wts rts, r.kind = .writeback d bad wts rts → (s.homeOf r.line).owner = some r.cluster →
      exec (.homeWriteback req) s = .next (((({ s with mem := putLine s.mem r.line d }.setHome r.line
        { s.homeOf r.line with owner := none, wts := wts, rts := rts, bad := bad }).noteStamp r.line wts).noteStamp r.line
          rts).dropReq req)) ∧
    (∀ d bad wts rts, r.kind = .writeback d bad wts rts → (s.homeOf r.line).owner ≠ some r.cluster →
      exec (.homeWriteback req) s = .next (s.dropReq req)) ∧
    (r.kind = .join → s.homeJoinAt r.line r.cluster (some req) = .ok u →
      exec (.homeUpdateJoin req) s = .next ((u.dropReq req).performLine r.cluster r.line)) ∧
    (∀ (x : EAct) (dst : Dest) (acq sys : Bool) (core : CoreId) (z : DWord) (old : List Byte) (t : DWord) (bad : Bool) (w : Agent),
      r.kind = .atomic x dst acq sys core z → s.loadsBound r.uid r.id = true → s.writeBefore core r.uid r.id r.line = false →
      s.loadBefore core r.uid r.id r.line = false → s.agent? r.uid = some w →
      s.homeActAt r.line x.off x.size (tmax r.time (s.writeTime w r.lane)) x.apply (some req) = .ok (u, old, t, bad) →
      ∀ t', t' = (if acq && sys then tmax t u.hws else t) →
        exec (.homeAtomic req) s = .next ((((u.liftLane r.uid r.lane t').raiseCtime r.cluster t').noteWrite core r.uid r.lane r.id
          r.line t 0).reply r (.atomic (BitVec.ofNat 64 (ofBytes old)) dst acq bad) 0 0 0 t'))) ∧
  (∀ (rep : Nat) (s : State) (r : Rep), s.reps.find? (·.id == rep) = some r →
    (∀ d, r.kind = .fill d → exec (.fillReply rep) s = .next (s.fillArrives r d)) ∧
    (∀ v dst z bad, r.kind = .atomic v dst z bad →
      exec (.fillReply rep) s = .next (((if z then s.settleAccess r.uid r.num r.lane r.time true else s).dropRep rep).writeDest r.uid r.lane dst
        v 0 bad)) ∧
    (∀ d, r.kind = .grant d → exec (.ownershipGrant rep) s = .next
      (((((s.dropRep rep).gotStamp r.cluster r.wts).gotStamp r.cluster r.rts).setCopy
        ⟨r.cluster, r.line, .O, d, r.bad, r.wts, r.rts⟩).performLine r.cluster r.line)) ∧
    (∀ e, r.kind = .confirm e → exec (.confirm rep) s = .next
      (((((s.dropRep rep).gotStamp r.cluster r.wts).gotStamp r.cluster r.rts).dropWatch e).updCopy r.cluster r.line fun c => match c.st with
        | .L _ => if c.wts = r.wts then { c with rts := smax c.rts r.rts } else c
        | _ => c)) ∧
    (∀ e d, r.kind = .strike e d → ∀ u, u = ((s.watches.filter fun w =>
          w.id == e || (w.cluster == r.cluster && w.line == r.line && sle w.wts r.wts && w.wts != r.wts)).foldl
        (fun s w => s.struckBy w (some d)) (((s.dropRep rep).gotStamp r.cluster r.wts).gotStamp r.cluster r.rts)) →
      exec (.strike rep) s = .next (
        if r.bad = 0 ∧ State.effClass (u.updMiss r.cluster r.line fun m => { m with newer := true })
            (match u.agent? r.uid with | some a => a.job | none => 0) r.cls ≠ 0 then
          (u.updMiss r.cluster r.line fun m => { m with newer := true }).installL r.cluster r.line d r.wts r.rts
            (u.missOf r.cluster r.line).isSome
        else u.updMiss r.cluster r.line fun m => { m with newer := true })))

/-- R45, R40, R47: what a home answers for a line with no owner and no update holder, for which no earlier request waits. A read with time t and length n returns
the line's bytes, `wts` and the lease end smax(`wts`, t + n), and `rts` becomes smax(`rts`, t + n); ownership sets the owner
and returns `rts`; an action at the home takes the time raise(t, `rts` + 1), and both stamps become it. -/
def Obligations.HomeActions : Prop :=
  ∀ (s : State) (line cluster off n : Nat) (t : DWord) (f : List Byte → List Byte) (h : Home) (me : Option Nat),
    h = s.homeOf line → s.lineHeld line me = false → h.owner = none → h.holders = 0 →
    (∃ u, s.homeReadAt line t n me = .ok (u, ⟨lineAt s.mem line, h.wts, smax h.wts (t.extractLsb' 0 32 + BitVec.ofNat 32 n), h.bad⟩) ∧
      u.mem = s.mem ∧
      u.homes = sput Home.fresh line { h with rts := smax h.rts (t.extractLsb' 0 32 + BitVec.ofNat 32 n) } s.homes) ∧
    (h.host = false →
      (∃ u, s.homeOwnAt line cluster me = .ok (u, ⟨lineAt s.mem line, h.wts, h.rts, h.bad⟩) ∧ u.mem = s.mem ∧
        u.homes = sput Home.fresh line { h with owner := some cluster } s.homes) ∧
      (h.bad &&& sectorMask off n = 0 → ∀ w : DWord, w = raise t (h.rts + 1) →
        ∃ u, s.homeActAt line off n t f me = .ok (u, lineBytes (lineAt s.mem line) off n, w, false) ∧
          u.mem = putLine s.mem line (setLineBytes (lineAt s.mem line) off (f (lineBytes (lineAt s.mem line) off n))) ∧
          u.homes = sput Home.fresh line { h with wts := w.extractLsb' 0 32, rts := w.extractLsb' 0 32 } s.homes) ∧
      (h.bad &&& sectorMask off n ≠ 0 →
        s.homeActAt line off n t f me = .ok (s, lineBytes (lineAt s.mem line) off n, t, true)))

/-- R50, R51, R52, R46: the sweep raises stamps that lag the slice's time by more than 2^30 and sends a notice to every cluster; a
notice strikes the cluster's watch entries of the line and drops its L copy; an exchange raises each side's time to the
device's largest less 2^28; creep adds the job's step to a lane's time after 4,096 cycles; an eviction gives up a copy. -/
def Obligations.TimeEvents : Prop :=
  ∀ (s : State) (line cluster slice unit lane note : Nat),
    (∀ (u : State) (h : Home) (ht : Stamp),
      (lags (s.homeOf line).wts s.htime[sliceOf line] || lags (s.homeOf line).rts s.htime[sliceOf line]) = true →
      s.hostHolds line = false → s.recallAll line = .ok u → h = u.homeOf line → ht = u.htime[sliceOf line] →
      exec (.sweep line) s = .next { (u.setHome line { h with
          wts := if lags h.wts ht then ht - 0x40000000 else h.wts, rts := if lags h.rts ht then ht - 0x40000000 else h.rts }) with
        notes := u.notes ++ (List.range 64).map fun k => ⟨u.nextId + k, k, line⟩, nextId := u.nextId + 64 }) ∧
    (∀ (n : Note) (u : State), s.notes.find? (·.id == note) = some n →
      u = ((s.watches.filter fun (w : Watch) => w.cluster == n.cluster && w.line == n.line).foldl (fun (s : State) w => s.struckBy w none)
        { s with notes := s.notes.filter (·.id != note) }).updMiss n.cluster n.line (fun m => { m with newer := true }) →
      exec (.sweepNotice note) s = .next (match u.copyOf n.cluster n.line with
        | some c => (match c.st with | .L _ => u.dropCopy n.cluster n.line | _ => u)
        | none => u)) ∧
    (cluster < 64 → slice < 128 → ∀ t, t = (if s.largestTime.toNat < 2 ^ 28 then 0 else s.largestTime - 0x10000000) →
      exec (.timeExchange cluster slice) s = .next { s.raiseCtime cluster t with
        htime := s.htime.set (Fin.ofNat 128 slice).val (smax s.htime[Fin.ofNat 128 slice] (t.extractLsb' 0 32))
          (Fin.ofNat 128 slice).isLt }) ∧
    (∀ a, s.agent? unit = some a → a.status ≠ .spilled → a.status ≠ .retired →
      (a.lane lane).crept + 4096 ≤ s.now a.place.cluster →
      exec (.creep unit lane) s = .next (s.updLane unit lane fun ln =>
        { ln with ltime := ln.ltime + BitVec.ofNat 64 (s.creepStep a.job), crept := ln.crept + 4096 })) ∧
    (exec (.clusterEviction cluster line) s = .next (s.evict cluster line)) ∧
    (∀ c, s.copyOf cluster line = some c → c.st = .O → (s.evict cluster line) = { s.dropCopy cluster line with
        reqs := s.reqs ++ [⟨s.nextId, .writeback c.data c.bad c.wts c.rts, cluster, 0, 0, line, 0, 0, c.wts, 0⟩]
        nextId := s.nextId + 1 }) ∧
    (∀ c ps t, s.copyOf cluster line = some c → c.st = .U ps t → s.evict cluster line = s) ∧
    (∀ c e, s.copyOf cluster line = some c → c.st = .L e → s.evict cluster line = s.dropCopy cluster line)

/-- R30-R32, R289, R293, R82-R84, R308, R85, R86: a walk reads one entry or sets A and D at a step, and at its end installs its
leaf or leaves its fault for every waiter; an
acknowledgement lowers its unit's count; an access reaches its owning port, performs, parks or is refused, and is answered; a
refused one is sent again 64 cycles later; the wait limit faults the lanes that still wait where EN is set, and notes it where
it is clear.
Readings of the model that it rests on: log entries 25, 31. -/
def Obligations.AccessEvents : Prop :=
  ∀ (s : State) (k unit slot : Nat),
    (∀ (w : Walk) (u : State), s.walks.find? (·.id == k) = some w →
      (((s.walks.filter (·.cluster == w.cluster)).take 32).any (·.id == k)) = true →
      (∀ ph, s.walkStep w = .ok (u, .error ph) →
        exec (.tableWalk k) s = .next { u with walks := u.walks.map fun x => if x.id = k then { x with phase := ph } else x }) ∧
      ((∀ p ∈ u.prefs, p.core.cluster ≠ w.cluster ∨ p.job ≠ w.job ∨ p.va.toNat / 65536 ≠ w.page) →
        (∀ c, s.walkStep w = .ok (u, .ok (.fault c)) →
          exec (.tableWalk k) s = .next { u with
            walks := u.walks.filter (·.id != k), walkFaults := u.walkFaults ++ w.waiters.map fun x => ⟨x.1, x.2.1, w.page, c⟩ }) ∧
        (∀ e bits pa, s.walkStep w = .ok (u, .ok (.leaf e bits pa)) →
          exec (.tableWalk k) s = .next (State.installTlb { u with walks := u.walks.filter (·.id != k) } w.cluster w.job
            (BitVec.ofNat 64 (w.page * 65536)) e bits pa (w.waiters.map (·.2.2)))))) ∧
    (∀ a, s.acks.find? (·.id == k) = some a →
      exec (.acknowledge k) s = .next (a.back.foldl (fun s l => s.evict a.cluster l)
        (State.updAgent { s with acks := s.acks.filter (·.id != k) } a.uid fun x => { x with acks := x.acks - 1 }))) ∧
    (∀ r, s.remotes.find? (·.id == k) = some r → s.reaches r = true → (r.acc.isDec && s.ringFull r.dst r.off) = false →
      (s.lcond r.dst r.off r.acc = true → exec (.remoteAccess k) s = .next
        ((State.performRemote { s with remotes := s.remotes.filter (·.id != k) } r).1.scan r.dst
          (State.performRemote { s with remotes := s.remotes.filter (·.id != k) } r).2)) ∧
      (∀ a, s.lcond r.dst r.off r.acc = false → s.agent? r.uid = some a → a.kind ≠ .codelet →
        ((s.parked.filter fun q => q.dst == r.dst && q.src != q.dst).length < 32 →
          exec (.remoteAccess k) s = .next { s with remotes := s.remotes.filter (·.id != k), parked := s.parked ++ [r] }) ∧
        (32 ≤ (s.parked.filter fun q => q.dst == r.dst && q.src != q.dst).length →
          exec (.remoteAccess k) s = .next { s with remotes := s.remotes.map fun q =>
            if q.id = k then { q with refused := some (s.now r.src.cluster) } else q }))) ∧
    (∀ r, s.rreplies.find? (·.id == k) = some r → ∀ u, u = State.delivered { s with rreplies := s.rreplies.filter (·.id != k) } r →
      exec (.remoteReply k) s = .next (match r.dest with | .piece id _ _ => u.finishLoad id | _ => u)) ∧
    (∀ r t, s.remotes.find? (·.id == k) = some r → r.refused = some t → t + 64 ≤ s.now r.src.cluster →
      ∀ u : State, u = { s with remotes := s.remotes.map fun q => if q.id = k then { q with refused := none } else q } →
        (r.acc.isDec = false → exec (.remoteReissue k) s = .next u) ∧
        (r.acc.isDec = true → exec (.depdecResend k) s = .next u)) ∧
    (∀ a p w, s.agent? unit = some a → a.slot (slot == 1) = some p → p.wait = some w → w.kind.limited = true →
      waitLimit a.waitlim ≠ 0 → w.since + waitLimit a.waitlim ≤ s.now a.place.cluster →
      (a.waitlim.getLsbD 63 = false →
        exec (.waitLimit unit slot) s = .next (s.updAgent unit fun a => { a with waitlim := setBit a.waitlim 62 true })) ∧
      (a.waitlim.getLsbD 63 = true → w.kind = .reg →
        exec (.waitLimit unit slot) s = .next (s.updPath unit (slot == 1) fun p => { p with wait := some ⟨.limit, w.since, w.start⟩ })) ∧
      (∀ q m, a.waitlim.getLsbD 63 = true → w.kind ≠ .reg →
        ((s.withdraw unit p.parked).agent? unit).bind (·.slot (slot == 1)) = some q → m = p.parked &&& ~~~q.done → m ≠ 0 →
        exec (.waitLimit unit slot) s = .next (State.raiseFaults (s.withdraw unit p.parked) unit (slot == 1)
          ((Mask.list m).map fun l => ⟨l, 0x41, 0, 0, none⟩) m (q.mask &&& ~~~m) 0 q.pc (some w))))

/-! ### Engines, the matrix pipeline, the Inn and scheduling: their events -/

/-- R94, R104, R97-R101, R112: the engine runs the command that it has come to: its checks end it with a fault, hold it, or give
the parts of its work; it then performs some of the parts, and the command has finished once none is left or one has met a fault;
a finished command, or one not at its turn, stays. `TGEN` reserves, and publishes once TAIL is its start.
Readings of the model that it rests on: log entries 24, 25, 57. -/
def Obligations.EnginesExecute : Prop :=
  ∀ (s : State) (k : Nat) (c : Cmd), s.cmds.find? (·.id == k) = some c → s.cmdTurn c = true →
    (∀ (e : Instr) (w : EOut CmdPhase), (∀ x, c.phase ≠ .working x) → (∀ x v, c.phase ≠ .finished x v) →
      (e = .copyExecute k ∧ ∃ n x y b, c.op = .copy n x y b ∧ w = copyRun c n x y b s (s.cmdTime c)) ∨
      (e = .gatherExecute k ∧ ∃ d t i n, c.op = .gather d t i n ∧ w = gatherRun c false d t i n (gatherParts d) s (s.cmdTime c)) ∨
      (e = .scaddExecute k ∧ ∃ d t i n, c.op = .scadd d t i n ∧ w = gatherRun c true d t i n (scaddParts d) s (s.cmdTime c)) ∨
      (e = .quantExecute k ∧ ∃ d x, c.op = .quant d x ∧ w = quantRun c d x s (s.cmdTime c)) ∨
      (e = .tgenExecute k ∧ ∃ a q o g b l tg mt, c.op = .tgen a q o g b l tg mt ∧
        ((c.phase = .waiting ∧ w = tgenRun c q o g b l tg mt s (s.cmdTime c)) ∨
         ∃ es, c.phase = .heading es ∧ w = tgenReserve c a q es s (s.cmdTime c))) →
      (∀ u t x, w = .ok u t (.working x) → exec e s = .next ((u.setPhase c t (.working x)).workOn c x t)) ∧
      (∀ u t ph, w = .ok u t ph → (∀ x, ph ≠ .working x) → exec e s = .next (u.setPhase c t ph)) ∧
      (∀ u t x v, w = .fault u t x v → exec e s = .next (u.setPhase c t (.finished x v))) ∧
      (∀ h, w = .wait h → exec e s = .next (s.askHold c h))) ∧
    (∀ (e : Instr) (x : EWork), c.phase = .working x →
      (e = .copyExecute k ∧ (∃ n x y b, c.op = .copy n x y b)) ∨ (e = .gatherExecute k ∧ (∃ d t i n, c.op = .gather d t i n)) ∨
      (e = .scaddExecute k ∧ (∃ d t i n, c.op = .scadd d t i n)) ∨ (e = .quantExecute k ∧ (∃ d y, c.op = .quant d y)) ∨
      (e = .tgenExecute k ∧ (∃ a q o g b l tg mt, c.op = .tgen a q o g b l tg mt)) →
      exec e s = .next (s.workOn c x c.time)) ∧
    (∀ (x y : EWork) (t t' : DWord) (m : Nat) (u v : State), s.chooseNat (2 * x.todo.length + 1) = (m, v) →
      (c.steps (2 * x.todo.length - m) x v t = (u, t', y, .more) →
        s.workOn c x t = u.setPhase c t' (if y.todo.isEmpty then c.worked y else .working y)) ∧
      (∀ h, c.steps (2 * x.todo.length - m) x v t = (u, t', y, .held h) →
        s.workOn c x t = (u.setPhase c t' (.working y)).askHold c h) ∧
      (∀ z a, c.steps (2 * x.todo.length - m) x v t = (u, t', y, .fault z a) →
        s.workOn c x t = (u.countFault y.bar c.core (y.todo.flatMap EPart.due)).setPhase c t' (c.failed y z a))) ∧
    (∀ z a e, c.phase = .finished z a → e ∈ [Instr.copyExecute k, .gatherExecute k, .scaddExecute k, .quantExecute k,
      .tgenExecute k, .tgenPublish k, .tgenCloseExecute k] → exec e s = .next s) ∧
    (∀ a q o g b l tg mt st n x v u t u2 t2 h0 h, c.op = .tgen a q o g b l tg mt → c.phase = .reserved st n x v →
      s.cmdWin k = false → (c.wins.any fun w => decide (2 ^ 60 ≤ w.1)) = false →
      eHeadRead c q s c.time = .ok u t h0 → h0.tail.toNat = st →
      eHeader c q (.publish st n (x != 0)) u t = .ok u2 t2 h → h.tail.toNat = st →
      exec (.tgenPublish k) s = .next ((u2.forgetWins k).setPhase c t2 (.finished x v))) ∧
    (∀ q u t u2 t2 h0 h, c.op = .tgenClose q → c.phase = .waiting → headerAt c q s = true →
      (c.wins.any fun w => decide (2 ^ 60 ≤ w.1)) = false →
      eHeadRead c q s (s.cmdTime c) = .ok u t h0 → h0.ok = true → h0.tail = h0.resv →
      eHeader c q .close u t = .ok u2 t2 h → h.ok = true → h.tail = h.resv →
      exec (.tgenCloseExecute k) s = .next ((u2.forgetWins k).setPhase c t2 (.finished 0 0)))

/-- R105-R108, R118, R215, R236, R283: a finished command completes once its window requests are answered: its token is written full
with the number or the fault, its timeline moves to the largest number up to which every command has completed, and its fault is
due unless `.q` was given, eight at most. A divide, an `HSIFT` and a proposal complete: their registers are written full; `HSIFT`
writes the entries of the heap that changed, and has read its store's `LRT`; a draft register without a draft keeps its value. -/
def Obligations.CommandsAndProducersComplete : Prop :=
  (∀ (s : State) (k : Nat) (c : Cmd) (x : BitVec 8) (v : DWord), s.cmds.find? (·.id == k) = some c → c.phase = .finished x v →
    s.cmdWin k = false →
    (∀ w : DWord, w = (if x = 0 then c.num.setWidth 63 |>.setWidth 64 else (1 : BitVec 1) ++ (0 : BitVec 23) ++ lo32 c.num ++ x) →
      exec (.commandCompletion k) s = .next (State.retireIfEmpty (State.clearWalkFaults
        { ((s.updLane c.uid c.lane fun ln =>
            { (ln.setReg (Fin.ofNat 64 c.tok.1) (lo32 w)).setReg (Fin.ofNat 64 c.tok.2) (hi32 w) with
              toks := ((ln.setReg (Fin.ofNat 64 c.tok.1) (lo32 w)).setReg (Fin.ofNat 64 c.tok.2) (hi32 w)).toks ++
                [⟨c.tok.1, c.tok.2, c.cls, c.num, c.time⟩] }).updAgent c.uid fun a =>
            let b : Agent := { a with
              finished := a.finished ++ [(c.cls, c.num, c.time)]
              tl := a.tl.set (Fin.ofNat 4 c.cls).val (advance (a.finished ++ [(c.cls, c.num, c.time)]) c.cls
                (a.finished ++ [(c.cls, c.num, c.time)]).length a.tl[Fin.ofNat 4 c.cls]) (Fin.ofNat 4 c.cls).isLt }
            if x = 0 ∨ c.q then b
            else if a.due.length < 8 then { b with due := a.due ++ [⟨c.cls, c.lane, c.num, x, v⟩] }
            else { b with dfovf := true }) with cmds := s.cmds.filter (·.id != c.id) } c.id) c.uid))) ∧
  (∀ (s u : State) (k : Nat) (p : Pending), s.pendings.find? (·.id == k) = some p →
    u = { s with pendings := s.pendings.filter (·.id != k) } →
    (∀ v rs, p.kind = .value v rs → exec (.divCompletion k) s = .next (u.updLane p.uid p.lane fun ln =>
      (rs.zip [lo32 v, hi32 v]).foldl (fun ln x => ln.setReg (Fin.ofNat 64 x.1) x.2) ln)) ∧
    (∀ drafts rs len m, p.kind = .wmprop drafts rs len m → exec (.wmpropCompletion k) s = .next
      (u.updLane p.uid p.lane fun ln =>
        (rs.zipIdx.foldl (fun ln r => match drafts[r.2]? with
          | some v => ln.setReg (Fin.ofNat 64 r.1) v
          | none => ln.refill (Fin.ofNat 64 r.1)) ln).setReg (Fin.ofNat 64 len) m)) ∧
    (∀ ty bot n off key pay rs h, p.kind = .hsift ty bot n off key pay rs →
      (∀ q ∈ s.pendings, q.id < k → q.core = p.core → ∀ a b c d e f g, q.kind ≠ .hsift a b c d e f g) →
      h = ((List.range n).map fun i => ((s.lword p.core (off / 4 + 2 * i)).v, (s.lword p.core (off / 4 + 2 * i + 1)).v)) →
      (∀ es out v w, heapOffer ty bot n h (key, pay) = (es, out) →
        v = ((List.range n).foldl (fun (s : State) i =>
            if h.getD i (0, 0) = es.getD i (0, 0) then s
            else (s.putLword p.core (off / 4 + 2 * i) (es.getD i (0, 0)).1).putLword p.core (off / 4 + 2 * i + 1)
              (es.getD i (0, 0)).2) s) →
        w = v.noteLrt p.uid p.id p.lane (v.lrtOf p.core) →
        exec (.hsiftCompletion k) s = .next (State.updLane { w with pendings := w.pendings.filter (·.id != k) } p.uid p.lane fun ln =>
          (rs.zip [out.1, out.2]).foldl (fun ln x => ln.setReg (Fin.ofNat 64 x.1) x.2) ln))))

/-- R246, R247, R255, R262-R265: a tile load reads memory part by part and then writes its tile in its turn (a faulted one the
words that it had read); a tile store reads its tile in its turn and writes memory part by part; a tile instruction is performed when no earlier one of its core stands in the way; the flag of
`ACCSEND` follows its data, and no write goes out while the warp's count of unacknowledged writes is at its limit (R289).
Readings of the model that it rests on: log entries 25, 32, 33. -/
def Obligations.TilesExecute : Prop :=
  ∀ (s : State) (k : Nat),
    (∀ (c : Cmd) tile ea st td cls mop w, s.cmds.find? (·.id == k) = some c → s.cmdTurn c = true →
      c.op = .tld tile ea st td cls mop → c.phase = .waiting →
      w = (⟨cls, 0, none, false, tloadParts s.grain.1 ea st td, [], none, [], [], []⟩ : EWork) →
      exec (.tileLoadExecute k) s = .next (((s.grain.2.setPhase c (s.cmdTime c) (.working w)).workOn c w (s.cmdTime c)).dropMopOf
        k)) ∧
    (∀ (c : Cmd) tile ea st td cls mop m ws x v, s.cmds.find? (·.id == k) = some c → s.cmdTurn c = true →
      c.op = .tld tile ea st td cls mop → c.phase = .readPart ws x v → s.mops.find? (·.id == mop) = some m →
      s.hazard m = false →
      exec (.tileLoadExecute k) s = .next (((if ws.isEmpty then s else s.setTiles ((s.tilesOf c.core).putTile tile
        (ws.foldl (fun y w => putTileWords y w.1 w.2.1 [w.2.2]) ((s.tilesOf c.core).tile tile)) false false)).setPhase c c.time
          (.finished x v)).dropMopOf k)) ∧
    (∀ (c : Cmd) tile ea st td cls mop m w, s.cmds.find? (·.id == k) = some c → s.cmdTurn c = true →
      c.op = .tst tile ea st td cls mop → c.phase = .waiting → s.mops.find? (·.id == mop) = some m → s.hazard m = false →
      w = (⟨0, cls, none, false, tstoreParts s.grain.1 ((s.tilesOf c.core).bad.getLsbD tile)
        (tstoreRows (s.tilesOf c.core) tile ea st td), [], none, [],
        (tstoreRows (s.tilesOf c.core) tile ea st td).map (fun r => (r.1, r.2.length)), []⟩ : EWork) →
      exec (.tileStoreExecute k) s = .next (((s.grain.2.setPhase c (s.cmdTime c) (.working w)).workOn c w (s.cmdTime c)).dropMopOf
        k)) ∧
    (∀ (c : Cmd) w e, s.cmds.find? (·.id == k) = some c → s.cmdTurn c = true → c.phase = .working w →
      (e = .tileLoadExecute k ∧ (∃ tile ea st td cls mop, c.op = .tld tile ea st td cls mop)) ∨
      (e = .tileStoreExecute k ∧ (∃ tile ea st td cls mop, c.op = .tst tile ea st td cls mop)) →
      exec e s = .next ((s.workOn c w c.time).dropMopOf k)) ∧
    (∀ (m : MOp), s.mops.find? (·.id == k) = some m → s.hazard m = false →
      (∀ x f bad, (s.tilesOf m.core).perform m.kind = some (x, f, bad) →
        exec (.matrixExecute k) s = .next ((s.setTiles x).finishMop m m.time f bad)) ∧
      (∀ u t bad, (∃ a r i j p n l, m.kind = .accld a r i j p n l ∨ m.kind = .accst a r i j p n l) ∨
          (∃ ps l tds pr, m.kind = .tsave ps l tds pr) → s.issuerReady m.uid m.id = true →
        memMop m (s.tilesOf m.core) s (s.mopTime m) = .ok u t bad →
        exec (.matrixExecute k) s = .next (u.finishMop m t 0 bad)) ∧
      (∀ a ty sat sint rows cols dst doff foff v sent fl u f n t, m.kind = .accsend a ty sat sint rows cols dst doff foff v sent fl →
        sent < rows * cols → s.issuerReady m.uid m.id = true → (s.tilesOf m.core).bad.getLsbD (8 + a) = false →
        n = s.sendRoom m dst (rows * cols - sent) → t = (if sent = 0 then s.mopTime m else m.time) →
        State.sendAcc s { m with time := t } (s.tilesOf m.core) a ty sat sint cols dst doff sent n = (u, f) →
        exec (.matrixExecute k) s = .next (u.updMop k fun m =>
          { m with kind := .accsend a ty sat sint rows cols dst doff foff v (sent + n) none, time := t, flags := m.flags ||| f }))) ∧
    (∀ (m : MOp) a ty sat sint rows cols dst doff foff v, s.mops.find? (·.id == k) = some m →
      (∀ sent, m.kind = .accsend a ty sat sint rows cols dst doff foff v sent none → rows * cols ≤ sent →
        (∀ r ∈ s.remotes, r.mop ≠ some k) → s.sendRoom m dst 1 ≠ 0 →
        exec (.accsendFlag k) s = .next ((s.sendMop m dst foff (.setf false (v.setWidth 64)) true false).updMop k fun m =>
          { m with kind := .accsend a ty sat sint rows cols dst doff foff v sent (some s.nextId) })) ∧
      (∀ sent f, m.kind = .accsend a ty sat sint rows cols dst doff foff v sent (some f) → (∀ r ∈ s.remotes, r.id ≠ f) →
        (∀ r ∈ s.rreplies, r.id ≠ f) → exec (.accsendFlag k) s = .next (s.finishMop m m.time m.flags false)))

/-- R335-R337, R342-R344, R378: rooms become eligible; the room and the core that R336 chooses depart; a move arrives at its home
slot, in the slot of R343, or on the arrival list; the oldest of the list takes a free slot, and a child's spawner learns its
owner tag.
Readings of the model that it rests on: log entries 36, 37. -/
def Obligations.InnEvents : Prop :=
  ∀ (s : State) (cluster room core slot mig : Nat),
    (∀ r ∈ s.rooms, r.cluster = cluster → r.room = room → exec (.roomLimit cluster room) s = .next (s.noteRooms cluster)) ∧
    (∀ r, sget 0 cluster s.departs ≠ s.now cluster + 1 → (s.noteRooms cluster).pickRoom cluster = some (r, core) → r.room = room →
      exec (.roomDepart cluster room core) s = .next { (s.noteRooms cluster).depart r core with
        departs := sput 0 cluster (s.now cluster + 1) s.departs }) ∧
    (∀ r, sget 0 cluster s.departs = s.now cluster + 1 → exec (.roomDepart cluster r core) s = .next (s.noteRooms cluster)) ∧
    (∀ (m : Move) (a : Agent) (u : State), s.moves.find? (·.id == mig) = some m → s.agent? m.uid = some a →
      u = { s with moves := s.moves.filter (·.id != mig) } →
      (m.toHome = true → exec (.migrationArrival mig) s = .next (u.settleIn a a.home)) ∧
      (∀ p, m.toHome = false → (s.arrivals.any (·.cluster == m.cluster)) = false → s.bestSlot m.cluster = some p →
        exec (.migrationArrival mig) s = .next ((u.settleIn a p).countRoute m.cluster m.expert)) ∧
      (∀ w, m.toHome = false → ((s.arrivals.any (·.cluster == m.cluster)) = true ∨ s.bestSlot m.cluster = none) →
        s.physWrite m.cluster (s.travAddr a.home) (s.travRec a) = .ok w →
        ∀ w', w' = State.setAgent { w with moves := w.moves.filter (·.id != mig) } { a with status := .arrived } →
        exec (.migrationArrival mig) s = .next (State.countRoute { w' with arrivals := w'.arrivals ++ [⟨m.cluster, m.uid, none⟩] }
          m.cluster m.expert))) ∧
    (∀ (w : Arrival) (a : Agent) (u : State), s.arrivals.find? (·.cluster == cluster) = some w →
      s.bestSlot cluster = some ⟨cluster, core, slot⟩ → s.agent? w.uid = some a →
      u = { s with arrivals := s.arrivals.filter (·.uid != w.uid) } →
      (w.spawner = none → exec (.arrivalPlacement cluster core slot) s = .next (u.settleIn a ⟨cluster, core, slot⟩)) ∧
      (∀ x l r, w.spawner = some (x, l, r) →
        exec (.arrivalPlacement cluster core slot) s = .next
          ((u.settleIn { a with home := ⟨cluster, core, slot⟩ } ⟨cluster, core, slot⟩).fillRegs x l
            [(r, State.ownerTag 20 (u.settleIn { a with home := ⟨cluster, core, slot⟩ } ⟨cluster, core, slot⟩)
              { a with home := ⟨cluster, core, slot⟩, place := ⟨cluster, core, slot⟩ } 0)])))

/-- R399-R404, R409: the next unit or group of a launch is placed where R399 says; the oldest pushed codelet of a core starts in
its first free user slot; a launch whose work is over completes once what clusters hold for the host is written back; a graph
node runs, is skipped, or decides its successors by a predicate that is read when its last predecessor is over; a swapped warp
comes in, where all are resident in place of an idle or halted one.
Choices of the model that it rests on: log entries 25, 40, 41, 42. -/
def Obligations.LaunchEvents : Prop :=
  ∀ (s : State) (n cluster core slot : Nat),
    (∀ l, s.launches.find? (·.id == n) = some l → l.cancelled = false → l.sent < l.count → s.nextCluster l = some cluster →
      (l.wide = true → s.bestCore cluster 1 = some core →
        exec (.unitDispatch n cluster core slot) s = .next (s.placeWarp n cluster core)) ∧
      (l.wide = false → s.bestSlot cluster = some ⟨cluster, core, slot⟩ →
        exec (.unitDispatch n cluster core slot) s = .next ((List.range l.bundle).foldl (fun s _ => s.placeUnit n cluster) s))) ∧
    (∀ (e : RingEntry) (es : List RingEntry), s.ringOf ⟨cluster, core⟩ = e :: es →
      ((List.range 15).find? fun i => !s.slotTaken ⟨cluster, core, i⟩) = some slot →
      ∃ (a : Agent) (u : State), u = s.claimSlot ⟨cluster, core, slot⟩ e.job ∧
        exec (.codeletStart cluster core slot) s = .next { u with
          agents := u.agents ++ [a], nextId := u.nextId + 1, rings := u.rings.erase e } ∧
        a.kind = .codelet ∧ a.job = e.job ∧ a.launch = e.launch ∧ a.place = ⟨cluster, core, slot⟩ ∧
        (a.slotA.map (·.pc)) = some ((s.lword ⟨cluster, core⟩ (e.off / 4 + 1)).v ++ (s.lword ⟨cluster, core⟩ (e.off / 4)).v) ∧
        (∀ i : Fin 4, (a.lane 0).g[i.val]'(by omega) = (s.lword ⟨cluster, core⟩ (e.off / 4 + 4 + i.val)).v)) ∧
    (∀ (l : Launch) (u : State) (t : DWord), s.launches.find? (·.id == n) = some l → s.launchOver l = true → s.hostLeft = false →
      t = ((s.agents.filter fun a => a.unitOf == some l.id).foldl (fun t a => tmax t a.lastTime) l.time) →
      u = { s with agents := s.agents.filter fun a => a.unitOf != some l.id, launches := s.launches.filter (·.id != l.id) } →
      (l.graph = none → exec (.launchCompletion n) s = .next
        (u.finishCommand l.queue l.phase l.counter l.cancelled l.irq t).tidy) ∧
      (∀ g i (G : Graph) v w t', l.graph = some (g, i) →
        v = u.nodeDone g i (if l.cancelled then .cancelled else .done 0xF) t → s.graphs.find? (·.id == g) = some G →
        v.readPredicates g G.nodes.length = .ok w t' () →
        ∀ x, x = State.fire (w.updQueue G.queue fun q => { q with wins := [] }) l.counter l.cancelled t →
        exec (.launchCompletion n) s = .next (if l.irq then x.interrupt l.queue else x).tidy)) ∧
    (∀ (g : Graph) (i : Nat) (ws : List DWord) (x : Queue), s.graphs.find? (·.id == n) = some g →
      g.nodes[i]? = some (.waiting, ws) → s.queueOf g.queue = some x →
      (∀ st w t, nodeRuns g.nodes i = some false ∧ st = .skipped ∨ nodeRuns g.nodes i = some true ∧ nodeKind ws = 2 ∧ st = .done 0xF →
        (s.nodeDone n i st 0).readPredicates n g.nodes.length = .ok w t () →
        exec (.nodeRun n i) s = .next (w.updQueue g.queue fun q => { q with wins := [] }).tidy) ∧
      (∀ w t, nodeRuns g.nodes i = some true → nodeKind ws = 1 → s.readPredicates n g.nodes.length = .ok w t () →
        exec (.nodeRun n i) s = .next (w.updQueue g.queue fun q => { q with wins := [] }).tidy) ∧
      (∀ u v t bs, nodeRuns g.nodes i = some true → nodeKind ws = 0 →
        s.edgeRead (edgeClient x.id g.job s.edgeTime x.wins) (ws.getD 1 0) 64 = .ok u t bs →
        (CRec.of bs).op = 1 → u.malformed g.job bs = false → u.badMask g.job (CRec.of bs) = false → (CRec.of bs).indir = false →
        v = (u.updQueue g.queue fun q => { q with wins := [] }).nodeDone n i .running 0 →
        exec (.nodeRun n i) s = .next (v.addLaunch { x with job := g.job } g.phase
            (some (n, i)) (CRec.of bs) (CRec.of bs).value ((CRec.of bs).x 1) (v.afterTime x (some (n, i)))))) ∧
    (∀ (g : Graph) (m i : Nat) (ws : List DWord) (x : Queue), s.graphs.find? (·.id == n) = some g → s.queueOf g.queue = some x →
      g.nextRead = some (i, ws) →
      (∀ u t bs, s.edgeRead (edgeClient x.id g.job s.edgeTime x.wins) (ws.getD 1 0) 4 = .ok u t bs →
        s.readPredicates n (m + 1) = (u.nodeDone n i (.done (if wordAt bs 0 = 0 then 0xC else 0x3)) t).readPredicates n m) ∧
      (∀ u t c v, s.edgeRead (edgeClient x.id g.job s.edgeTime x.wins) (ws.getD 1 0) 4 = .fault u t c v →
        s.readPredicates n (m + 1) = ((u.nodeDone n i .stuck 0).queueError g.queue c x.head).readPredicates n m)) ∧
    (∀ b : Agent, s.oldestSwapped ⟨cluster, core⟩ = some b → s.residents ⟨cluster, core⟩ < 16 →
      exec (.warpSwap cluster core slot n) s = .next (s.setAgent { b with
        status := .issuing, idleSince := s.now b.place.cluster })) ∧
    (∀ a b : Agent, s.oldestSwapped ⟨cluster, core⟩ = some b → 16 ≤ s.residents ⟨cluster, core⟩ →
      (s.agents.find? fun a => a.wide && a.place == ⟨cluster, core, slot⟩ && (a.status == .issuing || a.status == .halted)) = some a →
      a.idleSince + 2048 ≤ s.now cluster → a.acks = 0 → s.producing a = false → n < 16 →
      s.areaUsed ⟨cluster, core⟩ n = false ∨ n = b.area →
      exec (.warpSwap cluster core slot n) s = .next ((s.writeSwap a.uid n).swapIn b))

/-- R405, R410, R432: a parked unit whose cancel has come stops at its cancel point; the lanes of a coach that are cancelled
leave; the detector notes a stalled launch and reports it once after 65,536 cycles; a report reaches the supervisor as cause
0x43 with the counter, and bit 63 where reports were dropped.
Readings of the model that it rests on: log entries 16, 39. -/
def Obligations.CancelEvents : Prop :=
  ∀ (s : State) (unit slot n cluster : Nat),
    (∀ a p w, s.agent? unit = some a → a.slot (slot == 1) = some p → p.wait = some w → w.kind.cancels = true → p.mode = .run →
      (∀ t q, a.kind ≠ .coach → s.mayCancel a = true →
        ((s.withdraw unit p.mask).agent? unit).bind (·.slot (slot == 1)) = some q →
        p.parked = 0 ∨ p.mask &&& ~~~q.done ≠ 0 → s.actCancel unit (slot == 1) = some t → exec (.cancelPoint unit slot) s = .next t) ∧
      (∀ q, a.kind = .coach → p.act = false → p.trap = none → s.leavers a p.mask ≠ 0 →
        ((s.withdraw unit (s.leavers a p.mask)).agent? unit).bind (·.slot (slot == 1)) = some q →
        exec (.cancelPoint unit slot) s = .next ((s.withdraw unit (s.leavers a p.mask)).leaveAt unit p.pc
          (s.leavers a p.mask &&& ~~~q.done)))) ∧
    (∀ l, s.launches.find? (·.id == n) = some l →
      (s.stalled l = false → exec (.quiescence n) s = .next (s.updLaunch n fun l => { l with quietSince := none })) ∧
      (s.stalled l = true → l.quietSince = none →
        exec (.quiescence n) s = .next (s.updLaunch n fun x => { x with quietSince := some (s.now l.lowest) })) ∧
      (∀ t, s.stalled l = true → l.quietSince = some t → l.reported = false → t + 65536 ≤ s.now l.lowest →
        (s.quietReports.filter (·.1 == l.lowest)).length < 64 →
        ∃ u, exec (.quiescence n) s = .next u ∧ u.quietReports = s.quietReports ++ [(l.lowest, l.counter)] ∧
          u.agents = s.agents ∧ u.mem = s.mem ∧ .quiescent l.queue l.counter ∈ u.reports ∧
          u.launches = s.launches.map fun x => if x.id = n then { x with reported := true } else x)) ∧
    (∀ r a p, s.quietReports.find? (·.1 == cluster) = some r →
      (s.agents.find? fun a => a.kind == .supervisor && a.place == ⟨cluster, 0, 15⟩ && a.status == .issuing) = some a →
      a.slotA = some p → p.act = false → p.wait = none → p.trap = none → p.mode = .run →
      exec (.quiescenceReport cluster 0) s = .next (State.takeTrap
        { s with quietReports := s.quietReports.erase r, quietDropped := s.quietDropped.filter (· != cluster) } a.uid false 0x43
        (BitVec.ofNat 64 r.2 ||| (if s.quietDropped.contains cluster then 0x8000000000000000 else 0)) 0 p.pc))

/-! ### Host queues, the spill engine, system registers, the host and the links, security, power, health -/

/-- R395, R397, R398, R405: a command at HEAD starts and has its effect: a launch with its count, a graph with its nodes, a
phase, a satisfied WAIT, a SIGNAL, a CANCEL of what is bound to the counter, a COPY, a FENCE; from WAIT on, one whose level is
cancelled completes as cancelled and has no effect.
Choices of the model that it rests on: log entries 17, 25, 57. -/
def Obligations.QueueCommands : Prop :=
  ∀ (q : Nat) (s u : State) (x : Queue) (r : CRec),
    (Starts 1 q s x r u → r.indir = false ∨ u.levelGone x.job x.phase none = true →
      exec (.launch q) s = .next (u.addLaunch x x.phase none r r.value (r.x 1) x.time)) ∧
    (∀ v t bs, Starts 1 q s x r u → r.indir = true → u.levelGone x.job x.phase none = false →
      u.edgeRead (edgeClient x.id x.job u.edgeTime x.wins) (r.x 3) 4 = .ok v t bs →
      exec (.launch q) s = .next (v.addLaunch x x.phase none r (wordAt bs 0).toNat (r.x 1) (tmax x.time t))) ∧
    (∀ v w t t' bs nodes, Starts 2 q s x r u → (r.x 0).toNat % 64 = 0 →
      u.edgeRead (edgeClient x.id x.job u.edgeTime x.wins) (r.x 0) (64 * (r.x 1).toNat) = .ok v t bs →
      nodes = ((List.range (r.x 1).toNat).map fun i => (List.range 8).map fun k => dwAt bs (64 * i + 8 * k)) →
      (nodes.zipIdx.any fun y => !nodeOk nodes y.2 y.1) = false → v.levelGone x.job x.phase none = false →
      State.readPredicates v.nextId (r.x 1).toNat { v with
        graphs := v.graphs ++ [⟨v.nextId, x.job, q, r.cnt, nodes.map fun ws => (.waiting, ws), x.phase, r.irq, false, 0⟩]
        nextId := v.nextId + 1 } = .ok w t' () →
      exec (.graph q) s = .next w.tidy) ∧
    (∀ v, Starts 3 q s x r u → v = State.updQueue { u with
        phases := (u.phases.map fun (p : Phase) => if x.phase = some p.id then { p with ended := true, irq := r.irq } else p) ++
          [⟨u.nextId, q, r.cnt, false, false, false, 0⟩]
        nextId := u.nextId + 1 } q (fun y => { y with phase := some u.nextId }) →
      (x.phase = none → r.irq = true → exec (.phase q) s = .next (v.interrupt q).tidy) ∧
      (x.phase ≠ none ∨ r.irq = false → exec (.phase q) s = .next v.tidy)) ∧
    (∀ op e, Starts op q s x r u → (op, e) ∈ [(4, Instr.wait q), (5, .signal q), (6, .hostCancel q), (8, .hostFence q)] →
      u.levelGone x.job x.phase none = true → exec e s = .next (u.finishNow x r 0 true)) ∧
    (u.levelGone x.job x.phase none = false →
      (∀ t, Starts 4 q s x r u → t = ((u.counterOf x.job r.named).map (·.time)).getD 0 →
        exec (.wait q) s = .next (u.finishNow x r (tmax u.hws t))) ∧
      (Starts 5 q s x r u → (r.x 0).getLsbD 12 = false →
        exec (.signal q) s = .next (State.finishNow (u.updCounter r.named fun c =>
          { c with count := satCount c.count.toNat r.value, time := tmax c.time x.time }) x r x.time)) ∧
      (Starts 5 q s x r u → (r.x 0).getLsbD 12 = true →
        exec (.signal q) s = .next (State.finishNow (u.updCounter r.named fun c =>
          { c with count := satCount 0 r.value, cancelled := false, time := tmax c.time x.time }) x r x.time)) ∧
      (Starts 6 q s x r u →
        exec (.hostCancel q) s = .next (
          let a := (u.launches.filter fun l => l.job == x.job && l.counter == r.named).foldl (fun s l => s.cancelLaunch l.id) u
          let b := (a.graphs.filter fun g => g.job == x.job && g.counter == r.named).foldl (fun s g => s.cancelGraph g.id) a
          let c := (b.phases.filter fun p => ((u.queues.filter (·.job == x.job)).map (·.num)).contains p.queue &&
            p.counter == r.named).foldl (fun s p => s.cancelPhase p.id) b
          State.finishNow (if ((c.job x.job).jobcnt.extractLsb' 0 12).toNat = r.named then c.cancelJob x.job else c) x r 0)) ∧
      (Starts 8 q s x r u → exec (.hostFence q) s = .next (u.finishNow x r x.time))) ∧
    (∀ hs n v, hs = (s.hostCmds.filter fun h => h.queue == q && !h.failed) →
      (n, v) = (if hs = [] then (0, s) else s.chooseNat (hs.length + 1)) →
      (∀ h, hs[n]? = some h → exec (.hostCopy q) s = .next ((v.workCopy h.id).workCopy h.id)) ∧
      (hs[n]? = none → Starts 7 q v x r u →
        (u.levelGone x.job x.phase none = true → exec (.hostCopy q) s = .next (u.finishNow x r 0 true)) ∧
        (u.levelGone x.job x.phase none = false → exec (.hostCopy q) s = .next ((State.workCopy { u with
          hostCmds := u.hostCmds ++ [⟨u.nextId, q, x.job, x.phase, r.cnt, r.irq, r.x 0, r.x 1, (r.x 2).toNat, [], false, false,
            x.time, none⟩]
          nextId := u.nextId + 1 } u.nextId).workCopy u.nextId)))) ∧
    (∀ (h : HostCmd) (w : EWork) (v v' u : State) (y : EWork) (t : DWord) (n : Nat) (c : Cmd),
      s.hostCmds.find? (·.id == h.id) = some h → h.failed = false → h.performed = false →
      (match h.work with | some w => (w, s) | none => s.copyWork h) = (w, v) → v.chooseNat (2 * w.todo.length + 1) = (n, v') →
      c = edgeClient h.id h.job (tmax s.edgeTime h.time) h.wins →
      (c.steps (2 * w.todo.length - n) w v' c.time = (u, t, y, .more) →
        s.workCopy h.id = u.edgeSettle.updHostCmd h.id fun h =>
          { h with work := some y, performed := y.todo.isEmpty, time := t }) ∧
      (∀ x, c.steps (2 * w.todo.length - n) w v' c.time = (u, t, y, .held x) →
        s.workCopy h.id = (u.edgeSettle.updHostCmd h.id fun h =>
          { h with work := some y, performed := y.todo.isEmpty, time := t }).askHold c x)) ∧
    (∀ (h : HostCmd), s.hostCmds.find? (·.id == h.id) = some h → h.failed = false → h.performed = true →
      (∀ w ∈ s.winReqs, ∀ bs bad, w.kind ≠ .estore h.id bs bad) →
      s.workCopy h.id = (State.finishCommand { s with hostCmds := s.hostCmds.filter (·.id != h.id) } h.queue h.phase h.counter false
        h.irq h.time).tidy)

/-- R395, R396, R464-R466: a doorbell's window of 2^31, its error and its new TAIL; a queue that is DISABLED is enabled on a ring that
R395 admits, with one of 2,048 vectors; a reset queue is DISABLED; a malformed record, and a LAUNCH that starts with a cluster outside
`CLMASK`, puts the queue in ERROR with code 0x01 and its HEAD; the host reads HEAD, the state and a level counter.
Choices of the model that it rests on: log entries 17, 72. -/
def Obligations.QueuesAnswer : Prop :=
  ∀ (q : Nat) (s : State) (x : Queue), s.queueOf q = some x →
    (∀ v : Word, x.state = .running ∨ x.state = .waiting →
      (v = x.tail ∨ 2 ^ 31 ≤ (v - x.tail).toNat → exec (.dbell q v) s = .next s) ∧
      (v ≠ x.tail → (v - x.tail).toNat < 2 ^ 31 → x.size < (v - x.head).toNat →
        exec (.dbell q v) s = .next { (s.clearWalkFaults x.id).updQueue q fun y =>
          { y with state := .error, code := 0x02, errHead := x.head } with reports := s.reports ++ [.queueError q 0x02] }) ∧
      (v ≠ x.tail → (v - x.tail).toNat < 2 ^ 31 → (v - x.head).toNat ≤ x.size →
        exec (.dbell q v) s = .next (s.updQueue q fun y => { y with tail := v }))) ∧
    (∀ v : Word, x.state = .disabled ∨ x.state = .error ∨ x.state = .stopped → exec (.dbell q v) s = .next s) ∧
    (∀ base size job vector, q < 16384 → vector < 2048 → x.state = .disabled → s.lifecycle ≠ .decommissioned → ringOk base size = true →
      exec (.queueEnable q base size job vector) s = .next { s with
        queues := (s.queues.filter (·.num != q)) ++ [⟨q, .running, base, size, job, vector, 0, 0, 0, 0, 0, none, 0, s.nextId, []⟩]
        nextId := s.nextId + 1 }) ∧
    (x.state = .error ∨ x.state = .stopped →
      exec (.queueReset q) s = .next { s.updQueue q fun x => { x with state := .disabled, phase := none } with
        hostCmds := s.hostCmds.filter fun h => h.queue != q || !h.failed
        phases := s.phases.filter fun p => x.phase != some p.id }) ∧
    (∀ v bs y, x.state = .running ∨ x.state = .waiting → x.head ≠ x.tail → s.headBytes x = .ok (v, bs, false) →
      v.malformed x.job bs = true ∨ v.mayStart x (CRec.of bs) = true ∧ v.badMask x.job (CRec.of bs) = true → v.queueOf q = some y →
      exec (.malformedRecord q) s = .next { (v.clearWalkFaults y.id).updQueue q fun y =>
        { y with state := .error, code := 0x01, errHead := x.head } with reports := v.reports ++ [.queueError q 0x01] }) ∧
    (q < 16384 → s.hostValue (.bar2 (4096 * q + 8) 8) = some [x.head.toNat] ∧ s.hostValue (.bar2 (4096 * q + 16) 8) = some [
      (x.state.code ++ x.code ++ (0 : BitVec 4) ++ BitVec.ofNat 12 x.quiet ++ x.errHead).toNat]) ∧
    (∀ c n, n < 4096 → s.counters.find? (·.num == n) = some c →
      s.hostValue (.counter n) = some [(BitVec.ofNat 32 c.job ++ BitVec.ofBool c.cancelled ++ c.count).toNat])

/-- R424-R428: a spill writes the traveller's record at its home slot's place and frees the slot, where a traveller of the slot that
travels is spilled where it arrives, and a warp's spill both records
of a coach and its shadow wave, once nothing is parked or pending; a restore takes a spilled traveller, and a resume a spilled
warp, from its record; what is not there, occupied, of another job, or in no tier is answered by DONE or ERR.
Choices of the model that it rests on: log entries 43, 49, 69. -/
def Obligations.SpillEngine : Prop :=
  ∀ (s : State) (cluster core slot job : Nat) (p : Place), p = ⟨cluster, core, slot⟩ →
    (∀ a : Agent, Commanded s 0 cluster core slot job →
      (s.spillOf cluster).target.bind s.agent? = some a ∧ a.status ≠ .travelling ∧ a.inSlot = true ∨
        (s.spillOf cluster).target.bind s.agent? = none ∧ s.inSlotOf p = some a →
      (∀ (b : Agent) (u : State), a.job = job → recordOk (s.travAddr a.home) 1024 = true →
        a.inHandler = false → (s.unpark a).agent? a.uid = some b → b.finishing = false → (s.unpark a).settled b = true →
        (s.unpark a).physWrite cluster ((s.unpark a).travAddr b.home) ((s.unpark a).travRec b) = .ok u →
        exec (.spillSlot cluster core slot) s = .next ((u.setSpilled b.uid).spDone cluster)) ∧
      (a.job ≠ job → exec (.spillSlot cluster core slot) s = .next (s.spFail cluster 0x27)) ∧
      (a.job = job → recordOk (s.travAddr a.home) 1024 = false →
        exec (.spillSlot cluster core slot) s = .next (s.spFail cluster 0x28)) ∧
      (a.job = job → recordOk (s.travAddr a.home) 1024 = true → a.inHandler = true →
        exec (.spillSlot cluster core slot) s = .next s)) ∧
    (Commanded s 0 cluster core slot job → (s.spillOf cluster).target.bind s.agent? = none → s.inSlotOf p = none →
      (s.homedAt p job = none → exec (.spillSlot cluster core slot) s = .next (s.spDone cluster)) ∧
      (∀ a, s.homedAt p job = some a →
        (a.job ≠ job → exec (.spillSlot cluster core slot) s = .next (s.spFail cluster 0x27)) ∧
        (a.job = job → a.status ≠ .travelling → exec (.spillSlot cluster core slot) s = .next (s.spDone cluster)) ∧
        (a.job = job → a.status = .travelling →
          exec (.spillSlot cluster core slot) s = .next (s.setSpill { s.spillOf cluster with target := some a.uid })))) ∧
    (∀ a u xs, Commanded s 1 cluster core slot job → s.inSlotOf p = none → recordOk (s.travAddr p) 1024 = true →
      (∀ b ∈ s.agents, b.job = job ∨ s.holdsSlot p b = false) → s.homedAt p job = some a →
      a.status = .spilled → s.physRead cluster (s.travAddr p / 128) 8 = .ok (u, xs) →
      (travOk xs = true → exec (.restoreSlot cluster core slot) s = .next
        (((u.claimSlot p job).setAgent (u.restored a p xs)).spDone cluster)) ∧
      (travOk xs = false → exec (.restoreSlot cluster core slot) s = .next (u.spFail cluster 0x19))) ∧
    (∀ a, Commanded s 1 cluster core slot job → s.inSlotOf p = some a →
      exec (.restoreSlot cluster core slot) s = .next (s.spFail cluster 0x01)) ∧
    (Commanded s 1 cluster core slot job → s.inSlotOf p = none → recordOk (s.travAddr p) 1024 = false →
      exec (.restoreSlot cluster core slot) s = .next (s.spFail cluster 0x28)) ∧
    (∀ b ∈ s.agents, Commanded s 1 cluster core slot job → s.inSlotOf p = none → recordOk (s.travAddr p) 1024 = true →
      b.job ≠ job → s.holdsSlot p b = true → exec (.restoreSlot cluster core slot) s = .next (s.spFail cluster 0x27)) ∧
    (∀ (ws vs : List Agent) (t u : State), Commanded s 2 cluster core slot job → ws = s.pairAt p Agent.admitted → ws ≠ [] →
      (∀ a ∈ ws, a.job = job ∧ recordOk (s.warpAddr a.place) 9728 = true ∧ a.inHandler = false ∧ ∀ ln ∈ a.lanes, ln.chain = none) →
      t = ws.foldl (fun s a => s.unpark a) s →
      vs = ws.filterMap (fun a => t.agent? a.uid) → (∀ a ∈ vs, a.finishing = false ∧ t.settled a = true) →
      State.writeWarps cluster vs t = .ok u →
      exec (.preemptWarp cluster core slot) s = .next ((vs.foldl (fun s a => s.setSpilled a.uid) u).spDone cluster)) ∧
    (Commanded s 2 cluster core slot job → s.pairAt p Agent.admitted = [] →
      exec (.preemptWarp cluster core slot) s = .next (s.spDone cluster)) ∧
    (∀ (ws : List Agent) (u : State), Commanded s 3 cluster core slot job → ws = s.pairAt p (fun a => a.status == .spilled) →
      ws ≠ [] → (∀ a ∈ ws, a.job = job ∧ recordOk (s.warpAddr a.place) 9728 = true ∧
        ∀ b ∈ s.agents, b.wide = true → b.admitted = true → b.place ≠ a.place) →
      (∀ bs, State.readWarps cluster ws s = .ok (u, some bs) →
        exec (.resumeWarp cluster core slot) s = .next ((bs.foldl (fun s b => s.admitWarp b) u).spDone cluster)) ∧
      (State.readWarps cluster ws s = .ok (u, none) →
        exec (.resumeWarp cluster core slot) s = .next (u.spFail cluster 0x19)))

/-- R127, R388, R413, R476, R479: the writes of system software and firmware: an event selector and its counter, a lane's time
(raised only, up to `ctime`), the grant that masks a job's clusters, the lease table, the registers of a job, and those of a
unit with the reserved bits as they read.
Readings of the model that it rests on: log entry 35. -/
def Obligations.SystemWrites : Prop :=
  ∀ (s : State) (unit lane job cluster k : Nat) (v : DWord),
    (exec (.evsel cluster k v) s = .next { s with evc := (s.evc.filter (·.cluster != cluster)) ++ [{ s.evOf cluster with
      sel := (s.evOf cluster).sel.set (k % 8) ((v &&& 0x100) |||
        (if (v.extractLsb' 0 8).toNat < 0x10 then (v.extractLsb' 0 8).setWidth 64 else 0)) (Nat.mod_lt _ (by decide))
      cnt := (s.evOf cluster).cnt.set (k % 8) 0 (Nat.mod_lt _ (by decide)) }] }) ∧
    (∀ a, s.agent? unit = some a → exec (.ltimeWrite unit lane v) s = .next (s.updLane unit lane fun ln =>
      { ln with ltime := tmax ln.ltime (if v.toNat ≤ (s.ctimeOf a.place.cluster).toNat then v else s.ctimeOf a.place.cluster) })) ∧
    (exec (.clgrantWrite job v) s = .next ((s.needJob job).updJob job fun j => { j with clgrant := v, clmask := j.clmask &&& v })) ∧
    (exec (.clmaskWrite job v) s = .next (s.updJob job fun j => { j with clmask := v &&& j.clgrant })) ∧
    (exec (.leasesWrite job false v) s = .next (s.updJob job fun j => { j with leases0 := v &&& 0xFFFFFFFFFFFF0000 })) ∧
    (exec (.leasesWrite job true v) s = .next (s.updJob job fun j => { j with leases1 := v })) ∧
    (exec (.registerWrite unit lane 0x200 v) s = .next { s with recbase := v &&& 0x0000FFFFFFFF0000 }) ∧
    (exec (.registerWrite job lane 0x100 v) s = .next ((s.needJob job).updJob job fun j =>
      { j with trapvec := v &&& 0x00FFFFFFFFFFC000 })) ∧
    (exec (.registerWrite job lane 0x108 v) s = .next ((s.needJob job).updJob job fun j =>
      { j with ptbase := v &&& 0x0000FFFFFFFFE000 })) ∧
    (exec (.registerWrite job lane 0x10B v) s = .next ((s.needJob job).updJob job fun j =>
      { j with routebase := v &&& 0x00FFFFFFFFFFF000 })) ∧
    (exec (.registerWrite job lane 0x10D v) s = .next ((s.needJob job).updJob job fun j => { j with jobcnt := v &&& 0xFFF })) ∧
    (∀ a, s.agent? unit = some a →
      (exec (.registerWrite unit lane 0x004 v) s = .next ((s.cregLane unit lane 4 v).updAgent unit fun a =>
        { a with fpctl := v &&& 0x3F03 })) ∧
      (exec (.registerWrite unit lane 0x101 v) s = .next ((s.cregLane unit lane 0x101 v).updAgent unit fun a =>
        { a with frame := { a.frame with epc := v } })))

/-- R55, R461-R463, R469: the host reaches near and capacity memory through its two decoders and its own memory without one; it reads a
line at the home, writes at raise(`htime`, `rts` + 1) with `HWS` raised to cover it and poison as its data has it, takes a
line for itself, and answers a back-invalidate snoop with its dirty data; a snoop of the host's own memory gives the data, or
gives up the line; an address that is none of these does not exist.
Choices of the model that it rests on: log entries 19, 52, 80. -/
def Obligations.HostAccesses : Prop :=
  ∀ (s : State) (line addr pa : Nat) (data : HostBytes),
    (∀ b : Nat, s.hdm[0] = some b → (∀ o < 0x6000000000, s.hostPa (b + o) = some o) ∧ (s.hdm[1] = none → ∀ a, a < b → a < 2 ^ 46 →
      s.hostPa a = some (0x800000000000 + a))) ∧
    (∀ b : Nat, s.hdm[1] = some b → s.hdm[0] = none → ∀ o < 0x20000000000, s.hostPa (b + o) = some (0x10000000000 + o)) ∧
    (∀ u a, s.hostPa (128 * line) = some pa → s.homeReadAt (pa / 128) (s.htime[sliceOf (pa / 128)].setWidth 64) 0 = .ok (u, a) →
      exec (.hostRead line) s = .next ((u.hostKeeps (pa / 128) false).tellHost (pa / 128))) ∧
    (∀ u, s.hostPa addr = some pa → s.hostPa (addr + data.bytes.length - 1) = some (pa + data.bytes.length - 1) →
      s.hostParts pa data.bytes data.bad = .ok u → exec (.hostWrite addr data) s = .next u) ∧
    (∀ u off, line = pa / 128 → off = pa % 128 → 0 < data.bytes.length → off + data.bytes.length ≤ 128 → s.hostRecall line = .ok u →
      ∃ t, s.hostParts pa data.bytes data.bad = .ok t ∧ t.mem = Memory.writeBytes u.mem pa data.bytes ∧
        (∀ w, w = smax u.htime[sliceOf line] ((u.homeOf line).rts + 1) → t.hws = raise u.hws w ∧
          t.homes = sput Home.fresh line { u.homeOf line with
            wts := w, rts := w, bad := ((u.homeOf line).bad &&& ~~~(BitVec.ofNat 8 (((List.range 8).filter fun i =>
              decide (off ≤ 16 * i ∧ 16 * i + 16 ≤ off + data.bytes.length)).foldl (fun m i => m + 2 ^ i) 0))) |||
              (if data.bad then sectorMask off data.bytes.length else 0) } u.homes)) ∧
    (∀ u, s.hostPa (128 * line) = some pa → s.hostRecall (pa / 128) = .ok u →
      exec (.hostOwnershipRequest line) s = .next ((u.hostKeeps (pa / 128) true).tellHost (pa / 128))) ∧
    (∀ n u, s.snoops.find? (·.1 == n) = some (n, line) →
      u = State.setHome { s with snoops := s.snoops.filter (·.1 != n) } line { s.homeOf line with host := false } →
      exec (.backInvalidateReply n none) s = .next u ∧
      ∀ d : DirtyLine, exec (.backInvalidateReply n (some d)) s = .next (u.hostStore line 0 (toBytes 128 d.data.toNat) d.bad)) ∧
    (∀ u, hostOwn line = true → s.hostRecall line = .ok u →
      exec (.snoopInvalidate line) s = .next ((u.tellHost line).hostStore line 0 [])) ∧
    (∀ u a, hostOwn line = true → s.homeReadAt line (s.htime[sliceOf line].setWidth 64) 0 = .ok (u, a) →
      exec (.snoopData line) s = .next ((u.tellHost line).hostStore line 0 [])) ∧
    (s.hostPa (128 * line) = none →
      exec (.hostRead line) s = .fault (.unassignedAddress (128 * line)) ∧
      exec (.hostOwnershipRequest line) s = .fault (.unassignedAddress (128 * line))) ∧
    (s.hostPa addr = none → exec (.hostWrite addr data) s = .fault (.unassignedAddress addr))

/-- R467-R469: a flit's 256 bytes hold TYPE, SEQ, ACK, 240 bytes and the CRC; it is accepted only in SEQ order, with its ACK; a peer's request is served at this device's home and answered
on the link, the answer of a window request gives its value or acknowledges its write; credits and idle flits have no other
effect, a flit with a CRC failure none; a replay counts a retry, and marks the requests of a link that replays again; a request
is given up 2^24 cycles later.
Choices of the model that it rests on: log entries 18, 19, 50. -/
def Obligations.LinkFlits : Prop :=
  ∀ (s u : State) (link seq ack : Nat) (bytes pay : List Byte) (x : Link), s.linkNo link = some x →
    pay = (flitPayload bytes).toList →
    (∀ f : Flit, f.ty < 16 → f.seq < 4096 → f.ack < 4096 → f.bad = Config.flitPoisoned f.payload.toList → flitOf f.raw = some f) ∧
    (seq % 4096 ≠ (x.inSeq + 1) % 4096 →
      exec (.creditFlit link seq ack bytes) s = .next s ∧ exec (.idleFlit link seq ack bytes) s = .next s ∧
      exec (.requestFlit link seq ack bytes) s = .next s ∧ exec (.responseFlit link seq ack bytes) s = .next s ∧
      exec (.dataFlit link seq ack bytes) s = .next s) ∧
    (seq % 4096 = (x.inSeq + 1) % 4096 → u = (s.updLink link fun x => { x.acknowledge ack with inSeq := seq % 4096 }) →
      exec (.creditFlit link seq ack bytes) s = .next u ∧ exec (.idleFlit link seq ack bytes) s = .next u ∧
      (∀ q v ty bs bad, Config.peerRequest pay = some q → peerReaches (peerRange q).1 = true → peerReaches (peerRange q).2 = true →
        u.servePeer q = .ok (v, ty, bs, bad) → exec (.requestFlit link seq ack bytes) s = .next (v.sendFlit link ty bs bad)) ∧
      (∀ n r, Config.answered pay = some n → u.winOf n = some r → r.link = link →
        (exec (.dataFlit link seq ack bytes) s = .next (u.winValue r (Config.flitData pay) (Config.flitPoisoned pay))) ∧
        (∀ bs bad, r.kind = .store bs bad → exec (.responseFlit link seq ack bytes) s = .next
          (State.updAgent { u with winReqs := u.winReqs.filter (·.id != r.id) } r.uid fun a => { a with acks := a.acks - 1 })) ∧
        (∀ e d acq sys, r.kind = .atomic e d acq sys → exec (.responseFlit link seq ack bytes) s = .next
          (u.winValue r (Config.flitData pay) (Config.flitPoisoned pay))))) ∧
    (exec (.flitCrcFailure link) s = .next s) ∧
    (x.sent ≠ [] → x.replaying = false →
      exec (.flitReplay link) s = .next ((s.countRetry link).updLink link fun x => { x with replaying := true })) ∧
    (x.sent ≠ [] → x.replaying = true → u = ((s.countRetry link).updLink link fun x => { x with replaying := true }) →
      exec (.flitReplay link) s = .next { u with winReqs := u.winReqs.map fun r =>
        if r.link = link ∧ r.failed = none then { r with failed := some (u.now (u.coreOf r.uid).cluster) } else r }) ∧
    (∀ n r c, s.winOf n = some r → r.failed = some c → c + 2 ^ 24 ≤ s.now (s.coreOf r.uid).cluster →
      exec (.windowRequestTimeout n) s = .next (s.giveUp r))

/-- R470, R471: the responder answers each SPDM request, and signs with RSA-3072 what it attests; index 0xF0 is the SLH-DSA signature
over the others, and the whole block carries both signatures over one digest; what rests on a chain that fails a signature, or on keys that
are erased, is answered with an error. The numbers of the codes are the model's choice (log entry 20). -/
def Obligations.Attestation : Prop :=
  ∀ (s : State) (slot off len nonce : Nat) (index : BitVec 8) (offered : Word),
    exec .getVersion s = .next { s with spdm := s.spdm ++ [⟨0x04, [0x13]⟩] } ∧
    exec .getCapabilities s = .next { s with spdm := s.spdm ++ [⟨0x61, [0x84, 0xE1, 0xE3, 0x81, 0x82, 0x83, 0xE0]⟩] } ∧
    exec (.negotiateAlgorithms offered) s = .next { s with spdm := s.spdm ++ [⟨0x63, [(offered &&& 8).toNat, 2]⟩] } ∧
    (s.lifecycle ≠ .decommissioned →
      (accepted (.certificate 0) = true →
        exec .getDigests s = .next { s with spdm := s.spdm ++ [⟨0x01, [(Config.sha384 [Config.certificate 0]).toNat]⟩] } ∧
        (∀ body, body = [index.toNat, nonce] ++ s.measured index →
          exec (.getMeasurements index nonce) s = .next { s with
            spdm := s.spdm ++ [⟨0x60, body ++ [(Config.rsaSign (Config.sha384 body)).toNat]⟩] })) ∧
      (accepted (.certificate slot) = true →
        exec (.getCertificate slot off len) s = .next { s with
          spdm := s.spdm ++ [⟨0x02, [slot, Config.certificate slot / 256 ^ off % 256 ^ len]⟩] } ∧
        (∀ body, body = [slot, nonce, (Config.sha384 [Config.certificate slot]).toNat, (Config.sha384 (s.measured 0xFF)).toNat] →
          exec (.challenge slot nonce) s = .next { s with
            spdm := s.spdm ++ [⟨0x03, body ++ [(Config.rsaSign (Config.sha384 body)).toNat]⟩] }))) ∧
    (s.lifecycle = .decommissioned ∨ accepted (.certificate slot) = false → ∀ t, t = { s with spdm := s.spdm ++ [⟨0x7F, []⟩] } →
      exec (.getCertificate slot off len) s = .next t ∧ exec (.challenge slot nonce) s = .next t) ∧
    (s.lifecycle = .decommissioned ∨ accepted (.certificate 0) = false → ∀ t, t = { s with spdm := s.spdm ++ [⟨0x7F, []⟩] } →
      exec .getDigests s = .next t ∧ exec (.getMeasurements index nonce) s = .next t) ∧
    (∀ all d, all = s.measurements.map (·.2) → d = Config.sha384 all →
      s.measured 0xF0 = [Config.slhSign d] ∧ s.measured 0xFF = all ++ [Config.slhSign d, (Config.rsaSign d).toNat])

/-- R472-R474: the power states and their events; a cluster is gated, but in Production-Debug with the invasive level open, and then
keeps no local state but its open Waymark slots; a sag step k of one of the six dies, whose recovery
takes k down by 1 every 256 cycles.
Choices of the model that it rests on: log entries 44, 47. -/
def Obligations.PowerStates : Prop :=
  ∀ (s : State) (cluster die k : Nat),
    (s.power = .active → exec .throttle s = .next { s with power := .throttled }) ∧
    (s.power = .throttled → exec .throttleRecovery s = .next { s with power := .active }) ∧
    (s.power = .active ∨ s.power = .throttled → (∀ x ∈ s.queues, x.state = .disabled) →
      exec .standby s = .next { s with power := .standby }) ∧
    (s.power = .standby → s.lifecycle ≠ .decommissioned → exec .recovery s = .next { s with power := .active }) ∧
    (∃ t, exec .powerOff s = .next t ∧ exec .overTemperature s = .next t ∧ t.power = .off ∧ t.agents = [] ∧ t.copies = [] ∧
      t.homes = [] ∧ t.life = s.life ∧ t.image = s.image ∧ t.lifecycle = s.lifecycle ∧
      t.mem = s.mem.filter fun c => regionOf c.1 == some .host) ∧
    (cluster < 64 → (∀ j ∈ s.jobs, j.clmask.getLsbD cluster = false) →
      (∀ a ∈ s.agents, a.place.cluster = cluster → a.admitted = false) → s.unanswered cluster = false →
      s.lifecycle ≠ .productionDebug ∨ s.debug ≠ 2 → s.power = .active ∨ s.power = .throttled →
      ∃ t, exec (.clusterGate cluster) s = .next t ∧ t.gated = setBit s.gated cluster true ∧
        (∀ x ∈ t.lwords, x.1 / (64 * 2 ^ 18) ≠ cluster) ∧ (∀ x ∈ t.tiles, x.core.cluster ≠ cluster) ∧
        (∀ x ∈ t.tlb, x.1 ≠ cluster) ∧ (∀ x ∈ t.utlb, x.1.cluster ≠ cluster) ∧
        t.wm = s.wm ∧ (∀ x ∈ t.evc, x.cluster ≠ cluster) ∧ (∀ x ∈ t.spills, x.cluster ≠ cluster) ∧
        (∀ x ∈ t.cores, x.core.cluster ≠ cluster) ∧ t.ctimeOf cluster = 0) ∧
    (s.lifecycle = .productionDebug → s.debug = 2 → exec (.clusterGate cluster) s = .next s) ∧
    (cluster < 64 → s.gated.getLsbD cluster = true →
      exec (.clusterUngate cluster) s = .next { s.clearCluster cluster with gated := setBit s.gated cluster false }) ∧
    (die < 6 → k ≤ 8 → exec (.supplySag die k) s = .next { s with sag := s.sag.filter (·.die != die) ++ [⟨die, k, none⟩] }) ∧
    (exec (.supplyRecovery die) s = .next { s with sag := ((s.sag.map fun x => if x.die = die then
      (if x.since.isNone then { x with since := some (s.now (16 * die)) } else x) else x).filter (·.k != 0)) }) ∧
    (∀ f : Sag → Sag, (∀ x, x.die ≠ die ∨ x.since = none → f x = x) →
      (∀ x t, x.die = die → x.since = some t → f x = if t + 256 ≤ s.now (16 * die) then ⟨die, x.k - 1, some (t + 256)⟩ else x) →
      exec (.sagRecoveryStep die) s = .next { s with sag := (s.sag.map f).filter (·.k != 0) })

/-- R470, R472, R475: a lifecycle step forward takes effect at the next reset and any other is logged; a debug level is changed in
Standby within the table of R472, and any other combination is logged; a reset with an accepted first image makes the device Active with the architectural state
cleared, or leaves a decommissioned one in Standby, and with a rejected one stops in Standby with the rejection logged and no image changed.
Choices of the model that it rests on: log entries 45, 46, 51. -/
def Obligations.ResetAndLifecycle : Prop :=
  ∀ (s : State) (level imageA imageB : Nat) (l : Lifecycle),
    (lifecycleOf level = some l → forward s.lifecycle l = true →
      exec (.lifecycleChange level) s = .next { s with nextLifecycle := some l }) ∧
    (lifecycleOf level = some l → forward s.lifecycle l = false →
      exec (.lifecycleChange level) s = .next (s.logError (.refusedLevel level) .sram 0 0)) ∧
    (s.power = .standby → levelOk s.lifecycle level = true →
      (s.lifecycle ≠ .productionDebug ∨ level ≠ 2 → exec (.debugLevelChange level true) s = .next { s with debug := level }) ∧
      (s.lifecycle = .productionDebug → level = 2 →
        exec (.debugLevelChange level true) s = .next { s.ungateAll with debug := level } ∧ s.ungateAll.gated = 0)) ∧
    (∀ authorised, levelOk s.lifecycle level = false →
      exec (.debugLevelChange level authorised) s = .next (s.logError (.refusedLevel level) .sram 0 0)) ∧
    (∀ authorised, levelOk s.lifecycle level = true → authorised = false ∨ s.power ≠ .standby →
      exec (.debugLevelChange level authorised) s = .next s) ∧
    (s.nextLifecycle.getD s.lifecycle ≠ .decommissioned → imageOk imageA = true →
      ∃ t, exec (.deviceReset imageA imageB) s = .next t ∧ t.power = .active ∧ t.image.1 = imageA ∧
        t.image.2 = (if imageOk imageB = true then imageB else s.image.2) ∧
        t.lifecycle = s.nextLifecycle.getD s.lifecycle ∧ t.nextLifecycle = none ∧ t.agents = [] ∧ t.jobs = [] ∧ t.queues = [] ∧
        t.copies = [] ∧ t.lwords = [] ∧ t.tlb = [] ∧ t.wm = [] ∧ t.spills = [] ∧ t.hws = 0 ∧
        t.ctime = Vector.replicate 64 0 ∧ t.htime = Vector.replicate 128 0 ∧ .ready ∈ t.reports) ∧
    (s.nextLifecycle.getD s.lifecycle = .decommissioned → imageOk imageA = true →
      ∃ t, exec (.deviceReset imageA imageB) s = .next t ∧ t.power = .standby ∧ t.image.1 = imageA ∧ t.lifecycle = .decommissioned ∧
        t.nextLifecycle = none ∧ t.agents = [] ∧ t.queues = [] ∧ t.reports = s.reports) ∧
    (imageOk imageA = false →
      ∃ t, exec (.deviceReset imageA imageB) s = .next t ∧ t.power = .standby ∧ t.image = s.image ∧ t.agents = [] ∧
        ∃ e ∈ t.life.log, e.place = .badImage 0)

/-- R411, R418, R429-R431, R475, R477: firmware resumes a double-trapped context in supervisor mode at its PC, cancels its job,
starts a halted context again and starts a supervisor in slot 15; an uncorrectable error poisons its datum and is logged, a
correctable one is counted; the records are cleared. Job and address of an entry are free where the spec does not say them.
Choices of the model that it rests on: log entries 21, 70, 79. -/
def Obligations.FirmwareActs : Prop :=
  ∀ (s : State) (unit slot job cluster core : Nat) (pc : DWord),
    (∀ (a : Agent) (p : Path) (b : Agent), s.agent? unit = some a → a.status = .halted ∨ a.status = .haltedOut →
      a.slot (slot == 1) = some p →
      b = a.mapPaths (fun q => { q with
        mode := if q.mode = .halted ∨ (q.mode = .held ∧ q.hold = none) then .run else q.mode
        priv := if q.priv = .firmware then .super else q.priv }) →
      exec (.firmwareResume unit slot pc) s = .next (State.settle (s.setAgent (Agent.setSlot
        { b with status := (if a.status = .haltedOut then .swapped else .issuing), loops := [], hloops := [], sloops := [], hrrb := 0 } (slot == 1) (some { p with
          pc := pc, act := false, priv := .super, mode := .run, trap := none, wait := none, done := 0, parked := 0, buf := [] })))
        unit)) ∧
    (∀ a, s.agent? unit = some a → a.status = .halted ∨ a.status = .haltedOut →
      exec (.firmwareJobCancel unit slot) s = .next (((s.cancelJob a.job).cancelStopped unit (slot == 1)).tidy)) ∧
    (∀ a p, s.agent? unit = some a → a.status ≠ .halted → a.status ≠ .haltedOut → a.slot (slot == 1) = some p → p.mode = .halted →
      exec (.haltRestart unit slot) s = .next (s.setAgent (a.mapPaths fun p =>
        if p.mode = .halted then { p with mode := .run } else p))) ∧
    (cluster < 64 → core < 32 → s.inSlotOf ⟨cluster, core, 15⟩ = none →
      ∃ (a : Agent) (u : State), u = (s.needJob job).claimSlot ⟨cluster, core, 15⟩ job ∧
        exec (.supervisorStart job cluster core pc) s = .next { u with agents := s.agents ++ [a], nextId := s.nextId + 1 } ∧
        a.kind = .supervisor ∧ a.job = job ∧ a.place = ⟨cluster, core, 15⟩ ∧
        (a.slotA.map fun p => (p.pc, p.priv, p.act)) = some (pc, .super, false)) ∧
    (∀ (addr j : Nat) (v : State), homed addr = true → s.chooseNat (2 ^ 32) = (j, v) →
      exec (.softError (.home addr) false) s = .next (State.logError (v.setHome (addr / 128) { v.homeOf (addr / 128) with
        bad := (v.homeOf (addr / 128)).bad ||| sectorMask (addr % 128) 1 }) (.error (.home addr)) (tierOf (.home addr)) addr j)) ∧
    (∀ l r a x v, r < 64 → s.agent? unit = some a → s.chooseNat (2 ^ 48) = (x, v) →
      exec (.softError (.reg unit l r) false) s = .next (State.logError
        (v.updLane unit l fun ln => ln.poison (Fin.ofNat 64 r)) (.error (.reg unit l r)) .sram x a.job)) ∧
    (∀ place, ∃ t, exec (.softError place true) s = .next t ∧ t.agents = s.agents ∧ t.mem = s.mem ∧ t.homes = s.homes ∧
      t.copies = s.copies ∧ t.lwords = s.lwords ∧
      t.life.correctable[tierIndex (tierOf place)] = min (s.life.correctable[tierIndex (tierOf place)] + 1) (2 ^ 48 - 1)) ∧
    (exec (.logClear false) s = .next { s with life := { s.life with log := [], overflow := false } }) ∧
    (exec (.logClear true) s = .next { s with life := State.reset.life })
end

