-- ==== Sys2Proof/Laws/Fields.lean ====
section
/-! SUPPORT. The fields of the words that `encode` lays out (08_encoding.md R155-R157): each field comes back as it went in. -/

namespace Sys2Proof.Laws

theorem extract_low {m n : Nat} (x : BitVec m) (y : BitVec n) : (x ++ y).extractLsb' 0 n = y := by
  apply BitVec.eq_of_getLsbD_eq
  intro i hi
  simp [BitVec.getLsbD_append, hi]

theorem extract_high {m n : Nat} (x : BitVec m) (y : BitVec n) (j k w : Nat) (h : j = n + k) :
    (x ++ y).extractLsb' j w = x.extractLsb' k w := by
  subst h
  apply BitVec.eq_of_getLsbD_eq
  intro i hi
  have : ¬ n + k + i < n := by omega
  have e : n + k + i - n = k + i := by omega
  simp [BitVec.getLsbD_append, hi, this, e]

/-- The whole of a vector, at its own width. -/
theorem extract_all {n : Nat} (x : BitVec n) : x.extractLsb' 0 n = x := by simp

/-! ### Word 0 -/

section Word0
variable (len : BitVec 2) (opc : BitVec 8) (f : BitVec 4) (d a b : BitVec 6)

@[simp] theorem word0_len : (word0 len opc f d a b).extractLsb' 0 2 = len := extract_low _ _
@[simp] theorem word0_opc : (word0 len opc f d a b).extractLsb' 2 8 = opc := by
  unfold word0; rw [extract_high _ _ 2 0 8 rfl]; exact extract_low _ _
@[simp] theorem word0_d : (word0 len opc f d a b).extractLsb' 10 6 = d := by
  unfold word0; rw [extract_high _ _ 10 8 6 rfl, extract_high _ _ 8 0 6 rfl]; exact extract_low _ _
@[simp] theorem word0_a : (word0 len opc f d a b).extractLsb' 16 6 = a := by
  unfold word0
  rw [extract_high _ _ 16 14 6 rfl, extract_high _ _ 14 6 6 rfl, extract_high _ _ 6 0 6 rfl]; exact extract_low _ _
@[simp] theorem word0_b : (word0 len opc f d a b).extractLsb' 22 6 = b := by
  unfold word0
  rw [extract_high _ _ 22 20 6 rfl, extract_high _ _ 20 12 6 rfl, extract_high _ _ 12 6 6 rfl, extract_high _ _ 6 0 6 rfl]
  exact extract_low _ _
@[simp] theorem word0_f : (word0 len opc f d a b).extractLsb' 28 4 = f := by
  unfold word0
  rw [extract_high _ _ 28 26 4 rfl, extract_high _ _ 26 18 4 rfl, extract_high _ _ 18 12 4 rfl, extract_high _ _ 12 6 4 rfl,
    extract_high _ _ 6 0 4 rfl]
  exact extract_all _
end Word0

section WordI
variable (opc : BitVec 8) (d a : BitVec 6) (imm : BitVec 10)

@[simp] theorem wordI_len : (wordI opc d a imm).extractLsb' 0 2 = 0 := extract_low _ _
@[simp] theorem wordI_opc : (wordI opc d a imm).extractLsb' 2 8 = opc := by
  unfold wordI; rw [extract_high _ _ 2 0 8 rfl]; exact extract_low _ _
@[simp] theorem wordI_d : (wordI opc d a imm).extractLsb' 10 6 = d := by
  unfold wordI; rw [extract_high _ _ 10 8 6 rfl, extract_high _ _ 8 0 6 rfl]; exact extract_low _ _
@[simp] theorem wordI_a : (wordI opc d a imm).extractLsb' 16 6 = a := by
  unfold wordI
  rw [extract_high _ _ 16 14 6 rfl, extract_high _ _ 14 6 6 rfl, extract_high _ _ 6 0 6 rfl]; exact extract_low _ _
@[simp] theorem wordI_imm : (wordI opc d a imm).extractLsb' 22 10 = imm := by
  unfold wordI
  rw [extract_high _ _ 22 20 10 rfl, extract_high _ _ 20 12 10 rfl, extract_high _ _ 12 6 10 rfl, extract_high _ _ 6 0 10 rfl]
  exact extract_all _
end WordI

section WordJ
variable (len : BitVec 2) (opc : BitVec 8) (disp : BitVec 22)

@[simp] theorem wordJ_len : (wordJ len opc disp).extractLsb' 0 2 = len := extract_low _ _
@[simp] theorem wordJ_opc : (wordJ len opc disp).extractLsb' 2 8 = opc := by
  unfold wordJ; rw [extract_high _ _ 2 0 8 rfl]; exact extract_low _ _
@[simp] theorem wordJ_disp : (wordJ len opc disp).extractLsb' 10 22 = disp := by
  unfold wordJ; rw [extract_high _ _ 10 8 22 rfl, extract_high _ _ 8 0 22 rfl]; exact extract_all _
end WordJ

/-! ### Word 1 -/

section Word1
variable (imm : BitVec 16) (ord : BitVec 2) (lease : BitVec 3) (b a : Src) (g : Guard)

@[simp] theorem word1_p : (word1 imm ord lease b a g).extractLsb' 0 4 = g.p := extract_low _ _
@[simp] theorem word1_neg : (word1 imm ord lease b a g)[4] = g.neg := by
  rw [← BitVec.getLsbD_eq_getElem]
  unfold word1
  rw [BitVec.getLsbD_append, BitVec.getLsbD_append]
  cases h : g.neg <;> simp [bit]
@[simp] theorem word1_amode : (word1 imm ord lease b a g).extractLsb' 5 2 = a.mode := by
  unfold word1
  rw [extract_high _ _ 5 1 2 rfl, extract_high _ _ 1 0 2 rfl]; exact extract_low _ _
@[simp] theorem word1_bmode : (word1 imm ord lease b a g).extractLsb' 7 2 = b.mode := by
  unfold word1
  rw [extract_high _ _ 7 3 2 rfl, extract_high _ _ 3 2 2 rfl, extract_high _ _ 2 0 2 rfl]; exact extract_low _ _
@[simp] theorem word1_au : (word1 imm ord lease b a g).extractLsb' 9 1 = a.u := by
  unfold word1
  rw [extract_high _ _ 9 5 1 rfl, extract_high _ _ 5 4 1 rfl, extract_high _ _ 4 2 1 rfl, extract_high _ _ 2 0 1 rfl]
  exact extract_low _ _
@[simp] theorem word1_bu : (word1 imm ord lease b a g).extractLsb' 10 1 = b.u := by
  unfold word1
  rw [extract_high _ _ 10 6 1 rfl, extract_high _ _ 6 5 1 rfl, extract_high _ _ 5 3 1 rfl, extract_high _ _ 3 1 1 rfl,
    extract_high _ _ 1 0 1 rfl]
  exact extract_low _ _
@[simp] theorem word1_lease : (word1 imm ord lease b a g).extractLsb' 11 3 = lease := by
  unfold word1
  rw [extract_high _ _ 11 7 3 rfl, extract_high _ _ 7 6 3 rfl, extract_high _ _ 6 4 3 rfl, extract_high _ _ 4 2 3 rfl,
    extract_high _ _ 2 1 3 rfl, extract_high _ _ 1 0 3 rfl]
  exact extract_low _ _
@[simp] theorem word1_ord : (word1 imm ord lease b a g).extractLsb' 14 2 = ord := by
  unfold word1
  rw [extract_high _ _ 14 10 2 rfl, extract_high _ _ 10 9 2 rfl, extract_high _ _ 9 7 2 rfl, extract_high _ _ 7 5 2 rfl,
    extract_high _ _ 5 4 2 rfl, extract_high _ _ 4 3 2 rfl, extract_high _ _ 3 0 2 rfl]
  exact extract_low _ _
@[simp] theorem word1_imm : (word1 imm ord lease b a g).extractLsb' 16 16 = imm := by
  unfold word1
  rw [extract_high _ _ 16 12 16 rfl, extract_high _ _ 12 11 16 rfl, extract_high _ _ 11 9 16 rfl, extract_high _ _ 9 7 16 rfl,
    extract_high _ _ 7 6 16 rfl, extract_high _ _ 6 5 16 rfl, extract_high _ _ 5 2 16 rfl, extract_high _ _ 2 0 16 rfl]
  exact extract_all _
end Word1

end Sys2Proof.Laws
end

