-- ==== Sys2Proof/Laws/Encode.lean ====
section
/-! SUPPORT. The words of each instruction (08_encoding.md R155-R170), one equation a constructor, so that no proof unfolds
`encode`. -/

namespace Sys2Proof.Laws

theorem encode_nop : encode .nop = z32 0x00 0 0 0 0 := rfl
theorem encode_brJ32 {disp} : encode (.brJ32 disp) = [wordJ 0 0x01 disp] := rfl
theorem encode_callJ32 {disp} : encode (.callJ32 disp) = [wordJ 0 0x02 disp] := rfl
theorem encode_chk {disp} : encode (.chk disp) = [wordJ 0 0x03 disp] := rfl
theorem encode_ret : encode .ret = z32 0x04 0 0 0 0 := rfl
theorem encode_calli {a} : encode (.calli a) = z32 0x05 0 0 a 0 := rfl
theorem encode_calliTail {a} : encode (.calliTail a) = z32 0x05 1 0 a 0 := rfl
theorem encode_brk : encode .brk = z32 0x06 0 0 0 0 := rfl
theorem encode_yield : encode .yield = z32 0x07 0 0 0 0 := rfl
theorem encode_poll : encode .poll = z32 0x08 0 0 0 0 := rfl
theorem encode_taskend : encode .taskend = z32 0x09 0 0 0 0 := rfl
theorem encode_innflush : encode .innflush = z32 0x0A 0 0 0 0 := rfl
theorem encode_drain : encode .drain = z32 0x0B 0 0 0 0 := rfl
theorem encode_drainArrive {a} : encode (.drainArrive a) = z32 0x0B 0 0 a 1 := rfl
theorem encode_isync : encode .isync = z32 0x0C 0 0 0 0 := rfl
theorem encode_eret : encode .eret = z32 0x0D 0 0 0 0 := rfl
theorem encode_halt : encode .halt = z32 0x0E 0 0 0 0 := rfl
theorem encode_addZ32 {t d a b} : encode (.addZ32 t d a b) = z32 0x10 t.code d a b := rfl
theorem encode_subZ32 {t d a b} : encode (.subZ32 t d a b) = z32 0x11 t.code d a b := rfl
theorem encode_mulZ32 {t d a b} : encode (.mulZ32 t d a b) = z32 0x12 t.code d a b := rfl
theorem encode_mulhZ32 {t d a b} : encode (.mulhZ32 t d a b) = z32 0x13 t.code d a b := rfl
theorem encode_minZ32 {t d a b} : encode (.minZ32 t d a b) = z32 0x14 t.code d a b := rfl
theorem encode_maxZ32 {t d a b} : encode (.maxZ32 t d a b) = z32 0x15 t.code d a b := rfl
theorem encode_andZ32 {t d a b} : encode (.andZ32 t d a b) = z32 0x16 t.code d a b := rfl
theorem encode_orZ32 {t d a b} : encode (.orZ32 t d a b) = z32 0x17 t.code d a b := rfl
theorem encode_xorZ32 {t d a b} : encode (.xorZ32 t d a b) = z32 0x18 t.code d a b := rfl
theorem encode_andnZ32 {t d a b} : encode (.andnZ32 t d a b) = z32 0x19 t.code d a b := rfl
theorem encode_shlZ32 {t d a b} : encode (.shlZ32 t d a b) = z32 0x1A t.code d a b := rfl
theorem encode_shrZ32 {t d a b} : encode (.shrZ32 t d a b) = z32 0x1B t.code d a b := rfl
theorem encode_sarZ32 {t d a b} : encode (.sarZ32 t d a b) = z32 0x1C t.code d a b := rfl
theorem encode_rotZ32 {t d a b} : encode (.rotZ32 t d a b) = z32 0x1D t.code d a b := rfl
theorem encode_selZ32 {p d a b} : encode (.selZ32 p d a b) = z32 0x1E p d a b := rfl
theorem encode_movZ32 {t d a} : encode (.movZ32 t d a) = z32 0x1F t.code d a 0 := rfl
theorem encode_addI32 {d a imm} : encode (.addI32 d a imm) = [wordI 0x20 d a imm] := rfl
theorem encode_mulI32 {d a imm} : encode (.mulI32 d a imm) = [wordI 0x21 d a imm] := rfl
theorem encode_minI32 {d a imm} : encode (.minI32 d a imm) = [wordI 0x22 d a imm] := rfl
theorem encode_maxI32 {d a imm} : encode (.maxI32 d a imm) = [wordI 0x23 d a imm] := rfl
theorem encode_andI32 {d a imm} : encode (.andI32 d a imm) = [wordI 0x24 d a imm] := rfl
theorem encode_orI32 {d a imm} : encode (.orI32 d a imm) = [wordI 0x25 d a imm] := rfl
theorem encode_xorI32 {d a imm} : encode (.xorI32 d a imm) = [wordI 0x26 d a imm] := rfl
theorem encode_shlI32 {d a n} : encode (.shlI32 d a n) = [wordI 0x27 d a (n.setWidth 10)] := rfl
theorem encode_shrI32 {d a n} : encode (.shrI32 d a n) = [wordI 0x28 d a (n.setWidth 10)] := rfl
theorem encode_sarI32 {d a n} : encode (.sarI32 d a n) = [wordI 0x29 d a (n.setWidth 10)] := rfl
theorem encode_rotI32 {d a n} : encode (.rotI32 d a n) = [wordI 0x2A d a (n.setWidth 10)] := rfl
theorem encode_moviI32 {d imm} : encode (.moviI32 d imm) = [wordI 0x2B d 0 imm] := rfl
theorem encode_trap {code a} : encode (.trap code a) = [wordI 0x2C 0 a (code.setWidth 10)] := rfl
theorem encode_ldI32 {d a imm} : encode (.ldI32 d a imm) = [wordI 0x2D d a imm] := rfl
theorem encode_stI32 {d a imm} : encode (.stI32 d a imm) = [wordI 0x2E d a imm] := rfl
theorem encode_notZ32 {t d a} : encode (.notZ32 t d a) = z32 0x30 t.code d a 0 := rfl
theorem encode_negZ32 {t d a} : encode (.negZ32 t d a) = z32 0x31 t.code d a 0 := rfl
theorem encode_absZ32 {t d a} : encode (.absZ32 t d a) = z32 0x32 t.code d a 0 := rfl
theorem encode_clzZ32 {t d a} : encode (.clzZ32 t d a) = z32 0x33 t.code d a 0 := rfl
theorem encode_popcZ32 {t d a} : encode (.popcZ32 t d a) = z32 0x34 t.code d a 0 := rfl
theorem encode_brevZ32 {t d a} : encode (.brevZ32 t d a) = z32 0x35 t.code d a 0 := rfl
theorem encode_faddZ32 {d a b} : encode (.faddZ32 d a b) = z32 0x36 8 d a b := rfl
theorem encode_fsubZ32 {d a b} : encode (.fsubZ32 d a b) = z32 0x37 8 d a b := rfl
theorem encode_fmulZ32 {d a b} : encode (.fmulZ32 d a b) = z32 0x38 8 d a b := rfl
theorem encode_fminZ32 {d a b} : encode (.fminZ32 d a b) = z32 0x39 8 d a b := rfl
theorem encode_fmaxZ32 {d a b} : encode (.fmaxZ32 d a b) = z32 0x3A 8 d a b := rfl
theorem encode_pand {d a b} : encode (.pand d a b) = z32 0x3B 0 (d.setWidth 6) (a.setWidth 6) (b.setWidth 6) := rfl
theorem encode_por {d a b} : encode (.por d a b) = z32 0x3C 0 (d.setWidth 6) (a.setWidth 6) (b.setWidth 6) := rfl
theorem encode_pxor {d a b} : encode (.pxor d a b) = z32 0x3D 0 (d.setWidth 6) (a.setWidth 6) (b.setWidth 6) := rfl
theorem encode_pnot {d a} : encode (.pnot d a) = z32 0x3E 0 (d.setWidth 6) (a.setWidth 6) 0 := rfl
theorem encode_addQ64 {g t sat d a b} : encode (.addQ64 g t sat d a b) = q64 0x40 g t.code d a b.v b (immSat sat) 0 0 := rfl
theorem encode_subQ64 {g t sat d a b} : encode (.subQ64 g t sat d a b) = q64 0x41 g t.code d a b.v b (immSat sat) 0 0 := rfl
theorem encode_mulQ64 {g t sat d a b} : encode (.mulQ64 g t sat d a b) = q64 0x42 g t.code d a b.v b (immSat sat) 0 0 := rfl
theorem encode_mulhQ64 {g t d a b} : encode (.mulhQ64 g t d a b) = q64 0x43 g t.code d a b.v b 0 0 0 := rfl
theorem encode_minQ64 {g t d a b} : encode (.minQ64 g t d a b) = q64 0x44 g t.code d a b.v b 0 0 0 := rfl
theorem encode_maxQ64 {g t d a b} : encode (.maxQ64 g t d a b) = q64 0x45 g t.code d a b.v b 0 0 0 := rfl
theorem encode_andQ64 {g t d a b} : encode (.andQ64 g t d a b) = q64 0x46 g t.code d a b.v b 0 0 0 := rfl
theorem encode_orQ64 {g t d a b} : encode (.orQ64 g t d a b) = q64 0x47 g t.code d a b.v b 0 0 0 := rfl
theorem encode_xorQ64 {g t d a b} : encode (.xorQ64 g t d a b) = q64 0x48 g t.code d a b.v b 0 0 0 := rfl
theorem encode_andnQ64 {g t d a b} : encode (.andnQ64 g t d a b) = q64 0x49 g t.code d a b.v b 0 0 0 := rfl
theorem encode_shlQ64 {g t d a b} : encode (.shlQ64 g t d a b) = q64 0x4A g t.code d a b.v b 0 0 0 := rfl
theorem encode_shrQ64 {g t d a b} : encode (.shrQ64 g t d a b) = q64 0x4B g t.code d a b.v b 0 0 0 := rfl
theorem encode_sarQ64 {g t d a b} : encode (.sarQ64 g t d a b) = q64 0x4C g t.code d a b.v b 0 0 0 := rfl
theorem encode_rotQ64 {g t d a b} : encode (.rotQ64 g t d a b) = q64 0x4D g t.code d a b.v b 0 0 0 := rfl
theorem encode_div {g t d a b} : encode (.div g t d a b) = q64 0x4E g t.code d a b.v b 0 0 0 := rfl
theorem encode_rem {g t d a b} : encode (.rem g t d a b) = q64 0x4F g t.code d a b.v b 0 0 0 := rfl
theorem encode_mad {g t sat d a b c} : encode (.mad g t sat d a b c) =
    q64 0x50 g t.code d a b.v b (immC false false false sat .dyn c) 0 0 := rfl
theorem encode_notQ64 {g t d a} : encode (.notQ64 g t d a) = q64 0x51 g t.code d a 0 .none 0 0 0 := rfl
theorem encode_negQ64 {g t sat d a} : encode (.negQ64 g t sat d a) = q64 0x52 g t.code d a 0 .none (immSat sat) 0 0 := rfl
theorem encode_absQ64 {g t sat d a} : encode (.absQ64 g t sat d a) = q64 0x53 g t.code d a 0 .none (immSat sat) 0 0 := rfl
theorem encode_clzQ64 {g t d a} : encode (.clzQ64 g t d a) = q64 0x54 g t.code d a 0 .none 0 0 0 := rfl
theorem encode_popcQ64 {g t d a} : encode (.popcQ64 g t d a) = q64 0x55 g t.code d a 0 .none 0 0 0 := rfl
theorem encode_brevQ64 {g t d a} : encode (.brevQ64 g t d a) = q64 0x56 g t.code d a 0 .none 0 0 0 := rfl
theorem encode_bfe {g sg pos len d a} : encode (.bfe g sg pos len d a) =
    q64 0x57 g (if sg then 0 else 1) d a 0 .none ((len ++ pos : BitVec 11).setWidth 16) 0 0 := rfl
theorem encode_bfi {g sg pos len d a} : encode (.bfi g sg pos len d a) =
    q64 0x58 g (if sg then 0 else 1) d a 0 .none ((len ++ pos : BitVec 11).setWidth 16) 0 0 := rfl
theorem encode_selQ64 {g p w64 notp d a b} : encode (.selQ64 g p w64 notp d a b) =
    q64 0x59 g p d a b.v b ((bit notp ++ bit w64 : BitVec 2).setWidth 16) 0 0 := rfl
theorem encode_movQ64 {g t d a} : encode (.movQ64 g t d a) = q64 0x5A g t.code d a 0 .none 0 0 0 := rfl
theorem encode_movs {g t d a} : encode (.movs g t d a) = q64 0x5B g t.code (d.setWidth 6) a 0 .none 0 0 0 := rfl
theorem encode_leaQ64 {g sg d a b sh disp} : encode (.leaQ64 g sg d a b sh disp) =
    q64 0x5C g (if sg then 0 else 1) d a b.v b (disp ++ sh) 0 0 := rfl
theorem encode_cmp {g t c d a b} : encode (.cmp g t c d a b) =
    q64 0x5D g t.code (d.setWidth 6) a b.v b (c.code.setWidth 16) 0 0 := rfl
theorem encode_fcmp {g c d a ma b mb} : encode (.fcmp g c d a ma b mb) =
    q64 0x5E g 8 (d.setWidth 6) a b.v b (((immF mb ma false .dyn) ||| c.code.setWidth 16)) 0 0 := rfl
theorem encode_faddQ64 {g r sat d a ma b mb} : encode (.faddQ64 g r sat d a ma b mb) =
    q64 0x60 g 8 d a b.v b (immF mb ma sat r) 0 0 := rfl
theorem encode_fsubQ64 {g r sat d a ma b mb} : encode (.fsubQ64 g r sat d a ma b mb) =
    q64 0x61 g 8 d a b.v b (immF mb ma sat r) 0 0 := rfl
theorem encode_fmulQ64 {g r sat d a ma b mb} : encode (.fmulQ64 g r sat d a ma b mb) =
    q64 0x62 g 8 d a b.v b (immF mb ma sat r) 0 0 := rfl
theorem encode_ffma {g r sat d a na b nb c nc} : encode (.ffma g r sat d a na b nb c nc) =
    q64 0x63 g 8 d a b.v b (immC nc nb na sat r c) 0 0 := rfl
theorem encode_fminQ64 {g d a ma b mb} : encode (.fminQ64 g d a ma b mb) =
    q64 0x64 g 8 d a b.v b (immF mb ma false .dyn) 0 0 := rfl
theorem encode_fmaxQ64 {g d a ma b mb} : encode (.fmaxQ64 g d a ma b mb) =
    q64 0x65 g 8 d a b.v b (immF mb ma false .dyn) 0 0 := rfl
theorem encode_frcp {g r sat d a ma} : encode (.frcp g r sat d a ma) =
    q64 0x66 g 8 d a 0 .none (immF .none ma sat r) 0 0 := rfl
theorem encode_frsq {g r sat d a ma} : encode (.frsq g r sat d a ma) =
    q64 0x67 g 8 d a 0 .none (immF .none ma sat r) 0 0 := rfl
theorem encode_fsqrt {g r sat d a ma} : encode (.fsqrt g r sat d a ma) =
    q64 0x68 g 8 d a 0 .none (immF .none ma sat r) 0 0 := rfl
theorem encode_fexp2 {g r sat d a ma} : encode (.fexp2 g r sat d a ma) =
    q64 0x69 g 8 d a 0 .none (immF .none ma sat r) 0 0 := rfl
theorem encode_flog2 {g r sat d a ma} : encode (.flog2 g r sat d a ma) =
    q64 0x6A g 8 d a 0 .none (immF .none ma sat r) 0 0 := rfl
theorem encode_cvt {g dt st r sat d a ma} : encode (.cvt g dt st r sat d a ma) =
    q64 0x6B g dt.code d a (st.code.setWidth 6) .none (immF .none ma sat r) 0 0 := rfl
theorem encode_pack {g dt r sat d a ma b mb} : encode (.pack g dt r sat d a ma b mb) =
    q64 0x6C g dt.code d a b.v b (immF mb ma sat r) 0 0 := rfl
theorem encode_upk {g t raw idx d a ma} : encode (.upk g t raw idx d a ma) =
    q64 0x6D g t.code d a ((bit raw ++ idx : BitVec 4).setWidth 6) .none (immF .none ma false .dyn) 0 0 := rfl
theorem encode_dot4 {g t d a b c} : encode (.dot4 g t d a b c) =
    q64 0x6E g t.code d a b.v b (immC false false false false .dyn c) 0 0 := rfl
theorem encode_dot8 {g t d a b c} : encode (.dot8 g t d a b c) =
    q64 0x6F g t.code d a b.v b (immC false false false false .dyn c) 0 0 := rfl
theorem encode_shfl {g m w64 d a b} : encode (.shfl g m w64 d a b) = q64 0x70 g (bit w64 ++ m.code) d a b.v b 0 0 0 := rfl
theorem encode_bcast {g w64 d a b} : encode (.bcast g w64 d a b) =
    q64 0x71 g (bit w64 ++ (0 : BitVec 3)) d a b.v b 0 0 0 := rfl
theorem encode_vote {g op d a} : encode (.vote g op d a) =
    q64 0x72 g op.code d (.g (a.setWidth 6) .wait) 0 .none 0 0 0 := rfl
theorem encode_redl {g op t r d a} : encode (.redl g op t r d a) =
    q64 0x73 g t.code d a 0 .none ((r.code ++ (0 : BitVec 1) ++ op.code : BitVec 7).setWidth 16) 0 0 := rfl
theorem encode_scanl {g op t r d a} : encode (.scanl g op t r d a) =
    q64 0x74 g t.code d a 0 .none ((r.code ++ (0 : BitVec 1) ++ op.code : BitVec 7).setWidth 16) 0 0 := rfl
theorem encode_first {g d a} : encode (.first g d a) = q64 0x75 g 0 d (.g (a.setWidth 6) .wait) 0 .none 0 0 0 := rfl
theorem encode_rand {g f32 d a b} : encode (.rand g f32 d a b) = q64 0x76 g (if f32 then 8 else 1) d a b.v b 0 0 0 := rfl
theorem encode_hsift {g t bot k d a b} : encode (.hsift g t bot k d a b) =
    q64 0x77 g t.code d a b.v b ((bit bot ++ k : BitVec 7).setWidth 16) 0 0 := rfl
theorem encode_bins {g t lt m l d a b} : encode (.bins g t lt m l d a b) =
    q64 0x78 g t.code d a b.v b ((bit lt ++ m : BitVec 9).setWidth 16) 0 l := rfl
theorem encode_twalk {g l n d a b} : encode (.twalk g l n d a b) = q64 0x79 g 8 d a b.v b n 0 l := rfl
theorem encode_tmask {g d a b n1} : encode (.tmask g d a b n1) = q64 0x7A g 0 d (.s a) b.v b (n1.setWidth 16) 0 0 := rfl
theorem encode_ldQ64 {g s sx acq l d m} : encode (.ldQ64 g s sx acq l d m) =
    q64 0x80 g m.scope.code d m.base (mt sx s) .none m.off (ordA acq) l := rfl
theorem encode_ldu {g s sx acq l d m} : encode (.ldu g s sx acq l d m) =
    q64 0x81 g m.scope.code (d.setWidth 6) m.base (mt sx s) .none m.off (ordA acq) l := rfl
theorem encode_ldw {g s sx l d m} : encode (.ldw g s sx l d m) =
    q64 0x82 g m.scope.code d m.base (mt sx s) .none m.off 0 l := rfl
theorem encode_ldf {g w acq d m} : encode (.ldf g w acq d m) =
    q64 0x83 g m.scope.code d m.base (mtW w) .none m.off (ordA acq) 0 := rfl
theorem encode_take {g w acq d m} : encode (.take g w acq d m) =
    q64 0x84 g m.scope.code d m.base (mtW w) .none m.off (ordA acq) 0 := rfl
theorem encode_fill {g w rel d m} : encode (.fill g w rel d m) =
    q64 0x85 g m.scope.code d.v m.base (mtW w) d m.off (ordR rel) 0 := rfl
theorem encode_setf {g w rel d m} : encode (.setf g w rel d m) =
    q64 0x86 g m.scope.code d.v m.base (mtW w) d m.off (ordR rel) 0 := rfl
theorem encode_clrf {g w m} : encode (.clrf g w m) = q64 0x87 g m.scope.code 0 m.base (mtW w) .none m.off 0 0 := rfl
theorem encode_pref {g l m} : encode (.pref g l m) = q64 0x88 g m.scope.code 0 m.base 0 .none m.off 0 l := rfl
theorem encode_probe {g k d m} : encode (.probe g k d m) = q64 0x89 g m.scope.code d m.base k.code .none m.off 0 0 := rfl
theorem encode_tinv {g dev d a am} : encode (.tinv g dev d a am) =
    q64 0x8A g (if dev then 3 else 2) d (.g a am) 0 .none 0 0 0 := rfl
theorem encode_stQ64 {g s rel l d m} : encode (.stQ64 g s rel l d m) =
    q64 0x8B g m.scope.code d.v m.base (mt false s) d m.off (ordR rel) l := rfl
theorem encode_fence {g k o s} : encode (.fence g k o s) = q64 0x8C g s.code 0 .none 0 .none k.code o.code 0 := rfl
theorem encode_barinit {g d m} : encode (.barinit g d m) = q64 0x8D g m.scope.code d.v m.base 0 d m.off 0 0 := rfl
theorem encode_bararr {g rel d m} : encode (.bararr g rel d m) =
    q64 0x8E g m.scope.code d m.base 0 .none m.off (ordR rel) 0 := rfl
theorem encode_barwait {g acq d m} : encode (.barwait g acq d m) =
    q64 0x8F g m.scope.code d.v m.base 0 d m.off (ordA acq) 0 := rfl
theorem encode_barexp {g dir rel d s a off} : encode (.barexp g dir rel d s a off) =
    q64 0x90 g s.code d.v a 0 d (off ++ dir.code) (ordR rel) 0 := rfl
theorem encode_depdec {g rel m} : encode (.depdec g rel m) =
    q64 0x91 g m.scope.code 0 m.base 0 .none m.off (ordR rel) 0 := rfl
theorem encode_waitt_imm {g c n} : encode (.waitt g c (.imm n)) = q64 0x92 g (c.setWidth 4) 0 .none 1 .none n 0 0 := rfl
theorem encode_waitt_src {g c a} : encode (.waitt g c (.src a)) = q64 0x92 g (c.setWidth 4) 0 a 0 .none 0 0 0 := rfl
theorem encode_mfc_pair {g i d} : encode (.mfc g i (.pair d)) = q64 0x93 g 0 d .none 0 .none (i.setWidth 16) 0 0 := rfl
theorem encode_mfc_word {g i d} : encode (.mfc g i (.word d)) = q64 0x93 g 1 d .none 0 .none (i.setWidth 16) 0 0 := rfl
theorem encode_mfc_uni {g i d} : encode (.mfc g i (.uni d)) =
    q64 0x93 g 2 (d.setWidth 6) .none 0 .none (i.setWidth 16) 0 0 := rfl
theorem encode_mtc {g w i a} : encode (.mtc g w i a) = q64 0x94 g (if w then 1 else 0) 0 a 0 .none (i.setWidth 16) 0 0 := rfl
theorem encode_brc {g disp j} : encode (.brc g disp j) = [wordJ 1 0x95 disp, word1 j 0 0 .none .none g] := rfl
theorem encode_bru {g disp} : encode (.bru g disp) = [wordJ 1 0x96 disp, word1 0 0 0 .none .none g] := rfl
theorem encode_brkd {g off} : encode (.brkd g off) = q64 0x97 g 0 0 .none 0 .none off 0 0 := rfl
theorem encode_loop {a off} : encode (.loop a off) = q64 0x98 ⟨0, false⟩ 0 0 a 0 .none off 0 0 := rfl
theorem encode_loopr {st a off} : encode (.loopr st a off) = q64 0x99 ⟨0, false⟩ (st.setWidth 4) 0 a 0 .none off 0 0 := rfl
theorem encode_lsave {g l m} : encode (.lsave g l m) = q64 0x9A g m.scope.code 0 m.base 0 .none m.off 0 l := rfl
theorem encode_lrest {g l m} : encode (.lrest g l m) = q64 0x9B g m.scope.code 0 m.base 0 .none m.off 0 l := rfl
theorem encode_gcall {g a b} : encode (.gcall g a b) = q64 0x9C g 0 0 a b.v b 0 0 0 := rfl
theorem encode_gcalli {g a b} : encode (.gcalli g a b) = q64 0x9D g 0 0 a b.v b 0 0 0 := rfl
theorem encode_retg {g} : encode (.retg g) = q64 0x9E g 0 0 .none 0 .none 0 0 0 := rfl
theorem encode_migrate {g a} : encode (.migrate g a) = q64 0x9F g 0 0 a 0 .none 0 0 0 := rfl
theorem encode_route {g a b} : encode (.route g a b) = q64 0xA0 g 0 0 a b.v b 0 0 0 := rfl
theorem encode_rethome {g} : encode (.rethome g) = q64 0xA1 g 0 0 .none 0 .none 0 0 0 := rfl
theorem encode_routeset {g a b} : encode (.routeset g a b) = q64 0xA2 g 0 0 a b.v b 0 0 0 := rfl
theorem encode_rcsnap {g l a off} : encode (.rcsnap g l a off) = q64 0xA3 g 0 0 a 0 .none off 0 l := rfl
theorem encode_spawn {g d a b} : encode (.spawn g d a b) = q64 0xA4 g 0 d a b.v b 0 0 0 := rfl
theorem encode_taskmk {g n d a b} : encode (.taskmk g n d a b) = q64 0xA5 g 0 d a b.v b n 0 0 := rfl
theorem encode_cancel {g l} : encode (.cancel g l) = q64 0xA6 g l.code 0 .none 0 .none 0 0 0 := rfl
theorem encode_cntw {g d a b} : encode (.cntw g d a b) = q64 0xA7 g 0 d a b.v b 0 0 0 := rfl
theorem encode_role {g r} : encode (.role g r) = q64 0xA8 g r.code 0 .none 0 .none 0 0 0 := rfl
theorem encode_wmopen {g lo hi d a} : encode (.wmopen g lo hi d a) =
    q64 0xA9 g 0 d a 0 .none ((hi ++ lo : BitVec 12).setWidth 16) 0 0 := rfl
theorem encode_wmclose {g a} : encode (.wmclose g a) = q64 0xAA g 0 0 a 0 .none 0 0 0 := rfl
theorem encode_wmapp {g k a b} : encode (.wmapp g k a b) = q64 0xAB g (k.setWidth 4) 0 a b.v b 0 0 0 := rfl
theorem encode_wmprop {g k d a b} : encode (.wmprop g k d a b) = q64 0xAC g (k.setWidth 4) d a b .none 0 0 0 := rfl
theorem encode_wmlen {g f d a} : encode (.wmlen g f d a) = q64 0xAD g f.code d a 0 .none 0 0 0 := rfl
theorem encode_wmsave {g c l a off h} : encode (.wmsave g c l a off h) =
    q64 0xAE g ((bit c).setWidth 4) 0 a h.v h off 0 l := rfl
theorem encode_wmload {g l d a off} : encode (.wmload g l d a off) = q64 0xAF g 0 d a 0 .none off 0 l := rfl
theorem encode_wmown {g a b} : encode (.wmown g a b) = q64 0xB0 g 0 0 a b.v b 0 0 0 := rfl
theorem encode_tcfg {g t fmt rows rb} : encode (.tcfg g t fmt rows rb) =
    q64 0xB1 g fmt (t.setWidth 6) .none 0 .none ((rb ++ rows : BitVec 14).setWidth 16) 0 0 := rfl
theorem encode_tpack {g w t a r0 wo} : encode (.tpack g w t a r0 wo) =
    q64 0xB2 g w.code (t.setWidth 6) a 0 .none (wo ++ r0) 0 0 := rfl
theorem encode_tunpk {g w d t r0 wo} : encode (.tunpk g w d t r0 wo) =
    q64 0xB3 g w.code d (.g (t.setWidth 6) .wait) 0 .none (wo ++ r0) 0 0 := rfl
theorem encode_tzero {g t} : encode (.tzero g t) = q64 0xB4 g 0 (t.setWidth 6) .none 0 .none 0 0 0 := rfl
theorem encode_accz {g c} : encode (.accz g c) = q64 0xB5 g 0 (c.setWidth 6) .none 0 .none 0 0 0 := rfl
theorem encode_cellp {g a} : encode (.cellp g a) = q64 0xB6 g 0 0 a 0 .none 0 0 0 := rfl
theorem encode_tsave {g l m} : encode (.tsave g l m) = q64 0xB7 g m.scope.code 0 m.base 0 .none m.off 0 l := rfl
theorem encode_trest {g l m} : encode (.trest g l m) = q64 0xB8 g m.scope.code 0 m.base 0 .none m.off 0 l := rfl
theorem encode_twait {g} : encode (.twait g) = q64 0xB9 g 0 0 .none 0 .none 0 0 0 := rfl
theorem encode_moviX96 {g k d imm} : encode (.moviX96 g k d imm) = x96 0xC0 g k.code d .none 0 .none 0 0 0 imm := rfl
theorem encode_atom {g op w o d m v c} : encode (.atom g op w o d m v c) =
    x96 0xC1 g m.scope.code d m.base (mtW w) .none m.off o.code 0 (op.code ++ v.u ++ v.mode ++ v.v ++ c.u ++ c.mode ++ c.v ++ (0 : BitVec 10)) := rfl
theorem encode_red {g op t rel d m} : encode (.red g op t rel d m) =
    x96 0xC2 g m.scope.code d.v m.base t.size d m.off (ordR rel) 0 (op.code ++ t.kind ++ (0 : BitVec 26)) := rfl
theorem encode_copy_some {g sh q d a b c} : encode (.copy g sh q d a b (some c)) =
    x96 0xC3 g sh.code d a b.v b 0 0 0 (bit q ++ c.u ++ c.v ++ (0 : BitVec 23) ++ (1 : BitVec 1)) := rfl
theorem encode_copy_none {g sh q d a b} : encode (.copy g sh q d a b none) =
    x96 0xC3 g sh.code d a b.v b 0 0 0 (bit q ++ (0 : BitVec 31)) := rfl
theorem encode_gather {g q d a b c e} : encode (.gather g q d a b c e) =
    x96 0xC4 g 0 d a b.v b 0 0 0 (bit q ++ c.u ++ c.v ++ e.u ++ e.v ++ (0 : BitVec 17)) := rfl
theorem encode_scadd {g q d a b c e} : encode (.scadd g q d a b c e) =
    x96 0xC5 g 0 d a b.v b 0 0 0 (bit q ++ c.u ++ c.v ++ e.u ++ e.v ++ (0 : BitVec 17)) := rfl
theorem encode_quant {g q d a b} : encode (.quant g q d a b) = x96 0xC6 g 0 d a b.v b 0 0 0 (bit q ++ (0 : BitVec 31)) := rfl
theorem encode_tgenNew {g q d a b c mt} : encode (.tgenNew g q d a b c mt) =
    x96 0xC7 g 0 d a b.v b 0 0 0 (bit q ++ (0 : BitVec 1) ++ c ++ (0 : BitVec 16) ++ mt) := rfl
theorem encode_tgenApp {g q d a b c mt} : encode (.tgenApp g q d a b c mt) =
    x96 0xC7 g 1 d a b.v b 0 0 0 (bit q ++ (0 : BitVec 1) ++ c ++ (0 : BitVec 16) ++ mt) := rfl
theorem encode_tgenClose {g q d a} : encode (.tgenClose g q d a) =
    x96 0xC7 g 2 d a 0 .none 0 0 0 (bit q ++ (0 : BitVec 31)) := rfl
theorem encode_tld {g q l d t m b} : encode (.tld g q l d t m b) =
    x96 0xC8 g m.scope.code d m.base b.v b m.off 0 l (bit q ++ (0 : BitVec 28) ++ t) := rfl
theorem encode_tst {g q l d t m b} : encode (.tst g q l d t m b) =
    x96 0xC9 g m.scope.code d m.base b.v b m.off 0 l (bit q ++ (0 : BitVec 28) ++ t) := rfl
theorem encode_mma {g c ta tb m0 n0} : encode (.mma g c ta tb m0 n0) =
    x96 0xCA g 0 (c.setWidth 6) (.g (ta.setWidth 6) .wait) (tb.setWidth 6) .none 0 0 0 ((0 : BitVec 2) ++ m0 ++ (0 : BitVec 1) ++ n0 ++ (0 : BitVec 16)) := rfl
theorem encode_mmas {g c ta tb sa sb m0 n0} : encode (.mmas g c ta tb sa sb m0 n0) =
    x96 0xCB g 0 (c.setWidth 6) (.g (ta.setWidth 6) .wait) (tb.setWidth 6) .none 0 0 0 ((0 : BitVec 2) ++ m0 ++ (0 : BitVec 1) ++ n0 ++ (0 : BitVec 9) ++ sb ++ (0 : BitVec 1) ++ sa) := rfl
theorem encode_mmc {g c ta tb m0 n0} : encode (.mmc g c ta tb m0 n0) =
    x96 0xCC g 0 (c.setWidth 6) (.g (ta.setWidth 6) .wait) (tb.setWidth 6) .none 0 0 0 ((0 : BitVec 2) ++ m0 ++ (0 : BitVec 1) ++ n0 ++ (0 : BitVec 16)) := rfl
theorem encode_accld {g l c m b m0 n0 m1 n1} : encode (.accld g l c m b m0 n0 m1 n1) =
    x96 0xCD g m.scope.code (c.setWidth 6) m.base b.v b m.off 0 l ((0 : BitVec 2) ++ m0 ++ (0 : BitVec 1) ++ n0 ++ (0 : BitVec 2) ++ m1 ++ (0 : BitVec 1) ++ n1) := rfl
theorem encode_accst {g l c m b m0 n0 m1 n1} : encode (.accst g l c m b m0 n0 m1 n1) =
    x96 0xCE g m.scope.code (c.setWidth 6) m.base b.v b m.off 0 l ((0 : BitVec 2) ++ m0 ++ (0 : BitVec 1) ++ n0 ++ (0 : BitVec 2) ++ m1 ++ (0 : BitVec 1) ++ n1) := rfl
theorem encode_acccvt {g sat si t c m0 n0} : encode (.acccvt g sat si t c m0 n0) =
    x96 0xCF g 0 (t.setWidth 6) (.g (c.setWidth 6) .wait) 0 .none 0 0 0 (bit sat ++ bit si ++ m0 ++ (0 : BitVec 1) ++ n0 ++ (0 : BitVec 16)) := rfl
theorem encode_accsend {g ty sat si c a b k m1 n1} : encode (.accsend g ty sat si c a b k m1 n1) =
    x96 0xD0 g ty.code (c.setWidth 6) a b.v b 0 0 0 (bit sat ++ bit si ++ m1 ++ n1 ++ k.v ++ k.u ++ (0 : BitVec 10)) := rfl
theorem encode_brX96 {imm} : encode (.brX96 imm) = x96 0xD1 ⟨0, false⟩ 0 0 .none 0 .none 0 0 0 imm := rfl
theorem encode_callX96 {imm} : encode (.callX96 imm) = x96 0xD2 ⟨0, false⟩ 0 0 .none 0 .none 0 0 0 imm := rfl
theorem encode_leaX96 {g d a imm} : encode (.leaX96 g d a imm) = x96 0xD3 g 0 d a 0 .none 0 0 0 imm := rfl
theorem encode_leaPc {g d imm} : encode (.leaPc g d imm) = x96 0xD3 g 1 d .none 0 .none 0 0 0 imm := rfl

end Sys2Proof.Laws
end

