-- ==== Sys2Proof/Laws/Issue.lean ====
section
/-! SUPPORT. What the shared shapes of instructions do once they issue: `issue`, `issueBranch`, `laneExec`, `memExec`,
`onceExec`. -/

namespace Sys2Proof.Laws

open Sys2Proof.Machine Sys2Proof.Terms

/-- An instruction that issues runs its meaning. -/
theorem issue_of_runs {i : Instr} {g : Guard} {s : State} {c : Ctx} (h : Runs i g s c) (k : Ctx → State → State) :
    issue i g s k = .next (k c (atIssue s c)) := by
  obtain ⟨hf, hu, hn, hc, ha, hs, hg⟩ := h
  cases c with
  | mk uid b a p act npc =>
    simp only at hf hu hn hc ha hs hg
    subst hu; subst hn
    have hg' : Ctx.badGuards ⟨a.uid, b, a, p, p.mask, p.pc + 4 * BitVec.ofNat 64 (encode i).length⟩ g = [] := by
      simpa [Ctx.badGuards, Ctx.rrb] using hg
    unfold issue
    simp only [hf, hc, hg', ← ha, hs, atIssue]
    simp

theorem issue_of_issues {i : Instr} {g : Guard} {s : State} {c : Ctx} (h : Issues i g s c) (k : Ctx → State → State) :
    issue i g s k = .next (k c (atIssue s c)) := issue_of_runs h.toRuns k

/-- With no back edge that falls in a diverged warp the instruction has its effect and its path goes on. -/
theorem completeWith_of_not_clash {c : Ctx} (h : c.clash = false) (s : State) (f : State → State) :
    s.completeWith c f = (f s).complete c := by simp [State.completeWith, h]

/-- In a back edge that falls in a diverged warp the lanes take cause 0x1C (16_loops.md R358). -/
theorem completeWith_of_clash {c : Ctx} (h : c.clash = true) (s : State) (f : State → State) :
    s.completeWith c f = s.clashFault c := by simp [State.completeWith, h]

/-- An instruction that the guard does not mask runs its meaning. -/
theorem issueBranch_of_branches {i : Instr} {g : Guard} {s : State} {c : Ctx} (h : Branches i g s c) (k : Ctx → State → State) :
    issueBranch i g s k = .next (k c (atIssue s c)) := by
  obtain ⟨hf, hu, hn, hc, ha, hg⟩ := h
  cases c with
  | mk uid b a p act npc =>
    simp only at hf hu hn hc ha hg
    subst hu; subst hn; subst ha
    unfold issueBranch
    simp only [hf, hc, atIssue, hg]
    simp

/-- Noting an issue leaves every unit's live lanes. -/
theorem agent_noteIssue_live (s : State) (uid k : Nat) (p : Path) (q : Nat) :
    ((s.noteIssue uid k p).agent? q).map (·.live) = (s.agent? q).map (·.live) := by
  unfold State.noteIssue State.agent?
  by_cases h : p.wait.isSome
  · simp [h]
  · simp only [h, Bool.false_eq_true, if_false]
    rw [List.find?_map]
    have : ((fun x : Agent => x.uid == q) ∘ fun a : Agent =>
        if a.uid = uid then { a with idleSince := s.now k } else a)
        = fun x : Agent => x.uid == q := by
      funext a; simp only [Function.comp]; split <;> rfl
    rw [this, Option.map_map]
    congr 1
    funext a; simp only [Function.comp]; split <;> rfl

theorem sregBusy_noteIssue (s : State) (uid k : Nat) (p : Path) (u : Nat) (act : Bool) (r : SReg) :
    (s.noteIssue uid k p).sregBusy u act r = s.sregBusy u act r := by
  unfold State.noteIssue State.sregBusy
  split <;> rfl

theorem windowOpen_noteIssue (s : State) (uid k : Nat) (p : Path) (a : Agent) (l : Nat) (r : GReg) :
    (s.noteIssue uid k p).windowOpen a l r = s.windowOpen a l r := by
  unfold State.windowOpen
  cases a.partner with
  | none => rfl
  | some q =>
    have h := agent_noteIssue_live s uid k p q
    dsimp only
    revert h
    cases h1 : (s.noteIssue uid k p).agent? q <;> cases h2 : s.agent? q <;> simp
    intro h
    rw [h]

/-- Noting an issue leaves how a lane stands with its operands. -/
theorem ready_noteIssue (s : State) (uid k : Nat) (p : Path) (c : Ctx) (l : Nat) (os : List Opnd) (ps : List PReg)
    (ds : List GReg) : (s.noteIssue uid k p).ready c l os ps ds = s.ready c l os ps ds := by
  unfold State.ready
  simp only [windowOpen_noteIssue, sregBusy_noteIssue]

theorem foldl_keep {α β : Type} (f : β → α → β) (b : β) : ∀ l : List α, (∀ x ∈ l, f b x = b) → l.foldl f b = b
  | [], _ => rfl
  | x :: l, h => by
    rw [List.foldl_cons, h x List.mem_cons_self]
    exact foldl_keep f b l fun y hy => h y (List.mem_cons_of_mem x hy)

theorem foldl_same {α β : Type} (f g : β → α → β) : ∀ l : List α, (∀ x ∈ l, ∀ b, f b x = g b x) → ∀ b, l.foldl f b = l.foldl g b
  | [], _, _ => rfl
  | x :: l, h, b => by
    rw [List.foldl_cons, List.foldl_cons, h x List.mem_cons_self]
    exact foldl_same f g l (fun y hy => h y (List.mem_cons_of_mem x hy)) _

/-- Lanes whose operands are readable: no fault and no wait. -/
theorem stand_of_reads {s : State} {c : Ctx} {os : List Opnd} {ps : List PReg} {ds : List GReg} (h : Reads s c os ps ds) :
    (atIssue s c).stand c os ps ds = ⟨[], none⟩ := by
  unfold State.stand
  apply foldl_keep
  intro l hl
  rw [atIssue, ready_noteIssue, h l hl]

theorem filter_all_nil (l : List Nat) : (l.filter fun x => ([] : List LFault).all fun f => f.lane != x) = l := by
  simp

theorem updAgent_updAgent (s : State) (uid : Nat) (f g : Agent → Agent) (hf : ∀ a, (f a).uid = a.uid) :
    (s.updAgent uid f).updAgent uid g = s.updAgent uid fun a => g (f a) := by
  unfold State.updAgent
  simp only [List.map_map]
  congr 1
  apply List.map_congr_left
  intro a _
  simp only [Function.comp]
  split
  · simp [*]
  · simp [*]

theorem updAgent_id (s : State) (uid : Nat) : (s.updAgent uid fun a => a) = s := by
  unfold State.updAgent
  simp

/-- Changing a unit once for each element of a list is one change. -/
theorem foldl_updAgent {α : Type} (uid : Nat) (f : α → Agent → Agent) (hf : ∀ x a, (f x a).uid = a.uid) :
    ∀ (l : List α) (s : State), l.foldl (fun s x => s.updAgent uid (f x)) s = s.updAgent uid fun a => l.foldl (fun a x => f x a) a
  | [], s => (updAgent_id s uid).symm
  | x :: l, s => by
    rw [List.foldl_cons, foldl_updAgent uid f hf l, updAgent_updAgent _ _ _ _ (hf x)]
    rfl

@[simp] theorem setSreg_uid (a : Agent) (act : Bool) (r : SReg) (v : DWord) : (a.setSreg act r v).uid = a.uid := by
  unfold Agent.setSreg
  dsimp only
  repeat' split
  all_goals rfl

@[simp] theorem writeUni_uid (a : Agent) (act : Bool) (u : Option (SReg × DWord)) : (a.writeUni act u).uid = a.uid := by
  cases u <;> simp [Agent.writeUni]

@[simp] theorem orFlags_uid (a : Agent) (f : BitVec 6) : (a.orFlags f).uid = a.uid := rfl
@[simp] theorem liftPath_uid (a : Agent) (l : Nat) (t : DWord) : (a.liftPath l t).uid = a.uid := rfl
@[simp] theorem acquireTokens_uid (a : Agent) (c : Ctx) (l : Nat) (os : List Opnd) : (a.acquireTokens c l os).uid = a.uid := by
  unfold Agent.acquireTokens
  split <;> rfl
@[simp] theorem updLane_uid (a : Agent) (l : Nat) (f : Lane → Lane) : (a.updLane l f).uid = a.uid := rfl

/-- With no fault every lane completes. -/
@[simp] theorem noneCompletes_nil (c : Ctx) : c.noneCompletes [] = false := rfl

/-- A register instruction whose lanes have readable operands and do not trap: every active lane's result is written, and
the instruction completes. -/
theorem laneExec_spec {s : State} {c : Ctx} {os : List Opnd} {ps : List PReg} {ds : List GReg}
    (f : Ctx → List (Nat × LaneIn) → Nat → LaneIn → LaneOut) (hk : c.clash = false) (hr : Reads s c os ps ds) (hn : NoTrap c (answer c os ps f)) :
    laneExec os ps ds f c (atIssue s c) = (ran s c os (answer c os ps f)).complete c := by
  unfold laneExec
  rw [stand_of_reads hr]
  simp only [filter_all_nil]
  have hout : ((Mask.list c.act).map fun l => (l, c.inputs l os ps)).map (fun x =>
        (x.1, (f c ((Mask.list c.act).map fun l => (l, c.inputs l os ps)) x.1 x.2).trapped c.a.fpctl))
      = (Mask.list c.act).map fun l => (l, answer c os ps f l) := by
    rw [List.map_map]
    apply List.map_congr_left
    intro l hl
    have h := hn l hl
    simp only [Function.comp, answer, table, LaneOut.trapped] at h ⊢
    rw [h.1, h.2]
  rw [hout]
  have hfs : ((Mask.list c.act).map fun l => (l, answer c os ps f l)).filterMap
      (fun x => x.2.fault.map fun y => (⟨x.1, y.1, y.2, 0, none⟩ : LFault)) = [] := by
    rw [List.filterMap_map, List.filterMap_eq_nil_iff]
    intro l hl
    simp [(hn l hl).1]
  rw [hfs]
  simp only [List.append_nil, List.isEmpty_nil, if_true, completeWith_of_not_clash hk]
  congr 1
  rw [List.foldl_map]
  unfold ran ranUnit
  rw [← foldl_updAgent c.uid (fun l a => (((a.acquireTokens c l os).updLane l fun ln =>
    ln.write c.rrb os (answer c os ps f l)).orFlags (answer c os ps f l).flags).writeUni c.p.act (answer c os ps f l).uni) (by intro x a; simp)]
  exact foldl_same _ _ _ (fun l hl s => by simp [State.putOut, (hn l hl).1]) _

/-- An instruction whose meaning is a register instruction completes with its lanes' results. -/
theorem laneResult {i : Instr} {g : Guard} {os : List Opnd} {ps : List PReg} {ds : List GReg}
    {f : Ctx → List (Nat × LaneIn) → Nat → LaneIn → LaneOut}
    (h : ∀ s, exec i s = issue i g s (laneExec os ps ds f)) : LaneResult i g os ps ds f := by
  intro s c hi hr hn
  rw [h, issue_of_issues hi, laneExec_spec f hi.together hr hn]

/-- The checks of lanes that pass, one after another. -/
theorem checkLanes_pass {β : Type} (check : State → Nat → State × Chk β) (ls : List Nat) (s t : State) (bs : List (Nat × β))
    (h : Pass check ls s t bs) : checkLanes check ls s = (t, bs, [], none) := by
  suffices H : ∀ (ls : List Nat) (s : State) (bs pre : List (Nat × β)), Pass check ls s t bs →
      ls.foldl (fun (r : State × List (Nat × β) × List LFault × Option WaitKind) l =>
        match check r.1 l with
        | (s, .ok b) => (s, r.2.1 ++ [(l, b)], r.2.2.1, r.2.2.2)
        | (s, .wait k) => (s, r.2.1, r.2.2.1, WaitKind.join r.2.2.2 k)
        | (s, .fault x t u) => (s, r.2.1, r.2.2.1 ++ [⟨l, x, t, u, none⟩], r.2.2.2)
        | (s, .due d) => (s, r.2.1, r.2.2.1 ++ [dueLFault l d], r.2.2.2)) (s, pre, [], none) = (t, pre ++ bs, [], none) by
    exact H ls s bs [] h
  intro ls
  induction ls with
  | nil => intro s bs pre h; obtain ⟨rfl, rfl⟩ := h; simp
  | cons l ls ih =>
    intro s bs pre h
    obtain ⟨s1, b, rest, h1, h2, rfl⟩ := h
    rw [List.foldl_cons]
    simp only [h1]
    rw [ih s1 rest (pre ++ [(l, b)]) h2]
    simp

/-- An instruction that meets the rest of the device, whose lanes have readable operands and whose checks pass. -/
theorem memExec_spec {β : Type} {s t : State} {c : Ctx} {os : List Opnd} {ds : List GReg} {bs : List (Nat × β)}
    (check : Ctx → State → Nat → LaneIn → State × Chk β) (perform : Ctx → State → Nat → β → State)
    (hk : c.clash = false) (hr : Reads s c os [] ds)
    (hp : Pass (fun s l => check c s l (c.inputs l os [])) (Mask.list c.act) (atIssue s c) t bs) :
    memExec os [] ds check perform c (atIssue s c) = (((bs.foldl (fun s x =>
      perform c (s.consumeOps c x.1 os) x.1 x.2) t).clearWalkFaults c.uid c.p.mask).noteFlight c.uid t.nextId c.p.mask).complete c := by
  unfold memExec
  rw [stand_of_reads hr]
  simp only [filter_all_nil]
  rw [checkLanes_pass _ _ _ _ _ hp]
  simp [completeWith_of_not_clash hk]

theorem performs {β : Type} {i : Instr} {g : Guard} {os : List Opnd} {ds : List GReg}
    {check : Ctx → State → Nat → LaneIn → State × Chk β} {perform : Ctx → State → Nat → β → State}
    (h : ∀ s, exec i s = issue i g s (memExec os [] ds check perform)) : Performs i g os ds check perform := by
  intro s c t bs hi hr hp
  rw [h, issue_of_issues hi, memExec_spec check perform hi.together hr hp]

theorem performsOnce {β : Type} {i : Instr} {g : Guard} {os : List Opnd} {ds : List GReg}
    {check : Ctx → State → Nat → LaneIn → State × Chk β} {perform : Ctx → State → Nat → β → State}
    (h : ∀ s, exec i s = issue i g s (onceExec os ds check perform)) : PerformsOnce i g os ds check perform := by
  intro s c t b hi hr hc
  rw [h, issue_of_issues hi]
  unfold onceExec
  have hr' : (atIssue s c).ready c (Mask.lowest c.act) os [] ds = .ok := by rw [atIssue, ready_noteIssue, hr]
  simp only [hr', hc, completeWith_of_not_clash hi.together]

end Sys2Proof.Laws
end

