-- ==== Sys2Proof/Laws/Memory.lean ====
section
/-! SUPPORT. Sparse storage (02_lines_and_homes.md R42, 04_cluster_store.md R75; log entry 4): reading after writing, and that
every write keeps the canonical form, of memory, of the homes and of the local stores. -/

namespace Sys2Proof.Machine

section Sparse
variable {α : Type} [DecidableEq α] (d : α)

/-- The canonical form: keys rise from each entry to every later one, and no entry is the default. -/
theorem swf_iff : ∀ l : List (Nat × α), swf d l = true ↔ l.Pairwise (fun a b => a.1 < b.1) ∧ ∀ x ∈ l, x.2 ≠ d
  | [] => by simp [swf]
  | [(_, v)] => by simp [swf]
  | (j, v) :: (k, w) :: l => by
    have ih := swf_iff ((k, w) :: l)
    unfold swf
    simp only [Bool.and_eq_true, decide_eq_true_eq, ih]
    constructor
    · rintro ⟨⟨hv, hjk⟩, hp, hn⟩
      refine ⟨List.pairwise_cons.2 ⟨?_, hp⟩, ?_⟩
      · intro x hx
        rcases List.mem_cons.1 hx with rfl | hx
        · exact hjk
        · exact Nat.lt_trans hjk ((List.pairwise_cons.1 hp).1 x hx)
      · intro x hx
        rcases List.mem_cons.1 hx with rfl | hx
        · exact hv
        · exact hn x hx
    · rintro ⟨hp, hn⟩
      obtain ⟨h1, h2⟩ := List.pairwise_cons.1 hp
      exact ⟨⟨hn (j, v) (by simp), h1 (k, w) (by simp)⟩, h2, fun x hx => hn x (List.mem_cons_of_mem _ hx)⟩

theorem mem_sput {k : Nat} {v : α} {x : Nat × α} : ∀ {l : List (Nat × α)}, x ∈ sput d k v l → (x = (k, v) ∧ v ≠ d) ∨ x ∈ l
  | [], h => by
    unfold sput at h
    split at h
    · simp at h
    · exact .inl ⟨by simpa using h, by assumption⟩
  | (j, w) :: l, h => by
    unfold sput at h
    split at h
    · split at h
      · exact .inr (List.mem_cons_of_mem _ h)
      · rcases List.mem_cons.1 h with h | h
        · exact .inl ⟨h, by assumption⟩
        · exact .inr (List.mem_cons_of_mem _ h)
    · split at h
      · split at h
        · exact .inr h
        · rcases List.mem_cons.1 h with h | h
          · exact .inl ⟨h, by assumption⟩
          · exact .inr h
      · rcases List.mem_cons.1 h with h | h
        · exact .inr (by simp [h])
        · rcases mem_sput h with h | h
          · exact .inl h
          · exact .inr (List.mem_cons_of_mem _ h)

/-- Writing a key keeps the canonical form. -/
theorem swf_sput (k : Nat) (v : α) : ∀ l : List (Nat × α), swf d l = true → swf d (sput d k v l) = true
  | [], _ => by
    unfold sput
    split
    · rfl
    · simpa [swf]
  | (j, w) :: l, h => by
    have hl : swf d l = true := by
      rw [swf_iff] at h ⊢
      exact ⟨(List.pairwise_cons.1 h.1).2, fun x hx => h.2 x (List.mem_cons_of_mem _ hx)⟩
    have ih := swf_sput k v l hl
    rw [swf_iff] at h ih ⊢
    obtain ⟨hp, hn⟩ := h
    obtain ⟨h1, h2⟩ := List.pairwise_cons.1 hp
    unfold sput
    split
    · rename_i e
      subst e
      split
      · exact ⟨h2, fun x hx => hn x (List.mem_cons_of_mem _ hx)⟩
      · refine ⟨List.pairwise_cons.2 ⟨h1, h2⟩, ?_⟩
        intro x hx
        rcases List.mem_cons.1 hx with rfl | hx
        · assumption
        · exact hn x (List.mem_cons_of_mem _ hx)
    · split
      · rename_i hkj
        split
        · exact ⟨hp, hn⟩
        · refine ⟨List.pairwise_cons.2 ⟨?_, hp⟩, ?_⟩
          · intro x hx
            rcases List.mem_cons.1 hx with rfl | hx
            · exact hkj
            · exact Nat.lt_trans hkj (h1 x hx)
          · intro x hx
            rcases List.mem_cons.1 hx with rfl | hx
            · assumption
            · exact hn x hx
      · refine ⟨List.pairwise_cons.2 ⟨?_, ih.1⟩, ?_⟩
        · intro x hx
          rcases mem_sput d hx with ⟨rfl, _⟩ | hx
          · simp only; omega
          · exact h1 x hx
        · intro x hx
          rcases List.mem_cons.1 hx with rfl | hx
          · exact hn _ (by simp)
          · exact ih.2 x hx

omit [DecidableEq α] in
theorem sget_of_lt {k : Nat} {l : List (Nat × α)} (h : ∀ x ∈ l, k < x.1) : sget d k l = d := by
  cases l with
  | nil => rfl
  | cons x l =>
    have hx := h x (by simp)
    have : k ≠ x.1 := by omega
    simp [sget, this, hx]

/-- READING AFTER WRITING, in a list in canonical form: the written key reads as written, every other key as before. -/
theorem sget_sput (k i : Nat) (v : α) : ∀ l : List (Nat × α), swf d l = true →
    sget d i (sput d k v l) = if i = k then v else sget d i l
  | [], _ => by
    by_cases hv : v = d <;> by_cases hi : i = k <;> simp [sput, sget, hv, hi]
  | (j, w) :: l, h => by
    have hl : swf d l = true := by
      rw [swf_iff] at h ⊢
      exact ⟨(List.pairwise_cons.1 h.1).2, fun x hx => h.2 x (List.mem_cons_of_mem _ hx)⟩
    have ih := sget_sput k i v l hl
    have h1 := (List.pairwise_cons.1 ((swf_iff d _).1 h).1).1
    have below : ∀ m, m ≤ j → m ≠ j → sget d m ((j, w) :: l) = d := by
      intro m h2 h3
      have : m < j := by omega
      simp [sget, h3, this]
    unfold sput
    split
    · rename_i e
      subst e
      by_cases hi : i = k
      · subst hi
        split
        · rw [if_pos rfl, sget_of_lt d (fun x hx => h1 x hx)]; exact Eq.symm (by assumption)
        · simp [sget]
      · split
        · by_cases hik : i < k
          · rw [sget_of_lt d (fun x hx => Nat.lt_trans hik (h1 x hx))]; simp [sget, hi, hik]
          · simp [sget, hi, hik]
        · simp [sget, hi]
    · rename_i hkj
      split
      · rename_i hlt
        split
        · rename_i hv
          by_cases hi : i = k
          · subst hi; rw [if_pos rfl, hv]; exact below i (by omega) hkj
          · rw [if_neg hi]
        · by_cases hi : i = k
          · subst hi; simp [sget]
          · rw [if_neg hi]
            by_cases hik : i < k
            · rw [below i (by omega) (by omega)]; simp [sget, hi, hik]
            · conv => lhs; unfold sget
              simp [hi, hik]
      · by_cases hij : i = j
        · subst hij
          have : i ≠ k := fun e => hkj e.symm
          simp [sget, this]
        · by_cases hlt : i < j
          · have : i ≠ k := by omega
            simp [sget, hij, hlt, this]
          · simp only [sget, hij, hlt, if_false, ih]

/-- Dropping entries keeps the canonical form. -/
theorem swf_filter (p : Nat × α → Bool) (l : List (Nat × α)) (h : swf d l = true) : swf d (l.filter p) = true := by
  rw [swf_iff] at h ⊢
  exact ⟨h.1.filter p, fun x hx => h.2 x ((List.mem_filter.1 hx).1)⟩

end Sparse

/-! ### Memory -/

theorem Memory.wf_write (m : List Host.Cell) (a : Nat) (b : Byte) (h : Memory.wf m = true) : Memory.wf (Memory.write m a b) = true :=
  swf_sput _ a b m h

theorem Memory.read_write (m : List Host.Cell) (a x : Nat) (b : Byte) (h : Memory.wf m = true) :
    Memory.read (Memory.write m a b) x = if x = a then b else Memory.read m x :=
  sget_sput _ a x b m h

theorem Memory.wf_writeBytes : ∀ (bs : List Byte) (m : List Host.Cell) (a : Nat), Memory.wf m = true →
    Memory.wf (Memory.writeBytes m a bs) = true
  | [], _, _, h => h
  | b :: bs, m, a, h => Memory.wf_writeBytes bs _ (a + 1) (Memory.wf_write m a b h)

theorem Memory.wf_putLine (m : List Host.Cell) (line : Nat) (x : LineData) (h : Memory.wf m = true) :
    Memory.wf (putLine m line x) = true := Memory.wf_writeBytes _ m _ h

/-- What the loss of power leaves of memory (24_security_power_health.md R473). -/
theorem Memory.wf_filter (p : Host.Cell → Bool) (m : List Host.Cell) (h : Memory.wf m = true) : Memory.wf (m.filter p) = true :=
  swf_filter _ p m h

/-! ### Local stores and homes -/

theorem State.lwords_setLword (s : State) (c : CoreId) (w : Nat) (x : LWord) (h : swf LWord.fresh s.lwords = true) :
    swf LWord.fresh (s.setLword c w x).lwords = true := swf_sput _ _ _ _ h

theorem State.lword_setLword (s : State) (c k : CoreId) (w v : Nat) (x : LWord) (h : swf LWord.fresh s.lwords = true) :
    (s.setLword c w x).lword k v = if lkey k v = lkey c w then x else s.lword k v := sget_sput _ _ _ _ _ h

theorem lkey_inj {c k : CoreId} {w v : Nat} (hc : c.core < 64) (hk : k.core < 64) (hw : w < 2 ^ 18) (hv : v < 2 ^ 18)
    (h : lkey k v = lkey c w) : k = c ∧ v = w := by
  obtain ⟨c1, c2⟩ := c
  obtain ⟨k1, k2⟩ := k
  simp only [lkey] at *
  have : k1 = c1 ∧ k2 = c2 ∧ v = w := by omega
  simp [this]

theorem State.homes_setHome (s : State) (n : Nat) (x : Home) (h : swf Home.fresh s.homes = true) :
    swf Home.fresh (s.setHome n x).homes = true := swf_sput _ _ _ _ h

theorem State.homeOf_setHome (s : State) (n k : Nat) (x : Home) (h : swf Home.fresh s.homes = true) (hx : x.evicted = false) :
    (s.setHome n x).homeOf k = if k = n then x else s.homeOf k := by
  have e : sget Home.fresh k (s.setHome n x).homes = if k = n then x else sget Home.fresh k s.homes := sget_sput _ _ _ _ _ h
  unfold State.homeOf
  rw [e]
  by_cases hk : k = n
  · simp [hk, hx]
  · simp [hk, State.setHome]

/-! ### The state after reset -/

theorem State.reset_forms : Memory.wf State.reset.mem = true ∧ swf LWord.fresh State.reset.lwords = true := ⟨rfl, rfl⟩

end Sys2Proof.Machine
end

