-- ==== Sys2Proof/Laws/Shapes.lean ====
section
/-! SUPPORT. What the shapes of instructions that park, that end lanes, and of the Waymark do once they issue. -/

namespace Sys2Proof.Laws

open Sys2Proof.Machine Sys2Proof.Terms

theorem laneBit_getLsbD (l i : Nat) (hi : i < 32) : (laneBit l).getLsbD i = decide (i = l) := by
  unfold laneBit
  rw [BitVec.getLsbD_ofNat, Nat.testBit_two_pow]
  simp [hi, eq_comm]

theorem ofList_getLsbD (ls : List Nat) (i : Nat) (hi : i < 32) : (Mask.ofList ls).getLsbD i = decide (i ∈ ls) := by
  suffices H : ∀ (ls : List Nat) (m : Mask),
      (ls.foldl (fun m i => m ||| laneBit i) m).getLsbD i = (m.getLsbD i || decide (i ∈ ls)) by
    have h := H ls 0
    simpa [Mask.ofList] using h
  intro ls
  induction ls with
  | nil => intro m; simp
  | cons a ls ih =>
    intro m
    rw [List.foldl_cons, ih, BitVec.getLsbD_or, laneBit_getLsbD a i hi]
    by_cases h : i = a <;> simp [h]

/-- The mask of the lanes of a mask. -/
theorem ofList_list (m : Mask) : Mask.ofList (Mask.list m) = m := by
  apply BitVec.eq_of_getLsbD_eq
  intro i hi
  rw [ofList_getLsbD _ _ hi]
  simp [Mask.list, hi]

/-- An instruction whose lanes may park, issued for the first time. -/
theorem parkExec_spec {β : Type} {s t : State} {c : Ctx} {os : List Opnd} {ds : List GReg} {bs : List (Nat × β)}
    (kind : State → WaitKind) (check : Ctx → State → Nat → LaneIn → State × Chk β) (attempt : Ctx → State → Nat → β → State)
    (hk : c.clash = false) (hne : c.act ≠ 0) (hd : c.p.done = 0) (hp : c.p.parked = 0) (hr : Reads s c os [] ds)
    (hc : Pass (fun s l => check c s l (c.inputs l os [])) (Mask.list c.act) (atIssue s c) t bs) :
    parkExec kind os ds check attempt c (atIssue s c) =
      (if allDone (((bs.foldl (fun s x => attempt c s x.1 x.2) t).noteFlight c.uid t.nextId c.p.mask).dropHeld c.uid 0) c then
        (((bs.foldl (fun s x => attempt c s x.1 x.2) t).noteFlight c.uid t.nextId c.p.mask).dropHeld c.uid 0).complete c
      else (((bs.foldl (fun s x => attempt c s x.1 x.2) t).noteFlight c.uid t.nextId c.p.mask).dropHeld c.uid 0).waitFor c
        (kind (((bs.foldl (fun s x => attempt c s x.1 x.2) t).noteFlight c.uid t.nextId c.p.mask).dropHeld c.uid 0))) := by
  unfold parkExec
  have ht : c.act &&& ~~~(c.p.done ||| c.p.parked) = c.act := by
    rw [hd, hp, show ~~~((0 : Mask) ||| 0) = BitVec.allOnes 32 from rfl, BitVec.and_allOnes]
  simp only [ht]
  rw [if_neg hne, stand_of_reads hr]
  simp only [filter_all_nil]
  rw [checkLanes_pass _ _ _ _ _ hc]
  simp only [List.append_nil, noneCompletes_nil, List.isEmpty_nil, if_true, Bool.false_eq_true, if_false, hk,
    Bool.true_and, Bool.false_and, completeWith_of_not_clash hk]
  rfl

/-- An instruction whose meaning is one whose lanes may park. -/
theorem parks {β : Type} {i : Instr} {g : Guard} {os : List Opnd} {ds : List GReg} {kind : State → WaitKind}
    {check : Ctx → State → Nat → LaneIn → State × Chk β} {attempt : Ctx → State → Nat → β → State}
    (h : ∀ s, exec i s = issue i g s (parkExec kind os ds check attempt)) :
    Parks i g os ds kind check attempt (fun _ => True) (fun _ s => s) := by
  intro s c t bs hi hd hp _ hr hc
  rw [h, issue_of_issues hi, parkExec_spec kind check attempt hi.together hi.some hd hp hr hc]

theorem pass_lanes {β : Type} (check : State → Nat → State × Chk β) : ∀ (ls : List Nat) (s t : State) (bs : List (Nat × β)),
    Pass check ls s t bs → bs.map (·.1) = ls
  | [], _, _, _, h => by obtain ⟨_, rfl⟩ := h; rfl
  | l :: ls, _, t, _, h => by
    obtain ⟨s1, b, rest, _, h2, rfl⟩ := h
    simp [pass_lanes check ls s1 t rest h2]

/-- An instruction that ends its lanes. -/
theorem endExec_spec {s t : State} {c : Ctx} {bs : List (Nat × Unit)} (check : Ctx → State → Nat → State × Chk Unit)
    (perform : Ctx → State → Nat → State) (hk : c.p.mask &&& ~~~c.act ≠ 0 → c.clash = false)
    (hc : Pass (check c) (Mask.list c.act) s t bs) :
    endExec check perform c s =
      (if c.p.mask &&& ~~~c.act = 0 then ((Mask.list c.act).foldl (perform c) t).dropLanes c.uid c.act
        else (((Mask.list c.act).foldl (perform c) t).dropLanes c.uid c.act).complete c).retireIfEmpty c.uid := by
  unfold endExec
  rw [checkLanes_pass _ _ _ _ _ hc]
  simp only [pass_lanes _ _ _ _ _ hc, List.isEmpty_nil, ofList_list, Bool.not_true, Bool.false_eq_true, if_false]
  by_cases h : c.p.mask &&& ~~~c.act = 0
  · simp [h]
  · simp only [h, if_false]
    have hk' : Ctx.clash { c with p := { c.p with mask := c.p.mask &&& ~~~c.act }, act := c.act &&& ~~~c.act } = false := hk h
    rw [completeWith_of_not_clash hk']
    rfl

/-- A Waymark instruction of one lane that passes. -/
theorem wmExec_one {β : Type} {s t u : State} {c : Ctx} {l : Nat} {os : List Opnd} {ds : List GReg} {b : β}
    (prep : Ctx → State → Nat → LaneIn → State × Chk β) (act : Ctx → State → Nat → LaneIn → β → Except (BitVec 8) State)
    (hk : c.clash = false) (hl : Mask.list c.act = [l]) (hr : Reads s c os [] ds)
    (hp : prep c (atIssue s c) l (c.inputs l os []) = (t, .ok b))
    (ha : act c ((t.clearWalkFaults c.uid c.p.mask).consumeOps c l os) l (c.inputs l os []) b = .ok u) :
    wmExec os ds prep act c (atIssue s c) = (u.noteFlight c.uid t.nextId c.p.mask).complete c := by
  unfold wmExec
  rw [stand_of_reads hr]
  have hc : checkLanes (fun s l => prep c s l (c.inputs l os [])) [l] (atIssue s c) = (t, [(l, b)], [], none) :=
    checkLanes_pass _ _ _ _ _ ⟨t, b, [], hp, ⟨rfl, rfl⟩, rfl⟩
  simp only [filter_all_nil, hl, hc, List.foldl_cons, List.foldl_nil, ha, List.append_nil, List.isEmpty_nil, if_true,
    completeWith_of_not_clash hk]
  rfl

end Sys2Proof.Laws
end

