-- ==== Sys2Proof/Laws/State.lean ====
section
/-! SUPPORT. What an update of the state, of a unit or of a lane leaves: one equation a field, so that no proof unfolds a record
update; and what reading a unit, a slot, a lane or a register after writing one gives. -/

namespace Sys2Proof.Machine

/-! ### Updates of the state -/

@[simp] theorem State.setAgent_agenda (s : State) (a : Agent) : (s.setAgent a).agenda = s.agenda := rfl
@[simp] theorem State.setAgent_focus (s : State) (a : Agent) : (s.setAgent a).focus = s.focus := rfl
@[simp] theorem State.setAgent_nextId (s : State) (a : Agent) : (s.setAgent a).nextId = s.nextId := rfl
@[simp] theorem State.setAgent_choices (s : State) (a : Agent) : (s.setAgent a).choices = s.choices := rfl
@[simp] theorem State.setAgent_cycle (s : State) (a : Agent) : (s.setAgent a).cycle = s.cycle := rfl
@[simp] theorem State.setAgent_timebase (s : State) (a : Agent) : (s.setAgent a).timebase = s.timebase := rfl
@[simp] theorem State.setAgent_ctime (s : State) (a : Agent) : (s.setAgent a).ctime = s.ctime := rfl
@[simp] theorem State.setAgent_htime (s : State) (a : Agent) : (s.setAgent a).htime = s.htime := rfl
@[simp] theorem State.setAgent_mem (s : State) (a : Agent) : (s.setAgent a).mem = s.mem := rfl
@[simp] theorem State.setAgent_homes (s : State) (a : Agent) : (s.setAgent a).homes = s.homes := rfl
@[simp] theorem State.setAgent_copies (s : State) (a : Agent) : (s.setAgent a).copies = s.copies := rfl
@[simp] theorem State.setAgent_misses (s : State) (a : Agent) : (s.setAgent a).misses = s.misses := rfl
@[simp] theorem State.setAgent_reqs (s : State) (a : Agent) : (s.setAgent a).reqs = s.reqs := rfl
@[simp] theorem State.setAgent_reps (s : State) (a : Agent) : (s.setAgent a).reps = s.reps := rfl
@[simp] theorem State.setAgent_coachFaults (s : State) (a : Agent) : (s.setAgent a).coachFaults = s.coachFaults := rfl
@[simp] theorem State.setAgent_unpacks (s : State) (a : Agent) : (s.setAgent a).unpacks = s.unpacks := rfl
@[simp] theorem State.setAgent_departs (s : State) (a : Agent) : (s.setAgent a).departs = s.departs := rfl
@[simp] theorem State.setAgent_regTime (s : State) (a : Agent) : (s.setAgent a).regTime = s.regTime := rfl
@[simp] theorem State.setAgent_hdm (s : State) (a : Agent) : (s.setAgent a).hdm = s.hdm := rfl
@[simp] theorem State.setAgent_deviceNo (s : State) (a : Agent) : (s.setAgent a).deviceNo = s.deviceNo := rfl
@[simp] theorem State.setAgent_homeWait (s : State) (a : Agent) : (s.setAgent a).homeWait = s.homeWait := rfl
@[simp] theorem State.setAgent_missWait (s : State) (a : Agent) : (s.setAgent a).missWait = s.missWait := rfl
@[simp] theorem State.setAgent_seen (s : State) (a : Agent) : (s.setAgent a).seen = s.seen := rfl
@[simp] theorem State.setAgent_ported (s : State) (a : Agent) : (s.setAgent a).ported = s.ported := rfl
@[simp] theorem State.setAgent_loads (s : State) (a : Agent) : (s.setAgent a).loads = s.loads := rfl
@[simp] theorem State.setAgent_writes (s : State) (a : Agent) : (s.setAgent a).writes = s.writes := rfl
@[simp] theorem State.setAgent_acks (s : State) (a : Agent) : (s.setAgent a).acks = s.acks := rfl
@[simp] theorem State.setAgent_watches (s : State) (a : Agent) : (s.setAgent a).watches = s.watches := rfl
@[simp] theorem State.setAgent_notes (s : State) (a : Agent) : (s.setAgent a).notes = s.notes := rfl
@[simp] theorem State.setAgent_tlb (s : State) (a : Agent) : (s.setAgent a).tlb = s.tlb := rfl
@[simp] theorem State.setAgent_utlb (s : State) (a : Agent) : (s.setAgent a).utlb = s.utlb := rfl
@[simp] theorem State.setAgent_wcache (s : State) (a : Agent) : (s.setAgent a).wcache = s.wcache := rfl
@[simp] theorem State.setAgent_walks (s : State) (a : Agent) : (s.setAgent a).walks = s.walks := rfl
@[simp] theorem State.setAgent_walkFaults (s : State) (a : Agent) : (s.setAgent a).walkFaults = s.walkFaults := rfl
@[simp] theorem State.setAgent_prefs (s : State) (a : Agent) : (s.setAgent a).prefs = s.prefs := rfl
@[simp] theorem State.setAgent_pendings (s : State) (a : Agent) : (s.setAgent a).pendings = s.pendings := rfl
@[simp] theorem State.setAgent_cores (s : State) (a : Agent) : (s.setAgent a).cores = s.cores := rfl
@[simp] theorem State.setAgent_lwords (s : State) (a : Agent) : (s.setAgent a).lwords = s.lwords := rfl
@[simp] theorem State.setAgent_lrt (s : State) (a : Agent) : (s.setAgent a).lrt = s.lrt := rfl
@[simp] theorem State.setAgent_parked (s : State) (a : Agent) : (s.setAgent a).parked = s.parked := rfl
@[simp] theorem State.setAgent_remotes (s : State) (a : Agent) : (s.setAgent a).remotes = s.remotes := rfl
@[simp] theorem State.setAgent_rreplies (s : State) (a : Agent) : (s.setAgent a).rreplies = s.rreplies := rfl
@[simp] theorem State.setAgent_rings (s : State) (a : Agent) : (s.setAgent a).rings = s.rings := rfl
@[simp] theorem State.setAgent_regionJob (s : State) (a : Agent) : (s.setAgent a).regionJob = s.regionJob := rfl
@[simp] theorem State.setAgent_cmds (s : State) (a : Agent) : (s.setAgent a).cmds = s.cmds := rfl
@[simp] theorem State.setAgent_mops (s : State) (a : Agent) : (s.setAgent a).mops = s.mops := rfl
@[simp] theorem State.setAgent_mdone (s : State) (a : Agent) : (s.setAgent a).mdone = s.mdone := rfl
@[simp] theorem State.setAgent_tiles (s : State) (a : Agent) : (s.setAgent a).tiles = s.tiles := rfl
@[simp] theorem State.setAgent_wm (s : State) (a : Agent) : (s.setAgent a).wm = s.wm := rfl
@[simp] theorem State.setAgent_rooms (s : State) (a : Agent) : (s.setAgent a).rooms = s.rooms := rfl
@[simp] theorem State.setAgent_roomWaits (s : State) (a : Agent) : (s.setAgent a).roomWaits = s.roomWaits := rfl
@[simp] theorem State.setAgent_routeCnt (s : State) (a : Agent) : (s.setAgent a).routeCnt = s.routeCnt := rfl
@[simp] theorem State.setAgent_moves (s : State) (a : Agent) : (s.setAgent a).moves = s.moves := rfl
@[simp] theorem State.setAgent_arrivals (s : State) (a : Agent) : (s.setAgent a).arrivals = s.arrivals := rfl
@[simp] theorem State.setAgent_jobs (s : State) (a : Agent) : (s.setAgent a).jobs = s.jobs := rfl
@[simp] theorem State.setAgent_counters (s : State) (a : Agent) : (s.setAgent a).counters = s.counters := rfl
@[simp] theorem State.setAgent_queues (s : State) (a : Agent) : (s.setAgent a).queues = s.queues := rfl
@[simp] theorem State.setAgent_phases (s : State) (a : Agent) : (s.setAgent a).phases = s.phases := rfl
@[simp] theorem State.setAgent_launches (s : State) (a : Agent) : (s.setAgent a).launches = s.launches := rfl
@[simp] theorem State.setAgent_graphs (s : State) (a : Agent) : (s.setAgent a).graphs = s.graphs := rfl
@[simp] theorem State.setAgent_hostCmds (s : State) (a : Agent) : (s.setAgent a).hostCmds = s.hostCmds := rfl
@[simp] theorem State.setAgent_reports (s : State) (a : Agent) : (s.setAgent a).reports = s.reports := rfl
@[simp] theorem State.setAgent_quietReports (s : State) (a : Agent) : (s.setAgent a).quietReports = s.quietReports := rfl
@[simp] theorem State.setAgent_quietDropped (s : State) (a : Agent) : (s.setAgent a).quietDropped = s.quietDropped := rfl
@[simp] theorem State.setAgent_hws (s : State) (a : Agent) : (s.setAgent a).hws = s.hws := rfl
@[simp] theorem State.setAgent_snoops (s : State) (a : Agent) : (s.setAgent a).snoops = s.snoops := rfl
@[simp] theorem State.setAgent_links (s : State) (a : Agent) : (s.setAgent a).links = s.links := rfl
@[simp] theorem State.setAgent_winReqs (s : State) (a : Agent) : (s.setAgent a).winReqs = s.winReqs := rfl
@[simp] theorem State.setAgent_spills (s : State) (a : Agent) : (s.setAgent a).spills = s.spills := rfl
@[simp] theorem State.setAgent_recbase (s : State) (a : Agent) : (s.setAgent a).recbase = s.recbase := rfl
@[simp] theorem State.setAgent_evc (s : State) (a : Agent) : (s.setAgent a).evc = s.evc := rfl
@[simp] theorem State.setAgent_image (s : State) (a : Agent) : (s.setAgent a).image = s.image := rfl
@[simp] theorem State.setAgent_lifecycle (s : State) (a : Agent) : (s.setAgent a).lifecycle = s.lifecycle := rfl
@[simp] theorem State.setAgent_nextLifecycle (s : State) (a : Agent) : (s.setAgent a).nextLifecycle = s.nextLifecycle := rfl
@[simp] theorem State.setAgent_debug (s : State) (a : Agent) : (s.setAgent a).debug = s.debug := rfl
@[simp] theorem State.setAgent_power (s : State) (a : Agent) : (s.setAgent a).power = s.power := rfl
@[simp] theorem State.setAgent_gated (s : State) (a : Agent) : (s.setAgent a).gated = s.gated := rfl
@[simp] theorem State.setAgent_sag (s : State) (a : Agent) : (s.setAgent a).sag = s.sag := rfl
@[simp] theorem State.setAgent_life (s : State) (a : Agent) : (s.setAgent a).life = s.life := rfl
@[simp] theorem State.setAgent_spdm (s : State) (a : Agent) : (s.setAgent a).spdm = s.spdm := rfl

@[simp] theorem State.updAgent_agenda (s : State) (u : Nat) (f : Agent → Agent) : (s.updAgent u f).agenda = s.agenda := rfl
@[simp] theorem State.updAgent_focus (s : State) (u : Nat) (f : Agent → Agent) : (s.updAgent u f).focus = s.focus := rfl
@[simp] theorem State.updAgent_nextId (s : State) (u : Nat) (f : Agent → Agent) : (s.updAgent u f).nextId = s.nextId := rfl
@[simp] theorem State.updAgent_choices (s : State) (u : Nat) (f : Agent → Agent) : (s.updAgent u f).choices = s.choices := rfl
@[simp] theorem State.updAgent_cycle (s : State) (u : Nat) (f : Agent → Agent) : (s.updAgent u f).cycle = s.cycle := rfl
@[simp] theorem State.updAgent_timebase (s : State) (u : Nat) (f : Agent → Agent) : (s.updAgent u f).timebase = s.timebase := rfl
@[simp] theorem State.updAgent_ctime (s : State) (u : Nat) (f : Agent → Agent) : (s.updAgent u f).ctime = s.ctime := rfl
@[simp] theorem State.updAgent_htime (s : State) (u : Nat) (f : Agent → Agent) : (s.updAgent u f).htime = s.htime := rfl
@[simp] theorem State.updAgent_mem (s : State) (u : Nat) (f : Agent → Agent) : (s.updAgent u f).mem = s.mem := rfl
@[simp] theorem State.updAgent_homes (s : State) (u : Nat) (f : Agent → Agent) : (s.updAgent u f).homes = s.homes := rfl
@[simp] theorem State.updAgent_copies (s : State) (u : Nat) (f : Agent → Agent) : (s.updAgent u f).copies = s.copies := rfl
@[simp] theorem State.updAgent_misses (s : State) (u : Nat) (f : Agent → Agent) : (s.updAgent u f).misses = s.misses := rfl
@[simp] theorem State.updAgent_reqs (s : State) (u : Nat) (f : Agent → Agent) : (s.updAgent u f).reqs = s.reqs := rfl
@[simp] theorem State.updAgent_reps (s : State) (u : Nat) (f : Agent → Agent) : (s.updAgent u f).reps = s.reps := rfl
@[simp] theorem State.updAgent_coachFaults (s : State) (u : Nat) (f : Agent → Agent) : (s.updAgent u f).coachFaults = s.coachFaults := rfl
@[simp] theorem State.updAgent_unpacks (s : State) (u : Nat) (f : Agent → Agent) : (s.updAgent u f).unpacks = s.unpacks := rfl
@[simp] theorem State.updAgent_departs (s : State) (u : Nat) (f : Agent → Agent) : (s.updAgent u f).departs = s.departs := rfl
@[simp] theorem State.updAgent_regTime (s : State) (u : Nat) (f : Agent → Agent) : (s.updAgent u f).regTime = s.regTime := rfl
@[simp] theorem State.updAgent_hdm (s : State) (u : Nat) (f : Agent → Agent) : (s.updAgent u f).hdm = s.hdm := rfl
@[simp] theorem State.updAgent_deviceNo (s : State) (u : Nat) (f : Agent → Agent) : (s.updAgent u f).deviceNo = s.deviceNo := rfl
@[simp] theorem State.updAgent_homeWait (s : State) (u : Nat) (f : Agent → Agent) : (s.updAgent u f).homeWait = s.homeWait := rfl
@[simp] theorem State.updAgent_missWait (s : State) (u : Nat) (f : Agent → Agent) : (s.updAgent u f).missWait = s.missWait := rfl
@[simp] theorem State.updAgent_seen (s : State) (u : Nat) (f : Agent → Agent) : (s.updAgent u f).seen = s.seen := rfl
@[simp] theorem State.updAgent_ported (s : State) (u : Nat) (f : Agent → Agent) : (s.updAgent u f).ported = s.ported := rfl
@[simp] theorem State.updAgent_loads (s : State) (u : Nat) (f : Agent → Agent) : (s.updAgent u f).loads = s.loads := rfl
@[simp] theorem State.updAgent_writes (s : State) (u : Nat) (f : Agent → Agent) : (s.updAgent u f).writes = s.writes := rfl
@[simp] theorem State.updAgent_acks (s : State) (u : Nat) (f : Agent → Agent) : (s.updAgent u f).acks = s.acks := rfl
@[simp] theorem State.updAgent_watches (s : State) (u : Nat) (f : Agent → Agent) : (s.updAgent u f).watches = s.watches := rfl
@[simp] theorem State.updAgent_notes (s : State) (u : Nat) (f : Agent → Agent) : (s.updAgent u f).notes = s.notes := rfl
@[simp] theorem State.updAgent_tlb (s : State) (u : Nat) (f : Agent → Agent) : (s.updAgent u f).tlb = s.tlb := rfl
@[simp] theorem State.updAgent_utlb (s : State) (u : Nat) (f : Agent → Agent) : (s.updAgent u f).utlb = s.utlb := rfl
@[simp] theorem State.updAgent_wcache (s : State) (u : Nat) (f : Agent → Agent) : (s.updAgent u f).wcache = s.wcache := rfl
@[simp] theorem State.updAgent_walks (s : State) (u : Nat) (f : Agent → Agent) : (s.updAgent u f).walks = s.walks := rfl
@[simp] theorem State.updAgent_walkFaults (s : State) (u : Nat) (f : Agent → Agent) : (s.updAgent u f).walkFaults = s.walkFaults := rfl
@[simp] theorem State.updAgent_prefs (s : State) (u : Nat) (f : Agent → Agent) : (s.updAgent u f).prefs = s.prefs := rfl
@[simp] theorem State.updAgent_pendings (s : State) (u : Nat) (f : Agent → Agent) : (s.updAgent u f).pendings = s.pendings := rfl
@[simp] theorem State.updAgent_cores (s : State) (u : Nat) (f : Agent → Agent) : (s.updAgent u f).cores = s.cores := rfl
@[simp] theorem State.updAgent_lwords (s : State) (u : Nat) (f : Agent → Agent) : (s.updAgent u f).lwords = s.lwords := rfl
@[simp] theorem State.updAgent_lrt (s : State) (u : Nat) (f : Agent → Agent) : (s.updAgent u f).lrt = s.lrt := rfl
@[simp] theorem State.updAgent_parked (s : State) (u : Nat) (f : Agent → Agent) : (s.updAgent u f).parked = s.parked := rfl
@[simp] theorem State.updAgent_remotes (s : State) (u : Nat) (f : Agent → Agent) : (s.updAgent u f).remotes = s.remotes := rfl
@[simp] theorem State.updAgent_rreplies (s : State) (u : Nat) (f : Agent → Agent) : (s.updAgent u f).rreplies = s.rreplies := rfl
@[simp] theorem State.updAgent_rings (s : State) (u : Nat) (f : Agent → Agent) : (s.updAgent u f).rings = s.rings := rfl
@[simp] theorem State.updAgent_regionJob (s : State) (u : Nat) (f : Agent → Agent) : (s.updAgent u f).regionJob = s.regionJob := rfl
@[simp] theorem State.updAgent_cmds (s : State) (u : Nat) (f : Agent → Agent) : (s.updAgent u f).cmds = s.cmds := rfl
@[simp] theorem State.updAgent_mops (s : State) (u : Nat) (f : Agent → Agent) : (s.updAgent u f).mops = s.mops := rfl
@[simp] theorem State.updAgent_mdone (s : State) (u : Nat) (f : Agent → Agent) : (s.updAgent u f).mdone = s.mdone := rfl
@[simp] theorem State.updAgent_tiles (s : State) (u : Nat) (f : Agent → Agent) : (s.updAgent u f).tiles = s.tiles := rfl
@[simp] theorem State.updAgent_wm (s : State) (u : Nat) (f : Agent → Agent) : (s.updAgent u f).wm = s.wm := rfl
@[simp] theorem State.updAgent_rooms (s : State) (u : Nat) (f : Agent → Agent) : (s.updAgent u f).rooms = s.rooms := rfl
@[simp] theorem State.updAgent_roomWaits (s : State) (u : Nat) (f : Agent → Agent) : (s.updAgent u f).roomWaits = s.roomWaits := rfl
@[simp] theorem State.updAgent_routeCnt (s : State) (u : Nat) (f : Agent → Agent) : (s.updAgent u f).routeCnt = s.routeCnt := rfl
@[simp] theorem State.updAgent_moves (s : State) (u : Nat) (f : Agent → Agent) : (s.updAgent u f).moves = s.moves := rfl
@[simp] theorem State.updAgent_arrivals (s : State) (u : Nat) (f : Agent → Agent) : (s.updAgent u f).arrivals = s.arrivals := rfl
@[simp] theorem State.updAgent_jobs (s : State) (u : Nat) (f : Agent → Agent) : (s.updAgent u f).jobs = s.jobs := rfl
@[simp] theorem State.updAgent_counters (s : State) (u : Nat) (f : Agent → Agent) : (s.updAgent u f).counters = s.counters := rfl
@[simp] theorem State.updAgent_queues (s : State) (u : Nat) (f : Agent → Agent) : (s.updAgent u f).queues = s.queues := rfl
@[simp] theorem State.updAgent_phases (s : State) (u : Nat) (f : Agent → Agent) : (s.updAgent u f).phases = s.phases := rfl
@[simp] theorem State.updAgent_launches (s : State) (u : Nat) (f : Agent → Agent) : (s.updAgent u f).launches = s.launches := rfl
@[simp] theorem State.updAgent_graphs (s : State) (u : Nat) (f : Agent → Agent) : (s.updAgent u f).graphs = s.graphs := rfl
@[simp] theorem State.updAgent_hostCmds (s : State) (u : Nat) (f : Agent → Agent) : (s.updAgent u f).hostCmds = s.hostCmds := rfl
@[simp] theorem State.updAgent_reports (s : State) (u : Nat) (f : Agent → Agent) : (s.updAgent u f).reports = s.reports := rfl
@[simp] theorem State.updAgent_quietReports (s : State) (u : Nat) (f : Agent → Agent) : (s.updAgent u f).quietReports = s.quietReports := rfl
@[simp] theorem State.updAgent_quietDropped (s : State) (u : Nat) (f : Agent → Agent) : (s.updAgent u f).quietDropped = s.quietDropped := rfl
@[simp] theorem State.updAgent_hws (s : State) (u : Nat) (f : Agent → Agent) : (s.updAgent u f).hws = s.hws := rfl
@[simp] theorem State.updAgent_snoops (s : State) (u : Nat) (f : Agent → Agent) : (s.updAgent u f).snoops = s.snoops := rfl
@[simp] theorem State.updAgent_links (s : State) (u : Nat) (f : Agent → Agent) : (s.updAgent u f).links = s.links := rfl
@[simp] theorem State.updAgent_winReqs (s : State) (u : Nat) (f : Agent → Agent) : (s.updAgent u f).winReqs = s.winReqs := rfl
@[simp] theorem State.updAgent_spills (s : State) (u : Nat) (f : Agent → Agent) : (s.updAgent u f).spills = s.spills := rfl
@[simp] theorem State.updAgent_recbase (s : State) (u : Nat) (f : Agent → Agent) : (s.updAgent u f).recbase = s.recbase := rfl
@[simp] theorem State.updAgent_evc (s : State) (u : Nat) (f : Agent → Agent) : (s.updAgent u f).evc = s.evc := rfl
@[simp] theorem State.updAgent_image (s : State) (u : Nat) (f : Agent → Agent) : (s.updAgent u f).image = s.image := rfl
@[simp] theorem State.updAgent_lifecycle (s : State) (u : Nat) (f : Agent → Agent) : (s.updAgent u f).lifecycle = s.lifecycle := rfl
@[simp] theorem State.updAgent_nextLifecycle (s : State) (u : Nat) (f : Agent → Agent) : (s.updAgent u f).nextLifecycle = s.nextLifecycle := rfl
@[simp] theorem State.updAgent_debug (s : State) (u : Nat) (f : Agent → Agent) : (s.updAgent u f).debug = s.debug := rfl
@[simp] theorem State.updAgent_power (s : State) (u : Nat) (f : Agent → Agent) : (s.updAgent u f).power = s.power := rfl
@[simp] theorem State.updAgent_gated (s : State) (u : Nat) (f : Agent → Agent) : (s.updAgent u f).gated = s.gated := rfl
@[simp] theorem State.updAgent_sag (s : State) (u : Nat) (f : Agent → Agent) : (s.updAgent u f).sag = s.sag := rfl
@[simp] theorem State.updAgent_life (s : State) (u : Nat) (f : Agent → Agent) : (s.updAgent u f).life = s.life := rfl
@[simp] theorem State.updAgent_spdm (s : State) (u : Nat) (f : Agent → Agent) : (s.updAgent u f).spdm = s.spdm := rfl

@[simp] theorem State.updLane_mem (s : State) (u l : Nat) (f : Lane → Lane) : (s.updLane u l f).mem = s.mem := rfl
@[simp] theorem State.updLane_homes (s : State) (u l : Nat) (f : Lane → Lane) : (s.updLane u l f).homes = s.homes := rfl
@[simp] theorem State.updLane_copies (s : State) (u l : Nat) (f : Lane → Lane) : (s.updLane u l f).copies = s.copies := rfl
@[simp] theorem State.updLane_tiles (s : State) (u l : Nat) (f : Lane → Lane) : (s.updLane u l f).tiles = s.tiles := rfl
@[simp] theorem State.updLane_wm (s : State) (u l : Nat) (f : Lane → Lane) : (s.updLane u l f).wm = s.wm := rfl
@[simp] theorem State.updLane_jobs (s : State) (u l : Nat) (f : Lane → Lane) : (s.updLane u l f).jobs = s.jobs := rfl
@[simp] theorem State.updLane_queues (s : State) (u l : Nat) (f : Lane → Lane) : (s.updLane u l f).queues = s.queues := rfl
@[simp] theorem State.updLane_counters (s : State) (u l : Nat) (f : Lane → Lane) : (s.updLane u l f).counters = s.counters := rfl
@[simp] theorem State.updLane_reqs (s : State) (u l : Nat) (f : Lane → Lane) : (s.updLane u l f).reqs = s.reqs := rfl
@[simp] theorem State.updLane_writes (s : State) (u l : Nat) (f : Lane → Lane) : (s.updLane u l f).writes = s.writes := rfl
@[simp] theorem State.updLane_loads (s : State) (u l : Nat) (f : Lane → Lane) : (s.updLane u l f).loads = s.loads := rfl
@[simp] theorem State.updLane_lwords (s : State) (u l : Nat) (f : Lane → Lane) : (s.updLane u l f).lwords = s.lwords := rfl
@[simp] theorem State.updLane_launches (s : State) (u l : Nat) (f : Lane → Lane) : (s.updLane u l f).launches = s.launches := rfl
@[simp] theorem State.updLane_cmds (s : State) (u l : Nat) (f : Lane → Lane) : (s.updLane u l f).cmds = s.cmds := rfl
@[simp] theorem State.updLane_watches (s : State) (u l : Nat) (f : Lane → Lane) : (s.updLane u l f).watches = s.watches := rfl
@[simp] theorem State.updLane_power (s : State) (u l : Nat) (f : Lane → Lane) : (s.updLane u l f).power = s.power := rfl
@[simp] theorem State.updLane_focus (s : State) (u l : Nat) (f : Lane → Lane) : (s.updLane u l f).focus = s.focus := rfl
@[simp] theorem State.updLane_agenda (s : State) (u l : Nat) (f : Lane → Lane) : (s.updLane u l f).agenda = s.agenda := rfl
@[simp] theorem State.updLane_nextId (s : State) (u l : Nat) (f : Lane → Lane) : (s.updLane u l f).nextId = s.nextId := rfl

@[simp] theorem State.updPath_mem (s : State) (u : Nat) (b : Bool) (f : Path → Path) : (s.updPath u b f).mem = s.mem := rfl
@[simp] theorem State.updPath_homes (s : State) (u : Nat) (b : Bool) (f : Path → Path) : (s.updPath u b f).homes = s.homes := rfl
@[simp] theorem State.updPath_copies (s : State) (u : Nat) (b : Bool) (f : Path → Path) : (s.updPath u b f).copies = s.copies := rfl
@[simp] theorem State.updPath_tiles (s : State) (u : Nat) (b : Bool) (f : Path → Path) : (s.updPath u b f).tiles = s.tiles := rfl
@[simp] theorem State.updPath_wm (s : State) (u : Nat) (b : Bool) (f : Path → Path) : (s.updPath u b f).wm = s.wm := rfl
@[simp] theorem State.updPath_jobs (s : State) (u : Nat) (b : Bool) (f : Path → Path) : (s.updPath u b f).jobs = s.jobs := rfl
@[simp] theorem State.updPath_queues (s : State) (u : Nat) (b : Bool) (f : Path → Path) : (s.updPath u b f).queues = s.queues := rfl
@[simp] theorem State.updPath_counters (s : State) (u : Nat) (b : Bool) (f : Path → Path) : (s.updPath u b f).counters = s.counters := rfl
@[simp] theorem State.updPath_reqs (s : State) (u : Nat) (b : Bool) (f : Path → Path) : (s.updPath u b f).reqs = s.reqs := rfl
@[simp] theorem State.updPath_writes (s : State) (u : Nat) (b : Bool) (f : Path → Path) : (s.updPath u b f).writes = s.writes := rfl
@[simp] theorem State.updPath_loads (s : State) (u : Nat) (b : Bool) (f : Path → Path) : (s.updPath u b f).loads = s.loads := rfl
@[simp] theorem State.updPath_lwords (s : State) (u : Nat) (b : Bool) (f : Path → Path) : (s.updPath u b f).lwords = s.lwords := rfl
@[simp] theorem State.updPath_launches (s : State) (u : Nat) (b : Bool) (f : Path → Path) : (s.updPath u b f).launches = s.launches := rfl
@[simp] theorem State.updPath_cmds (s : State) (u : Nat) (b : Bool) (f : Path → Path) : (s.updPath u b f).cmds = s.cmds := rfl
@[simp] theorem State.updPath_watches (s : State) (u : Nat) (b : Bool) (f : Path → Path) : (s.updPath u b f).watches = s.watches := rfl
@[simp] theorem State.updPath_power (s : State) (u : Nat) (b : Bool) (f : Path → Path) : (s.updPath u b f).power = s.power := rfl
@[simp] theorem State.updPath_focus (s : State) (u : Nat) (b : Bool) (f : Path → Path) : (s.updPath u b f).focus = s.focus := rfl
@[simp] theorem State.updPath_agenda (s : State) (u : Nat) (b : Bool) (f : Path → Path) : (s.updPath u b f).agenda = s.agenda := rfl
@[simp] theorem State.updPath_nextId (s : State) (u : Nat) (b : Bool) (f : Path → Path) : (s.updPath u b f).nextId = s.nextId := rfl

@[simp] theorem State.setLword_mem (s : State) (c : CoreId) (w : Nat) (x : LWord) : (s.setLword c w x).mem = s.mem := rfl
@[simp] theorem State.setLword_homes (s : State) (c : CoreId) (w : Nat) (x : LWord) : (s.setLword c w x).homes = s.homes := rfl
@[simp] theorem State.setLword_copies (s : State) (c : CoreId) (w : Nat) (x : LWord) : (s.setLword c w x).copies = s.copies := rfl
@[simp] theorem State.setLword_tiles (s : State) (c : CoreId) (w : Nat) (x : LWord) : (s.setLword c w x).tiles = s.tiles := rfl
@[simp] theorem State.setLword_wm (s : State) (c : CoreId) (w : Nat) (x : LWord) : (s.setLword c w x).wm = s.wm := rfl
@[simp] theorem State.setLword_jobs (s : State) (c : CoreId) (w : Nat) (x : LWord) : (s.setLword c w x).jobs = s.jobs := rfl
@[simp] theorem State.setLword_queues (s : State) (c : CoreId) (w : Nat) (x : LWord) : (s.setLword c w x).queues = s.queues := rfl
@[simp] theorem State.setLword_counters (s : State) (c : CoreId) (w : Nat) (x : LWord) : (s.setLword c w x).counters = s.counters := rfl
@[simp] theorem State.setLword_reqs (s : State) (c : CoreId) (w : Nat) (x : LWord) : (s.setLword c w x).reqs = s.reqs := rfl
@[simp] theorem State.setLword_writes (s : State) (c : CoreId) (w : Nat) (x : LWord) : (s.setLword c w x).writes = s.writes := rfl
@[simp] theorem State.setLword_loads (s : State) (c : CoreId) (w : Nat) (x : LWord) : (s.setLword c w x).loads = s.loads := rfl
@[simp] theorem State.setLword_agents (s : State) (c : CoreId) (w : Nat) (x : LWord) : (s.setLword c w x).agents = s.agents := rfl
@[simp] theorem State.setLword_launches (s : State) (c : CoreId) (w : Nat) (x : LWord) : (s.setLword c w x).launches = s.launches := rfl
@[simp] theorem State.setLword_cmds (s : State) (c : CoreId) (w : Nat) (x : LWord) : (s.setLword c w x).cmds = s.cmds := rfl
@[simp] theorem State.setLword_watches (s : State) (c : CoreId) (w : Nat) (x : LWord) : (s.setLword c w x).watches = s.watches := rfl
@[simp] theorem State.setLword_power (s : State) (c : CoreId) (w : Nat) (x : LWord) : (s.setLword c w x).power = s.power := rfl
@[simp] theorem State.setLword_focus (s : State) (c : CoreId) (w : Nat) (x : LWord) : (s.setLword c w x).focus = s.focus := rfl
@[simp] theorem State.setLword_agenda (s : State) (c : CoreId) (w : Nat) (x : LWord) : (s.setLword c w x).agenda = s.agenda := rfl
@[simp] theorem State.setLword_nextId (s : State) (c : CoreId) (w : Nat) (x : LWord) : (s.setLword c w x).nextId = s.nextId := rfl

@[simp] theorem State.updCopy_mem (s : State) (k n : Nat) (f : Copy → Copy) : (s.updCopy k n f).mem = s.mem := rfl
@[simp] theorem State.updCopy_homes (s : State) (k n : Nat) (f : Copy → Copy) : (s.updCopy k n f).homes = s.homes := rfl
@[simp] theorem State.updCopy_tiles (s : State) (k n : Nat) (f : Copy → Copy) : (s.updCopy k n f).tiles = s.tiles := rfl
@[simp] theorem State.updCopy_wm (s : State) (k n : Nat) (f : Copy → Copy) : (s.updCopy k n f).wm = s.wm := rfl
@[simp] theorem State.updCopy_jobs (s : State) (k n : Nat) (f : Copy → Copy) : (s.updCopy k n f).jobs = s.jobs := rfl
@[simp] theorem State.updCopy_queues (s : State) (k n : Nat) (f : Copy → Copy) : (s.updCopy k n f).queues = s.queues := rfl
@[simp] theorem State.updCopy_counters (s : State) (k n : Nat) (f : Copy → Copy) : (s.updCopy k n f).counters = s.counters := rfl
@[simp] theorem State.updCopy_reqs (s : State) (k n : Nat) (f : Copy → Copy) : (s.updCopy k n f).reqs = s.reqs := rfl
@[simp] theorem State.updCopy_writes (s : State) (k n : Nat) (f : Copy → Copy) : (s.updCopy k n f).writes = s.writes := rfl
@[simp] theorem State.updCopy_loads (s : State) (k n : Nat) (f : Copy → Copy) : (s.updCopy k n f).loads = s.loads := rfl
@[simp] theorem State.updCopy_lwords (s : State) (k n : Nat) (f : Copy → Copy) : (s.updCopy k n f).lwords = s.lwords := rfl
@[simp] theorem State.updCopy_agents (s : State) (k n : Nat) (f : Copy → Copy) : (s.updCopy k n f).agents = s.agents := rfl
@[simp] theorem State.updCopy_launches (s : State) (k n : Nat) (f : Copy → Copy) : (s.updCopy k n f).launches = s.launches := rfl
@[simp] theorem State.updCopy_cmds (s : State) (k n : Nat) (f : Copy → Copy) : (s.updCopy k n f).cmds = s.cmds := rfl
@[simp] theorem State.updCopy_watches (s : State) (k n : Nat) (f : Copy → Copy) : (s.updCopy k n f).watches = s.watches := rfl
@[simp] theorem State.updCopy_power (s : State) (k n : Nat) (f : Copy → Copy) : (s.updCopy k n f).power = s.power := rfl
@[simp] theorem State.updCopy_focus (s : State) (k n : Nat) (f : Copy → Copy) : (s.updCopy k n f).focus = s.focus := rfl
@[simp] theorem State.updCopy_agenda (s : State) (k n : Nat) (f : Copy → Copy) : (s.updCopy k n f).agenda = s.agenda := rfl
@[simp] theorem State.updCopy_nextId (s : State) (k n : Nat) (f : Copy → Copy) : (s.updCopy k n f).nextId = s.nextId := rfl

/-- Giving up a copy changes the copies and the requests on their way, nothing else. -/
theorem State.evict_eq (s : State) (k n : Nat) :
    ∃ cs rs i, s.evict k n = { s with copies := cs, reqs := rs, nextId := i } := by
  unfold State.evict
  split
  · exact ⟨_, _, _, rfl⟩
  · split <;> exact ⟨_, _, _, rfl⟩

/-- A copy that is installed may push another out of its bank (R71): the copies, the requests on their way and the choices taken
change, nothing else. -/
theorem State.setCopy_eq (s : State) (c : Copy) :
    ∃ cs rs i ch, s.setCopy c = { s with copies := cs, reqs := rs, nextId := i, choices := ch } := by
  have room : ∃ cs rs i ch, s.makeRoom c.cluster c.line = { s with copies := cs, reqs := rs, nextId := i, choices := ch } := by
    simp only [State.makeRoom]
    split
    · exact ⟨_, _, _, _, rfl⟩
    · split
      · obtain ⟨cs, rs, i, h⟩ := State.evict_eq (s.chooseNat _).2 c.cluster _
        exact ⟨cs, rs, i, _, h⟩
      · exact ⟨_, _, _, _, rfl⟩
  obtain ⟨cs, rs, i, ch, h⟩ := room
  exact ⟨_, rs, i, ch, by rw [State.setCopy, h]⟩

@[simp] theorem State.setCopy_mem (s : State) (c : Copy) : (s.setCopy c).mem = s.mem := by
  obtain ⟨_, _, _, _, h⟩ := s.setCopy_eq c; rw [h]
@[simp] theorem State.setCopy_homes (s : State) (c : Copy) : (s.setCopy c).homes = s.homes := by
  obtain ⟨_, _, _, _, h⟩ := s.setCopy_eq c; rw [h]
@[simp] theorem State.setCopy_tiles (s : State) (c : Copy) : (s.setCopy c).tiles = s.tiles := by
  obtain ⟨_, _, _, _, h⟩ := s.setCopy_eq c; rw [h]
@[simp] theorem State.setCopy_wm (s : State) (c : Copy) : (s.setCopy c).wm = s.wm := by
  obtain ⟨_, _, _, _, h⟩ := s.setCopy_eq c; rw [h]
@[simp] theorem State.setCopy_jobs (s : State) (c : Copy) : (s.setCopy c).jobs = s.jobs := by
  obtain ⟨_, _, _, _, h⟩ := s.setCopy_eq c; rw [h]
@[simp] theorem State.setCopy_queues (s : State) (c : Copy) : (s.setCopy c).queues = s.queues := by
  obtain ⟨_, _, _, _, h⟩ := s.setCopy_eq c; rw [h]
@[simp] theorem State.setCopy_counters (s : State) (c : Copy) : (s.setCopy c).counters = s.counters := by
  obtain ⟨_, _, _, _, h⟩ := s.setCopy_eq c; rw [h]
@[simp] theorem State.setCopy_writes (s : State) (c : Copy) : (s.setCopy c).writes = s.writes := by
  obtain ⟨_, _, _, _, h⟩ := s.setCopy_eq c; rw [h]
@[simp] theorem State.setCopy_loads (s : State) (c : Copy) : (s.setCopy c).loads = s.loads := by
  obtain ⟨_, _, _, _, h⟩ := s.setCopy_eq c; rw [h]
@[simp] theorem State.setCopy_lwords (s : State) (c : Copy) : (s.setCopy c).lwords = s.lwords := by
  obtain ⟨_, _, _, _, h⟩ := s.setCopy_eq c; rw [h]
@[simp] theorem State.setCopy_agents (s : State) (c : Copy) : (s.setCopy c).agents = s.agents := by
  obtain ⟨_, _, _, _, h⟩ := s.setCopy_eq c; rw [h]
@[simp] theorem State.setCopy_launches (s : State) (c : Copy) : (s.setCopy c).launches = s.launches := by
  obtain ⟨_, _, _, _, h⟩ := s.setCopy_eq c; rw [h]
@[simp] theorem State.setCopy_cmds (s : State) (c : Copy) : (s.setCopy c).cmds = s.cmds := by
  obtain ⟨_, _, _, _, h⟩ := s.setCopy_eq c; rw [h]
@[simp] theorem State.setCopy_watches (s : State) (c : Copy) : (s.setCopy c).watches = s.watches := by
  obtain ⟨_, _, _, _, h⟩ := s.setCopy_eq c; rw [h]
@[simp] theorem State.setCopy_power (s : State) (c : Copy) : (s.setCopy c).power = s.power := by
  obtain ⟨_, _, _, _, h⟩ := s.setCopy_eq c; rw [h]
@[simp] theorem State.setCopy_focus (s : State) (c : Copy) : (s.setCopy c).focus = s.focus := by
  obtain ⟨_, _, _, _, h⟩ := s.setCopy_eq c; rw [h]
@[simp] theorem State.setCopy_agenda (s : State) (c : Copy) : (s.setCopy c).agenda = s.agenda := by
  obtain ⟨_, _, _, _, h⟩ := s.setCopy_eq c; rw [h]

@[simp] theorem State.setHome_mem (s : State) (n : Nat) (h : Home) : (s.setHome n h).mem = s.mem := rfl
@[simp] theorem State.setHome_copies (s : State) (n : Nat) (h : Home) : (s.setHome n h).copies = s.copies := rfl
@[simp] theorem State.setHome_tiles (s : State) (n : Nat) (h : Home) : (s.setHome n h).tiles = s.tiles := rfl
@[simp] theorem State.setHome_wm (s : State) (n : Nat) (h : Home) : (s.setHome n h).wm = s.wm := rfl
@[simp] theorem State.setHome_jobs (s : State) (n : Nat) (h : Home) : (s.setHome n h).jobs = s.jobs := rfl
@[simp] theorem State.setHome_queues (s : State) (n : Nat) (h : Home) : (s.setHome n h).queues = s.queues := rfl
@[simp] theorem State.setHome_counters (s : State) (n : Nat) (h : Home) : (s.setHome n h).counters = s.counters := rfl
@[simp] theorem State.setHome_reqs (s : State) (n : Nat) (h : Home) : (s.setHome n h).reqs = s.reqs := rfl
@[simp] theorem State.setHome_writes (s : State) (n : Nat) (h : Home) : (s.setHome n h).writes = s.writes := rfl
@[simp] theorem State.setHome_loads (s : State) (n : Nat) (h : Home) : (s.setHome n h).loads = s.loads := rfl
@[simp] theorem State.setHome_lwords (s : State) (n : Nat) (h : Home) : (s.setHome n h).lwords = s.lwords := rfl
@[simp] theorem State.setHome_agents (s : State) (n : Nat) (h : Home) : (s.setHome n h).agents = s.agents := rfl
@[simp] theorem State.setHome_launches (s : State) (n : Nat) (h : Home) : (s.setHome n h).launches = s.launches := rfl
@[simp] theorem State.setHome_cmds (s : State) (n : Nat) (h : Home) : (s.setHome n h).cmds = s.cmds := rfl
@[simp] theorem State.setHome_watches (s : State) (n : Nat) (h : Home) : (s.setHome n h).watches = s.watches := rfl
@[simp] theorem State.setHome_power (s : State) (n : Nat) (h : Home) : (s.setHome n h).power = s.power := rfl
@[simp] theorem State.setHome_focus (s : State) (n : Nat) (h : Home) : (s.setHome n h).focus = s.focus := rfl
@[simp] theorem State.setHome_agenda (s : State) (n : Nat) (h : Home) : (s.setHome n h).agenda = s.agenda := rfl
@[simp] theorem State.setHome_nextId (s : State) (n : Nat) (h : Home) : (s.setHome n h).nextId = s.nextId := rfl

@[simp] theorem State.updWrite_mem (s : State) (n : Nat) (f : Write → Write) : (s.updWrite n f).mem = s.mem := rfl
@[simp] theorem State.updWrite_homes (s : State) (n : Nat) (f : Write → Write) : (s.updWrite n f).homes = s.homes := rfl
@[simp] theorem State.updWrite_copies (s : State) (n : Nat) (f : Write → Write) : (s.updWrite n f).copies = s.copies := rfl
@[simp] theorem State.updWrite_tiles (s : State) (n : Nat) (f : Write → Write) : (s.updWrite n f).tiles = s.tiles := rfl
@[simp] theorem State.updWrite_wm (s : State) (n : Nat) (f : Write → Write) : (s.updWrite n f).wm = s.wm := rfl
@[simp] theorem State.updWrite_jobs (s : State) (n : Nat) (f : Write → Write) : (s.updWrite n f).jobs = s.jobs := rfl
@[simp] theorem State.updWrite_queues (s : State) (n : Nat) (f : Write → Write) : (s.updWrite n f).queues = s.queues := rfl
@[simp] theorem State.updWrite_counters (s : State) (n : Nat) (f : Write → Write) : (s.updWrite n f).counters = s.counters := rfl
@[simp] theorem State.updWrite_reqs (s : State) (n : Nat) (f : Write → Write) : (s.updWrite n f).reqs = s.reqs := rfl
@[simp] theorem State.updWrite_loads (s : State) (n : Nat) (f : Write → Write) : (s.updWrite n f).loads = s.loads := rfl
@[simp] theorem State.updWrite_lwords (s : State) (n : Nat) (f : Write → Write) : (s.updWrite n f).lwords = s.lwords := rfl
@[simp] theorem State.updWrite_agents (s : State) (n : Nat) (f : Write → Write) : (s.updWrite n f).agents = s.agents := rfl
@[simp] theorem State.updWrite_launches (s : State) (n : Nat) (f : Write → Write) : (s.updWrite n f).launches = s.launches := rfl
@[simp] theorem State.updWrite_cmds (s : State) (n : Nat) (f : Write → Write) : (s.updWrite n f).cmds = s.cmds := rfl
@[simp] theorem State.updWrite_watches (s : State) (n : Nat) (f : Write → Write) : (s.updWrite n f).watches = s.watches := rfl
@[simp] theorem State.updWrite_power (s : State) (n : Nat) (f : Write → Write) : (s.updWrite n f).power = s.power := rfl
@[simp] theorem State.updWrite_focus (s : State) (n : Nat) (f : Write → Write) : (s.updWrite n f).focus = s.focus := rfl
@[simp] theorem State.updWrite_agenda (s : State) (n : Nat) (f : Write → Write) : (s.updWrite n f).agenda = s.agenda := rfl
@[simp] theorem State.updWrite_nextId (s : State) (n : Nat) (f : Write → Write) : (s.updWrite n f).nextId = s.nextId := rfl

@[simp] theorem State.clearWalkFaults_mem (s : State) (u : Nat) : (s.clearWalkFaults u).mem = s.mem := rfl
@[simp] theorem State.clearWalkFaults_homes (s : State) (u : Nat) : (s.clearWalkFaults u).homes = s.homes := rfl
@[simp] theorem State.clearWalkFaults_copies (s : State) (u : Nat) : (s.clearWalkFaults u).copies = s.copies := rfl
@[simp] theorem State.clearWalkFaults_tiles (s : State) (u : Nat) : (s.clearWalkFaults u).tiles = s.tiles := rfl
@[simp] theorem State.clearWalkFaults_wm (s : State) (u : Nat) : (s.clearWalkFaults u).wm = s.wm := rfl
@[simp] theorem State.clearWalkFaults_jobs (s : State) (u : Nat) : (s.clearWalkFaults u).jobs = s.jobs := rfl
@[simp] theorem State.clearWalkFaults_queues (s : State) (u : Nat) : (s.clearWalkFaults u).queues = s.queues := rfl
@[simp] theorem State.clearWalkFaults_counters (s : State) (u : Nat) : (s.clearWalkFaults u).counters = s.counters := rfl
@[simp] theorem State.clearWalkFaults_reqs (s : State) (u : Nat) : (s.clearWalkFaults u).reqs = s.reqs := rfl
@[simp] theorem State.clearWalkFaults_writes (s : State) (u : Nat) : (s.clearWalkFaults u).writes = s.writes := rfl
@[simp] theorem State.clearWalkFaults_loads (s : State) (u : Nat) : (s.clearWalkFaults u).loads = s.loads := rfl
@[simp] theorem State.clearWalkFaults_lwords (s : State) (u : Nat) : (s.clearWalkFaults u).lwords = s.lwords := rfl
@[simp] theorem State.clearWalkFaults_agents (s : State) (u : Nat) : (s.clearWalkFaults u).agents = s.agents := rfl
@[simp] theorem State.clearWalkFaults_launches (s : State) (u : Nat) : (s.clearWalkFaults u).launches = s.launches := rfl
@[simp] theorem State.clearWalkFaults_cmds (s : State) (u : Nat) : (s.clearWalkFaults u).cmds = s.cmds := rfl
@[simp] theorem State.clearWalkFaults_watches (s : State) (u : Nat) : (s.clearWalkFaults u).watches = s.watches := rfl
@[simp] theorem State.clearWalkFaults_power (s : State) (u : Nat) : (s.clearWalkFaults u).power = s.power := rfl
@[simp] theorem State.clearWalkFaults_focus (s : State) (u : Nat) : (s.clearWalkFaults u).focus = s.focus := rfl
@[simp] theorem State.clearWalkFaults_agenda (s : State) (u : Nat) : (s.clearWalkFaults u).agenda = s.agenda := rfl
@[simp] theorem State.clearWalkFaults_nextId (s : State) (u : Nat) : (s.clearWalkFaults u).nextId = s.nextId := rfl

@[simp] theorem State.raiseCtime_mem (s : State) (k : Nat) (t : DWord) : (s.raiseCtime k t).mem = s.mem := by unfold State.raiseCtime; split <;> rfl
@[simp] theorem State.raiseCtime_homes (s : State) (k : Nat) (t : DWord) : (s.raiseCtime k t).homes = s.homes := by unfold State.raiseCtime; split <;> rfl
@[simp] theorem State.raiseCtime_copies (s : State) (k : Nat) (t : DWord) : (s.raiseCtime k t).copies = s.copies := by unfold State.raiseCtime; split <;> rfl
@[simp] theorem State.raiseCtime_tiles (s : State) (k : Nat) (t : DWord) : (s.raiseCtime k t).tiles = s.tiles := by unfold State.raiseCtime; split <;> rfl
@[simp] theorem State.raiseCtime_wm (s : State) (k : Nat) (t : DWord) : (s.raiseCtime k t).wm = s.wm := by unfold State.raiseCtime; split <;> rfl
@[simp] theorem State.raiseCtime_jobs (s : State) (k : Nat) (t : DWord) : (s.raiseCtime k t).jobs = s.jobs := by unfold State.raiseCtime; split <;> rfl
@[simp] theorem State.raiseCtime_queues (s : State) (k : Nat) (t : DWord) : (s.raiseCtime k t).queues = s.queues := by unfold State.raiseCtime; split <;> rfl
@[simp] theorem State.raiseCtime_counters (s : State) (k : Nat) (t : DWord) : (s.raiseCtime k t).counters = s.counters := by unfold State.raiseCtime; split <;> rfl
@[simp] theorem State.raiseCtime_reqs (s : State) (k : Nat) (t : DWord) : (s.raiseCtime k t).reqs = s.reqs := by unfold State.raiseCtime; split <;> rfl
@[simp] theorem State.raiseCtime_writes (s : State) (k : Nat) (t : DWord) : (s.raiseCtime k t).writes = s.writes := by unfold State.raiseCtime; split <;> rfl
@[simp] theorem State.raiseCtime_loads (s : State) (k : Nat) (t : DWord) : (s.raiseCtime k t).loads = s.loads := by unfold State.raiseCtime; split <;> rfl
@[simp] theorem State.raiseCtime_lwords (s : State) (k : Nat) (t : DWord) : (s.raiseCtime k t).lwords = s.lwords := by unfold State.raiseCtime; split <;> rfl
@[simp] theorem State.raiseCtime_agents (s : State) (k : Nat) (t : DWord) : (s.raiseCtime k t).agents = s.agents := by unfold State.raiseCtime; split <;> rfl
@[simp] theorem State.raiseCtime_launches (s : State) (k : Nat) (t : DWord) : (s.raiseCtime k t).launches = s.launches := by unfold State.raiseCtime; split <;> rfl
@[simp] theorem State.raiseCtime_cmds (s : State) (k : Nat) (t : DWord) : (s.raiseCtime k t).cmds = s.cmds := by unfold State.raiseCtime; split <;> rfl
@[simp] theorem State.raiseCtime_watches (s : State) (k : Nat) (t : DWord) : (s.raiseCtime k t).watches = s.watches := by unfold State.raiseCtime; split <;> rfl
@[simp] theorem State.raiseCtime_power (s : State) (k : Nat) (t : DWord) : (s.raiseCtime k t).power = s.power := by unfold State.raiseCtime; split <;> rfl
@[simp] theorem State.raiseCtime_focus (s : State) (k : Nat) (t : DWord) : (s.raiseCtime k t).focus = s.focus := by unfold State.raiseCtime; split <;> rfl
@[simp] theorem State.raiseCtime_agenda (s : State) (k : Nat) (t : DWord) : (s.raiseCtime k t).agenda = s.agenda := by unfold State.raiseCtime; split <;> rfl
@[simp] theorem State.raiseCtime_nextId (s : State) (k : Nat) (t : DWord) : (s.raiseCtime k t).nextId = s.nextId := by unfold State.raiseCtime; split <;> rfl

@[simp] theorem State.noteIssue_mem (s : State) (u k : Nat) (p : Path) : (s.noteIssue u k p).mem = s.mem := by unfold State.noteIssue; dsimp only; split <;> rfl
@[simp] theorem State.noteIssue_homes (s : State) (u k : Nat) (p : Path) : (s.noteIssue u k p).homes = s.homes := by unfold State.noteIssue; dsimp only; split <;> rfl
@[simp] theorem State.noteIssue_copies (s : State) (u k : Nat) (p : Path) : (s.noteIssue u k p).copies = s.copies := by unfold State.noteIssue; dsimp only; split <;> rfl
@[simp] theorem State.noteIssue_tiles (s : State) (u k : Nat) (p : Path) : (s.noteIssue u k p).tiles = s.tiles := by unfold State.noteIssue; dsimp only; split <;> rfl
@[simp] theorem State.noteIssue_wm (s : State) (u k : Nat) (p : Path) : (s.noteIssue u k p).wm = s.wm := by unfold State.noteIssue; dsimp only; split <;> rfl
@[simp] theorem State.noteIssue_jobs (s : State) (u k : Nat) (p : Path) : (s.noteIssue u k p).jobs = s.jobs := by unfold State.noteIssue; dsimp only; split <;> rfl
@[simp] theorem State.noteIssue_queues (s : State) (u k : Nat) (p : Path) : (s.noteIssue u k p).queues = s.queues := by unfold State.noteIssue; dsimp only; split <;> rfl
@[simp] theorem State.noteIssue_counters (s : State) (u k : Nat) (p : Path) : (s.noteIssue u k p).counters = s.counters := by unfold State.noteIssue; dsimp only; split <;> rfl
@[simp] theorem State.noteIssue_reqs (s : State) (u k : Nat) (p : Path) : (s.noteIssue u k p).reqs = s.reqs := by unfold State.noteIssue; dsimp only; split <;> rfl
@[simp] theorem State.noteIssue_writes (s : State) (u k : Nat) (p : Path) : (s.noteIssue u k p).writes = s.writes := by unfold State.noteIssue; dsimp only; split <;> rfl
@[simp] theorem State.noteIssue_loads (s : State) (u k : Nat) (p : Path) : (s.noteIssue u k p).loads = s.loads := by unfold State.noteIssue; dsimp only; split <;> rfl
@[simp] theorem State.noteIssue_lwords (s : State) (u k : Nat) (p : Path) : (s.noteIssue u k p).lwords = s.lwords := by unfold State.noteIssue; dsimp only; split <;> rfl
@[simp] theorem State.noteIssue_cmds (s : State) (u k : Nat) (p : Path) : (s.noteIssue u k p).cmds = s.cmds := by unfold State.noteIssue; dsimp only; split <;> rfl
@[simp] theorem State.noteIssue_watches (s : State) (u k : Nat) (p : Path) : (s.noteIssue u k p).watches = s.watches := by unfold State.noteIssue; dsimp only; split <;> rfl
@[simp] theorem State.noteIssue_power (s : State) (u k : Nat) (p : Path) : (s.noteIssue u k p).power = s.power := by unfold State.noteIssue; dsimp only; split <;> rfl
@[simp] theorem State.noteIssue_focus (s : State) (u k : Nat) (p : Path) : (s.noteIssue u k p).focus = s.focus := by unfold State.noteIssue; dsimp only; split <;> rfl
@[simp] theorem State.noteIssue_agenda (s : State) (u k : Nat) (p : Path) : (s.noteIssue u k p).agenda = s.agenda := by unfold State.noteIssue; dsimp only; split <;> rfl
@[simp] theorem State.noteIssue_nextId (s : State) (u k : Nat) (p : Path) : (s.noteIssue u k p).nextId = s.nextId := by unfold State.noteIssue; dsimp only; split <;> rfl

/-! ### Updates of a unit -/

@[simp] theorem Agent.setSlot_uid (a : Agent) (b : Bool) (p : Option Path) : (a.setSlot b p).uid = a.uid := by cases b <;> rfl
@[simp] theorem Agent.setSlot_kind (a : Agent) (b : Bool) (p : Option Path) : (a.setSlot b p).kind = a.kind := by cases b <;> rfl
@[simp] theorem Agent.setSlot_job (a : Agent) (b : Bool) (p : Option Path) : (a.setSlot b p).job = a.job := by cases b <;> rfl
@[simp] theorem Agent.setSlot_launch (a : Agent) (b : Bool) (p : Option Path) : (a.setSlot b p).launch = a.launch := by cases b <;> rfl
@[simp] theorem Agent.setSlot_place (a : Agent) (b : Bool) (p : Option Path) : (a.setSlot b p).place = a.place := by cases b <;> rfl
@[simp] theorem Agent.setSlot_home (a : Agent) (b : Bool) (p : Option Path) : (a.setSlot b p).home = a.home := by cases b <;> rfl
@[simp] theorem Agent.setSlot_status (a : Agent) (b : Bool) (p : Option Path) : (a.setSlot b p).status = a.status := by cases b <;> rfl
@[simp] theorem Agent.setSlot_lanes (a : Agent) (b : Bool) (p : Option Path) : (a.setSlot b p).lanes = a.lanes := by cases b <;> rfl
@[simp] theorem Agent.setSlot_live (a : Agent) (b : Bool) (p : Option Path) : (a.setSlot b p).live = a.live := by cases b <;> rfl
@[simp] theorem Agent.setSlot_s (a : Agent) (b : Bool) (p : Option Path) : (a.setSlot b p).s = a.s := by cases b <;> rfl
@[simp] theorem Agent.setSlot_sBad (a : Agent) (b : Bool) (p : Option Path) : (a.setSlot b p).sBad = a.sBad := by cases b <;> rfl
@[simp] theorem Agent.setSlot_sGone (a : Agent) (b : Bool) (p : Option Path) : (a.setSlot b p).sGone = a.sGone := by cases b <;> rfl
@[simp] theorem Agent.setSlot_stack (a : Agent) (b : Bool) (p : Option Path) : (a.setSlot b p).stack = a.stack := by cases b <;> rfl
@[simp] theorem Agent.setSlot_rrb (a : Agent) (b : Bool) (p : Option Path) : (a.setSlot b p).rrb = a.rrb := by cases b <;> rfl
@[simp] theorem Agent.setSlot_loops (a : Agent) (b : Bool) (p : Option Path) : (a.setSlot b p).loops = a.loops := by cases b <;> rfl
@[simp] theorem Agent.setSlot_hrrb (a : Agent) (b : Bool) (p : Option Path) : (a.setSlot b p).hrrb = a.hrrb := by cases b <;> rfl
@[simp] theorem Agent.setSlot_hloops (a : Agent) (b : Bool) (p : Option Path) : (a.setSlot b p).hloops = a.hloops := by cases b <;> rfl
@[simp] theorem Agent.setSlot_fpctl (a : Agent) (b : Bool) (p : Option Path) : (a.setSlot b p).fpctl = a.fpctl := by cases b <;> rfl
@[simp] theorem Agent.setSlot_fpflags (a : Agent) (b : Bool) (p : Option Path) : (a.setSlot b p).fpflags = a.fpflags := by cases b <;> rfl
@[simp] theorem Agent.setSlot_thctl (a : Agent) (b : Bool) (p : Option Path) : (a.setSlot b p).thctl = a.thctl := by cases b <;> rfl
@[simp] theorem Agent.setSlot_waitlim (a : Agent) (b : Bool) (p : Option Path) : (a.setSlot b p).waitlim = a.waitlim := by cases b <;> rfl
@[simp] theorem Agent.setSlot_tl (a : Agent) (b : Bool) (p : Option Path) : (a.setSlot b p).tl = a.tl := by cases b <;> rfl
@[simp] theorem Agent.setSlot_issued (a : Agent) (b : Bool) (p : Option Path) : (a.setSlot b p).issued = a.issued := by cases b <;> rfl
@[simp] theorem Agent.setSlot_finished (a : Agent) (b : Bool) (p : Option Path) : (a.setSlot b p).finished = a.finished := by cases b <;> rfl
@[simp] theorem Agent.setSlot_due (a : Agent) (b : Bool) (p : Option Path) : (a.setSlot b p).due = a.due := by cases b <;> rfl
@[simp] theorem Agent.setSlot_dfovf (a : Agent) (b : Bool) (p : Option Path) : (a.setSlot b p).dfovf = a.dfovf := by cases b <;> rfl
@[simp] theorem Agent.setSlot_frame (a : Agent) (b : Bool) (p : Option Path) : (a.setSlot b p).frame = a.frame := by cases b <;> rfl
@[simp] theorem Agent.setSlot_acks (a : Agent) (b : Bool) (p : Option Path) : (a.setSlot b p).acks = a.acks := by cases b <;> rfl
@[simp] theorem Agent.setSlot_role (a : Agent) (b : Bool) (p : Option Path) : (a.setSlot b p).role = a.role := by cases b <;> rfl
@[simp] theorem Agent.setSlot_partner (a : Agent) (b : Bool) (p : Option Path) : (a.setSlot b p).partner = a.partner := by cases b <;> rfl
@[simp] theorem Agent.setSlot_depth (a : Agent) (b : Bool) (p : Option Path) : (a.setSlot b p).depth = a.depth := by cases b <;> rfl
@[simp] theorem Agent.setSlot_count (a : Agent) (b : Bool) (p : Option Path) : (a.setSlot b p).count = a.count := by cases b <;> rfl
@[simp] theorem Agent.setSlot_leafdesc (a : Agent) (b : Bool) (p : Option Path) : (a.setSlot b p).leafdesc = a.leafdesc := by cases b <;> rfl
@[simp] theorem Agent.setSlot_fmode (a : Agent) (b : Bool) (p : Option Path) : (a.setSlot b p).fmode = a.fmode := by cases b <;> rfl
@[simp] theorem Agent.setSlot_regs (a : Agent) (b : Bool) (p : Option Path) : (a.setSlot b p).regs = a.regs := by cases b <;> rfl
@[simp] theorem Agent.setSlot_levelids (a : Agent) (b : Bool) (p : Option Path) : (a.setSlot b p).levelids = a.levelids := by cases b <;> rfl
@[simp] theorem Agent.setSlot_cancel (a : Agent) (b : Bool) (p : Option Path) : (a.setSlot b p).cancel = a.cancel := by cases b <;> rfl
@[simp] theorem Agent.setSlot_inCancel (a : Agent) (b : Bool) (p : Option Path) : (a.setSlot b p).inCancel = a.inCancel := by cases b <;> rfl
@[simp] theorem Agent.setSlot_idleSince (a : Agent) (b : Bool) (p : Option Path) : (a.setSlot b p).idleSince = a.idleSince := by cases b <;> rfl
@[simp] theorem Agent.setSlot_lost (a : Agent) (b : Bool) (p : Option Path) : (a.setSlot b p).lost = a.lost := by cases b <;> rfl
@[simp] theorem Agent.setSlot_carry (a : Agent) (b : Bool) (p : Option Path) : (a.setSlot b p).carry = a.carry := by cases b <;> rfl
@[simp] theorem Agent.setSlot_behind (a : Agent) (b : Bool) (p : Option Path) : (a.setSlot b p).behind = a.behind := by cases b <;> rfl
@[simp] theorem Agent.setSlot_area (a : Agent) (b : Bool) (p : Option Path) : (a.setSlot b p).area = a.area := by cases b <;> rfl

@[simp] theorem Agent.updLane_kind (a : Agent) (l : Nat) (f : Lane → Lane) : (a.updLane l f).kind = a.kind := rfl
@[simp] theorem Agent.updLane_job (a : Agent) (l : Nat) (f : Lane → Lane) : (a.updLane l f).job = a.job := rfl
@[simp] theorem Agent.updLane_launch (a : Agent) (l : Nat) (f : Lane → Lane) : (a.updLane l f).launch = a.launch := rfl
@[simp] theorem Agent.updLane_place (a : Agent) (l : Nat) (f : Lane → Lane) : (a.updLane l f).place = a.place := rfl
@[simp] theorem Agent.updLane_home (a : Agent) (l : Nat) (f : Lane → Lane) : (a.updLane l f).home = a.home := rfl
@[simp] theorem Agent.updLane_status (a : Agent) (l : Nat) (f : Lane → Lane) : (a.updLane l f).status = a.status := rfl
@[simp] theorem Agent.updLane_live (a : Agent) (l : Nat) (f : Lane → Lane) : (a.updLane l f).live = a.live := rfl
@[simp] theorem Agent.updLane_s (a : Agent) (l : Nat) (f : Lane → Lane) : (a.updLane l f).s = a.s := rfl
@[simp] theorem Agent.updLane_sBad (a : Agent) (l : Nat) (f : Lane → Lane) : (a.updLane l f).sBad = a.sBad := rfl
@[simp] theorem Agent.updLane_sGone (a : Agent) (l : Nat) (f : Lane → Lane) : (a.updLane l f).sGone = a.sGone := rfl
@[simp] theorem Agent.updLane_slotA (a : Agent) (l : Nat) (f : Lane → Lane) : (a.updLane l f).slotA = a.slotA := rfl
@[simp] theorem Agent.updLane_slotB (a : Agent) (l : Nat) (f : Lane → Lane) : (a.updLane l f).slotB = a.slotB := rfl
@[simp] theorem Agent.updLane_stack (a : Agent) (l : Nat) (f : Lane → Lane) : (a.updLane l f).stack = a.stack := rfl
@[simp] theorem Agent.updLane_rrb (a : Agent) (l : Nat) (f : Lane → Lane) : (a.updLane l f).rrb = a.rrb := rfl
@[simp] theorem Agent.updLane_loops (a : Agent) (l : Nat) (f : Lane → Lane) : (a.updLane l f).loops = a.loops := rfl
@[simp] theorem Agent.updLane_hrrb (a : Agent) (l : Nat) (f : Lane → Lane) : (a.updLane l f).hrrb = a.hrrb := rfl
@[simp] theorem Agent.updLane_hloops (a : Agent) (l : Nat) (f : Lane → Lane) : (a.updLane l f).hloops = a.hloops := rfl
@[simp] theorem Agent.updLane_fpctl (a : Agent) (l : Nat) (f : Lane → Lane) : (a.updLane l f).fpctl = a.fpctl := rfl
@[simp] theorem Agent.updLane_fpflags (a : Agent) (l : Nat) (f : Lane → Lane) : (a.updLane l f).fpflags = a.fpflags := rfl
@[simp] theorem Agent.updLane_thctl (a : Agent) (l : Nat) (f : Lane → Lane) : (a.updLane l f).thctl = a.thctl := rfl
@[simp] theorem Agent.updLane_waitlim (a : Agent) (l : Nat) (f : Lane → Lane) : (a.updLane l f).waitlim = a.waitlim := rfl
@[simp] theorem Agent.updLane_tl (a : Agent) (l : Nat) (f : Lane → Lane) : (a.updLane l f).tl = a.tl := rfl
@[simp] theorem Agent.updLane_issued (a : Agent) (l : Nat) (f : Lane → Lane) : (a.updLane l f).issued = a.issued := rfl
@[simp] theorem Agent.updLane_finished (a : Agent) (l : Nat) (f : Lane → Lane) : (a.updLane l f).finished = a.finished := rfl
@[simp] theorem Agent.updLane_due (a : Agent) (l : Nat) (f : Lane → Lane) : (a.updLane l f).due = a.due := rfl
@[simp] theorem Agent.updLane_dfovf (a : Agent) (l : Nat) (f : Lane → Lane) : (a.updLane l f).dfovf = a.dfovf := rfl
@[simp] theorem Agent.updLane_frame (a : Agent) (l : Nat) (f : Lane → Lane) : (a.updLane l f).frame = a.frame := rfl
@[simp] theorem Agent.updLane_acks (a : Agent) (l : Nat) (f : Lane → Lane) : (a.updLane l f).acks = a.acks := rfl
@[simp] theorem Agent.updLane_role (a : Agent) (l : Nat) (f : Lane → Lane) : (a.updLane l f).role = a.role := rfl
@[simp] theorem Agent.updLane_partner (a : Agent) (l : Nat) (f : Lane → Lane) : (a.updLane l f).partner = a.partner := rfl
@[simp] theorem Agent.updLane_depth (a : Agent) (l : Nat) (f : Lane → Lane) : (a.updLane l f).depth = a.depth := rfl
@[simp] theorem Agent.updLane_count (a : Agent) (l : Nat) (f : Lane → Lane) : (a.updLane l f).count = a.count := rfl
@[simp] theorem Agent.updLane_leafdesc (a : Agent) (l : Nat) (f : Lane → Lane) : (a.updLane l f).leafdesc = a.leafdesc := rfl
@[simp] theorem Agent.updLane_fmode (a : Agent) (l : Nat) (f : Lane → Lane) : (a.updLane l f).fmode = a.fmode := rfl
@[simp] theorem Agent.updLane_regs (a : Agent) (l : Nat) (f : Lane → Lane) : (a.updLane l f).regs = a.regs := rfl
@[simp] theorem Agent.updLane_levelids (a : Agent) (l : Nat) (f : Lane → Lane) : (a.updLane l f).levelids = a.levelids := rfl
@[simp] theorem Agent.updLane_cancel (a : Agent) (l : Nat) (f : Lane → Lane) : (a.updLane l f).cancel = a.cancel := rfl
@[simp] theorem Agent.updLane_inCancel (a : Agent) (l : Nat) (f : Lane → Lane) : (a.updLane l f).inCancel = a.inCancel := rfl
@[simp] theorem Agent.updLane_idleSince (a : Agent) (l : Nat) (f : Lane → Lane) : (a.updLane l f).idleSince = a.idleSince := rfl
@[simp] theorem Agent.updLane_lost (a : Agent) (l : Nat) (f : Lane → Lane) : (a.updLane l f).lost = a.lost := rfl
@[simp] theorem Agent.updLane_carry (a : Agent) (l : Nat) (f : Lane → Lane) : (a.updLane l f).carry = a.carry := rfl
@[simp] theorem Agent.updLane_behind (a : Agent) (l : Nat) (f : Lane → Lane) : (a.updLane l f).behind = a.behind := rfl
@[simp] theorem Agent.updLane_area (a : Agent) (l : Nat) (f : Lane → Lane) : (a.updLane l f).area = a.area := rfl

/-! ### Updates of a lane -/

@[simp] theorem Lane.setReg_p (ln : Lane) (i : Fin 64) (v : Word) : (ln.setReg i v).p = ln.p := rfl
@[simp] theorem Lane.setReg_pbad (ln : Lane) (i : Fin 64) (v : Word) : (ln.setReg i v).pbad = ln.pbad := rfl
@[simp] theorem Lane.setReg_ltime (ln : Lane) (i : Fin 64) (v : Word) : (ln.setReg i v).ltime = ln.ltime := rfl
@[simp] theorem Lane.setReg_wFalse (ln : Lane) (i : Fin 64) (v : Word) : (ln.setReg i v).wFalse = ln.wFalse := rfl
@[simp] theorem Lane.setReg_wStrikes (ln : Lane) (i : Fin 64) (v : Word) : (ln.setReg i v).wStrikes = ln.wStrikes := rfl
@[simp] theorem Lane.setReg_wFallbk (ln : Lane) (i : Fin 64) (v : Word) : (ln.setReg i v).wFallbk = ln.wFallbk := rfl
@[simp] theorem Lane.setReg_struck (ln : Lane) (i : Fin 64) (v : Word) : (ln.setReg i v).struck = ln.struck := rfl
@[simp] theorem Lane.setReg_spred (ln : Lane) (i : Fin 64) (v : Word) : (ln.setReg i v).spred = ln.spred := rfl
@[simp] theorem Lane.setReg_swatch (ln : Lane) (i : Fin 64) (v : Word) : (ln.setReg i v).swatch = ln.swatch := rfl
@[simp] theorem Lane.setReg_caller (ln : Lane) (i : Fin 64) (v : Word) : (ln.setReg i v).caller = ln.caller := rfl
@[simp] theorem Lane.setReg_cfault (ln : Lane) (i : Fin 64) (v : Word) : (ln.setReg i v).cfault = ln.cfault := rfl
@[simp] theorem Lane.setReg_chain (ln : Lane) (i : Fin 64) (v : Word) : (ln.setReg i v).chain = ln.chain := rfl
@[simp] theorem Lane.setReg_takes (ln : Lane) (i : Fin 64) (v : Word) : (ln.setReg i v).takes = ln.takes := rfl
@[simp] theorem Lane.setReg_crept (ln : Lane) (i : Fin 64) (v : Word) : (ln.setReg i v).crept = ln.crept := rfl
@[simp] theorem Lane.setReg_cancelled (ln : Lane) (i : Fin 64) (v : Word) : (ln.setReg i v).cancelled = ln.cancelled := rfl

@[simp] theorem Lane.setEmpty_g (ln : Lane) (i : Fin 64) : (ln.setEmpty i).g = ln.g := rfl
@[simp] theorem Lane.setEmpty_pend (ln : Lane) (i : Fin 64) : (ln.setEmpty i).pend = ln.pend := rfl
@[simp] theorem Lane.setEmpty_bad (ln : Lane) (i : Fin 64) : (ln.setEmpty i).bad = ln.bad := rfl
@[simp] theorem Lane.setEmpty_p (ln : Lane) (i : Fin 64) : (ln.setEmpty i).p = ln.p := rfl
@[simp] theorem Lane.setEmpty_pbad (ln : Lane) (i : Fin 64) : (ln.setEmpty i).pbad = ln.pbad := rfl
@[simp] theorem Lane.setEmpty_ltime (ln : Lane) (i : Fin 64) : (ln.setEmpty i).ltime = ln.ltime := rfl
@[simp] theorem Lane.setEmpty_wFalse (ln : Lane) (i : Fin 64) : (ln.setEmpty i).wFalse = ln.wFalse := rfl
@[simp] theorem Lane.setEmpty_wStrikes (ln : Lane) (i : Fin 64) : (ln.setEmpty i).wStrikes = ln.wStrikes := rfl
@[simp] theorem Lane.setEmpty_wFallbk (ln : Lane) (i : Fin 64) : (ln.setEmpty i).wFallbk = ln.wFallbk := rfl
@[simp] theorem Lane.setEmpty_struck (ln : Lane) (i : Fin 64) : (ln.setEmpty i).struck = ln.struck := rfl
@[simp] theorem Lane.setEmpty_spred (ln : Lane) (i : Fin 64) : (ln.setEmpty i).spred = ln.spred := rfl
@[simp] theorem Lane.setEmpty_swatch (ln : Lane) (i : Fin 64) : (ln.setEmpty i).swatch = ln.swatch := rfl
@[simp] theorem Lane.setEmpty_caller (ln : Lane) (i : Fin 64) : (ln.setEmpty i).caller = ln.caller := rfl
@[simp] theorem Lane.setEmpty_cfault (ln : Lane) (i : Fin 64) : (ln.setEmpty i).cfault = ln.cfault := rfl
@[simp] theorem Lane.setEmpty_chain (ln : Lane) (i : Fin 64) : (ln.setEmpty i).chain = ln.chain := rfl
@[simp] theorem Lane.setEmpty_takes (ln : Lane) (i : Fin 64) : (ln.setEmpty i).takes = ln.takes := rfl
@[simp] theorem Lane.setEmpty_crept (ln : Lane) (i : Fin 64) : (ln.setEmpty i).crept = ln.crept := rfl
@[simp] theorem Lane.setEmpty_cancelled (ln : Lane) (i : Fin 64) : (ln.setEmpty i).cancelled = ln.cancelled := rfl
@[simp] theorem Lane.setEmpty_gone (ln : Lane) (i : Fin 64) : (ln.setEmpty i).gone = ln.gone := rfl

@[simp] theorem Lane.setPending_g (ln : Lane) (i : Fin 64) : (ln.setPending i).g = ln.g := rfl
@[simp] theorem Lane.setPending_bad (ln : Lane) (i : Fin 64) : (ln.setPending i).bad = ln.bad := rfl
@[simp] theorem Lane.setPending_p (ln : Lane) (i : Fin 64) : (ln.setPending i).p = ln.p := rfl
@[simp] theorem Lane.setPending_pbad (ln : Lane) (i : Fin 64) : (ln.setPending i).pbad = ln.pbad := rfl
@[simp] theorem Lane.setPending_ltime (ln : Lane) (i : Fin 64) : (ln.setPending i).ltime = ln.ltime := rfl
@[simp] theorem Lane.setPending_wFalse (ln : Lane) (i : Fin 64) : (ln.setPending i).wFalse = ln.wFalse := rfl
@[simp] theorem Lane.setPending_wStrikes (ln : Lane) (i : Fin 64) : (ln.setPending i).wStrikes = ln.wStrikes := rfl
@[simp] theorem Lane.setPending_wFallbk (ln : Lane) (i : Fin 64) : (ln.setPending i).wFallbk = ln.wFallbk := rfl
@[simp] theorem Lane.setPending_struck (ln : Lane) (i : Fin 64) : (ln.setPending i).struck = ln.struck := rfl
@[simp] theorem Lane.setPending_spred (ln : Lane) (i : Fin 64) : (ln.setPending i).spred = ln.spred := rfl
@[simp] theorem Lane.setPending_swatch (ln : Lane) (i : Fin 64) : (ln.setPending i).swatch = ln.swatch := rfl
@[simp] theorem Lane.setPending_caller (ln : Lane) (i : Fin 64) : (ln.setPending i).caller = ln.caller := rfl
@[simp] theorem Lane.setPending_cfault (ln : Lane) (i : Fin 64) : (ln.setPending i).cfault = ln.cfault := rfl
@[simp] theorem Lane.setPending_chain (ln : Lane) (i : Fin 64) : (ln.setPending i).chain = ln.chain := rfl
@[simp] theorem Lane.setPending_takes (ln : Lane) (i : Fin 64) : (ln.setPending i).takes = ln.takes := rfl
@[simp] theorem Lane.setPending_crept (ln : Lane) (i : Fin 64) : (ln.setPending i).crept = ln.crept := rfl
@[simp] theorem Lane.setPending_cancelled (ln : Lane) (i : Fin 64) : (ln.setPending i).cancelled = ln.cancelled := rfl
@[simp] theorem Lane.setPending_gone (ln : Lane) (i : Fin 64) : (ln.setPending i).gone = ln.gone := rfl

@[simp] theorem Lane.setPred_g (ln : Lane) (k : BitVec 4) (p : PReg) (b : Bool) : (ln.setPred k p b).g = ln.g := by unfold Lane.setPred; split <;> rfl
@[simp] theorem Lane.setPred_full (ln : Lane) (k : BitVec 4) (p : PReg) (b : Bool) : (ln.setPred k p b).full = ln.full := by unfold Lane.setPred; split <;> rfl
@[simp] theorem Lane.setPred_pend (ln : Lane) (k : BitVec 4) (p : PReg) (b : Bool) : (ln.setPred k p b).pend = ln.pend := by unfold Lane.setPred; split <;> rfl
@[simp] theorem Lane.setPred_bad (ln : Lane) (k : BitVec 4) (p : PReg) (b : Bool) : (ln.setPred k p b).bad = ln.bad := by unfold Lane.setPred; split <;> rfl
@[simp] theorem Lane.setPred_ltime (ln : Lane) (k : BitVec 4) (p : PReg) (b : Bool) : (ln.setPred k p b).ltime = ln.ltime := by unfold Lane.setPred; split <;> rfl
@[simp] theorem Lane.setPred_wFalse (ln : Lane) (k : BitVec 4) (p : PReg) (b : Bool) : (ln.setPred k p b).wFalse = ln.wFalse := by unfold Lane.setPred; split <;> rfl
@[simp] theorem Lane.setPred_wStrikes (ln : Lane) (k : BitVec 4) (p : PReg) (b : Bool) : (ln.setPred k p b).wStrikes = ln.wStrikes := by unfold Lane.setPred; split <;> rfl
@[simp] theorem Lane.setPred_wFallbk (ln : Lane) (k : BitVec 4) (p : PReg) (b : Bool) : (ln.setPred k p b).wFallbk = ln.wFallbk := by unfold Lane.setPred; split <;> rfl
@[simp] theorem Lane.setPred_struck (ln : Lane) (k : BitVec 4) (p : PReg) (b : Bool) : (ln.setPred k p b).struck = ln.struck := by unfold Lane.setPred; split <;> rfl
@[simp] theorem Lane.setPred_spred (ln : Lane) (k : BitVec 4) (p : PReg) (b : Bool) : (ln.setPred k p b).spred = ln.spred := by unfold Lane.setPred; split <;> rfl
@[simp] theorem Lane.setPred_swatch (ln : Lane) (k : BitVec 4) (p : PReg) (b : Bool) : (ln.setPred k p b).swatch = ln.swatch := by unfold Lane.setPred; split <;> rfl
@[simp] theorem Lane.setPred_caller (ln : Lane) (k : BitVec 4) (p : PReg) (b : Bool) : (ln.setPred k p b).caller = ln.caller := by unfold Lane.setPred; split <;> rfl
@[simp] theorem Lane.setPred_cfault (ln : Lane) (k : BitVec 4) (p : PReg) (b : Bool) : (ln.setPred k p b).cfault = ln.cfault := by unfold Lane.setPred; split <;> rfl
@[simp] theorem Lane.setPred_chain (ln : Lane) (k : BitVec 4) (p : PReg) (b : Bool) : (ln.setPred k p b).chain = ln.chain := by unfold Lane.setPred; split <;> rfl
@[simp] theorem Lane.setPred_takes (ln : Lane) (k : BitVec 4) (p : PReg) (b : Bool) : (ln.setPred k p b).takes = ln.takes := by unfold Lane.setPred; split <;> rfl
@[simp] theorem Lane.setPred_crept (ln : Lane) (k : BitVec 4) (p : PReg) (b : Bool) : (ln.setPred k p b).crept = ln.crept := by unfold Lane.setPred; split <;> rfl
@[simp] theorem Lane.setPred_cancelled (ln : Lane) (k : BitVec 4) (p : PReg) (b : Bool) : (ln.setPred k p b).cancelled = ln.cancelled := by unfold Lane.setPred; split <;> rfl
@[simp] theorem Lane.setPred_toks (ln : Lane) (k : BitVec 4) (p : PReg) (b : Bool) : (ln.setPred k p b).toks = ln.toks := by unfold Lane.setPred; split <;> rfl
@[simp] theorem Lane.setPred_gone (ln : Lane) (k : BitVec 4) (p : PReg) (b : Bool) : (ln.setPred k p b).gone = ln.gone := by unfold Lane.setPred; split <;> rfl

/-! ### Reading after writing -/

@[simp] theorem Agent.slot_setSlot (a : Agent) (b : Bool) (p : Option Path) : (a.setSlot b p).slot b = p := by cases b <;> rfl

@[simp] theorem Agent.slot_setSlot_not (a : Agent) (b : Bool) (p : Option Path) : (a.setSlot (!b) p).slot b = a.slot b := by
  cases b <;> rfl

@[simp] theorem Agent.updLane_length (a : Agent) (l : Nat) (f : Lane → Lane) : (a.updLane l f).lanes.length = a.lanes.length := by
  simp [Agent.updLane]

theorem Agent.lane_updLane (a : Agent) (l k : Nat) (f : Lane → Lane) (h : l < a.lanes.length) :
    (a.updLane l f).lane k = if k = l then f (a.lane l) else a.lane k := by
  unfold Agent.updLane Agent.lane
  rw [List.getD_eq_getElem?_getD, List.getElem?_modify]
  by_cases e : k = l
  · subst e; simp [h]
  · have e' : l ≠ k := fun x => e x.symm
    simp [e, e']

theorem State.agent?_setAgent (s : State) (a x : Agent) (u : Nat) (h : s.agent? a.uid = some x) :
    (s.setAgent a).agent? u = if u = a.uid then some a else s.agent? u := by
  have key : ∀ l : List Agent, l.find? (·.uid == a.uid) = some x →
      (l.map fun b => if b.uid = a.uid then a else b).find? (·.uid == u) =
        if u = a.uid then some a else l.find? (·.uid == u) := by
    intro l
    induction l with
    | nil => intro h; simp at h
    | cons b l ih =>
      intro h
      by_cases hb : b.uid = a.uid
      · by_cases hu : u = a.uid
        · subst hu; simp [hb]
        · have e : ∀ l : List Agent, (l.map fun b => if b.uid = a.uid then a else b).find? (·.uid == u) =
              l.find? (·.uid == u) := by
            intro l
            induction l with
            | nil => rfl
            | cons c l ih =>
              by_cases hc : c.uid = a.uid
              · have : ¬ a.uid = u := fun e => hu e.symm
                simp [hc, this, ih]
              · simp [hc, List.find?_cons, ih]
          rw [e]; simp [hu]
      · rw [List.find?_cons] at h
        have hb' : (b.uid == a.uid) = false := by simpa using hb
        rw [hb'] at h
        have h' := ih h
        by_cases hu : b.uid = u
        · have : ¬ u = a.uid := fun e => hb (hu.trans e)
          simp [hu, this]
        · have : (b.uid == u) = false := by simpa using hu
          simp only [List.map_cons, hb, if_false, List.find?_cons, this, h']
  exact key s.agents h

theorem State.agent?_updAgent (s : State) (u v : Nat) (f : Agent → Agent) (hf : ∀ a, (f a).uid = a.uid) :
    (s.updAgent u f).agent? v = if v = u then (s.agent? v).map f else s.agent? v := by
  unfold State.updAgent State.agent?
  rw [List.find?_map]
  have : ((fun x : Agent => x.uid == v) ∘ fun b : Agent => if b.uid = u then f b else b) = fun x : Agent => x.uid == v := by
    funext b; simp only [Function.comp]; split <;> simp [hf]
  rw [this]
  cases h : s.agents.find? (fun x => x.uid == v) with
  | none => simp
  | some a =>
    have ha : a.uid = v := by simpa using List.find?_some h
    simp only [Option.map_some, ha]
    by_cases e : v = u <;> simp [e]

theorem Lane.reg_setReg (ln : Lane) (i j : Fin 64) (v : Word) : (ln.setReg i v).reg j = if j = i then v else ln.reg j := by
  unfold Lane.reg Lane.setReg
  by_cases e : j = i
  · subst e; simp
  · have : i.val ≠ j.val := fun x => e (Fin.ext x.symm)
    simp [e, this]

@[simp] theorem Lane.reg_setEmpty (ln : Lane) (i j : Fin 64) : (ln.setEmpty i).reg j = ln.reg j := rfl
@[simp] theorem Lane.reg_setPred (ln : Lane) (k : BitVec 4) (p : PReg) (b : Bool) (j : Fin 64) :
    (ln.setPred k p b).reg j = ln.reg j := by unfold Lane.setPred; split <;> rfl

end Sys2Proof.Machine
end

