-- ==== Sys2Proof/Tests/Slice0.lean ====
section
/-! SUPPORT. The model's own tests: ill-formed terms that the checks refuse; words written out from the encodings of the spec
and what they decode to; for every statement with hypotheses, states and operands that meet them; single steps. -/

namespace Sys2Proof.Tests
open Sys2Proof.Machine Sys2Proof.Terms

/-- The guard that is always true. -/
abbrev al : Guard := Guard.always

/-! ### Ill-formed terms (08_encoding.md R171 check 5): one for each check of `Instr.wf`, beside a well-formed neighbour -/

/-- R385: the code of `TRAP` is at least 0xE0. -/
theorem test_wf_trap : (Instr.trap 0xDF 0).wf = false ∧ (Instr.trap 0xE0 0).wf = true := by decide
/-- R217: LEN 0, and POS + LEN beyond 32. -/
theorem test_wf_field : (Instr.bfe al true 0 0 1 (.s 0)).wf = false ∧ (Instr.bfi al true 31 2 1 (.s 0)).wf = false ∧
    (Instr.bfi al true 31 1 1 (.s 0)).wf = true := by decide
/-- R227: a modifier with an integer source. -/
theorem test_wf_cvt : (Instr.cvt al .f32 .i32 .dyn false 1 (.s 0) ⟨true, false⟩).wf = false ∧
    (Instr.cvt al .i32 .f32 .dyn false 1 (.s 0) ⟨true, false⟩).wf = true := by decide
/-- R229: a type wider than 16 bits; a rounding or a modifier with an integer destination. -/
theorem test_wf_pack : (Instr.pack al .f32 .dyn false 1 (.s 0) .none (.s 0) .none).wf = false ∧
    (Instr.pack al .i8 .rz false 1 (.s 0) .none (.s 0) .none).wf = false ∧
    (Instr.pack al .i8 .dyn false 1 (.s 0) .none (.s 0) ⟨false, true⟩).wf = false ∧
    (Instr.pack al .f16 .rz false 1 (.s 0) .none (.s 0) ⟨false, true⟩).wf = true := by decide
/-- R230: the index is below 32 / e; no modifier with `.raw` or an integer type. -/
theorem test_wf_upk : (Instr.upk al .f16 false 2 1 (.s 0) .none).wf = false ∧ (Instr.upk al .i64 false 0 1 (.s 0) .none).wf = false ∧
    (Instr.upk al .f16 true 1 1 (.s 0) ⟨true, false⟩).wf = false ∧ (Instr.upk al .f16 false 1 1 (.s 0) ⟨true, false⟩).wf = true := by
  decide
/-- R231: the types of `DOT4` and `DOT8`. -/
theorem test_wf_dot : (Instr.dot4 al .i4 1 (.s 0) (.s 0) (.s 0)).wf = false ∧ (Instr.dot8 al .i8 1 (.s 0) (.s 0) (.s 0)).wf = false := by
  decide
/-- R232, R159: a predicate destination of `VOTE` is below 16. -/
theorem test_wf_vote : (Instr.vote al .any 16 0).wf = false ∧ (Instr.vote al .ballot 16 0).wf = true := by decide
/-- R233: a logical operation with `.f32`, a rounding with an integer type, a narrow type. -/
theorem test_wf_redl : (Instr.redl al .xor .f32 .dyn 1 (.s 0)).wf = false ∧ (Instr.scanl al .add .i32 .rz 1 (.s 0)).wf = false ∧
    (Instr.scanl al .add .f16 .dyn 1 (.s 0)).wf = false ∧ (Instr.scanl al .add .f32 .rz 1 (.s 0)).wf = true := by decide
/-- R235, R237, R238, R239: K of `HSIFT`, m of `BINS`, N of `TWALK`, the uniform registers of `TMASK`. -/
theorem test_wf_engines : (Instr.hsift al .i32 true 0 1 (.s 0) (.s 0)).wf = false ∧
    (Instr.hsift al .i32 true 33 1 (.s 0) (.s 0)).wf = false ∧ (Instr.bins al .i32 true 0 0 1 (.s 0) (.s 0)).wf = false ∧
    (Instr.twalk al 0 0 2 (.s 0) (.s 0)).wf = false ∧ (Instr.twalk al 0 16385 2 (.s 0) (.s 0)).wf = false ∧
    (Instr.tmask al 1 2 (.s 0) 0).wf = false := by decide
/-- R166, R187, R192: sign extension of 32 bits and more; 128 bits of `LDU`, of `LDW`, and of a uniform register. -/
theorem test_wf_memory : (Instr.ldQ64 al .b32 true false 0 1 ⟨.dev, .s 0, 0⟩).wf = false ∧
    (Instr.ldu al .b128 false false 0 1 ⟨.dev, .s 0, 0⟩).wf = false ∧ (Instr.ldw al .b128 false 0 1 ⟨.dev, .s 0, 0⟩).wf = false ∧
    (Instr.ldw al .b64 true 0 1 ⟨.dev, .s 0, 0⟩).wf = false ∧
    (Instr.stQ64 al .b128 false 0 (.s 0) ⟨.dev, .s 0, 0⟩).wf = false := by decide
/-- R300: a plain `FENCE`. -/
theorem test_wf_fence : (Instr.fence al .all .plain .dev).wf = false := by decide
/-- R126: an index that names no control register. -/
theorem test_wf_creg : (Instr.mfc al 0x00A (.pair 2)).wf = false ∧ (Instr.mtc al false 0x201 (.s 0)).wf = false ∧
    (Instr.mfc al 0x009 (.pair 2)).wf = true := by decide
/-- R279, R280: LMIN, LMAX, the ranges of `WMAPP` and `WMPROP`. -/
theorem test_wf_waymark : (Instr.wmopen al 33 0 1 (.s 0)).wf = false ∧ (Instr.wmopen al 0 33 1 (.s 0)).wf = false ∧
    (Instr.wmopen al 5 4 1 (.s 0)).wf = false ∧ (Instr.wmapp al 1 (.s 0) (.g 63 .wait)).wf = false ∧
    (Instr.wmapp al 1 (.s 0) (.s 31)).wf = false ∧ (Instr.wmprop al 1 63 (.s 0) 1).wf = false ∧
    (Instr.wmprop al 3 10 (.s 0) 13).wf = false ∧ (Instr.wmprop al 3 10 (.s 0) 14).wf = true := by decide
/-- R252, R254: the row bytes and the unconfigured form of `TCFG`; WOFF and the ranges of `TPACK` and `TUNPK`. -/
theorem test_wf_tiles : (Instr.tcfg al 0 1 0 96).wf = false ∧ (Instr.tcfg al 0 0 1 0).wf = false ∧
    (Instr.tpack al .w1 0 (.s 0) 0 96).wf = false ∧ (Instr.tpack al .w4 0 (.g 61 .wait) 0 0).wf = false ∧
    (Instr.tunpk al .w2 63 0 0 0).wf = false ∧ (Instr.tunpk al .w1 0 0 0 96).wf = false := by decide
/-- R295, R298, R264: a compare value without `.cas`; the combinations of `RED`; the types of `ACCSEND`. -/
theorem test_wf_updates : (Instr.atom al .add false .plain 1 ⟨.dev, .s 0, 0⟩ (.s 0) (.s 1)).wf = false ∧
    (Instr.red al .and .f32 false (.s 0) ⟨.dev, .s 0, 0⟩).wf = false ∧ (Instr.red al .max .bf16 false (.s 0) ⟨.dev, .s 0, 0⟩).wf = false ∧
    (Instr.accsend al .n32 false false 0 (.s 0) (.s 0) (.s 0) 0 0).wf = false := by decide

/-! ### Words that decode to nothing (R116, R119, R155-R171) -/

/-- LEN 11, an unassigned opcode, a reserved opcode, and a LEN that is not the opcode's. -/
theorem test_reject_length : decodeWords 0x00000013 0 0 = .error .length ∧ decodeWords 0x0000003C 0 0 = .error .opcode ∧
    decodeWords 0x000003C2 0 0 = .error .opcode ∧ decodeWords 0x00000011 0 0 = .error .opcode := by
  refine ⟨?_, ?_, ?_, ?_⟩ <;> rfl
/-- An unused field that is not zero, read mode 11, a uniform number above 31, a mode on a uniform source, a reserved type of a
two-source integer instruction, a reserved rounding, scope and size. -/
theorem test_reject_fields : decodeWords 0x00000410 0 0 = .error .reserved ∧
    decodeWords 0x00000101 0x00000060 0 = .error .reserved ∧ decodeWords 0x00200101 0x00000200 0 = .error .reserved ∧
    decodeWords 0x00000101 0x00000220 0 = .error .reserved ∧ decodeWords 0x40000040 0 0 = .error .reserved ∧
    decodeWords 0x80000181 0x00010000 0 = .error .reserved ∧ decodeWords 0x50000201 0 0 = .error .reserved ∧
    decodeWords 0x31400201 0 0 = .error .reserved := by
  refine ⟨?_, ?_, ?_, ?_, ?_, ?_, ?_, ?_⟩ <;> rfl
/-- R385, R126: words of an ill-formed `TRAP` and of an `MFC` that names no register. -/
theorem test_reject_illformed : decodeWords 0x37C000B0 0 0 = .error .reserved ∧
    decodeWords 0x0000124D 0x000A0000 0 = .error .reserved := by
  refine ⟨?_, ?_⟩ <;> rfl
/-- The decoder of table words and the placing of one. -/
theorem test_table_word : decodeTableWord 32 0x00000010 = some .ret ∧ decodeTableWord 64 0x000300000000124D =
    some (.mfc al 3 (.pair 4)) ∧ decodeTableWord 16 0x10010 = some .ret := by
  refine ⟨?_, ?_, ?_⟩ <;> rfl

theorem test_decode_plain_1 :
    decodeWords 0 0 0 = .ok (.nop) ∧
    decodeWords 0x00000010 0 0 = .ok (.ret) ∧
    decodeWords 0x00000018 0 0 = .ok (.brk) ∧
    decodeWords 0x0000001C 0 0 = .ok (.yield) ∧
    decodeWords 0x00000020 0 0 = .ok (.poll) ∧
    decodeWords 0x00000024 0 0 = .ok (.taskend) ∧
    decodeWords 0x00000028 0 0 = .ok (.innflush) ∧
    decodeWords 0x0000002C 0 0 = .ok (.drain) ∧
    decodeWords 0x00000030 0 0 = .ok (.isync) ∧
    decodeWords 0x00000034 0 0 = .ok (.eret) ∧
    decodeWords 0x00000038 0 0 = .ok (.halt) ∧
    decodeWords 0x00001404 0 0 = .ok (.brJ32 5) ∧
    decodeWords 0xFFFFF808 0 0 = .ok (.callJ32 0x3FFFFE) ∧
    decodeWords 0x00001C0C 0 0 = .ok (.chk 7) ∧
    decodeWords 0x00140014 0 0 = .ok (.calli 20) ∧
    decodeWords 0x10140014 0 0 = .ok (.calliTail 20) := by
  refine ⟨?_, ?_, ?_, ?_, ?_, ?_, ?_, ?_, ?_, ?_, ?_, ?_, ?_, ?_, ?_, ?_⟩ <;> rfl

theorem test_decode_plain_2 :
    decodeWords 0x0049002C 0 0 = .ok (.drainArrive 9) := by
  rfl

theorem test_decode_int_z32_1 :
    decodeWords 0x01840840 0 0 = .ok (.addZ32 .i32 2 4 6) ∧
    decodeWords 0x11840844 0 0 = .ok (.subZ32 .n32 2 4 6) ∧
    decodeWords 0x21840848 0 0 = .ok (.mulZ32 .i64 2 4 6) ∧
    decodeWords 0x3184084C 0 0 = .ok (.mulhZ32 .n64 2 4 6) ∧
    decodeWords 0x01840850 0 0 = .ok (.minZ32 .i32 2 4 6) ∧
    decodeWords 0x11840854 0 0 = .ok (.maxZ32 .n32 2 4 6) ∧
    decodeWords 0x21840858 0 0 = .ok (.andZ32 .i64 2 4 6) ∧
    decodeWords 0x3184085C 0 0 = .ok (.orZ32 .n64 2 4 6) ∧
    decodeWords 0x01840860 0 0 = .ok (.xorZ32 .i32 2 4 6) ∧
    decodeWords 0x11840864 0 0 = .ok (.andnZ32 .n32 2 4 6) ∧
    decodeWords 0x21840868 0 0 = .ok (.shlZ32 .i64 2 4 6) ∧
    decodeWords 0x3184086C 0 0 = .ok (.shrZ32 .n64 2 4 6) ∧
    decodeWords 0x01840870 0 0 = .ok (.sarZ32 .i32 2 4 6) ∧
    decodeWords 0x11840874 0 0 = .ok (.rotZ32 .n32 2 4 6) ∧
    decodeWords 0x70C20478 0 0 = .ok (.selZ32 7 1 2 3) ∧
    decodeWords 0x200A207C 0 0 = .ok (.movZ32 .i64 8 10) := by
  refine ⟨?_, ?_, ?_, ?_, ?_, ?_, ?_, ?_, ?_, ?_, ?_, ?_, ?_, ?_, ?_, ?_⟩ <;> rfl

theorem test_decode_int_z32_2 :
    decodeWords 0x103F04C0 0 0 = .ok (.notZ32 .n32 1 63) ∧
    decodeWords 0x103F04C4 0 0 = .ok (.negZ32 .n32 1 63) ∧
    decodeWords 0x103F04C8 0 0 = .ok (.absZ32 .n32 1 63) ∧
    decodeWords 0x103F04CC 0 0 = .ok (.clzZ32 .n32 1 63) ∧
    decodeWords 0x103F04D0 0 0 = .ok (.popcZ32 .n32 1 63) ∧
    decodeWords 0x103F04D4 0 0 = .ok (.brevZ32 .n32 1 63) := by
  refine ⟨?_, ?_, ?_, ?_, ?_, ?_⟩ <;> rfl

theorem test_decode_int_i32 :
    decodeWords 0xFFC61480 0 0 = .ok (.addI32 5 6 0x3FF) ∧
    decodeWords 0xFFC61484 0 0 = .ok (.mulI32 5 6 0x3FF) ∧
    decodeWords 0xFFC61488 0 0 = .ok (.minI32 5 6 0x3FF) ∧
    decodeWords 0xFFC6148C 0 0 = .ok (.maxI32 5 6 0x3FF) ∧
    decodeWords 0xFFC61490 0 0 = .ok (.andI32 5 6 0x3FF) ∧
    decodeWords 0xFFC61494 0 0 = .ok (.orI32 5 6 0x3FF) ∧
    decodeWords 0xFFC61498 0 0 = .ok (.xorI32 5 6 0x3FF) ∧
    decodeWords 0x07C6149C 0 0 = .ok (.shlI32 5 6 31) ∧
    decodeWords 0x07C614A0 0 0 = .ok (.shrI32 5 6 31) ∧
    decodeWords 0x07C614A4 0 0 = .ok (.sarI32 5 6 31) ∧
    decodeWords 0x07C614A8 0 0 = .ok (.rotI32 5 6 31) ∧
    decodeWords 0x800014AC 0 0 = .ok (.moviI32 5 0x200) ∧
    decodeWords 0x38C500B0 0 0 = .ok (.trap 0xE3 5) ∧
    decodeWords 0x040204B4 0 0 = .ok (.ldI32 1 2 0x010) ∧
    decodeWords 0xFFC204B8 0 0 = .ok (.stI32 1 2 0x3FF) := by
  refine ⟨?_, ?_, ?_, ?_, ?_, ?_, ?_, ?_, ?_, ?_, ?_, ?_, ?_, ?_, ?_⟩ <;> rfl

theorem test_decode_float_1 :
    decodeWords 0x80C204D8 0 0 = .ok (.faddZ32 1 2 3) ∧
    decodeWords 0x80C204DC 0 0 = .ok (.fsubZ32 1 2 3) ∧
    decodeWords 0x80C204E0 0 0 = .ok (.fmulZ32 1 2 3) ∧
    decodeWords 0x80C204E4 0 0 = .ok (.fminZ32 1 2 3) ∧
    decodeWords 0x80C204E8 0 0 = .ok (.fmaxZ32 1 2 3) ∧
    decodeWords 0x81850981 0x009D0293 0 = .ok (.faddQ64 ⟨3, true⟩ .rz true 2 (.s 5) ⟨true, false⟩ (.g 6 .test) ⟨false, true⟩) ∧
    decodeWords 0x81850985 0x009D0293 0 = .ok (.fsubQ64 ⟨3, true⟩ .rz true 2 (.s 5) ⟨true, false⟩ (.g 6 .test) ⟨false, true⟩) ∧
    decodeWords 0x81850989 0x009D0293 0 = .ok (.fmulQ64 ⟨3, true⟩ .rz true 2 (.s 5) ⟨true, false⟩ (.g 6 .test) ⟨false, true⟩) ∧
    decodeWords 0x8185098D 0xBE890293 0 = .ok (.ffma ⟨3, true⟩ .ru true 2 (.s 5) true (.g 6 .test) false (.g 9 .consume) true) ∧
    decodeWords 0x81850991 0x00600293 0 = .ok (.fminQ64 ⟨3, true⟩ 2 (.s 5) ⟨false, true⟩ (.g 6 .test) ⟨true, false⟩) ∧
    decodeWords 0x81850995 0x00600293 0 = .ok (.fmaxQ64 ⟨3, true⟩ 2 (.s 5) ⟨false, true⟩ (.g 6 .test) ⟨true, false⟩) ∧
    decodeWords 0x80050999 0x001E0213 0 = .ok (.frcp ⟨3, true⟩ .rd true 2 (.s 5) ⟨true, false⟩) ∧
    decodeWords 0x8005099D 0x001E0213 0 = .ok (.frsq ⟨3, true⟩ .rd true 2 (.s 5) ⟨true, false⟩) ∧
    decodeWords 0x800509A1 0x001E0213 0 = .ok (.fsqrt ⟨3, true⟩ .rd true 2 (.s 5) ⟨true, false⟩) ∧
    decodeWords 0x800509A5 0x001E0213 0 = .ok (.fexp2 ⟨3, true⟩ .rd true 2 (.s 5) ⟨true, false⟩) ∧
    decodeWords 0x800509A9 0x001E0213 0 = .ok (.flog2 ⟨3, true⟩ .rd true 2 (.s 5) ⟨true, false⟩) := by
  refine ⟨?_, ?_, ?_, ?_, ?_, ?_, ?_, ?_, ?_, ?_, ?_, ?_, ?_, ?_, ?_, ?_⟩ <;> rfl

theorem test_decode_float_2 :
    decodeWords 0xA00509AD 0x000C0213 0 = .ok (.cvt ⟨3, true⟩ .bf16 .i32 .rn true 2 (.s 5) ⟨false, false⟩) ∧
    decodeWords 0xB18509B1 0x00100293 0 = .ok (.pack ⟨3, true⟩ .e4m3 .dyn false 2 (.s 5) ⟨true, false⟩ (.g 6 .test) ⟨false, false⟩) ∧
    decodeWords 0xC0C509B5 0x00200213 0 = .ok (.upk ⟨3, true⟩ .e5m2 false 3 2 (.s 5) ⟨false, true⟩) ∧
    decodeWords 0xB18509B9 0x00890293 0 = .ok (.dot4 ⟨3, true⟩ .e4m3 2 (.s 5) (.g 6 .test) (.g 9 .consume)) ∧
    decodeWords 0xE18509BD 0x00890293 0 = .ok (.dot8 ⟨3, true⟩ .i4 2 (.s 5) (.g 6 .test) (.g 9 .consume)) := by
  refine ⟨?_, ?_, ?_, ?_, ?_⟩ <;> rfl

theorem test_decode_predicate :
    decodeWords 0x03C204EC 0 0 = .ok (.pand 1 2 15) ∧
    decodeWords 0x03C204F0 0 0 = .ok (.por 1 2 15) ∧
    decodeWords 0x03C204F4 0 0 = .ok (.pxor 1 2 15) ∧
    decodeWords 0x000204F8 0 0 = .ok (.pnot 1 2) ∧
    decodeWords 0x11851D75 0x00050293 0 = .ok (.cmp ⟨3, true⟩ .n32 .ge 7 (.s 5) (.g 6 .test)) ∧
    decodeWords 0x81851D79 0x00960293 0 = .ok (.fcmp ⟨3, true⟩ .un 7 (.s 5) ⟨true, false⟩ (.g 6 .test) ⟨false, true⟩) := by
  refine ⟨?_, ?_, ?_, ?_, ?_, ?_⟩ <;> rfl

theorem test_decode_int_q64_1 :
    decodeWords 0x01850901 0x00010293 0 = .ok (.addQ64 ⟨3, true⟩ .i32 true 2 (.s 5) (.g 6 .test)) ∧
    decodeWords 0x01850905 0x00010293 0 = .ok (.subQ64 ⟨3, true⟩ .i32 true 2 (.s 5) (.g 6 .test)) ∧
    decodeWords 0x01850909 0x00010293 0 = .ok (.mulQ64 ⟨3, true⟩ .i32 true 2 (.s 5) (.g 6 .test)) ∧
    decodeWords 0x3185090D 0x00000293 0 = .ok (.mulhQ64 ⟨3, true⟩ .n64 2 (.s 5) (.g 6 .test)) ∧
    decodeWords 0x31850911 0x00000293 0 = .ok (.minQ64 ⟨3, true⟩ .n64 2 (.s 5) (.g 6 .test)) ∧
    decodeWords 0x31850915 0x00000293 0 = .ok (.maxQ64 ⟨3, true⟩ .n64 2 (.s 5) (.g 6 .test)) ∧
    decodeWords 0x31850919 0x00000293 0 = .ok (.andQ64 ⟨3, true⟩ .n64 2 (.s 5) (.g 6 .test)) ∧
    decodeWords 0x3185091D 0x00000293 0 = .ok (.orQ64 ⟨3, true⟩ .n64 2 (.s 5) (.g 6 .test)) ∧
    decodeWords 0x31850921 0x00000293 0 = .ok (.xorQ64 ⟨3, true⟩ .n64 2 (.s 5) (.g 6 .test)) ∧
    decodeWords 0x31850925 0x00000293 0 = .ok (.andnQ64 ⟨3, true⟩ .n64 2 (.s 5) (.g 6 .test)) ∧
    decodeWords 0x31850929 0x00000293 0 = .ok (.shlQ64 ⟨3, true⟩ .n64 2 (.s 5) (.g 6 .test)) ∧
    decodeWords 0x3185092D 0x00000293 0 = .ok (.shrQ64 ⟨3, true⟩ .n64 2 (.s 5) (.g 6 .test)) ∧
    decodeWords 0x31850931 0x00000293 0 = .ok (.sarQ64 ⟨3, true⟩ .n64 2 (.s 5) (.g 6 .test)) ∧
    decodeWords 0x31850935 0x00000293 0 = .ok (.rotQ64 ⟨3, true⟩ .n64 2 (.s 5) (.g 6 .test)) ∧
    decodeWords 0x01850939 0x00000293 0 = .ok (.div ⟨3, true⟩ .i32 2 (.s 5) (.g 6 .test)) ∧
    decodeWords 0x1185093D 0x00000293 0 = .ok (.rem ⟨3, true⟩ .n32 2 (.s 5) (.g 6 .test)) := by
  refine ⟨?_, ?_, ?_, ?_, ?_, ?_, ?_, ?_, ?_, ?_, ?_, ?_, ?_, ?_, ?_, ?_⟩ <;> rfl

theorem test_decode_int_q64_2 :
    decodeWords 0x01850941 0x10890293 0 = .ok (.mad ⟨3, true⟩ .i32 true 2 (.s 5) (.g 6 .test) (.g 9 .consume)) ∧
    decodeWords 0x00050945 0x00000213 0 = .ok (.notQ64 ⟨3, true⟩ .i32 2 (.s 5)) ∧
    decodeWords 0x00050949 0x00010213 0 = .ok (.negQ64 ⟨3, true⟩ .i32 true 2 (.s 5)) ∧
    decodeWords 0x0005094D 0x00000213 0 = .ok (.absQ64 ⟨3, true⟩ .i32 false 2 (.s 5)) ∧
    decodeWords 0x20050951 0x00000213 0 = .ok (.clzQ64 ⟨3, true⟩ .i64 2 (.s 5)) ∧
    decodeWords 0x20050955 0x00000213 0 = .ok (.popcQ64 ⟨3, true⟩ .i64 2 (.s 5)) ∧
    decodeWords 0x20050959 0x00000213 0 = .ok (.brevQ64 ⟨3, true⟩ .i64 2 (.s 5)) ∧
    decodeWords 0x0005095D 0x02830213 0 = .ok (.bfe ⟨3, true⟩ true 3 20 2 (.s 5)) ∧
    decodeWords 0x10050961 0x003F0213 0 = .ok (.bfi ⟨3, true⟩ false 31 1 2 (.s 5)) ∧
    decodeWords 0x71850965 0x00030293 0 = .ok (.selQ64 ⟨3, true⟩ 7 true true 2 (.s 5) (.g 6 .test)) ∧
    decodeWords 0x20050969 0x00000213 0 = .ok (.movQ64 ⟨3, true⟩ .i64 2 (.s 5)) ∧
    decodeWords 0x10067D6D 0x00000033 0 = .ok (.movs ⟨3, true⟩ .n32 31 (.g 6 .test)) ∧
    decodeWords 0x01850971 0xFFFC0293 0 = .ok (.leaQ64 ⟨3, true⟩ true 2 (.s 5) (.g 6 .test) 4 0x1FFF) := by
  refine ⟨?_, ?_, ?_, ?_, ?_, ?_, ?_, ?_, ?_, ?_, ?_, ?_, ?_⟩ <;> rfl

theorem test_decode_cross_lane :
    decodeWords 0xB18509C1 0x00000293 0 = .ok (.shfl ⟨3, true⟩ .xor true 2 (.s 5) (.g 6 .test)) ∧
    decodeWords 0x818509C5 0x00000293 0 = .ok (.bcast ⟨3, true⟩ true 2 (.s 5) (.g 6 .test)) ∧
    decodeWords 0x300785C9 0x00000013 0 = .ok (.vote ⟨3, true⟩ .ballot 33 7) ∧
    decodeWords 0x800509CD 0x00520213 0 = .ok (.redl ⟨3, true⟩ .max .f32 .rz 2 (.s 5)) ∧
    decodeWords 0x300509D1 0x00050213 0 = .ok (.scanl ⟨3, true⟩ .xor .n64 .dyn 2 (.s 5)) ∧
    decodeWords 0x000709D5 0x00000013 0 = .ok (.first ⟨3, true⟩ 2 7) ∧
    decodeWords 0x818509D9 0x00000293 0 = .ok (.rand ⟨3, true⟩ true 2 (.s 5) (.g 6 .test)) ∧
    decodeWords 0x118509DD 0x00600293 0 = .ok (.hsift ⟨3, true⟩ .n32 true 32 2 (.s 5) (.g 6 .test)) ∧
    decodeWords 0x818509E1 0x01FF2A93 0 = .ok (.bins ⟨3, true⟩ .f32 true 255 5 2 (.s 5) (.g 6 .test)) ∧
    decodeWords 0x818509E5 0x012C1293 0 = .ok (.twalk ⟨3, true⟩ 2 300 2 (.s 5) (.g 6 .test)) ∧
    decodeWords 0x018809E9 0x001F0293 0 = .ok (.tmask ⟨3, true⟩ 2 8 (.g 6 .test) 31) := by
  refine ⟨?_, ?_, ?_, ?_, ?_, ?_, ?_, ?_, ?_, ?_, ?_⟩ <;> rfl

theorem test_decode_memory :
    decodeWords 0x32451201 0xFFFC5A13 0 = .ok (.ldQ64 ⟨3, true⟩ .b16 true true 3 4 ⟨.dev, .s 5, 0xFFFC⟩) ∧
    decodeWords 0x40C57E05 0xFFFC3A13 0 = .ok (.ldu ⟨3, true⟩ .b64 false false 7 31 ⟨.sys, .s 5, 0xFFFC⟩) ∧
    decodeWords 0x02051209 0xFFFC1213 0 = .ok (.ldw ⟨3, true⟩ .b8 true 2 4 ⟨.thr, .s 5, 0xFFFC⟩) ∧
    decodeWords 0x20C5120D 0xFFFC4213 0 = .ok (.ldf ⟨3, true⟩ true true 4 ⟨.clu, .s 5, 0xFFFC⟩) ∧
    decodeWords 0x10851211 0xFFFC0213 0 = .ok (.take ⟨3, true⟩ false false 4 ⟨.core, .s 5, 0xFFFC⟩) ∧
    decodeWords 0x30C51E15 0xFFFC8613 0 = .ok (.fill ⟨3, true⟩ true true (.s 7) ⟨.dev, .s 5, 0xFFFC⟩) ∧
    decodeWords 0x30851E19 0xFFFC0313 0 = .ok (.setf ⟨3, true⟩ false false (.g 7 .consume) ⟨.dev, .s 5, 0xFFFC⟩) ∧
    decodeWords 0x20C5021D 0xFFFC0213 0 = .ok (.clrf ⟨3, true⟩ true ⟨.clu, .s 5, 0xFFFC⟩) ∧
    decodeWords 0x30050221 0xFFFC2A13 0 = .ok (.pref ⟨3, true⟩ 5 ⟨.dev, .s 5, 0xFFFC⟩) ∧
    decodeWords 0x30C51225 0xFFFC0213 0 = .ok (.probe ⟨3, true⟩ .fetch 4 ⟨.dev, .s 5, 0xFFFC⟩) ∧
    decodeWords 0x30062629 0x00000053 0 = .ok (.tinv ⟨3, true⟩ true 9 6 .consume) ∧
    decodeWords 0x30851E2D 0xFFFC9313 0 = .ok (.stQ64 ⟨3, true⟩ .b32 true 2 (.g 7 .consume) ⟨.dev, .s 5, 0xFFFC⟩) := by
  refine ⟨?_, ?_, ?_, ?_, ?_, ?_, ?_, ?_, ?_, ?_, ?_, ?_⟩ <;> rfl

theorem test_decode_sync :
    decodeWords 0x40000231 0x0002C013 0 = .ok (.fence ⟨3, true⟩ .st .ar .sys) ∧
    decodeWords 0x20051E35 0xFFFC0613 0 = .ok (.barinit ⟨3, true⟩ (.s 7) ⟨.clu, .s 5, 0xFFFC⟩) ∧
    decodeWords 0x20051239 0xFFFC8213 0 = .ok (.bararr ⟨3, true⟩ true 4 ⟨.clu, .s 5, 0xFFFC⟩) ∧
    decodeWords 0x20051E3D 0xFFFC4313 0 = .ok (.barwait ⟨3, true⟩ true (.g 7 .consume) ⟨.clu, .s 5, 0xFFFC⟩) ∧
    decodeWords 0x20051E41 0xFFFB8613 0 = .ok (.barexp ⟨3, true⟩ .both true (.s 7) .clu (.s 5) 0x3FFE) ∧
    decodeWords 0x20050245 0xFFFC8213 0 = .ok (.depdec ⟨3, true⟩ true ⟨.clu, .s 5, 0xFFFC⟩) ∧
    decodeWords 0x20400249 0x00090013 0 = .ok (.waitt ⟨3, true⟩ 2 (.imm 9)) ∧
    decodeWords 0x30050249 0x00000213 0 = .ok (.waitt ⟨3, true⟩ 3 (.src (.s 5))) := by
  refine ⟨?_, ?_, ?_, ?_, ?_, ?_, ?_, ?_⟩ <;> rfl

theorem test_decode_control :
    decodeWords 0x0000124D 0x00030013 0 = .ok (.mfc ⟨3, true⟩ 3 (.pair 4)) ∧
    decodeWords 0x1000164D 0x01000013 0 = .ok (.mfc ⟨3, true⟩ 0x100 (.word 5)) ∧
    decodeWords 0x20007E4D 0x00200013 0 = .ok (.mfc ⟨3, true⟩ 0x20 (.uni 31)) ∧
    decodeWords 0x10050251 0x01040213 0 = .ok (.mtc ⟨3, true⟩ true 0x104 (.s 5)) ∧
    decodeWords 0xFFFFFE55 0x00200013 0 = .ok (.brc ⟨3, true⟩ 0x3FFFFF 0x20) ∧
    decodeWords 0x00004259 0x00000013 0 = .ok (.bru ⟨3, true⟩ 0x10) ∧
    decodeWords 0x0000025D 0x00070013 0 = .ok (.brkd ⟨3, true⟩ 7) ∧
    decodeWords 0x00050261 0x00070200 0 = .ok (.loop (.s 5) 7) ∧
    decodeWords 0x60050265 0x00070200 0 = .ok (.loopr 6 (.s 5) 7) ∧
    decodeWords 0x30050269 0xFFFC1A13 0 = .ok (.lsave ⟨3, true⟩ 3 ⟨.dev, .s 5, 0xFFFC⟩) ∧
    decodeWords 0x3005026D 0xFFFC1A13 0 = .ok (.lrest ⟨3, true⟩ 3 ⟨.dev, .s 5, 0xFFFC⟩) := by
  refine ⟨?_, ?_, ?_, ?_, ?_, ?_, ?_, ?_, ?_, ?_, ?_⟩ <;> rfl

theorem test_decode_gang :
    decodeWords 0x01850271 0x00000293 0 = .ok (.gcall ⟨3, true⟩ (.s 5) (.g 6 .test)) ∧
    decodeWords 0x01850275 0x00000293 0 = .ok (.gcalli ⟨3, true⟩ (.s 5) (.g 6 .test)) ∧
    decodeWords 0x00000279 0x00000013 0 = .ok (.retg ⟨3, true⟩) ∧
    decodeWords 0x0005027D 0x00000213 0 = .ok (.migrate ⟨3, true⟩ (.s 5)) ∧
    decodeWords 0x01850281 0x00000293 0 = .ok (.route ⟨3, true⟩ (.s 5) (.g 6 .test)) ∧
    decodeWords 0x00000285 0x00000013 0 = .ok (.rethome ⟨3, true⟩) ∧
    decodeWords 0x01850289 0x00000293 0 = .ok (.routeset ⟨3, true⟩ (.s 5) (.g 6 .test)) ∧
    decodeWords 0x0005028D 0xFFFC2213 0 = .ok (.rcsnap ⟨3, true⟩ 4 (.s 5) 0xFFFC) ∧
    decodeWords 0x01850A91 0x00000293 0 = .ok (.spawn ⟨3, true⟩ 2 (.s 5) (.g 6 .test)) ∧
    decodeWords 0x01851295 0x000C0293 0 = .ok (.taskmk ⟨3, true⟩ 12 4 (.s 5) (.g 6 .test)) ∧
    decodeWords 0x20000299 0x00000013 0 = .ok (.cancel ⟨3, true⟩ .phase) ∧
    decodeWords 0x01850A9D 0x00000293 0 = .ok (.cntw ⟨3, true⟩ 2 (.s 5) (.g 6 .test)) ∧
    decodeWords 0x200002A1 0x00000013 0 = .ok (.role ⟨3, true⟩ .comp) := by
  refine ⟨?_, ?_, ?_, ?_, ?_, ?_, ?_, ?_, ?_, ?_, ?_, ?_, ?_⟩ <;> rfl

theorem test_decode_waymark :
    decodeWords 0x00050EA5 0x04020213 0 = .ok (.wmopen ⟨3, true⟩ 2 16 3 (.s 5)) ∧
    decodeWords 0x000502A9 0x00000213 0 = .ok (.wmclose ⟨3, true⟩ (.s 5)) ∧
    decodeWords 0x218502AD 0x00000293 0 = .ok (.wmapp ⟨3, true⟩ 2 (.s 5) (.g 6 .test)) ∧
    decodeWords 0x32452AB1 0x00000213 0 = .ok (.wmprop ⟨3, true⟩ 3 10 (.s 5) 9) ∧
    decodeWords 0x30050AB5 0x00000213 0 = .ok (.wmlen ⟨3, true⟩ .bounds 2 (.s 5)) ∧
    decodeWords 0x118502B9 0xFFFC2293 0 = .ok (.wmsave ⟨3, true⟩ true 4 (.s 5) 0xFFFC (.g 6 .test)) ∧
    decodeWords 0x00050ABD 0xFFFC2213 0 = .ok (.wmload ⟨3, true⟩ 4 2 (.s 5) 0xFFFC) ∧
    decodeWords 0x018502C1 0x00000293 0 = .ok (.wmown ⟨3, true⟩ (.s 5) (.g 6 .test)) := by
  refine ⟨?_, ?_, ?_, ?_, ?_, ?_, ?_, ?_⟩ <;> rfl

theorem test_decode_tile :
    decodeWords 0xB00006C5 0x2FBF0013 0 = .ok (.tcfg ⟨3, true⟩ 1 11 63 95) ∧
    decodeWords 0x201C1EC9 0x2FFF0213 0 = .ok (.tpack ⟨3, true⟩ .w4 7 (.s 28) 127 95) ∧
    decodeWords 0x1007FACD 0x2FFF0013 0 = .ok (.tunpk ⟨3, true⟩ .w2 62 7 127 95) ∧
    decodeWords 0x00001ED1 0x00000013 0 = .ok (.tzero ⟨3, true⟩ 7) ∧
    decodeWords 0x00000ED5 0x00000013 0 = .ok (.accz ⟨3, true⟩ 3) ∧
    decodeWords 0x000502D9 0x00000213 0 = .ok (.cellp ⟨3, true⟩ (.s 5)) ∧
    decodeWords 0x200502DD 0xFFFC0A13 0 = .ok (.tsave ⟨3, true⟩ 1 ⟨.clu, .s 5, 0xFFFC⟩) ∧
    decodeWords 0x200502E1 0xFFFC0A13 0 = .ok (.trest ⟨3, true⟩ 1 ⟨.clu, .s 5, 0xFFFC⟩) ∧
    decodeWords 0x000002E5 0x00000013 0 = .ok (.twait ⟨3, true⟩) := by
  refine ⟨?_, ?_, ?_, ?_, ?_, ?_, ?_, ?_, ?_⟩ <;> rfl

theorem test_decode_x96 :
    decodeWords 0x20001302 0x00000013 0xFFFFFFFE = .ok (.moviX96 ⟨3, true⟩ .pairZext 4 0xFFFFFFFE) ∧
    decodeWords 0x40C51306 0xFFFCC213 0x984A2800 = .ok (.atom ⟨3, true⟩ .cas true .ar 4 ⟨.sys, .s 5, 0xFFFC⟩ (.s 9) (.g 10 .consume)) ∧
    decodeWords 0x30C51F0A 0xFFFC8613 0x54000000 = .ok (.red ⟨3, true⟩ .max .n64 true (.s 7) ⟨.dev, .s 5, 0xFFFC⟩) ∧
    decodeWords 0x2185130E 0x00000293 0xC9000001 = .ok (.copy ⟨3, true⟩ .d3 true 4 (.s 5) (.g 6 .test) (some (.s 9))) ∧
    decodeWords 0x0185130E 0x00000293 0 = .ok (.copy ⟨3, true⟩ .d1 false 4 (.s 5) (.g 6 .test) none) ∧
    decodeWords 0x01851312 0x00000293 0x8C9C0000 = .ok (.gather ⟨3, true⟩ true 4 (.s 5) (.g 6 .test) (.g 12) (.s 14)) ∧
    decodeWords 0x01851316 0x00000293 0x4C1C0000 = .ok (.scadd ⟨3, true⟩ false 4 (.s 5) (.g 6 .test) (.s 12) (.g 14)) ∧
    decodeWords 0x0185131A 0x00000293 0x80000000 = .ok (.quant ⟨3, true⟩ true 4 (.s 5) (.g 6 .test)) ∧
    decodeWords 0x0185131E 0x00000293 0x8C000010 = .ok (.tgenNew ⟨3, true⟩ true 4 (.s 5) (.g 6 .test) 12 16) ∧
    decodeWords 0x1185131E 0x00000293 0x0C0000FF = .ok (.tgenApp ⟨3, true⟩ false 4 (.s 5) (.g 6 .test) 12 255) ∧
    decodeWords 0x2005131E 0x00000213 0x80000000 = .ok (.tgenClose ⟨3, true⟩ true 4 (.s 5)) := by
  refine ⟨?_, ?_, ?_, ?_, ?_, ?_, ?_, ?_, ?_, ?_, ?_⟩ <;> rfl

theorem test_decode_x96_tile :
    decodeWords 0x31855322 0xFFFC2293 0x80000007 = .ok (.tld ⟨3, true⟩ true 4 20 7 ⟨.dev, .s 5, 0xFFFC⟩ (.g 6 .test)) ∧
    decodeWords 0x31855326 0xFFFC2293 0x00000007 = .ok (.tst ⟨3, true⟩ false 4 20 7 ⟨.dev, .s 5, 0xFFFC⟩ (.g 6 .test)) ∧
    decodeWords 0x01C60F2A 0x00000013 0x3F7F0000 = .ok (.mma ⟨3, true⟩ 3 6 7 63 127) ∧
    decodeWords 0x01C60F2E 0x00000013 0x3F7F0054 = .ok (.mmas ⟨3, true⟩ 3 6 7 4 5 63 127) ∧
    decodeWords 0x01C60F32 0x00000013 0x3F7F0000 = .ok (.mmc ⟨3, true⟩ 3 6 7 63 127) ∧
    decodeWords 0x31850F36 0xFFFC2293 0x3F7F3E7E = .ok (.accld ⟨3, true⟩ 4 3 ⟨.dev, .s 5, 0xFFFC⟩ (.g 6 .test) 63 127 62 126) ∧
    decodeWords 0x31850F3A 0xFFFC2293 0x3F7F3E7E = .ok (.accst ⟨3, true⟩ 4 3 ⟨.dev, .s 5, 0xFFFC⟩ (.g 6 .test) 63 127 62 126) ∧
    decodeWords 0x00031F3E 0x00000013 0xFF7F0000 = .ok (.acccvt ⟨3, true⟩ true true 7 3 63 127) ∧
    decodeWords 0xB1850F42 0x00000293 0xFEFC4C00 = .ok (.accsend ⟨3, true⟩ .e4m3 true true 3 (.s 5) (.g 6 .test) (.s 9) 62 126) ∧
    decodeWords 0x00000346 0 0xFFFFFFFE = .ok (.brX96 0xFFFFFFFE) ∧
    decodeWords 0x0000034A 0 0x00000010 = .ok (.callX96 16) ∧
    decodeWords 0x0005134E 0x00000213 0x80000000 = .ok (.leaX96 ⟨3, true⟩ 4 (.s 5) 0x80000000) ∧
    decodeWords 0x1000134E 0x00000013 0x00000008 = .ok (.leaPc ⟨3, true⟩ 4 8) := by
  refine ⟨?_, ?_, ?_, ?_, ?_, ?_, ?_, ?_, ?_, ?_, ?_, ?_, ?_⟩ <;> rfl

theorem test_decode_worked_1 :
    decodeWords 0x32081A01 0xFFFC1800 0 = .ok (.ldQ64 Guard.always .b8 true false 3 6 ⟨.dev, (.g 8 .wait), 0xFFFC⟩) ∧
    decodeWords 0x0000200C 0 0 = .ok (.chk 8) ∧
    decodeWords 0x02885312 0 0x8C1C0000 = .ok (.gather Guard.always true 20 (.g 8 .wait) (.g 10 .wait) (.g 12) (.g 14)) ∧
    decodeWords 0x10400249 0x00030000 0 = .ok (.waitt Guard.always 1 (.imm 3)) ∧
    decodeWords 0x22061040 0 0 = .ok (.addZ32 .i64 4 6 8) ∧
    decodeWords 0x01C30CA0 0 0 = .ok (.shrI32 3 3 7) ∧
    decodeWords 0x00840575 0x00020400 0 = .ok (.cmp Guard.always .i32 .lt 1 (.g 4 .wait) (.s 2)) ∧
    decodeWords 0x830B298D 0x4A8D0002 0 = .ok (.ffma ⟨2, false⟩ .rz false 10 (.g 11 .wait) false (.g 12 .wait) true (.g 13 .consume) false) ∧
    decodeWords 0xB20615AD 0x00080000 0 = .ok (.cvt Guard.always .e4m3 .f32 .dyn true 5 (.g 6 .wait) ⟨false, false⟩) ∧
    decodeWords 0x100006C5 0x2FBF0000 0 = .ok (.tcfg Guard.always 1 1 63 95) ∧
    decodeWords 0x000402D9 0x00000200 0 = .ok (.cellp Guard.always (.s 4)) ∧
    decodeWords 0x32885322 0x00002000 0 = .ok (.tld Guard.always false 4 20 0 ⟨.dev, (.g 8 .wait), 0⟩ (.g 10 .wait)) ∧
    decodeWords 0x00400B2A 0 0 = .ok (.mma Guard.always 2 0 1 0 0) ∧
    decodeWords 0x00C2072E 0 0x00400076 = .ok (.mmas Guard.always 1 2 3 6 7 0 64) ∧
    decodeWords 0x00030AA5 0x04020000 0 = .ok (.wmopen Guard.always 2 16 2 (.g 3 .wait)) ∧
    decodeWords 0x210202AD 0 0 = .ok (.wmapp Guard.always 2 (.g 2 .wait) (.g 4 .wait)) := by
  refine ⟨?_, ?_, ?_, ?_, ?_, ?_, ?_, ?_, ?_, ?_, ?_, ?_, ?_, ?_, ?_, ?_⟩ <;> rfl

theorem test_decode_worked_2 :
    decodeWords 0x32422AB1 0 0 = .ok (.wmprop Guard.always 3 10 (.g 2 .wait) 9) ∧
    decodeWords 0x3088162D 0x00109000 0 = .ok (.stQ64 Guard.always .b32 true 2 (.g 5 .wait) ⟨.dev, (.g 8 .wait), 16⟩) ∧
    decodeWords 0x30C82B06 0x0000C000 0x00600000 = .ok (.atom Guard.always .add true .ar 10 ⟨.dev, (.g 8 .wait), 0⟩ (.g 12 .wait) (.g 0 .wait)) ∧
    decodeWords 0x3088170A 0x00048000 0x08000000 = .ok (.red Guard.always .add .f32 true (.g 5 .wait) ⟨.dev, (.g 8 .wait), 4⟩) ∧
    decodeWords 0x30000231 0x00038000 0 = .ok (.fence Guard.always .all .rel .dev) ∧
    decodeWords 0x30061241 0x00210000 0 = .ok (.barexp Guard.always .inb false (.g 4 .wait) .dev (.g 6 .wait) 8) ∧
    decodeWords 0x20060245 0x00408000 0 = .ok (.depdec Guard.always true ⟨.clu, (.g 6 .wait), 64⟩) ∧
    decodeWords 0x0046002C 0 0 = .ok (.drainArrive 6) ∧
    decodeWords 0x10040265 0x00090000 0 = .ok (.loopr 1 (.g 4 .wait) 9) ∧
    decodeWords 0x12883171 0x0C040000 0 = .ok (.leaQ64 Guard.always false 12 (.g 8 .wait) (.g 10 .wait) 4 0x180) ∧
    decodeWords 0x158A0575 0x00020000 0 = .ok (.cmp Guard.always .n32 .lt 1 (.g 10 .wait) (.g 22 .wait)) ∧
    decodeWords 0x07180271 0 0 = .ok (.gcall Guard.always (.g 24 .wait) (.g 28 .wait)) ∧
    decodeWords 0x000051D5 0 0 = .ok (.first Guard.always 20 0) ∧
    decodeWords 0x309C6615 0x00000002 0 = .ok (.fill ⟨2, false⟩ false false (.g 25 .wait) ⟨.dev, (.g 28 .wait), 0⟩) ∧
    decodeWords 0x800002C5 0x01870000 0 = .ok (.tcfg Guard.always 0 8 7 3) ∧
    decodeWords 0x00080251 0x00210200 0 = .ok (.mtc Guard.always false 0x021 (.s 8)) := by
  refine ⟨?_, ?_, ?_, ?_, ?_, ?_, ?_, ?_, ?_, ?_, ?_, ?_, ?_, ?_, ?_, ?_⟩ <;> rfl

theorem test_decode_worked_3 :
    decodeWords 0x201002C9 0 0 = .ok (.tpack Guard.always .w4 0 (.g 16 .wait) 0 0) ∧
    decodeWords 0x02900281 0 0 = .ok (.route Guard.always (.g 16 .wait) (.g 10 .wait)) ∧
    decodeWords 0x000B027D 0 0 = .ok (.migrate Guard.always (.g 11 .wait)) ∧
    decodeWords 0x000C028D 0 0 = .ok (.rcsnap Guard.always 0 (.g 12 .wait) 0) ∧
    decodeWords 0x308E430A 0 0x04000000 = .ok (.red Guard.always .add .n32 false (.g 16 .wait) ⟨.dev, (.g 14 .wait), 0⟩) ∧
    decodeWords 0x07560289 0 0 = .ok (.routeset Guard.always (.g 22 .wait) (.g 29 .wait)) ∧
    decodeWords 0x00002255 0x00000001 0 = .ok (.brc ⟨1, false⟩ 8 0) ∧
    decodeWords 0x30DC5209 0x00003000 0 = .ok (.ldw Guard.always .b64 false 6 20 ⟨.dev, (.g 28 .wait), 0⟩) ∧
    decodeWords 0x30DC5201 0x00007000 0 = .ok (.ldQ64 Guard.always .b64 false true 6 20 ⟨.dev, (.g 28 .wait), 0⟩) ∧
    decodeWords 0x241C4844 0 0 = .ok (.subZ32 .i64 18 28 16) ∧
    decodeWords 0x381200B0 0 0 = .ok (.trap 0xE0 18) ∧
    decodeWords 0x00140EBD 0x00001001 0 = .ok (.wmload ⟨1, false⟩ 2 3 (.g 20 .wait) 0) ∧
    decodeWords 0x01871DC5 0 0 = .ok (.bcast Guard.always false 7 (.g 7 .wait) (.g 6 .wait)) ∧
    decodeWords 0x0004E1D5 0 0 = .ok (.first Guard.always 56 4) ∧
    decodeWords 0x308C7B06 0x00000001 0x20F80000 = .ok (.atom ⟨1, false⟩ .or false .plain 30 ⟨.dev, (.g 12 .wait), 0⟩ (.g 31 .wait) (.g 0 .wait)) ∧
    decodeWords 0x08A1291D 0x00000149 0 = .ok (.orQ64 ⟨9, false⟩ .i32 10 (.g 33 .consume) (.g 34 .consume)) := by
  refine ⟨?_, ?_, ?_, ?_, ?_, ?_, ?_, ?_, ?_, ?_, ?_, ?_, ?_, ?_, ?_, ?_⟩ <;> rfl

theorem test_decode_worked_4 :
    decodeWords 0x31528322 0x00001008 0 = .ok (.tld ⟨8, false⟩ false 2 32 0 ⟨.dev, (.g 18 .wait), 0⟩ (.g 5 .wait)) ∧
    decodeWords 0x30C86B06 0x00000001 0x00C00000 = .ok (.atom ⟨1, false⟩ .add true .plain 26 ⟨.dev, (.g 8 .wait), 0⟩ (.g 24 .wait) (.g 0 .wait)) ∧
    decodeWords 0x1490531E 0 0x0C000010 = .ok (.tgenApp Guard.always false 20 (.g 16 .wait) (.g 18 .wait) 12 16) ∧
    decodeWords 0x028C0295 0x000C0000 0 = .ok (.taskmk Guard.always 12 0 (.g 12 .wait) (.g 10 .wait)) := by
  refine ⟨?_, ?_, ?_, ?_⟩ <;> rfl

/-! ### Small states -/

/-- Lane registers of the tests: `g4` = 5, `g5` = 6, `g8:g9` an address in the own store, `g10:g11` one in translated memory,
`g12:g13` = 3, `g16:g17` the address of a descriptor, `g18` a Waymark handle, `g20:g21` the address of a save record. -/
def lane0 : Lane := { Lane.fresh with g := Vector.ofFn fun i => match i.val with
  | 4 => 5 | 5 => 6 | 8 => 0x2000 | 9 | 17 | 21 => 0x00FF0000 | 10 => 0x10040 | 12 => 3 | 16 => 0x3000 | 18 => 0x10000 | 20 => 0x5000
  | 22 => 0x1000 | _ => 0 }
/-- A barrel unit in slot 0 of core 0, of launch 5, with `s28` all ones. -/
def unit (k : UKind) (priv : Priv) : Agent := { Agent.fresh 7 1 k ⟨0, 0, 0⟩ 1 0x10000 priv with
  lanes := [lane0], s := Vector.ofFn fun i => if i.val = 28 then 0xFFFFFFFFFFFFFFFF else 0
  launch := some 5, levelids := 0x2000000000000 }
/-- A warp in context 0 of wide core 32. -/
def warp : Agent := { Agent.fresh 7 1 .warp ⟨0, 32, 0⟩ 32 0x10000 .user with lanes := List.replicate 32 lane0 }
/-- Job 1, which has cluster 0 and its route table in the own store. -/
def job1 : Job := ⟨1, 0x4000, 0, 1, 0x00FF000000004000, 1, 0, leases0Reset, leases1Reset, false, false⟩
/-- Launch 5 of queue 0. -/
def launch5 : Launch := ⟨5, 1, 0, 5, none, none, 0x10000, false, 1, 1, 1, 0, 0, false, 1, none, 0, false, none, false⟩
/-- The words of the own store: the leaf of a tree (10_isa_lane.md R238), the descriptor of a gang leaf (08_encoding.md R183), an
entry of the route table (15_travellers.md R345), the header of a Waymark save record (12_waymark.md R286). -/
def words : List (Nat × Word) := [(0x801, 0x80000000), (0xC00, 0x10000), (0xC04, 0x10101), (0xC05, 0x400000), (0x1005, 0x80000000),
  (0x1400, 1), (0x1401, 0x1000), (0x1403, 0x2002)]
/-- Descriptors 0 to 3 of the tiles of core 32, and a cell program. -/
def tiles0 : Tiles := { Tiles.fresh ⟨0, 32⟩ with
  td := Vector.ofFn fun i => [0x40101, 0x40101, 0x4010C, 0x4010C, 0, 0, 0, 0].getD i.val 0, prog := 0x1000 }
/-- The state after reset with job 1, one unit in focus, pages 1 to 9 of translated memory, the words above, a Waymark slot of
the unit and a level counter. -/
def st (a : Agent) : State := words.foldl (fun s x => s.putLword ⟨0, 0⟩ x.1 x.2) { State.reset with
  agents := [a], focus := some (a.uid, false), jobs := [job1], nextId := 100, launches := [launch5], counters := [⟨5, 1, false, 6, 0⟩]
  tlb := (List.range 9).map fun k => (0, ⟨1, false, k + 1, 16, placeLeaf, 65536 * k⟩), tiles := [tiles0]
  wm := [⟨0, 0, true, 4096, [1, 2], 2, 2, 32, State.ownerTag 12 State.reset a 0, 1, 1⟩] }
/-- The path in slot A of a unit. -/
def pathOf (a : Agent) : Path := a.slotA.getD (Path.fresh 0 0 .user)
/-- The context in which a unit issues an instruction with the lanes `m`. -/
def ctxM (a : Agent) (i : Instr) (m : Mask) : Ctx := ⟨a.uid, false, a, pathOf a, m, (pathOf a).pc + 4 * BitVec.ofNat 64 (encode i).length⟩
/-- The same with every lane of its path. -/
abbrev ctx (a : Agent) (i : Instr) : Ctx := ctxM a i (pathOf a).mask
/-- A barrel traveller in user mode. -/
abbrev U : Agent := unit .traveller .user
/-- The same in supervisor mode. -/
abbrev V : Agent := unit .traveller .super

/-- The same in firmware mode. -/
abbrev F : Agent := unit .traveller .firmware

/-- The unit may issue an instruction that no lane masks. -/
theorem can (s : State) (a : Agent) (i : Instr) (g : Guard) (h1 : s.focused = some (a, pathOf a, false)) (h2 : preCheck a (pathOf a) i = none)
    (h3 : (a.atEnd (pathOf a).act (ctx a i).npc && a.diverged (pathOf a).act) = false)
    (h4 : (pathOf a).mask = Mask.filter (pathOf a).mask fun l => guardOn a (pathOf a) l g) (h5 : (pathOf a).mask ≠ 0)
    (h6 : (ctx a i).badGuards g = []) : Issues i g s (ctx a i) := ⟨⟨h1, rfl, rfl, h2, h4, h5, h6⟩, h3⟩
/-- What a user traveller may issue. -/
theorem canU (i : Instr) (h : preCheck U (pathOf U) i = none) : Issues i al (st U) (ctx U i) := can (st U) U i al rfl h rfl rfl (by decide) rfl
theorem canV (i : Instr) (h : preCheck V (pathOf V) i = none) : Issues i al (st V) (ctx V i) := can (st V) V i al rfl h rfl rfl (by decide) rfl
theorem canF (i : Instr) (h : preCheck F (pathOf F) i = none) : Issues i al (st F) (ctx F i) := can (st F) F i al rfl h rfl rfl (by decide) rfl
theorem canW (i : Instr) (h : preCheck warp (pathOf warp) i = none) (h3 : warp.atEnd (pathOf warp).act (ctx warp i).npc = false) :
    Issues i al (st warp) (ctx warp i) := can (st warp) warp i al rfl h (by rw [h3]; rfl) (by decide) (by decide)
      (by have h : (ctx warp .ret).badGuards al = [] := by decide
          exact h)

/-- The one lane of a barrel unit. -/
theorem one (k : UKind) (priv : Priv) (l : Nat) (h : l ∈ Mask.list (pathOf (unit k priv)).mask) : l = 0 := by
  have h' : l ∈ Mask.list 1 := h
  have : Mask.list 1 = [0] := by decide
  rw [this] at h'; simpa using h'

/-- A witness for a register instruction: a user traveller issues it, its operands are readable and nothing traps. -/
structure Runs (i : Instr) (g : Guard) (os : List Opnd) (ps : List PReg) (ds : List GReg)
    (f : Ctx → List (Nat × LaneIn) → Nat → LaneIn → LaneOut) : Prop where
  issues : Issues i g (st U) (ctx U i)
  reads : Reads (st U) (ctx U i) os ps ds
  noTrap : NoTrap (ctx U i) (answer (ctx U i) os ps f)

theorem runs {i : Instr} {os ps ds f} (h1 : preCheck U (pathOf U) i = none) (h2 : (st U).ready (ctx U i) 0 os ps ds = .ok)
    (h3 : (answer (ctx U i) os ps f 0).fault = none) (h4 : flagCause 0 (answer (ctx U i) os ps f 0).flags = none) :
    Runs i al os ps ds f :=
  ⟨canU i h1, fun l h => by rw [one .traveller .user l h]; exact h2, fun l h => by rw [one .traveller .user l h]; exact ⟨h3, h4⟩⟩

theorem readsU {i : Instr} {os ps ds} (h : (st U).ready (ctx U i) 0 os ps ds = .ok) : Reads (st U) (ctx U i) os ps ds :=
  fun l hl => by rw [one .traveller .user l hl]; exact h

theorem test_IntegerValues_hyps : ITy.is64 .i32 = false ∧ ITy.is64 .n64 = true := ⟨rfl, rfl⟩

theorem test_IntegerTwoSources_hyps :
    ((fun (t : ITy) (d : GReg) (a : GReg) (b : GReg) =>
      (∀ p ∈ [(Instr.addZ32 t d a b, IOp.add), (.subZ32 t d a b, .sub), (.mulZ32 t d a b, .mul), (.mulhZ32 t d a b, .mulh),
        (.minZ32 t d a b, .min), (.maxZ32 t d a b, .max), (.andZ32 t d a b, .and), (.orZ32 t d a b, .or),
        (.xorZ32 t d a b, .xor), (.andnZ32 t d a b, .andn), (.shlZ32 t d a b, .shl), (.shrZ32 t d a b, .shr),
        (.sarZ32 t d a b, .sar), (.rotZ32 t d a b, .rot)],
      Runs p.1 Guard.always [(rd a).wT t, if p.2.shifts then (rd b).w1 else (rd b).wT t] [] (dstT t d)
        (intOut p.2 t false d)))
      .i64 20 4 4) ∧
    ((fun (g : Guard) (t : ITy) (sat : Bool) (d : GReg) (x : Src) (y : Src) =>
      (∀ p ∈ [(Instr.addQ64 g t sat d x y, IOp.add), (.subQ64 g t sat d x y, .sub), (.mulQ64 g t sat d x y, .mul)],
      Runs p.1 g [x.wT t, y.wT t] [] (dstT t d) (intOut p.2 t sat d)))
      al .i32 true 63 (.g 4 .wait) (.s 3)) ∧
    ((fun (g : Guard) (t : ITy) (d : GReg) (x : Src) (y : Src) =>
      (∀ p ∈ [(Instr.mulhQ64 g t d x y, IOp.mulh), (.minQ64 g t d x y, .min), (.maxQ64 g t d x y, .max),
        (.andQ64 g t d x y, .and), (.orQ64 g t d x y, .or), (.xorQ64 g t d x y, .xor), (.andnQ64 g t d x y, .andn),
        (.shlQ64 g t d x y, .shl), (.shrQ64 g t d x y, .shr), (.sarQ64 g t d x y, .sar), (.rotQ64 g t d x y, .rot)],
      Runs p.1 g [x.wT t, if p.2.shifts then y.w1 else y.wT t] [] (dstT t d) (intOut p.2 t false d)))
      al .n32 20 (.g 5 .test) (.s 3)) ∧
    ((fun (d : GReg) (a : GReg) (imm : BitVec 10) =>
      (∀ p ∈ [(Instr.addI32 d a imm, IOp.add), (.mulI32 d a imm, .mul), (.minI32 d a imm, .min), (.maxI32 d a imm, .max),
        (.andI32 d a imm, .and), (.orI32 d a imm, .or), (.xorI32 d a imm, .xor)],
      Runs p.1 Guard.always [(rd a).w1] [] [d] (immOut p.2 d ((imm.signExtend 32).setWidth 64))))
      20 4 0x3FF) ∧
    ((fun (d : GReg) (a : GReg) (n : BitVec 5) =>
      (∀ p ∈ [(Instr.shlI32 d a n, IOp.shl), (.shrI32 d a n, .shr), (.sarI32 d a n, .sar), (.rotI32 d a n, .rot)],
      Runs p.1 Guard.always [(rd a).w1] [] [d] (immOut p.2 d (n.setWidth 64))))
      20 4 31) := by
  refine ⟨?_, ?_, ?_, ?_, ?_⟩
  all_goals
    repeat' first
      | exact fun _ h => (List.not_mem_nil h).elim
      | refine List.forall_mem_cons.2 ⟨?_, ?_⟩
  all_goals exact runs rfl rfl rfl rfl

theorem test_IntegerOthers_hyps :
    ((fun (t : ITy) (d : GReg) (a : GReg) =>
      (∀ e ∈ [(Instr.movZ32 t d a, UOp.mov), (.notZ32 t d a, .not), (.negZ32 t d a, .neg), (.absZ32 t d a, .abs),
        (.clzZ32 t d a, .clz), (.popcZ32 t d a, .popc), (.brevZ32 t d a, .brev)],
      Runs e.1 Guard.always [(rd a).wT t] [] (if e.2.counts then [d] else dstT t d) (int1Out e.2 t false d)))
      .i64 20 4) ∧
    ((fun (g : Guard) (t : ITy) (d : GReg) (x : Src) =>
      (∀ e ∈ [(Instr.movQ64 g t d x, UOp.mov), (.notQ64 g t d x, .not), (.clzQ64 g t d x, .clz), (.popcQ64 g t d x, .popc),
        (.brevQ64 g t d x, .brev)],
      Runs e.1 g [x.wT t] [] (if e.2.counts then [d] else dstT t d) (int1Out e.2 t false d)))
      al .i64 20 (.g 4 .wait)) ∧
    ((fun (g : Guard) (t : ITy) (sat : Bool) (d : GReg) (x : Src) =>
      (∀ e ∈ [(Instr.negQ64 g t sat d x, UOp.neg), (.absQ64 g t sat d x, .abs)],
      Runs e.1 g [x.wT t] [] (dstT t d) (int1Out e.2 t sat d)))
      al .i64 false 20 (.g 4 .wait)) ∧
    ((fun (g : Guard) (t : ITy) (sat : Bool) (d : GReg) (x : Src) (y : Src) (z : Src) =>
      Runs (.mad g t sat d x y z) g [x.wT t, y.wT t, z.wT t] [] (dstT t d) (fun _ _ _ i =>
      { outT t d (madR t sat (i.v 0) (i.v 1) (i.v 2)).1 with flags := (madR t sat (i.v 0) (i.v 1) (i.v 2)).2 }))
      al .i64 false 20 (.g 4 .wait) (.s 3) (.g 10 .consume)) ∧
    ((fun (d : GReg) (imm : BitVec 10) =>
      Runs (.moviI32 d imm) Guard.always [] [] [d] (fun _ _ _ _ => out1 d (imm.signExtend 32)))
      20 0x3FF) ∧
    ((fun (g : Guard) (d : GReg) (w : Word) =>
      Runs (.moviX96 g .word d w) g [] [] [d] (fun _ _ _ _ => out1 d w))
      al 20 0xFFFFFFFF) ∧
    ((fun (g : Guard) (d : GReg) (w : Word) =>
      Runs (.moviX96 g .pairSext d w) g [] [] [d, d + 1] (fun _ _ _ _ => out2 d (w.signExtend 64)))
      al 20 0xFFFFFFFF) ∧
    ((fun (g : Guard) (d : GReg) (w : Word) =>
      Runs (.moviX96 g .pairZext d w) g [] [] [d, d + 1] (fun _ _ _ _ => out2 d (w.setWidth 64)))
      al 20 0xFFFFFFFF) ∧
    ((fun (g : Guard) (d : GReg) (x : Src) (pos : BitVec 5) (len : BitVec 6) =>
      Runs (.bfe g false pos len d x) g [x.w1] [] [d] (fun _ _ _ i =>
      out1 d ((i.w 0 >>> pos.toNat) &&& BitVec.ofNat 32 (2 ^ len.toNat - 1))))
      al 20 (.g 4 .wait) 31 1) ∧
    ((fun (g : Guard) (d : GReg) (x : Src) (pos : BitVec 5) (len : BitVec 6) =>
      Runs (.bfe g true pos len d x) g [x.w1] [] [d] (fun _ _ _ i =>
      out1 d (if ((i.w 0 >>> pos.toNat) &&& BitVec.ofNat 32 (2 ^ len.toNat - 1)).getLsbD (len.toNat - 1)
        then ((i.w 0 >>> pos.toNat) &&& BitVec.ofNat 32 (2 ^ len.toNat - 1)) ||| ~~~(BitVec.ofNat 32 (2 ^ len.toNat - 1))
        else (i.w 0 >>> pos.toNat) &&& BitVec.ofNat 32 (2 ^ len.toNat - 1))))
      al 20 (.g 4 .wait) 31 1) ∧
    ((fun (g : Guard) (sg : Bool) (d : GReg) (x : Src) (pos : BitVec 5) (len : BitVec 6) =>
      Runs (.bfi g sg pos len d x) g [x.w1, (rd d).w1] [] [d] (fun _ _ _ i =>
      out1 d ((i.w 1 &&& ~~~(BitVec.ofNat 32 (2 ^ len.toNat - 1) <<< pos.toNat)) |||
        ((i.w 0 <<< pos.toNat) &&& (BitVec.ofNat 32 (2 ^ len.toNat - 1) <<< pos.toNat)))))
      al true 20 (.g 4 .wait) 31 1) ∧
    ((fun (d : GReg) (a : GReg) (b : GReg) (p : PReg) =>
      Runs (.selZ32 p d a b) Guard.always [(rd a).w1, (rd b).w1] [p] [d] (fun _ _ _ i =>
      out1 d (if i.p 0 then i.w 0 else i.w 1)))
      20 4 4 3) ∧
    ((fun (g : Guard) (notp : Bool) (d : GReg) (x : Src) (y : Src) (p : PReg) =>
      Runs (.selQ64 g p false notp d x y) g [x.w1, y.w1] [p] [d] (fun _ _ _ i =>
      out1 d (lo32 (if i.p 0 != notp then i.v 0 else i.v 1))))
      al true 20 (.g 4 .wait) (.s 3) 3) ∧
    ((fun (g : Guard) (notp : Bool) (d : GReg) (x : Src) (y : Src) (p : PReg) =>
      Runs (.selQ64 g p true notp d x y) g [x.w2, y.w2] [p] [d, d + 1] (fun _ _ _ i =>
      out2 d (if i.p 0 != notp then i.v 0 else i.v 1)))
      al true 20 (.g 4 .wait) (.s 3) 3) ∧
    ((fun (o : Opnd) => o = (match Src.g 4 .wait with | .s _ => (Src.g 4 .wait).w2 | .g .. => (Src.g 4 .wait).wT ITy.i32) ∧
      (st U).sregBusy 7 false 31 = false ∧
      Issues (.movs al .i32 31 (.g 4 .wait)) al (st U) (ctx U (.movs al .i32 31 (.g 4 .wait))) ∧ Reads (st U) (ctx U (.movs al .i32 31 (.g 4 .wait))) [o] [] []) (rd 4).w1) ∧
    ((fun (g : Guard) (sg : Bool) (d : GReg) (x : Src) (y : Src) (sh : BitVec 3) (disp : BitVec 13) =>
      Runs (.leaQ64 g sg d x y sh disp) g [x.w2, y.w1] [] [d, d + 1] (fun _ _ _ i =>
      out2 d (i.v 0 + ((if sg then (i.w 1).signExtend 64 else (i.w 1).setWidth 64) <<< sh.toNat) + disp.signExtend 64)))
      al true 20 (.g 4 .wait) (.s 3) 7 0x1FFF) ∧
    ((fun (g : Guard) (d : GReg) (x : Src) (w : Word) =>
      Runs (.leaX96 g d x w) g [x.w2] [] [d, d + 1] (fun _ _ _ i => out2 d (i.v 0 + w.signExtend 64)))
      al 20 (.g 4 .wait) 0xFFFFFFFF) ∧
    ((fun (g : Guard) (d : GReg) (w : Word) =>
      Runs (.leaPc g d w) g [] [] [d, d + 1] (fun c _ _ _ => out2 d (c.p.pc + w.signExtend 64)))
      al 20 0xFFFFFFFF) ∧
    ((fun (g : Guard) (t : ITy) (x : Src) (y : Src) (q : PReg) (cnd : Cond) =>
      Runs (.cmp g t cnd q x y) g [x.wT t, y.wT t] [] [] (fun _ _ _ i => outP q (cmpR cnd t (i.v 0) (i.v 1))))
      al .i64 (.g 4 .wait) (.s 3) 15 .le) := by
  refine ⟨?_, ?_, ?_, ?_, ?_, ?_, ?_, ?_, ?_, ?_, ?_, ?_, ?_, ?_, ?_, ?_, ?_, ?_, ?_⟩
  all_goals
    repeat' first
      | exact fun _ h => (List.not_mem_nil h).elim
      | refine List.forall_mem_cons.2 ⟨?_, ?_⟩
  all_goals first | exact runs rfl rfl rfl rfl | exact ⟨rfl, rfl, canU _ rfl, readsU rfl⟩

theorem test_Predicates_hyps :
    ((fun (d : PReg) (a : PReg) (b : PReg) =>
      Runs (.pand d a b) Guard.always [] [a, b] [] (fun _ _ _ i => outP d (i.p 0 && i.p 1)))
      15 0 8) ∧
    ((fun (d : PReg) (a : PReg) (b : PReg) =>
      Runs (.por d a b) Guard.always [] [a, b] [] (fun _ _ _ i => outP d (i.p 0 || i.p 1)))
      15 0 8) ∧
    ((fun (d : PReg) (a : PReg) (b : PReg) =>
      Runs (.pxor d a b) Guard.always [] [a, b] [] (fun _ _ _ i => outP d (i.p 0 != i.p 1)))
      15 0 8) ∧
    ((fun (d : PReg) (a : PReg) =>
      Runs (.pnot d a) Guard.always [] [a, 0] [] (fun _ _ _ i => outP d (!i.p 0)))
      15 0) := by
  refine ⟨?_, ?_, ?_, ?_⟩
  all_goals
    repeat' first
      | exact fun _ h => (List.not_mem_nil h).elim
      | refine List.forall_mem_cons.2 ⟨?_, ?_⟩
  all_goals exact runs rfl rfl rfl rfl

theorem test_FloatingResults_hyps :
    ((fun (d : GReg) (a : GReg) (b : GReg) =>
      (∀ e ∈ [(Instr.faddZ32 d a b, faddR), (.fsubZ32 d a b, fsubR), (.fmulZ32 d a b, fmulR),
        (.fminZ32 d a b, fun _ _ => minmaxF .f32 false), (.fmaxZ32 d a b, fun _ _ => minmaxF .f32 true)],
      Runs e.1 Guard.always [(rd a).w1, (rd b).w1] [] [d] (flt2Out e.2 .dyn false d ⟨false, false⟩ ⟨false, false⟩)))
      20 4 5) ∧
    ((fun (g : Guard) (r : Rnd) (sat : Bool) (d : GReg) (x : Src) (y : Src) (ma : FMod) (mb : FMod) =>
      (∀ e ∈ [(Instr.faddQ64 g r sat d x ma y mb, faddR), (.fsubQ64 g r sat d x ma y mb, fsubR),
        (.fmulQ64 g r sat d x ma y mb, fmulR)],
      Runs e.1 g [x.w1, y.w1] [] [d] (flt2Out e.2 r sat d ma mb)))
      al .rz true 20 (.g 4 .wait) (.s 3) ⟨true, true⟩ ⟨false, false⟩) ∧
    ((fun (g : Guard) (d : GReg) (x : Src) (y : Src) (ma : FMod) (mb : FMod) =>
      (∀ e ∈ [(Instr.fminQ64 g d x ma y mb, false), (.fmaxQ64 g d x ma y mb, true)],
      Runs e.1 g [x.w1, y.w1] [] [d] (flt2Out (fun _ _ => minmaxF .f32 e.2) .dyn false d ma mb)))
      al 20 (.g 4 .wait) (.s 3) ⟨true, true⟩ ⟨false, false⟩) ∧
    ((fun (g : Guard) (r : Rnd) (sat : Bool) (d : GReg) (x : Src) (ma : FMod) =>
      (∀ e ∈ [(Instr.frcp g r sat d x ma, frcpR), (.frsq g r sat d x ma, frsqR), (.fsqrt g r sat d x ma, fsqrtR),
        (.fexp2 g r sat d x ma, fexp2R), (.flog2 g r sat d x ma, flog2R)],
      Runs e.1 g [x.w1] [] [d] (flt1Out e.2 r sat d ma)))
      al .rz true 20 (.s 3) ⟨true, true⟩) ∧
    ((fun (g : Guard) (r : Rnd) (sat : Bool) (na : Bool) (nb : Bool) (nc : Bool) (d : GReg) (x : Src) (y : Src) (z : Src) =>
      Runs (.ffma g r sat d x na y nb z nc) g [x.w1, y.w1, z.w1] [] [d] (fun c _ _ i =>
      outFl d (ffmaR (Rnd.mode r c.a.fpctl) sat (i.f 0 ⟨na, false⟩) (i.f 1 ⟨nb, false⟩) (i.f 2 ⟨nc, false⟩))))
      al .rz true true false true 20 (.g 4 .wait) (.s 3) (.g 5 .consume)) ∧
    ((fun (g : Guard) (p : PReg) (x : Src) (y : Src) (ma : FMod) (mb : FMod) (k : FCond) =>
      Runs (.fcmp g k p x ma y mb) g [x.w1, y.w1] [] [] (fun _ _ _ i =>
      { outP p (fcmpR k (i.f 0 ma) (i.f 1 mb)).1 with flags := (fcmpR k (i.f 0 ma) (i.f 1 mb)).2 }))
      al 15 (.g 4 .wait) (.s 3) ⟨true, true⟩ ⟨false, false⟩ .un) := by
  refine ⟨?_, ?_, ?_, ?_, ?_, ?_⟩
  all_goals
    repeat' first
      | exact fun _ h => (List.not_mem_nil h).elim
      | refine List.forall_mem_cons.2 ⟨?_, ?_⟩
  all_goals exact runs rfl rfl rfl rfl

theorem test_ConversionResults_hyps :
    ((fun (g : Guard) (dt : Ty) (st : Ty) (r : Rnd) (sat : Bool) (d : GReg) (x : Src) (ma : FMod) =>
      Runs (.cvt g dt st r sat d x ma) g [⟨x, if st.is64 then 2 else 1, false⟩] []
      (if dt.is64 then [d, d + 1] else [d]) (fun c _ _ i =>
        let v := convert dt st (Rnd.mode r c.a.fpctl) sat (srcElem st ma (i.v 0))
        { (if dt.is64 then out2 d (extend dt v.bits) else out1 d (lo32 (extend dt v.bits))) with flags := v.flags }))
      al .f16 .f32 .ru true 20 (.g 4 .wait) ⟨true, true⟩) ∧
    ((fun (g : Guard) (dt : Ty) (r : Rnd) (sat : Bool) (d : GReg) (x : Src) (y : Src) (ma : FMod) (mb : FMod) =>
      (dt.width = 16 ∧ Runs (.pack g dt r sat d x ma y mb) g [x.w1, y.w1] [] [d] (fun c _ _ i =>
        let f : Ty := if dt.isFloat then .f32 else .i32
        let u := convert dt f (Rnd.mode r c.a.fpctl) sat (srcElem f ma (i.v 0))
        let v := convert dt f (Rnd.mode r c.a.fpctl) sat (srcElem f mb (i.v 1))
        { out1 d (BitVec.ofNat 32 (v.bits * 2 ^ 16 + u.bits)) with flags := u.flags ||| v.flags })))
      al .f16 .ru true 20 (.g 4 .wait) (.s 3) ⟨true, true⟩ ⟨false, false⟩) ∧
    ((fun (g : Guard) (dt : Ty) (r : Rnd) (sat : Bool) (d : GReg) (x : Src) (y : Src) (ma : FMod) (mb : FMod) =>
      (dt.width ≠ 16 ∧ Runs (.pack g dt r sat d x ma y mb) g [x.w1, y.w1, (rd d).w1] [] [d] (fun c _ _ i =>
        let f : Ty := if dt.isFloat then .f32 else .i32
        let u := convert dt f (Rnd.mode r c.a.fpctl) sat (srcElem f ma (i.v 0))
        let v := convert dt f (Rnd.mode r c.a.fpctl) sat (srcElem f mb (i.v 1))
        { out1 d ((i.w 2 >>> (2 * dt.width)) ||| (BitVec.ofNat 32 (v.bits * 2 ^ dt.width + u.bits) <<< (32 - 2 * dt.width)))
          with flags := u.flags ||| v.flags })))
      al .i4 .ru true 20 (.g 4 .wait) (.s 3) ⟨true, true⟩ ⟨false, false⟩) ∧
    ((fun (g : Guard) (t : Ty) (d : GReg) (x : Src) (ma : FMod) (idx : BitVec 3) =>
      Runs (.upk g t true idx d x ma) g [x.w1] [] [d] (fun _ _ _ i =>
      out1 d (BitVec.ofNat 32 (elem t (i.w 0).toNat idx.toNat))))
      al .i8 20 (.g 4 .wait) ⟨true, true⟩ 3) ∧
    ((fun (g : Guard) (t : Ty) (d : GReg) (x : Src) (ma : FMod) (idx : BitVec 3) =>
      Runs (.upk g t false idx d x ma) g [x.w1] [] [d] (fun _ _ _ i =>
      if t.isFloat then outFl d (convert .f32 t .ne false (FMod.apply ma t (elem t (i.w 0).toNat idx.toNat)))
      else out1 d (lo32 (extend t (elem t (i.w 0).toNat idx.toNat)))))
      al .i8 20 (.g 4 .wait) ⟨true, true⟩ 3) ∧
    ((fun (g : Guard) (t : Ty) (d : GReg) (x : Src) (y : Src) (z : Src) =>
      Runs (.dot4 g t d x y z) g [x.w1, y.w1, z.w1] [] [d] (fun _ _ _ i => outFl d (dotR t 4 (i.w 0) (i.w 1) (i.w 2))))
      al .i8 20 (.g 4 .wait) (.s 3) (.g 5 .consume)) ∧
    ((fun (g : Guard) (t : Ty) (d : GReg) (x : Src) (y : Src) (z : Src) =>
      Runs (.dot8 g t d x y z) g [x.w1, y.w1, z.w1] [] [d] (fun _ _ _ i => outFl d (dotR t 8 (i.w 0) (i.w 1) (i.w 2))))
      al .i8 20 (.g 4 .wait) (.s 3) (.g 5 .consume)) ∧
    ((fun (g : Guard) (dt : Ty) (st : Ty) (r : Rnd) (sat : Bool) (d : GReg) (x : Src) (ma : FMod) =>
      Runs (.cvt g dt st r sat d x ma) g [⟨x, if st.is64 then 2 else 1, false⟩] []
      (if dt.is64 then [d, d + 1] else [d]) (fun c _ _ i =>
        let v := convert dt st (Rnd.mode r c.a.fpctl) sat (srcElem st ma (i.v 0))
        { (if dt.is64 then out2 d (extend dt v.bits) else out1 d (lo32 (extend dt v.bits))) with flags := v.flags }))
      al .i64 .f32 .rz true 20 (.g 4 .wait) ⟨true, true⟩) := by
  refine ⟨?_, ?_, ?_, ?_, ?_, ?_, ?_, ?_⟩
  all_goals
    repeat' first
      | exact fun _ h => (List.not_mem_nil h).elim
      | refine List.forall_mem_cons.2 ⟨?_, ?_⟩
  all_goals first | exact runs rfl rfl rfl rfl | exact ⟨by decide, runs rfl rfl rfl rfl⟩

theorem test_CrossLaneResults_hyps :
    ((fun (g : Guard) (m : ShflMode) (d : GReg) (x : Src) (y : Src) =>
      Runs (.shfl g m false d x y) g [x.w1, y.w1] [] [d] (fun _ tbl l i =>
      out1 d (lo32 (laneVal tbl (shflLane m l (i.w 1)) i 0))))
      al .xor 8 (.g 10 .wait) (.g 4 .consume)) ∧
    ((fun (g : Guard) (m : ShflMode) (d : GReg) (x : Src) (y : Src) =>
      Runs (.shfl g m true d x y) g [x.w2, y.w1] [] [d, d + 1] (fun _ tbl l i =>
      out2 d (laneVal tbl (shflLane m l (i.w 1)) i 0)))
      al .xor 8 (.g 10 .wait) (.g 4 .consume)) ∧
    ((fun (g : Guard) (d : GReg) (x : Src) (y : Src) =>
      Runs (.bcast g false d x y) g [x.w1, y.w1] [] [d] (fun _ tbl _ i =>
      let low := (tbl.head?.map (·.2)).getD i
      out1 d (lo32 (laneVal tbl (some ((low.w 1).toNat % 32)) low 0))))
      al 8 (.g 10 .wait) (.g 4 .consume)) ∧
    ((fun (g : Guard) (d : GReg) (x : Src) (y : Src) =>
      Runs (.bcast g true d x y) g [x.w2, y.w1] [] [d, d + 1] (fun _ tbl _ i =>
      let low := (tbl.head?.map (·.2)).getD i
      out2 d (laneVal tbl (some ((low.w 1).toNat % 32)) low 0)))
      al 8 (.g 10 .wait) (.g 4 .consume)) ∧
    ((fun (g : Guard) (d : GReg) (p : PReg) =>
      Runs (.vote g .any d p) g [] [p] [] (fun _ tbl _ _ => outP (d.setWidth 4) (tbl.any fun y => y.2.p 0)))
      al 8 15) ∧
    ((fun (g : Guard) (d : GReg) (p : PReg) =>
      Runs (.vote g .all d p) g [] [p] [] (fun _ tbl _ _ => outP (d.setWidth 4) (tbl.all fun y => y.2.p 0)))
      al 8 15) ∧
    ((fun (g : Guard) (d : GReg) (p : PReg) =>
      Runs (.vote g .uni d p) g [] [p] [] (fun _ tbl _ i => outP (d.setWidth 4) (tbl.all fun y => y.2.p 0 == i.p 0)))
      al 8 15) ∧
    ((fun (g : Guard) (d : GReg) (p : PReg) =>
      Runs (.vote g .ballot d p) g [] [p] [d] (fun _ tbl _ _ =>
      out1 d (Mask.ofList ((tbl.filter fun y => y.2.p 0).map (·.1)))))
      al 8 15) ∧
    ((fun (g : Guard) (d : GReg) (p : PReg) =>
      Runs (.first g d p) g [] [p] [d] (fun _ tbl _ _ =>
      out1 d (match tbl.find? fun y => y.2.p 0 with | some y => BitVec.ofNat 32 y.1 | none => 32)))
      al 8 15) ∧
    ((fun (g : Guard) (d : GReg) (x : Src) (op : RedlOp) (t : Ty) (r : Rnd) =>
      Runs (.redl g op t r d x) g [⟨x, if t.is64 then 2 else 1, false⟩] [] (if t.is64 then [d, d + 1] else [d])
      (fun c tbl _ i =>
        let run := redlRun op t (Rnd.mode r c.a.fpctl) tbl
        let v := (run.1.getLast?.map (·.2)).getD (i.v 0)
        { (if t.is64 then out2 d v else out1 d (lo32 v)) with flags := run.2 }))
      al 8 (.g 10 .wait) .add .i64 .dyn) ∧
    ((fun (g : Guard) (d : GReg) (x : Src) (op : RedlOp) (t : Ty) (r : Rnd) =>
      Runs (.scanl g op t r d x) g [⟨x, if t.is64 then 2 else 1, false⟩] [] (if t.is64 then [d, d + 1] else [d])
      (fun c tbl l i =>
        let run := redlRun op t (Rnd.mode r c.a.fpctl) tbl
        let v := ((run.1.find? (·.1 == l)).map (·.2)).getD (i.v 0)
        { (if t.is64 then out2 d v else out1 d (lo32 v)) with flags := run.2 }))
      al 8 (.g 10 .wait) .add .i64 .dyn) ∧
    ((fun (g : Guard) (d : GReg) (x : Src) (y : Src) =>
      Runs (.rand g false d x y) g [x.w2, y.w1] [] [d] (fun _ _ _ i => out1 d (mix (i.v 0) (i.w 1))))
      al 8 (.g 10 .wait) (.g 4 .consume)) ∧
    ((fun (g : Guard) (d : GReg) (x : Src) (y : Src) =>
      Runs (.rand g true d x y) g [x.w2, y.w1] [] [d] (fun _ _ _ i => out1 d (BitVec.ofNat 32
      (finish .f32 .ne false 0 ((⟨((mix (i.v 0) (i.w 1) >>> 8).toNat : Nat), -24⟩ : Dy).out false)).bits)))
      al 8 (.g 10 .wait) (.g 4 .consume)) ∧
    ((fun (g : Guard) (d : GReg) (y : Src) (u : SReg) (n1 : BitVec 5) =>
      Runs (.tmask g d u y n1) g ([(Src.s u).w2, (Src.s (u + 1)).w2, (Src.s (u + 2)).w2, (Src.s (u + 3)).w2, y.w1]) [] [d]
      (fun _ _ _ i =>
        let par := tmaskParent [i.v 0, i.v 1, i.v 2, i.v 3]
        if ((List.range (n1.toNat + 1)).any fun j => decide (par j < -1) || decide ((j : Int) - 1 < par j))
            || decide (n1.toNat + 1 ≤ (i.w 4).toNat) then outF 0x73
        else out1 d (ancestors par 32 (i.w 4).toNat)))
      al 8 (.g 12 .wait) 28 3) := by
  refine ⟨?_, ?_, ?_, ?_, ?_, ?_, ?_, ?_, ?_, ?_, ?_, ?_, ?_, ?_⟩
  all_goals
    repeat' first
      | exact fun _ h => (List.not_mem_nil h).elim
      | refine List.forall_mem_cons.2 ⟨?_, ?_⟩
  all_goals exact runs rfl rfl rfl rfl

/-- A witness for an instruction that meets the rest of the device: a unit issues it, its operands are readable and its lanes'
checks pass. -/
structure Meets (s : State) (a : Agent) {β : Type} (i : Instr) (g : Guard) (os : List Opnd) (ds : List GReg)
    (check : Ctx → State → Nat → LaneIn → State × Chk β) (_perform : Ctx → State → Nat → β → State) : Prop where
  issues : Issues i g s (ctx a i)
  reads : Reads s (ctx a i) os [] ds
  pass : ∃ t bs, Pass (fun s l => check (ctx a i) s l ((ctx a i).inputs l os [])) (Mask.list (ctx a i).act) (atIssue s (ctx a i)) t bs
/-- The same for an instruction performed once for its path. -/
structure MeetsOnce (s : State) (a : Agent) {β : Type} (i : Instr) (g : Guard) (os : List Opnd) (ds : List GReg)
    (check : Ctx → State → Nat → LaneIn → State × Chk β) (_perform : Ctx → State → Nat → β → State) : Prop where
  issues : Issues i g s (ctx a i)
  reads : s.ready (ctx a i) (Mask.lowest (ctx a i).act) os [] ds = .ok
  pass : ∃ t b, check (ctx a i) (atIssue s (ctx a i)) (Mask.lowest (ctx a i).act) ((ctx a i).inputs (Mask.lowest (ctx a i).act) os [])
    = (t, .ok b)

theorem passOne {β : Type} {check : State → Nat → State × Chk β} {s : State} (h : ∃ t b, check s 0 = (t, .ok b)) :
    ∃ t bs, Pass check (Mask.list 1) s t bs := by
  obtain ⟨t, b, h⟩ := h
  have : Mask.list 1 = [0] := by decide
  rw [this]
  exact ⟨t, [(0, b)], t, b, [], h, ⟨rfl, rfl⟩, rfl⟩
theorem low1 : Mask.lowest 1 = 0 := by decide
theorem list1 : Mask.list 1 = [0] := by decide
/-- With one lane. -/
theorem meets {s : State} {a : Agent} {β : Type} {i : Instr} {g : Guard} {os : List Opnd} {ds : List GReg}
    {check : Ctx → State → Nat → LaneIn → State × Chk β} {perform : Ctx → State → Nat → β → State} (h1 : Issues i g s (ctx a i))
    (h : (ctx a i).act = 1) (h2 : s.ready (ctx a i) 0 os [] ds = .ok)
    (h3 : ∃ t b, check (ctx a i) (atIssue s (ctx a i)) 0 ((ctx a i).inputs 0 os []) = (t, .ok b)) :
    Meets s a i g os ds check perform :=
  ⟨h1, fun l hl => by rw [h, list1] at hl; rw [List.mem_singleton.1 hl]; exact h2, by rw [h]; exact passOne h3⟩
theorem meetsOnce {s : State} {a : Agent} {β : Type} {i : Instr} {g : Guard} {os : List Opnd} {ds : List GReg}
    {check : Ctx → State → Nat → LaneIn → State × Chk β} {perform : Ctx → State → Nat → β → State} (h1 : Issues i g s (ctx a i))
    (h : Mask.lowest (ctx a i).act = 0) (h2 : s.ready (ctx a i) 0 os [] ds = .ok)
    (h3 : ∃ t b, check (ctx a i) (atIssue s (ctx a i)) 0 ((ctx a i).inputs 0 os []) = (t, .ok b)) :
    MeetsOnce s a i g os ds check perform := ⟨h1, by rw [h]; exact h2, by rw [h]; exact h3⟩

/-- A leaf of a tree in the own store (10_isa_lane.md R238). -/
abbrev stT : State := st U

theorem test_LoadsComplete_hyps :
    ((fun (d : GReg) (a : GReg) (imm : BitVec 10) =>
      Meets (st U) U (.ldI32 d a imm) Guard.always [(rd a).w2] [d]
      (fun c s l x => chkThen (s.loadCheck c l (x.v 0 + imm.signExtend 64) 4) fun s segs =>
        (s, .ok (x.v 0 + imm.signExtend 64, segs)))
      (fun c s l b => s.sendLoad c l b.2 (.regs (physRegs c.rrb d 1) 4 false) none false false b.1))
      20 8 0x1F8) ∧
    ((fun (g : Guard) (z : Size) (sx : Bool) (acq : Bool) (lease : BitVec 3) (d : GReg) (m : MemArg) =>
      Meets (st U) U (.ldQ64 g z sx acq lease d m) g [m.base.w2] (dstSz z d)
      (fun c s l x => chkThen (s.loadCheck c l (x.v 0 + m.off.signExtend 64) z.bytes) fun s segs =>
        (s, .ok (x.v 0 + m.off.signExtend 64, segs)))
      (fun c s l b => s.sendLoad c l b.2 (.regs (physRegs c.rrb d ((z.bytes + 3) / 4)) z.bytes sx) (some lease.toNat) acq
        (m.scope == .sys) b.1))
      al .b8 true true 7 20 ⟨.dev, .g 10 .wait, 16⟩) ∧
    ((fun (g : Guard) (z : Size) (sx : Bool) (lease : BitVec 3) (d : GReg) (m : MemArg) =>
      Meets (st U) U (.ldw g z sx lease d m) g [m.base.w2] (dstSz z d)
      (fun c s l x => chkThen (s.watchedCheck c l (x.v 0 + m.off.signExtend 64) z.bytes) fun s segs =>
        (s, .ok (x.v 0 + m.off.signExtend 64, segs)))
      (fun c s l b => s.sendWatched c l b.2 z.bytes sx d lease b.1))
      al .b8 true 7 20 ⟨.dev, .g 10 .wait, 16⟩) ∧
    ((fun (i : Instr) (va : DWord) => i = .ldu al .b8 true true 7 31 ⟨.sys, .g 10 .wait, 16⟩ ∧ Issues i al (st U) (ctx U i) ∧
      (st U).sregBusy 7 false 31 = false ∧ (st U).ready (ctx U i) (Mask.lowest (ctx U i).act) [(rd 10).w2] [] [] = .ok ∧
      va = (ctx U i).value (Mask.lowest (ctx U i).act) (rd 10).w2 + 16 ∧
      ∃ t segs, (atIssue (st U) (ctx U i)).loadCheck (ctx U i) (Mask.lowest (ctx U i).act) va 8 = (t, .ok segs))
      (.ldu al .b8 true true 7 31 ⟨.sys, .g 10 .wait, 16⟩) 0x10050) ∧
    ((fun (g : Guard) (lease : BitVec 3) (_ : GReg) (m : MemArg) =>
      Meets (st U) U (.pref g lease m) g [m.base.w2] [] (fun _ s _ x => (s, .ok (x.v 0 + m.off.signExtend 64)))
      (fun c s l va => ({ s with nextId := s.nextId + 1 }).prefetch ⟨s.nextId, c.uid, l, c.a.place.coreId, c.a.job, c.p.priv, va,
        lease.toNat, match s.agent? c.uid with | some a => (a.lane l).ltime | none => 0⟩))
      al 7 8 ⟨.dev, .g 10 .wait, 16⟩) ∧
    ((fun (g : Guard) (d : GReg) (m : MemArg) (k : ProbeKind) =>
      Meets (st U) U (.probe g k d m) g [m.base.w2] [d, d + 1] (fun c s _ x => s.probe c k (x.v 0 + m.off.signExtend 64))
      (fun c s l v => s.fillRegs c.uid l ((physRegs c.rrb d 2).zip [lo32 v, hi32 v])))
      al 20 ⟨.dev, .g 10 .wait, 16⟩ .ld) ∧
    ((fun (g : Guard) (dev : Bool) (d : GReg) (a : GReg) (am : ReadMode) =>
      Meets (st V) V (.tinv g dev d a am) g [(Src.g a am).w2, (rd d).w1] []
      (fun c s _ x =>
        if (match s.agent? c.uid with | some a => a.acks | none => 0) ≠ 0 then (s, .wait .order)
        else
          (s.dropTlbs (if dev then none else some c.cluster) (x.w 1).toNat (x.v 0),
            if (s.dropTlbs (if dev then none else some c.cluster) (x.w 1).toNat (x.v 0)).usedBefore
              (if dev then none else some c.cluster) (match c.p.wait with
                | some w => if w.kind = .inval then w.start else s.nextId
                | none => s.nextId) then .wait .inval else .ok ()))
      (fun _ s _ _ => s))
      al true 20 8 .consume) := by
  refine ⟨?_, ?_, ?_, ?_, ?_, ?_, ?_⟩
  all_goals
    repeat' first
      | exact fun _ h => (List.not_mem_nil h).elim
      | refine List.forall_mem_cons.2 ⟨?_, ?_⟩
  all_goals first | exact meets (canV _ rfl) rfl rfl ⟨_, _, rfl⟩ | exact meets (canU _ rfl) rfl rfl ⟨_, _, rfl⟩ | exact ⟨rfl, canU _ rfl, rfl, rfl, rfl, _, _, rfl⟩

theorem test_StoresComplete_hyps :
    ((fun (e : GReg) (a : GReg) (imm : BitVec 10) =>
      Meets (st U) U (.stI32 e a imm) Guard.always [(rd a).w2, ⟨rd e, 1, true⟩] []
      (fun c s l x => chkThen (s.storeCheck c l (x.v 0 + imm.signExtend 64) 4 false .dev) fun s segs =>
        (s, .ok (x.v 0 + imm.signExtend 64, segs, toBytes 4 (x.v 1).toNat, c.opndBad l ⟨rd e, 1, true⟩)))
      (fun c s l b => s.sendStore c l b.2.1 b.2.2.1 none false b.2.2.2 b.1))
      20 8 0x1F8) ∧
    ((fun (g : Guard) (z : Size) (rel : Bool) (lease : BitVec 3) (d : Src) (m : MemArg) =>
      Meets (st U) U (.stQ64 g z rel lease d m) g (m.base.w2 :: dataOps z d) []
      (fun c s l x => chkThen (s.storeCheck c l (x.v 0 + m.off.signExtend 64) z.bytes rel m.scope) fun s segs =>
        (s, .ok (x.v 0 + m.off.signExtend 64, segs, storeBytes z x, (dataOps z d).any (c.opndBad l))))
      (fun c s l b => s.sendStore c l b.2.1 b.2.2.1 (some lease.toNat) rel b.2.2.2 b.1))
      al .b8 true 7 (.g 4 .test) ⟨.sys, .g 10 .wait, 16⟩) ∧
    ((fun (g : Guard) (w64 : Bool) (e : GReg) (m : MemArg) (op : AtomOp) (ord : Ord4) (v : Src) (k : Src) =>
      Meets (st U) U (.atom g op w64 ord e m v k) g
      ([m.base.w2, if w64 then v.w2 else v.w1] ++ (if op = .cas then [if w64 then k.w2 else k.w1] else [])) (dstW w64 e)
      (fun c s l x => chkThen (s.atomCheck c l (x.v 0 + m.off.signExtend 64) (if w64 then 8 else 4) ord.isRel m.scope true)
        fun s segs => (s, .ok (x.v 0 + m.off.signExtend 64, segs, x.v 1, x.v 2)))
      (fun c s l b => s.sendAtomic c l b.2.1 ⟨0, if w64 then 8 else 4, AtomOp.eop op, b.2.2.1, b.2.2.2, none⟩
        (.regs (physRegs c.rrb e (if w64 then 2 else 1)) (if w64 then 8 else 4) false) ord.isRel ord.isAcq
        (m.scope == .sys) b.1))
      al true 20 ⟨.sys, .g 10 .wait, 16⟩ .cas .ar (.g 4 .wait) (.s 28)) ∧
    ((fun (g : Guard) (rel : Bool) (d : Src) (m : MemArg) (rop : RedOp) (t : RedTy) =>
      Meets (st U) U (.red g rop t rel d m) g [m.base.w2, ⟨d, if t.bytes = 8 then 2 else 1, true⟩] []
      (fun c s l x => chkThen (s.atomCheck c l (x.v 0 + m.off.signExtend 64) t.bytes rel m.scope false) fun s segs =>
        (s, .ok (x.v 0 + m.off.signExtend 64, segs, x.v 1, c.opndBad l ⟨d, if t.bytes = 8 then 2 else 1, true⟩, s.nextId)))
      (fun c s l b => s.sendRed c l b.2.1 ⟨0, t.bytes, redEop rop t, b.2.2.1, 0, some t⟩ rel b.2.2.2.1 b.1 b.2.2.2.2))
      al true (.g 4 .test) ⟨.sys, .g 10 .wait, 16⟩ .max .i64) := by
  refine ⟨?_, ?_, ?_, ?_⟩
  all_goals
    repeat' first
      | exact fun _ h => (List.not_mem_nil h).elim
      | refine List.forall_mem_cons.2 ⟨?_, ?_⟩
  all_goals first | exact meets (can stT U _ al rfl rfl rfl rfl (by decide) rfl) rfl rfl ⟨_, _, rfl⟩ | exact meets (canV _ rfl) rfl rfl ⟨_, _, rfl⟩ | exact meets (canU _ rfl) rfl rfl ⟨_, _, rfl⟩

theorem test_LocalFormsComplete_hyps :
    ((fun (g : Guard) (rel : Bool) (w64 : Bool) (d : Src) (m : MemArg) =>
      Meets (st U) U (.setf g w64 rel d m) g [m.base.w2, ⟨d, if w64 then 2 else 1, true⟩] []
      (fun c s l x => chkThen (s.localCheck c (x.v 0 + m.off.signExtend 64) (if w64 then 8 else 4)) fun s segs =>
        chkThen (s.poisonCheck c segs (x.v 0 + m.off.signExtend 64)) fun s segs =>
          chkThen (s.writeCheck c l rel m.scope segs) fun s segs => chkThen (s.ackedCheck c rel) fun s _ =>
            (s, .ok (x.v 0 + m.off.signExtend 64, segs, x.v 1, c.opndBad l ⟨d, if w64 then 2 else 1, true⟩)))
      (fun c s l b => s.sendLocal c l b.2.1 (.setf w64 b.2.2.1) .none rel b.2.2.2 b.1))
      al true true (.g 12 .test) ⟨.thr, .g 8 .wait, 16⟩) ∧
    ((fun (g : Guard) (w64 : Bool) (m : MemArg) =>
      Meets (st U) U (.clrf g w64 m) g [m.base.w2] []
      (fun c s l x => chkThen (s.localCheck c (x.v 0 + m.off.signExtend 64) (if w64 then 8 else 4)) fun s segs =>
        chkThen (s.poisonCheck c segs (x.v 0 + m.off.signExtend 64)) fun s segs =>
          chkThen (s.writeCheck c l false m.scope segs) fun s segs => (s, .ok (x.v 0 + m.off.signExtend 64, segs)))
      (fun c s l b => s.sendLocal c l b.2 (.clrf w64) .none false false b.1))
      al true ⟨.thr, .g 8 .wait, 16⟩) ∧
    ((fun (g : Guard) (d : Src) (m : MemArg) =>
      Meets (st U) U (.barinit g d m) g [m.base.w2, d.w1] []
      (fun c s l x => chkThen (s.barCheck c l (x.v 0 + m.off.signExtend 64) false m.scope) fun s segs =>
        (s, if 2 ^ 20 ≤ (x.w 1).toNat then .fault 0x46 0 0 else .ok (x.v 0 + m.off.signExtend 64, segs, (x.w 1).toNat)))
      (fun c s l b => s.sendLocal c l b.2.1 (.bar (.init b.2.2)) .none false false b.1))
      al (.g 12 .test) ⟨.thr, .g 8 .wait, 16⟩) ∧
    ((fun (g : Guard) (rel : Bool) (e : GReg) (m : MemArg) =>
      Meets (st U) U (.bararr g rel e m) g [m.base.w2] [e]
      (fun c s l x => chkThen (s.barCheck c l (x.v 0 + m.off.signExtend 64) rel m.scope) fun s segs =>
        (s, .ok (x.v 0 + m.off.signExtend 64, segs)))
      (fun c s l b => s.sendLocal c l b.2 (.bar .arrive) (.regs (physRegs c.rrb e 1) 4 false) rel false b.1))
      al true 8 ⟨.thr, .g 8 .wait, 16⟩) ∧
    ((fun (g : Guard) (rel : Bool) (d : Src) (dir : BarDir) (sc : Scope) (b : Src) (off : BitVec 14) =>
      Meets (st U) U (.barexp g dir rel d sc b off) g [b.w2, d.w1] []
      (fun c s l x => chkThen (s.barCheck c l (x.v 0 + 4 * off.signExtend 64) rel sc) fun s segs =>
        (s, .ok (x.v 0 + 4 * off.signExtend 64, segs, (x.w 1).toInt)))
      (fun c s l b => s.sendLocal c l b.2.1 (.bar (.expect (dir != .outb) (dir != .inb) b.2.2)) .none rel false b.1))
      al true (.g 12 .test) .both .thr (.g 8 .wait) 4) ∧
    ((fun (g : Guard) (rel : Bool) (m : MemArg) =>
      Meets (st U) U (.depdec g rel m) g [m.base.w2] []
      (fun c s l x => chkThen (s.recordCheck c (x.v 0 + m.off.signExtend 64)) fun s segs =>
        chkThen (s.poisonCheck c (segs.map Seg.countWords) (x.v 0 + m.off.signExtend 64 + 8)) fun s _ =>
          chkThen (s.writeCheck c l rel m.scope segs) fun s segs =>
            (s, if s.decRoom c segs then .ok (x.v 0 + m.off.signExtend 64, segs) else .wait .order))
      (fun c s l b => s.sendDec c l b.2 rel (m.scope == .sys) b.1))
      al true ⟨.thr, .g 8 .wait, 32⟩) ∧
    ((fun (g : Guard) (sc : Scope) (kind : FenceKind) (ord : Ord4) =>
      Meets (st U) U (.fence g kind ord sc) g [] []
      (fun c s l _ =>
        chkThen (if ord.isRel then s.watchLost c l else (s, .ok ())) fun s _ =>
          chkThen (s.lostCheck c (kind != .ld)) fun s _ =>
            ((s.fenceWaits c kind sc).1, if (s.fenceWaits c kind sc).2 then .ok () else .wait .order))
      (fun c s _ _ => s.fenced c ord sc))
      al .thr .all .ar) ∧
    (Meets (st U) U .drain Guard.always [] [] (fun c s l _ => s.releaseCheck c l .dev) (fun _ s _ _ => s)) ∧
    ((fun (e : GReg) =>
      Meets (st U) U (.drainArrive e) Guard.always [(rd e).w2] []
      (fun c s l x => chkThen (s.releaseCheck c l .dev) fun s _ =>
        chkThen (s.barCheck c l (x.v 0) false .thr) fun s segs => (s, .ok (x.v 0, segs)))
      (fun c s l b => s.sendLocal c l b.2 (.bar .arrive) .none true false b.1))
      8) := by
  refine ⟨?_, ?_, ?_, ?_, ?_, ?_, ?_, ?_, ?_⟩
  all_goals
    repeat' first
      | exact fun _ h => (List.not_mem_nil h).elim
      | refine List.forall_mem_cons.2 ⟨?_, ?_⟩
  all_goals first | exact meets (can stT U _ al rfl rfl rfl rfl (by decide) rfl) rfl rfl ⟨_, _, rfl⟩ | exact meets (canV _ rfl) rfl rfl ⟨_, _, rfl⟩ | exact meets (canU _ rfl) rfl rfl ⟨_, _, rfl⟩

theorem test_ProducersComplete_hyps :
    ((fun (g : Guard) (t : ITy) (d : GReg) (x : Src) (y : Src) =>
      (∀ e ∈ [(Instr.div g t d x y, false), (.rem g t d x y, true)],
      Meets (st U) U e.1 g [x.wT t, y.wT t] (dstT t d) (fun _ s _ i => (s, .ok (divR e.2 t (i.v 0) (i.v 1))))
        (fun c s l v => s.produce c l (physRegs c.rrb d (if t.is64 then 2 else 1))
          (.value v (physRegs c.rrb d (if t.is64 then 2 else 1))))))
      al .i64 20 (.g 8 .wait) (.g 8 .wait)) ∧
    ((fun (g : Guard) (k : KeyTy) (bot : Bool) (d : GReg) (x : Src) (y : Src) (kk : BitVec 6) =>
      Meets (st U) U (.hsift g k bot kk d x y) g [x.w2, y.w2] [d, d + 1]
      (fun c s _ i => chkThen (s.acqCheck c.uid) fun s _ =>
        match heapAt c (i.v 0) (8 * kk.toNat) with
        | .error e => (s, .fault e.1 e.2 0)
        | .ok off =>
          match s.lbad c.a.place.coreId off (8 * kk.toNat) with
          | some o => (s, .fault 0x26 (i.v 0 + BitVec.ofNat 64 (o - off)) 1)
          | none => (s, if s.loadsBound c.uid s.nextId && !s.decBusy c.who then .ok (off, i.v 1) else .wait .order))
      (fun c s l r => s.produce c l (physRegs c.rrb d 2)
        (.hsift k bot kk.toNat r.1 (lo32 r.2) (hi32 r.2) (physRegs c.rrb d 2))))
      al .f32 true 20 (.g 8 .wait) (.g 8 .wait) 3) ∧
    ((fun (g : Guard) (k : KeyTy) (lt : Bool) (d : GReg) (x : Src) (y : Src) (mm : BitVec 8) (lease : BitVec 3) =>
      Meets (st U) U (.bins g k lt mm lease d x y) g [x.w1, y.w2] [d]
      (fun c s l i => chkThen (State.binsCheck c l mm.toNat s (i.v 1)) fun s r => (s, .ok (i.w 0, r)))
      (fun c s l r =>
        let dst : Dest := .regs (physRegs c.rrb d 1) 4 false
        let s := ((s.touch c.uid l).1).pendDest c.uid l dst
        let q := r.2.foldl (fun (q : State × List Piece) y =>
          let e := q.1.elemPieces c l s.nextId q.2.length y.2 (some lease.toNat) y.1
          (e.1, q.2 ++ e.2)) ({ s with nextId := s.nextId + 1 }, [])
        { q.1 with loads := q.1.loads ++ [(⟨s.nextId, c.uid, l, .bins k lt r.1, dst, q.2, false, false, 0, false⟩ : Load)] }.presentAll
          s.nextId))
      al .f32 true 20 (.g 8 .wait) (.g 8 .wait) 2 7) ∧
    ((fun (g : Guard) (d : GReg) (x : Src) (y : Src) (lease : BitVec 3) (n : BitVec 16) =>
      Meets stT U (.twalk g lease n d x y) g [x.w2, y.w2] [d, d + 1]
      (fun c s l i => chkThen (s.acqCheck c.uid) fun s _ =>
        State.walkCheck c l (i.v 0) (i.v 1) n.toNat lease.toNat (2 * n.toNat + 2) (s.openWalk c l))
      (fun c s l r =>
        let dst : Dest := .regs (physRegs c.rrb d 2) 8 false
        { s.pendDest c.uid l dst with
          loads := s.loads ++ [⟨s.nextId, c.uid, l, .plain, dst,
            [⟨0, 0, 8, some (toBytes 4 r.1.toNat ++ toBytes 4 r.2, false), false, 0⟩], false, false, 0, false⟩]
          nextId := s.nextId + 1 }))
      al 20 (.g 8 .wait) (.g 8 .wait) 7 2) := by
  refine ⟨?_, ?_, ?_, ?_⟩
  all_goals
    repeat' first
      | exact fun _ h => (List.not_mem_nil h).elim
      | refine List.forall_mem_cons.2 ⟨?_, ?_⟩
  all_goals first | exact meets (can stT U _ al rfl rfl rfl rfl (by decide) rfl) rfl rfl ⟨_, _, rfl⟩ | exact meets (canV _ rfl) rfl rfl ⟨_, _, rfl⟩ | exact meets (canU _ rfl) rfl rfl ⟨_, _, rfl⟩

/-! ### Control -/

/-- A branch, or another form that the guard does not mask, issues. -/
theorem canB (s : State) (a : Agent) (i : Instr) (g : Guard) (h1 : s.focused = some (a, pathOf a, false)) (h2 : preCheck a (pathOf a) i = none)
    (h3 : (ctx a i).badGuards g = []) : Branches i g s (ctx a i) := ⟨h1, rfl, rfl, h2, rfl, h3⟩
/-- A loop from `0x10000` to `0x10040`. -/
def loop1 : Loop := ⟨0x10000, 0x10040, false, 0, 3⟩
/-- The unit in a loop. -/
def UL : Agent := { U with loops := [loop1] }
/-- The unit with four levels. -/
def UL4 : Agent := { U with loops := [loop1, loop1, loop1, loop1] }
/-- The unit in a frozen loop, with a link to `0x10020` that unfreezes it. -/
def UR : Agent := { U with
  loops := [{ loop1 with frz := true }]
  lanes := [{ lane0 with g := (lane0.g.set 62 0x10020).set 63 0x10000000 }] }
/-- A warp whose lane 0 alone is struck and has `p1`, in two-valued divergence. -/
def warp2 : Agent := { warp with lanes := { lane0 with p := 2, struck := true, g := lane0.g.set 14 0x20000 } :: List.replicate 31 lane0 }
/-- The same with DIVOK. -/
def warp3 : Agent := { warp2 with thctl := 1 }
/-- The same in a loop. -/
def warp4 : Agent := { warp2 with loops := [loop1] }
/-- A warp of two paths. -/
def warp5 : Agent := { warp2 with slotA := some { pathOf warp2 with mask := 1 }, slotB := some { pathOf warp2 with mask := 2 } }

theorem test_BranchesComplete_hyps :
    Branches (.brJ32 0x1FFFFF) al (st U) (ctx U (.brJ32 0x1FFFFF)) ∧ U.outOfRange false 0x80FFFC = false ∧
    Branches (.brX96 4) al (st UL) (ctx UL (.brX96 4)) ∧ UL.outOfRange false 0x10010 = false ∧
    Branches (.brX96 16) al (st UL) (ctx UL (.brX96 16)) ∧ UL.outOfRange false 0x10040 = true := by
  refine ⟨canB _ _ _ _ rfl rfl rfl, ?_, canB _ _ _ _ rfl rfl rfl, ?_, canB _ _ _ _ rfl rfl rfl, ?_⟩ <;> decide

theorem test_BranchesComplete_conditional_hyps :
    (∀ e ∈ [(Instr.brc ⟨1, false⟩ 8 16, (⟨1, false⟩ : Guard)), (.chk 8, al), (.bru ⟨1, false⟩ 8, ⟨1, false⟩)],
      (st U).watchesHeld 7 1 = false ∧ (st warp2).watchesHeld 7 0xFFFFFFFF = false ∧
      Branches e.1 e.2 (st U) (ctx U e.1) ∧ (U.atEnd false (ctx U e.1).npc && U.diverged false) = false ∧
      Branches e.1 e.2 (st warp2) (ctx warp2 e.1) ∧ warp2.atEnd false (ctx warp2 e.1).npc = false) ∧
    (Mask.filter (pathOf U).mask fun l => guardOn U (pathOf U) l ⟨1, false⟩) = 0 ∧
    (Mask.filter (pathOf U).mask fun l => (U.lane l).struck) = 0 ∧
    (Mask.filter (pathOf U).mask fun l => guardOn U (pathOf U) l ⟨1, true⟩) = (pathOf U).mask ∧
    (Mask.filter 1 fun l => (warp5.lane l).struck) = (pathOf warp5).mask ∧
    (Mask.filter (pathOf warp2).mask fun l => guardOn warp2 (pathOf warp2) l ⟨1, false⟩) = 1 ∧
    (Mask.filter (pathOf warp2).mask fun l => (warp2.lane l).struck) = 1 ∧
    (Mask.filter (pathOf warp2).mask fun l => guardOn warp2 (pathOf warp2) l ⟨1, true⟩).getLsbD (Mask.lowest (pathOf warp2).mask) = false ∧
    (pathOf warp2).mask = 0xFFFFFFFF ∧ warp2.room false = 33 ∧ warp2.outOfRange false 0x10020 = false ∧
    warp2.thctl.getLsbD 0 = false ∧ warp3.thctl.getLsbD 0 = true ∧
    Branches (.bru ⟨1, false⟩ 8) ⟨1, false⟩ (st warp3) (ctx warp3 (.bru ⟨1, false⟩ 8)) ∧
    Branches (.bru ⟨1, true⟩ 8) ⟨1, true⟩ (st warp3) (ctx warp3 (.bru ⟨1, true⟩ 8)) ∧
    Branches (.chk 8) al (st warp5) (ctx warp5 (.chk 8)) := by
  refine ⟨?_, by decide, by decide, by decide, by decide, by decide, by decide, by decide, by decide, by decide, by decide, by decide,
    by decide, canB _ _ _ _ rfl rfl (by decide), canB _ _ _ _ rfl rfl (by decide), canB _ _ _ _ rfl rfl (by decide)⟩
  repeat' first
    | exact fun _ h => (List.not_mem_nil h).elim
    | refine List.forall_mem_cons.2 ⟨⟨by decide, by decide, canB _ _ _ _ rfl rfl (by decide), by decide,
        canB _ _ _ _ rfl rfl (by decide), by decide⟩, ?_⟩

/-- A warp whose lanes hold targets in `g14:g15`: `0x20000` in lane 0, `0x30000` in the others. -/
def warpT : Agent := { warp with
  lanes := { lane0 with g := lane0.g.set 14 0x20000 } :: List.replicate 31 { lane0 with g := lane0.g.set 14 0x30000 } }
/-- A unit whose `g14:g15` is a target. -/
def UT : Agent := { U with lanes := [{ lane0 with g := lane0.g.set 14 0x20000 }] }

theorem readsOne (s : State) (a : Agent) (i : Instr) {os ps ds} (h : (ctx a i).act = 1) (h2 : s.ready (ctx a i) 0 os ps ds = .ok) :
    Reads s (ctx a i) os ps ds := fun l hl => by rw [h, list1] at hl; rw [List.mem_singleton.1 hl]; exact h2

theorem test_CallsComplete_hyps :
    (∀ e ∈ [Instr.callJ32 16, .callX96 0x80000000], Branches e al (st UL) (ctx UL e) ∧ Reads (st UL) (ctx UL e) [] [] [62, 63]) ∧
    (Branches (.calli 14) al (st UT) (ctx UT (.calli 14)) ∧ Reads (st UT) (ctx UT (.calli 14)) [(rd 14).w2] [] [62, 63] ∧
      (∀ l ∈ Mask.list (pathOf UT).mask, targetOk ((ctx UT (.calli 14)).value l (rd 14).w2) = true) ∧
      Mask.ofList ((Mask.list (pathOf UT).mask).filter fun l => (ctx UT (.calli 14)).value l (rd 14).w2 == 0x20000) =
        (pathOf UT).mask) ∧
    (Branches (.calli 14) al (st warpT) (ctx warpT (.calli 14)) ∧
      Reads (st warpT) (ctx warpT (.calli 14)) [(rd 14).w2] [] [62, 63] ∧
      (∀ l ∈ Mask.list (pathOf warpT).mask, targetOk ((ctx warpT (.calli 14)).value l (rd 14).w2) = true) ∧
      (ctx warpT (.calli 14)).value (Mask.lowest (pathOf warpT).mask) (rd 14).w2 = 0x20000 ∧
      Mask.ofList ((Mask.list (pathOf warpT).mask).filter fun l => (ctx warpT (.calli 14)).value l (rd 14).w2 == 0x20000) = 1 ∧
      (pathOf warpT).mask &&& ~~~(1 : Mask) ≠ 0 ∧ warpT.room false ≠ 0) ∧
    (Branches (.calliTail 14) al (st UT) (ctx UT (.calliTail 14)) ∧ Reads (st UT) (ctx UT (.calliTail 14)) [(rd 14).w2] [] [] ∧
      UT.unfrozen false = 0 ∧ (∀ l ∈ Mask.list (pathOf UT).mask, (ctx UT (.calliTail 14)).value l (rd 14).w2 = 0x20000)) ∧
    (UL4.loopsOf false).length ≤ 4 := by
  refine ⟨?_, ⟨canB _ _ _ _ rfl rfl rfl, readsOne _ _ _ rfl rfl, by decide, by decide⟩,
    ⟨canB _ _ _ _ rfl rfl (by decide), fun l h => ?_, by decide, by decide, by decide, by decide, by decide⟩,
    ⟨canB _ _ _ _ rfl rfl rfl, readsOne _ _ _ rfl rfl, rfl, by decide⟩, by decide⟩
  · repeat' first
      | exact fun _ h => (List.not_mem_nil h).elim
      | refine List.forall_mem_cons.2 ⟨⟨canB _ _ _ _ rfl rfl rfl, readsOne _ _ _ rfl rfl⟩, ?_⟩
  · revert l; decide

theorem test_ReturnsComplete_hyps :
    (Branches .ret al (st UR) (ctx UR .ret) ∧ Reads (st UR) (ctx UR .ret) [(rd 62).w2] [] [] ∧
      (∀ l ∈ Mask.list (pathOf UR).mask, badLink UR false (link (ctx UR .ret) l) = false ∧
        (linkAddr (link (ctx UR .ret) l)).extractLsb' 0 2 = 0) ∧
      UR.wide = false ∧ (pathOf UR).mask = 1 ∧ link (ctx UR .ret) 0 = 0x1000000000010020 ∧
      (UR.setLoops false 0 (unfreeze 1 (UR.loopsOf false))).atEnd false (linkAddr 0x1000000000010020) = false ∧
      (pathOf UR).joins = []) ∧
    (Branches .ret al (st UL) (ctx UL .ret) ∧ Reads (st UL) (ctx UL .ret) [(rd 62).w2] [] [] ∧
      (∀ l ∈ Mask.list (pathOf UL).mask, badLink UL false (link (ctx UL .ret) l) = true) ∧ (pathOf UL).mask ≠ 0) := by
  refine ⟨⟨canB _ _ _ _ rfl rfl rfl, readsOne _ _ _ rfl rfl, by decide, rfl, rfl, by decide, by decide, rfl⟩,
    canB _ _ _ _ rfl rfl rfl, readsOne _ _ _ rfl rfl, by decide, by decide⟩

/-- What a loop instruction needs, with its count `k` and its END. -/
def Begins (a : Agent) (n : Src) (off : BitVec 16) (k : Word) (stop : DWord) : Prop :=
  ∀ i ∈ [Instr.loop n off, .loopr 7 n off], Branches i al (st a) (ctx a i) ∧
    (st a).ready (ctx a i) (Mask.lowest (ctx a i).act) [n.w1] [] [] = .ok ∧
    k = lo32 ((ctx a i).value (Mask.lowest (ctx a i).act) n.w1) ∧ stop = (ctx a i).p.pc + 4 * off.setWidth 64

theorem begins {a : Agent} {n off k stop} (h1 : (st a).focused = some (a, pathOf a, false))
    (h2 : ∀ i ∈ [Instr.loop n off, .loopr 7 n off], preCheck a (pathOf a) i = none ∧ (ctx a i).badGuards al = [] ∧
      (st a).ready (ctx a i) (Mask.lowest (ctx a i).act) [n.w1] [] [] = .ok ∧
      k = lo32 ((ctx a i).value (Mask.lowest (ctx a i).act) n.w1) ∧ stop = (ctx a i).p.pc + 4 * off.setWidth 64) :
    Begins a n off k stop := fun i hi => ⟨canB _ _ _ _ h1 (h2 i hi).1 (h2 i hi).2.1, (h2 i hi).2.2⟩

theorem test_LoopsBegin_hyps :
    (Begins UL4 (.g 4 .wait) 0xFFFF 5 0x4FFFC ∧ 4 ≤ (UL4.loopsOf false).length) ∧
    (Begins U (.g 4 .wait) 2 5 0x10008 ∧ (U.loopsOf false).length < 4 ∧
      ∀ i ∈ [Instr.loop (.g 4 .wait) 2, .loopr 7 (.g 4 .wait) 2], (0x10008 : DWord).toNat ≤ (ctx U i).npc.toNat) ∧
    (Begins UL (.g 4 .wait) 16 5 0x10040 ∧ UL.diverged false = false ∧ (UL.loopsOf false).length < 4 ∧ (5 : Word) ≠ 0 ∧
      (∀ lp, UL.curLoop false = some lp → (0x10040 : DWord).toNat ≤ lp.stop.toNat) ∧
      ∀ i ∈ [Instr.loop (.g 4 .wait) 16, .loopr 7 (.g 4 .wait) 16], (ctx UL i).npc.toNat < (0x10040 : DWord).toNat) ∧
    (Begins U (.g 6 .wait) 3 0 0x1000C ∧ U.diverged false = false ∧ (U.loopsOf false).length < 4 ∧
      ∀ i ∈ [Instr.loop (.g 6 .wait) 3, .loopr 7 (.g 6 .wait) 3], (ctx U i).npc.toNat < (0x1000C : DWord).toNat) ∧
    (Begins warp5 (.g 4 .wait) 16 5 0x10040 ∧ warp5.diverged false = true ∧ (warp5.loopsOf false).length < 4 ∧
      ∀ i ∈ [Instr.loop (.g 4 .wait) 16, .loopr 7 (.g 4 .wait) 16], (ctx warp5 i).npc.toNat < (0x10040 : DWord).toNat) := by
  refine ⟨⟨begins rfl (by decide), by decide⟩, ⟨begins rfl (by decide), by decide, by decide⟩,
    ⟨begins rfl (by decide), rfl, by decide, by decide, ?_, by decide⟩, ⟨begins rfl (by decide), rfl, by decide, by decide⟩,
    ⟨begins rfl (by decide), by decide, by decide, by decide⟩⟩
  intro lp h
  have : UL.curLoop false = some loop1 := rfl
  rw [this] at h; cases h; decide

theorem test_LoopsEnd_hyps :
    UL.curLoop false = some loop1 ∧ warp4.curLoop false = some loop1 ∧ UL.wide = false ∧ warp4.wide = true ∧
    (UL.atEnd false (ctx UL (.brkd ⟨1, false⟩ 16)).npc && UL.diverged false) = false ∧
    warp4.atEnd false (ctx warp4 (.brkd ⟨1, false⟩ 16)).npc = false ∧ warp4.room false ≠ 0 ∧
    (pathOf UL).pc + 4 * (16 : BitVec 16).signExtend 64 = loop1.stop ∧ (pathOf UL).pc + 4 * (15 : BitVec 16).signExtend 64 ≠ loop1.stop ∧
    Branches .brk al (st UL) (ctx UL .brk) ∧ Branches .brk al (st warp4) (ctx warp4 .brk) ∧
    (∀ g ∈ [(⟨1, false⟩ : Guard), ⟨1, true⟩, al], Branches (.brkd g 16) g (st UL) (ctx UL (.brkd g 16)) ∧
      Branches (.brkd g 16) g (st warp4) (ctx warp4 (.brkd g 16))) ∧
    (Mask.filter (pathOf UL).mask fun l => guardOn UL (pathOf UL) l ⟨1, false⟩) = 0 ∧
    (Mask.filter (pathOf UL).mask fun l => guardOn UL (pathOf UL) l ⟨1, true⟩) ≠ 0 ∧
    (Mask.filter (pathOf warp4).mask fun l => guardOn warp4 (pathOf warp4) l ⟨1, false⟩) = 1 ∧
    (pathOf warp4).mask &&& ~~~(Mask.filter (pathOf warp4).mask fun l => guardOn warp4 (pathOf warp4) l al) = 0 ∧
    Branches (.brkd ⟨1, false⟩ 15) ⟨1, false⟩ (st UL) (ctx UL (.brkd ⟨1, false⟩ 15)) := by
  refine ⟨rfl, rfl, rfl, rfl, by decide, by decide, by decide, by decide, by decide, canB _ _ _ _ rfl rfl rfl,
    canB _ _ _ _ rfl rfl (by decide), ?_, by decide, by decide, by decide, by decide, canB _ _ _ _ rfl rfl (by decide)⟩
  repeat' first
    | exact fun _ h => (List.not_mem_nil h).elim
    | refine List.forall_mem_cons.2 ⟨⟨canB _ _ _ _ rfl rfl (by decide), canB _ _ _ _ rfl rfl (by decide)⟩, ?_⟩

/-- A unit of level state to restore, with 4 levels of 8 stages. -/
theorem test_LoopImages_levels : [loop1, loop1, loop1, { loop1 with stages := 8 }].length ≤ 4 ∧
    ∀ l ∈ [loop1, loop1, loop1, { loop1 with stages := 8 }], l.stages.toNat ≤ 8 := by decide

theorem test_TrapsAndStops_hyps :
    (Issues (.trap 0xFF 4) al (st UL) (ctx UL (.trap 0xFF 4)) ∧ Reads (st UL) (ctx UL (.trap 0xFF 4)) [(rd 4).w1] [] [] ∧
      (ctx UL (.trap 0xFF 4)).act = (pathOf UL).mask ∧
      (UL.wide && !(pathOf UL).act && !UL.leaves && UL.otherAct false) = false ∧
      ∃ a, ((Mask.list (pathOf UL).mask).foldl (fun s l => s.consumeOps (ctx UL (.trap 0xFF 4)) l [(rd 4).w1])
        (atIssue (st UL) (ctx UL (.trap 0xFF 4)))).agent? 7 = some a) ∧
    Branches .eret al (st V) (ctx V .eret) ∧ Issues .nop al (st U) (ctx U .nop) ∧ Issues .halt al (st F) (ctx F .halt) ∧
    Issues .isync al (st U) (ctx U .isync) ∧ U.acks = 0 ∧ (st U).focused = some (U, pathOf U, false) := by
  refine ⟨⟨can _ UL _ al rfl rfl rfl rfl (by decide) rfl, readsOne _ _ _ rfl rfl, rfl, by decide, ?_⟩, canB _ _ _ _ rfl rfl rfl,
    canU _ rfl, canF _ rfl, canU _ rfl, rfl, rfl⟩
  have h : (Mask.list (pathOf UL).mask) = [0] := by decide
  rw [h]; exact ⟨_, rfl⟩

theorem test_LoopImages_hyps :
    ((fun (g : Guard) (lease : BitVec 3) (m : MemArg) =>
      MeetsOnce (st U) U (.lsave g lease m) g [m.base.w2] []
      (fun c s l x => if (x.v 0 + m.off.signExtend 64).toNat % 64 ≠ 0 then (s, .fault 0x24 (x.v 0 + m.off.signExtend 64) 0)
        else chkThen (s.placeCheck c { need := .wr, align := 64 } (x.v 0 + m.off.signExtend 64) 128) fun s segs =>
        if c.a.diverged c.p.act then (s, .fault 0x1C 0 0)
        else chkThen (s.writeCheck c l false m.scope segs) fun s segs => (s, .ok (x.v 0 + m.off.signExtend 64, segs)))
      (fun c s l b => (s.sendStore c l b.2 (loopImage (c.a.loopsOf c.p.act) c.rrb (c.a.lane l).p8to15) (some lease.toNat) false
        false b.1).updAgent c.uid fun a => a.setLoops c.p.act 0 []))
      al 7 ⟨.dev, .g 8 .wait, 64⟩) ∧
    ((fun (g : Guard) (lease : BitVec 3) (m : MemArg) =>
      MeetsOnce (st U) U (.lrest g lease m) g [m.base.w2] []
      (fun c s l x =>
        chkThen (if (x.v 0 + m.off.signExtend 64).toNat % 64 ≠ 0 then (s, .fault 0x24 (x.v 0 + m.off.signExtend 64) 0)
          else if (s.walkOf c.uid l).isSome then (s, .ok ())
          else chkThen (s.placeCheck c { need := .rd, align := 64 } (x.v 0 + m.off.signExtend 64) 128) fun s _ =>
            (s, if c.a.diverged c.p.act then .fault 0x1C 0 0 else .ok ())) fun s _ =>
          chkThen (s.heldRead c l 64 (x.v 0 + m.off.signExtend 64) 128 (some lease.toNat)) fun s bs =>
            match loopOfImage bs with
            | none => (s, .fault 0x19 0 0)
            | some r => (s, .ok r))
      (fun c s _ r => s.updAgent c.uid fun a =>
        { a.setLoops c.p.act r.2.1 r.1 with
          lanes := a.lanes.map fun ln => { ln with p := r.2.2 ++ ln.p.extractLsb' 0 8, pbad := ln.pbad &&& 0x00FF } }))
      al 7 ⟨.dev, .g 8 .wait, 64⟩) := by
  refine ⟨?_, ?_⟩
  all_goals
    repeat' first
      | exact fun _ h => (List.not_mem_nil h).elim
      | refine List.forall_mem_cons.2 ⟨?_, ?_⟩
  all_goals first | exact meetsOnce (canU _ rfl) (by decide) rfl ⟨_, _, rfl⟩ | exact meetsOnce (canV _ rfl) (by decide) rfl ⟨_, _, rfl⟩

/-- A witness for an instruction whose lanes may park. -/
structure MeetsParks (s : State) (a : Agent) {β : Type} (i : Instr) (g : Guard) (os : List Opnd) (ds : List GReg)
    (_kind : State → WaitKind) (check : Ctx → State → Nat → LaneIn → State × Chk β) (_attempt : Ctx → State → Nat → β → State)
    (more : Ctx → Prop) (_last : Ctx → State → State) : Prop where
  issues : Issues i g s (ctx a i)
  done : (pathOf a).done = 0
  parked : (pathOf a).parked = 0
  more : more (ctx a i)
  reads : Reads s (ctx a i) os [] ds
  pass : ∃ t bs, Pass (fun s l => check (ctx a i) s l ((ctx a i).inputs l os [])) (Mask.list (ctx a i).act) (atIssue s (ctx a i)) t bs

theorem meetsParks {s : State} {a : Agent} {β : Type} {i : Instr} {g : Guard} {os : List Opnd} {ds : List GReg} {kind : State → WaitKind}
    {check : Ctx → State → Nat → LaneIn → State × Chk β} {attempt : Ctx → State → Nat → β → State} {more : Ctx → Prop}
    {last : Ctx → State → State} (h1 : Issues i g s (ctx a i)) (h : (ctx a i).act = 1) (hd : (pathOf a).done = 0)
    (hp : (pathOf a).parked = 0) (hm : more (ctx a i)) (h2 : s.ready (ctx a i) 0 os [] ds = .ok)
    (h3 : ∃ t b, check (ctx a i) (atIssue s (ctx a i)) 0 ((ctx a i).inputs 0 os []) = (t, .ok b)) :
    MeetsParks s a i g os ds kind check attempt more last := ⟨h1, hd, hp, hm, readsOne _ _ _ h h2, by rw [h]; exact passOne h3⟩

theorem test_SyncFormsComplete_hyps :
    ((fun (g : Guard) (w64 : Bool) (acq : Bool) (d : GReg) (m : MemArg) (n : Nat) =>
      MeetsParks (st U) U (.ldf g w64 acq d m) g [m.base.w2] (dstW w64 d) (fun _ => .sync)
      (fun c s l x => s.syncCheck c l (x.v 0 + m.off.signExtend 64) (4 * n) (.ldf w64) false false m.scope)
      (fun c s l b => s.attempt c [m.base.w2] l b (.regs (physRegs c.rrb d n) (4 * n) false) false acq (m.scope == .sys))
      (fun _ => True) (fun _ s => s))
      al true true 30 ⟨.thr, .g 8 .wait, 16⟩ 2) ∧
    ((fun (g : Guard) (w64 : Bool) (acq : Bool) (d : GReg) (m : MemArg) (n : Nat) =>
      MeetsParks (st U) U (.take g w64 acq d m) g [m.base.w2] (dstW w64 d) (fun _ => .sync)
      (fun c s l x => s.syncCheck c l (x.v 0 + m.off.signExtend 64) (4 * n) (.take w64) false false m.scope)
      (fun c s l b => s.attempt c [m.base.w2] l b (.regs (physRegs c.rrb d n) (4 * n) false) false acq (m.scope == .sys))
      (fun _ => True) (fun _ s => s))
      al true true 30 ⟨.thr, .g 8 .wait, 16⟩ 2) ∧
    ((fun (g : Guard) (w64 : Bool) (rel : Bool) (v : Src) (m : MemArg) (n : Nat) =>
      MeetsParks (st U) U (.fill g w64 rel v m) g [m.base.w2, ⟨v, n, true⟩] [] (fun _ => .sync)
      (fun c s l x => s.syncCheck c l (x.v 0 + m.off.signExtend 64) (4 * n) (.fill w64 (x.v 1)) (c.opndBad l ⟨v, n, true⟩) rel
        m.scope)
      (fun c s l b => s.attempt c [m.base.w2, ⟨v, n, true⟩] l b .none rel false false) (fun _ => True) (fun _ s => s))
      al true true (.g 4 .consume) ⟨.thr, .g 8 .wait, 16⟩ 2) ∧
    ((fun (g : Guard) (acq : Bool) (v : Src) (m : MemArg) =>
      MeetsParks (st U) U (.barwait g acq v m) g [m.base.w2, v.w1] [] (fun _ => .barwait)
      (fun c s l x => s.syncCheck c l (x.v 0 + m.off.signExtend 64) 16 (.barwait ((x.w 1).toNat % 16)) false false m.scope)
      (fun c s l b => s.attempt c [m.base.w2, v.w1] l b .none false acq (m.scope == .sys)) (fun _ => True) (fun _ s => s))
      al true (.g 4 .consume) ⟨.thr, .g 8 .wait, 16⟩) := by
  refine ⟨?_, ?_, ?_, ?_⟩
  all_goals
    repeat' first
      | exact fun _ h => (List.not_mem_nil h).elim
      | refine List.forall_mem_cons.2 ⟨?_, ?_⟩
  all_goals exact meetsParks (canU _ rfl) rfl rfl rfl trivial rfl ⟨_, _, rfl⟩

theorem test_ControlRegisterForms_hyps :
    (∀ k ∈ [(0 : BitVec 12), 0x004], Issues (.mfc al k (.pair 62)) al (st U) (ctx U (.mfc al k (.pair 62))) ∧
        Reads (st U) (ctx U (.mfc al k (.pair 62))) [] [] [62, 63] ∧ Issues (.mfc al k (.word 63)) al (st U) (ctx U (.mfc al k (.word 63))) ∧
        Reads (st U) (ctx U (.mfc al k (.word 63))) [] [] [63] ∧ Issues (.mfc al k (.uni 31)) al (st U) (ctx U (.mfc al k (.uni 31))) ∧
        (st U).sregBusy 7 false 31 = false) ∧
    ((fun (g : Guard) (idx : BitVec 12) (w32 : Bool) (a : Src) =>
      Meets (st U) U (.mtc g w32 idx a) g [if w32 then a.w1 else a.w2] []
      (fun c s _ x => match cregCause idx.toNat (c.value (Mask.lowest c.act) (if w32 then a.w1 else a.w2)) with
        | some e => (s, .fault e (if e = 0x01 then wordsTval (encode (.mtc g w32 idx a)) else 0) 0)
        | none => (s, .ok (x.v 0)))
      (fun c s l v => if l = Mask.lowest c.act then (s.cregLane c.uid l idx.toNat v).cregOnce c.uid c.p.act c.p.priv idx.toNat v
        else s.cregLane c.uid l idx.toNat v))
      al 0x004 true (.s 28)) ∧
    (Issues (.role al .store) al (st warp) (ctx warp (.role al .store))) := by
  refine ⟨?_, ?_, canW _ rfl (by decide)⟩
  · intro k hk
    simp only [List.mem_cons, List.not_mem_nil, or_false] at hk
    rcases hk with rfl | rfl <;>
      exact ⟨canU _ rfl, readsOne _ _ _ rfl rfl, canU _ rfl, readsOne _ _ _ rfl rfl, canU _ rfl, rfl⟩
  · exact meets (canU _ rfl) rfl rfl ⟨_, _, rfl⟩

theorem test_CommandsIssue_hyps :
    ((fun (g : Guard) (sh : CopyShape) (q : Bool) (d : GReg) (r : GReg) (a : Src) (b : Src) (bar : Option Src3) (x : Src3) (y : Src3) (mt : BitVec 8) =>
      (∀ e ∈ [(Instr.copy g sh q d a b bar, 0, [a.w2, b.w2] ++ (bar.map fun x => x.src.w2).toList,
          fun (v : LaneIn) => CmdOp.copy (match sh with | .d1 => 1 | .d2 => 2 | .d3 => 3) (v.v 0) (v.v 1) (bar.map fun _ => v.v 2)),
        (.gather g q d a b x y, 1, [a.w2, b.w2, x.src.w2, y.src.w1],
          fun v => .gather (v.v 0) (v.v 1) (v.v 2) (v.w 3).toNat),
        (.scadd g q d a b x y, 1, [a.w2, b.w2, x.src.w2, y.src.w1],
          fun v => .scadd (v.v 0) (v.v 1) (v.v 2) (v.w 3).toNat),
        (.quant g q d a b, 2, [a.w2, b.w2], fun v => .quant (v.v 0) (v.v 1)),
        (.tgenNew g q d a b r mt, 2, [a.w2, b.w2, (rd r).w1, (rd (r + 1)).w1, (rd (r + 2)).w1, (rd (r + 3)).w1],
          fun v => .tgen false (v.v 0) (v.v 1) (v.w 2) (v.w 3) (v.w 4) (v.w 5) mt.toNat),
        (.tgenApp g q d a b r mt, 2, [a.w2, b.w2, (rd r).w1, (rd (r + 1)).w1, (rd (r + 2)).w1, (rd (r + 3)).w1],
          fun v => .tgen true (v.v 0) (v.v 1) (v.w 2) (v.w 3) (v.w 4) (v.w 5) mt.toNat),
        (.tgenClose g q d a, 2, [a.w2], fun v => .tgenClose (v.v 0))],
      Meets (st U) U e.1 g e.2.2.1 [d, d + 1]
        (fun c s _ v => chkThen (s.acqCheck c.uid) fun s _ =>
          (s, if s.cmdRoom c e.2.1 then .ok (e.2.2.2 v) else .wait .order))
        (fun c s l o => s.issueCmd c l e.2.1 q d o)))
      al .d2 true 30 12 (.g 10 .consume) (.g 8 .wait) (some (.s 28)) (.s 28) (.g 4) 3) ∧
    ((fun (g : Guard) (sh : CopyShape) (q : Bool) (d : GReg) (r : GReg) (a : Src) (b : Src) (bar : Option Src3) (x : Src3) (y : Src3) (mt : BitVec 8) =>
      (∀ e ∈ [(Instr.copy g sh q d a b bar, 0, [a.w2, b.w2] ++ (bar.map fun x => x.src.w2).toList,
          fun (v : LaneIn) => CmdOp.copy (match sh with | .d1 => 1 | .d2 => 2 | .d3 => 3) (v.v 0) (v.v 1) (bar.map fun _ => v.v 2)),
        (.gather g q d a b x y, 1, [a.w2, b.w2, x.src.w2, y.src.w1],
          fun v => .gather (v.v 0) (v.v 1) (v.v 2) (v.w 3).toNat),
        (.scadd g q d a b x y, 1, [a.w2, b.w2, x.src.w2, y.src.w1],
          fun v => .scadd (v.v 0) (v.v 1) (v.v 2) (v.w 3).toNat),
        (.quant g q d a b, 2, [a.w2, b.w2], fun v => .quant (v.v 0) (v.v 1)),
        (.tgenNew g q d a b r mt, 2, [a.w2, b.w2, (rd r).w1, (rd (r + 1)).w1, (rd (r + 2)).w1, (rd (r + 3)).w1],
          fun v => .tgen false (v.v 0) (v.v 1) (v.w 2) (v.w 3) (v.w 4) (v.w 5) mt.toNat),
        (.tgenApp g q d a b r mt, 2, [a.w2, b.w2, (rd r).w1, (rd (r + 1)).w1, (rd (r + 2)).w1, (rd (r + 3)).w1],
          fun v => .tgen true (v.v 0) (v.v 1) (v.w 2) (v.w 3) (v.w 4) (v.w 5) mt.toNat),
        (.tgenClose g q d a, 2, [a.w2], fun v => .tgenClose (v.v 0))],
      Meets (st U) U e.1 g e.2.2.1 [d, d + 1]
        (fun c s _ v => chkThen (s.acqCheck c.uid) fun s _ =>
          (s, if s.cmdRoom c e.2.1 then .ok (e.2.2.2 v) else .wait .order))
        (fun c s l o => s.issueCmd c l e.2.1 q d o)))
      al .d2 true 30 12 (.g 10 .consume) (.g 8 .wait) none (.s 28) (.g 4) 3) ∧
    (∃ u t w, (st U).touch 7 0 = (u, t) ∧ u.agent? 7 = some w) := by
  refine ⟨?_, ?_, _, _, _, rfl, rfl⟩
  all_goals
    repeat' first
      | exact fun _ h => (List.not_mem_nil h).elim
      | refine List.forall_mem_cons.2 ⟨meets (canU _ rfl) rfl rfl ⟨_, _, rfl⟩, ?_⟩

/-- A coach of one lane and a shadow wave of one lane. -/
def coach : Agent := { warp with kind := .coach, slotA := some { pathOf warp with mask := 1 } }
def shadow : Agent := { warp with kind := .shadow, slotA := some { pathOf warp with mask := 1 } }
/-- A codelet. -/
abbrev K : Agent := unit .codelet .user
/-- The unit after five commands of class 1, all complete; the same with a fault of the third due. -/
def UC : Agent := { U with issued := U.issued.set 1 5, tl := U.tl.set 1 5 }
def UD : Agent := { UC with due := [⟨1, 0, 3, 0x26, 0x10040⟩] }
/-- The unit with a pending cancel. -/
def UX : Agent := { U with cancel := some 0 }

theorem test_WaitsComplete_hyps :
    (∀ n ∈ [WaitN.imm 6, .imm 5, .src (.g 12 .wait)], Issues (.waitt al 1 n) al (st UC) (ctx UC (.waitt al 1 n)) ∧
      Issues (.waitt al 1 n) al (st UD) (ctx UD (.waitt al 1 n)) ∧
      (st UC).ready (ctx UC (.waitt al 1 n)) (Mask.lowest (ctx UC (.waitt al 1 n)).act)
        (match n with | .imm _ => [] | .src a => [a.w2]) [] [] = .ok ∧
      (st UD).ready (ctx UD (.waitt al 1 n)) (Mask.lowest (ctx UD (.waitt al 1 n)).act)
        (match n with | .imm _ => [] | .src a => [a.w2]) [] [] = .ok) ∧
    UC.issued[Fin.ofNat 4 1].toNat = 5 ∧ UC.tl[Fin.ofNat 4 1].toNat = 5 ∧
    (UC.dueAt fun d => d.cls == 1 && decide (d.num.toNat ≤ 5)) = none ∧
    (UD.dueAt fun d => d.cls == 1 && decide (d.num.toNat ≤ 5)) = some (some ⟨1, 0, 3, 0x26, 0x10040⟩) ∧
    Issues (.twait al) al (st warp) (ctx warp (.twait al)) ∧ (st warp).tilesOpen 7 = false ∧
    ((st warp).mdone.filter (·.uid == 7)).any (·.bad) = false := by
  refine ⟨?_, rfl, rfl, by decide, by decide, canW _ rfl (by decide), by decide, by decide⟩
  intro n hn
  simp only [List.mem_cons, List.not_mem_nil, or_false] at hn
  rcases hn with rfl | rfl | rfl <;>
    exact ⟨can _ UC _ al rfl rfl rfl rfl (by decide) rfl, can _ UD _ al rfl rfl rfl rfl (by decide) rfl, by decide, by decide⟩

/-- The lanes of a unit of one lane pass a check. -/
theorem passes {β : Type} {a : Agent} {i : Instr} {check : State → Nat → State × Chk β} (h : (ctx a i).act = 1)
    (h1 : ∃ t b, check (atIssue (st a) (ctx a i)) 0 = (t, .ok b)) :
    ∃ t bs, Pass check (Mask.list (ctx a i).act) (atIssue (st a) (ctx a i)) t bs := by rw [h]; exact passOne h1

theorem passesQ {β : Type} {a : Agent} {i : Instr} {check : State → Nat → State × Chk β} {Q : State → List (Nat × β) → Prop}
    (h : (ctx a i).act = 1) (h1 : ∃ t b, check (atIssue (st a) (ctx a i)) 0 = (t, .ok b) ∧ Q t [(0, b)]) :
    ∃ t bs, Pass check (Mask.list (ctx a i).act) (atIssue (st a) (ctx a i)) t bs ∧ Q t bs := by
  obtain ⟨t, b, h1, h2⟩ := h1
  rw [h, list1]
  exact ⟨t, [(0, b)], ⟨t, b, [], h1, ⟨rfl, rfl⟩, rfl⟩, h2⟩

theorem test_GangCallsPark_hyps :
    (∀ e ∈ [Instr.gcall al (.g 16 .wait) (.g 4 .consume), .gcalli al (.g 16 .wait) (.g 4 .consume)],
      Issues e al (st U) (ctx U e) ∧ (pathOf U).done = 0 ∧ (pathOf U).parked = 0 ∧ U.kind ≠ .codelet ∧
      Reads (st U) (ctx U e) [(rd 16).w2, (Src.g 4 .consume).w1] [] [] ∧
      (∀ l ∈ Mask.list (ctx U e).act, (ctx U e).value l (rd 16).w2 = (ctx U e).value (Mask.lowest (ctx U e).act) (rd 16).w2) ∧
      ∃ t bs, Pass (fun s l => s.callCheck (ctx U e) l ((ctx U e).value l (rd 16).w2) (lo32 ((ctx U e).value l (Src.g 4 .consume).w1)))
          (Mask.list (ctx U e).act) (atIssue (st U) (ctx U e)) t bs ∧
        allDone ((bs.foldl (fun s x => s.park (ctx U e) [(rd 16).w2, (Src.g 4 .consume).w1] x.1 x.2) t).dropHeld 7 0) (ctx U e) = false) ∧
    (∀ e : Instr, e = .gcall al (.g 14 .wait) (.g 4 .wait) → Issues e al (st warpT) (ctx warpT e) ∧ warpT.kind ≠ .codelet ∧
      (∀ l ∈ Mask.list (ctx warpT e).act, (st warpT).ready (ctx warpT e) l [(rd 14).w2, (rd 4).w1] [] [] = .ok) ∧
      ∃ l ∈ Mask.list (ctx warpT e).act, ∃ k ∈ Mask.list (ctx warpT e).act,
        (ctx warpT e).value l (rd 14).w2 ≠ (ctx warpT e).value k (rd 14).w2) := by
  refine ⟨?_, ?_⟩
  · intro e he
    simp only [List.mem_cons, List.not_mem_nil, or_false] at he
    rcases he with rfl | rfl <;>
      exact ⟨canU _ rfl, rfl, rfl, by decide, readsOne _ _ _ rfl rfl, by decide, passesQ rfl ⟨_, _, rfl, rfl⟩⟩
  · rintro e rfl
    exact ⟨can _ warpT _ al rfl rfl (by decide) (by decide) (by decide) (by decide), by decide, by decide, 0, by decide, 1, by decide,
      by decide⟩

theorem test_LanesEnd_hyps :
    (Issues (.retg al) al (st coach) (ctx coach (.retg al)) ∧ coach.kind = .coach ∧ (pathOf coach).act = false ∧
      ∃ t bs, Pass (fun s l => chkThen (s.duePart (ctx coach (.retg al)) l) fun s _ =>
        chkThen (s.releaseCheck (ctx coach (.retg al)) l .clu) fun s _ => chkThen (s.lowReady (ctx coach (.retg al)) l 8) fun s _ =>
          s.recordReady (ctx coach (.retg al)) l) (Mask.list (ctx coach (.retg al)).act) (atIssue (st coach) (ctx coach (.retg al))) t bs) ∧
    (Issues (.retg al) al (st shadow) (ctx shadow (.retg al)) ∧ shadow.kind = .shadow ∧ (pathOf shadow).act = false ∧
      ∃ t bs, Pass (fun s l => chkThen (s.duePart (ctx shadow (.retg al)) l) fun s _ =>
        chkThen (s.releaseCheck (ctx shadow (.retg al)) l .clu) fun s _ => (s, Chk.ok ())) (Mask.list (ctx shadow (.retg al)).act)
          (atIssue (st shadow) (ctx shadow (.retg al))) t bs) ∧
    Issues (.retg al) al (st U) (ctx U (.retg al)) ∧ U.kind ≠ .coach ∧ U.kind ≠ .shadow ∧
    (Issues .taskend al (st U) (ctx U .taskend) ∧ (pathOf U).act = false ∧
      ∃ t bs, Pass (fun s l => s.endCheck (ctx U .taskend) l) (Mask.list (ctx U .taskend).act) (atIssue (st U) (ctx U .taskend)) t bs) ∧
    Issues .taskend al (st coach) (ctx coach .taskend) := by
  refine ⟨⟨can _ coach _ al rfl rfl (by decide) (by decide) (by decide) (by decide), rfl, rfl, passes rfl ⟨_, _, rfl⟩⟩,
    ⟨can _ shadow _ al rfl rfl (by decide) (by decide) (by decide) (by decide), rfl, rfl, passes rfl ⟨_, _, rfl⟩⟩,
    canU _ rfl, by decide, by decide, ⟨canU _ rfl, rfl, passes rfl ⟨_, _, rfl⟩⟩,
    can _ coach _ al rfl rfl (by decide) (by decide) (by decide) (by decide)⟩

theorem test_MovesComplete_hyps :
    (∀ i : Instr, i = .migrate al (.g 6 .wait) → Issues i al (st U) (ctx U i) ∧ U.kind ≠ .codelet ∧
      Reads (st U) (ctx U i) [(rd 6).w1] [] [] ∧
      ∃ t bs, Pass (fun s l => chkThen (s.moveCheck (ctx U i) l) fun s _ =>
        s.destCheck (ctx U i) (lo32 ((ctx U i).value l (rd 6).w1)).toNat) (Mask.list (ctx U i).act) (atIssue (st U) (ctx U i)) t bs) ∧
    (∀ i : Instr, i = .rethome al → Issues i al (st U) (ctx U i) ∧
      ∃ t bs, Pass (fun s l => chkThen (s.moveCheck (ctx U i) l) fun s _ => s.destCheck (ctx U i) (ctx U i).a.home.cluster)
        (Mask.list (ctx U i).act) (atIssue (st U) (ctx U i)) t bs) ∧
    (∀ e ∈ [Instr.migrate al (.g 6 .wait), .route al (.g 4 .wait) (.g 6 .wait), .rethome al],
      Issues e al (st K) (ctx K e) ∧ K.kind = .codelet) ∧
    (∀ i : Instr, i = .route al (.g 4 .wait) (.g 6 .wait) → Issues i al (st U) (ctx U i) ∧ Mask.list (ctx U i).act = [0] ∧
      Reads (st U) (ctx U i) [(rd 4).w1, (rd 6).w1] [] [] ∧
      ∃ v s1 s2, (atIssue (st U) (ctx U i)).heldPeek (ctx U i) 0 4 (State.routeVa (atIssue (st U) (ctx U i)) (ctx U i) 5) 4 (some 0)
          = (s1, .ok v) ∧ (wordAt v 0).getLsbD 31 = true ∧ routeReserved (wordAt v 0) = false ∧ s1.moveCheck (ctx U i) 0 = (s2, .ok ()) ∧
        routeDest (wordAt v 0) 5 (lo32 ((ctx U i).value 0 (rd 6).w1)) = 0 ∧ (s2.job 1).clmask.getLsbD 0 = true) ∧
    Meets (st U) U (.routeset al (.g 4 .wait) (.g 12 .consume)) al [(rd 4).w1, ⟨.g 12 .consume, 1, true⟩] []
      (fun c s l x =>
        if 1024 ≤ (x.w 0).toNat ∨ routeReserved (x.w 1) then (s, .fault 0x75 ((x.w 0).setWidth 64) 0)
        else chkThen (s.storeCheck c l (s.routeVa c (x.w 0)) 4 false .dev) fun s segs => (s, .ok segs)) (fun _ s _ _ => s) ∧
    (∀ i : Instr, i = .rcsnap al 7 (.g 8 .wait) 16 → Issues i al (st U) (ctx U i) ∧
      (st U).ready (ctx U i) (Mask.lowest (ctx U i).act) [(rd 8).w2] [] [] = .ok ∧
      ∃ t o n, (chkThen ((atIssue (st U) (ctx U i)).placeCheck (ctx U i) { need := .wr, align := 16, localOnly := true } 0x00FF000000002010
        4096) fun s segs => s.ownWriteCheck (ctx U i) segs) = (t, .ok [.own o n])) := by
  refine ⟨?_, ?_, ?_, ?_, meets (canU _ rfl) rfl rfl ⟨_, _, rfl⟩, ?_⟩
  · rintro i rfl; exact ⟨canU _ rfl, by decide, readsOne _ _ _ rfl rfl, passes rfl ⟨_, _, rfl⟩⟩
  · rintro i rfl; exact ⟨canU _ rfl, passes rfl ⟨_, _, rfl⟩⟩
  · intro e he
    simp only [List.mem_cons, List.not_mem_nil, or_false] at he
    rcases he with rfl | rfl | rfl <;> exact ⟨can _ K _ al rfl rfl rfl rfl (by decide) rfl, rfl⟩
  · rintro i rfl; exact ⟨canU _ rfl, list1, readsOne _ _ _ rfl rfl, _, _, _, rfl, rfl, rfl, rfl, rfl, rfl⟩
  · rintro i rfl; exact ⟨canU _ rfl, by decide, _, _, _, rfl⟩

theorem test_TasksComplete_hyps :
    Issues .innflush al (st U) (ctx U .innflush) ∧
    (∀ i : Instr, i = .spawn al 30 (.g 10 .wait) (.s 28) → Issues i al (st U) (ctx U i) ∧
      (∀ r < 32, (st U).sregBusy 7 false (BitVec.ofNat 5 r) = false) ∧ Reads (st U) (ctx U i) [(rd 10).w2, (Src.s 28).w1] [] [30] ∧
      ∃ t bs, Pass (fun s l => chkThen (s.lowReady (ctx U i) l 16) fun s _ =>
        if !targetOk ((ctx U i).value l (rd 10).w2) then (s, .fault 0x05 ((ctx U i).value l (rd 10).w2) 0)
        else chkThen (s.destCheck (ctx U i) (if lo32 ((ctx U i).value l (Src.s 28).w1) = 0xFFFFFFFF then (ctx U i).cluster
          else (lo32 ((ctx U i).value l (Src.s 28).w1)).toNat)) fun s k => (s, .ok ((ctx U i).value l (rd 10).w2, k)))
        (Mask.list (ctx U i).act) (atIssue (st U) (ctx U i)) t bs) ∧
    ((0xFFFF : BitVec 16) ≠ 0 ∧ MeetsOnce (st U) U (.taskmk al 0xFFFF 60 (.g 8 .wait) (.g 10 .wait)) al
      ([(rd 8).w2, (rd 10).w2] ++ (List.range 4).map fun k => ⟨rd (60 + BitVec.ofNat 6 k), 1, true⟩) []
      (fun c s l x =>
        match classify s c.who (x.v 0) with
        | .error e => (s, .fault e (x.v 0) 0)
        | .ok _ =>
          if (x.v 0).toNat % 32 ≠ 0 then (s, .fault 0x24 (x.v 0) 0)
          else chkThen (s.recordCheck c (x.v 0)) fun s segs =>
            if !targetOk (x.v 1) then (s, .fault 0x05 (x.v 1) 0)
            else chkThen (s.writeCheck c l false .dev segs) fun s segs => (s, .ok segs)) (fun _ s _ _ => s)) ∧
    (∀ x ∈ [Level.launch, .graph, .phase, .job], Issues (.cancel al x) al (st V) (ctx V (.cancel al x)) ∧
      (x = .phase → V.levelids.getLsbD 49 = true)) ∧
    ((st V).launches.find? fun l => some l.id == V.launch) = some launch5 ∧
    (∀ i : Instr, i = .cntw al 30 (.g 4 .wait) (.g 5 .consume) → Issues i al (st U) (ctx U i) ∧
      (st U).ready (ctx U i) (Mask.lowest (ctx U i).act) [(rd 4).w1, (Src.g 5 .consume).w1] [] [30] = .ok ∧
      (∀ l ∈ Mask.list (ctx U i).act, (U.lane l).pend.getLsbD (physG (ctx U i).rrb 30).val = false) ∧
      (∀ p ∈ (st U).pendings, p.uid ≠ 7) ∧
      (st U).counterOf 1 (lo32 ((ctx U i).value (Mask.lowest (ctx U i).act) (rd 4).w1)).toNat = some ⟨5, 1, false, 6, 0⟩ ∧
      (lo32 ((ctx U i).value (Mask.lowest (ctx U i).act) (Src.g 5 .consume).w1)).toNat ≤ 6) ∧
    (Issues .poll al (st U) (ctx U .poll) ∧ U.kind ≠ .coach ∧ U.cancel = none) ∧
    (Issues .poll al (st UX) (ctx UX .poll) ∧ UX.kind ≠ .coach ∧ UX.cancel ≠ none ∧ UX.paths.any (·.act) = false ∧
      ∃ t, (atIssue (st UX) (ctx UX .poll)).actCancel 7 false = some t) ∧
    (Issues .yield al (st U) (ctx U .yield) ∧ U.wide = false) ∧ Issues .yield al (st warp) (ctx warp .yield) ∧ warp.wide = true := by
  refine ⟨canU _ rfl, ?_, ⟨by decide, meetsOnce (canU _ rfl) (by decide) rfl ⟨_, _, rfl⟩⟩, ?_, rfl, ?_, ⟨canU _ rfl, by decide, rfl⟩,
    ⟨can _ UX _ al rfl rfl rfl rfl (by decide) rfl, by decide, by decide, rfl, _, rfl⟩, ⟨canU _ rfl, rfl⟩, canW _ rfl (by decide), rfl⟩
  · rintro i rfl
    exact ⟨canU _ rfl, by decide, readsOne _ _ _ rfl rfl, passes rfl ⟨_, _, rfl⟩⟩
  · intro x hx
    simp only [List.mem_cons, List.not_mem_nil, or_false] at hx
    rcases hx with rfl | rfl | rfl | rfl <;> exact ⟨canV _ rfl, by decide⟩
  · rintro i rfl
    exact ⟨canU _ rfl, by decide, by decide, by decide, by decide, by decide⟩

/-- The slot of the unit. -/
def slot0 : WmSlot := ⟨0, 0, true, 4096, [1, 2], 2, 2, 32, State.ownerTag 12 State.reset U 0, 1, 1⟩

/-- A Waymark instruction issues and its operands are readable. -/
def Wm (i : Instr) (os : List Opnd) (ds : List GReg) : Prop := Issues i al (st U) (ctx U i) ∧ Reads (st U) (ctx U i) os [] ds
theorem wm {i os ds} (h : preCheck U (pathOf U) i = none) (h2 : (st U).ready (ctx U i) 0 os [] ds = .ok) : Wm i os ds :=
  ⟨canU i h, readsOne _ _ _ rfl h2⟩

theorem test_WaymarkComplete_hyps :
    (∀ i : Instr, i = .wmopen al 0 0 30 (.g 22 .wait) → Wm i [(rd 22).w1] [30] ∧ Mask.list (ctx U i).act = [0] ∧
      wmSizeOk (lo32 ((ctx U i).value 0 (rd 22).w1)).toNat = true ∧
      ∃ r, (((atIssue (st U) (ctx U i)).clearWalkFaults 7).wmOpen (ctx U i) 0 (lo32 ((ctx U i).value 0 (rd 22).w1)).toNat 2 32 [] 0)
        = .ok r) ∧
    (∀ i : Instr, i = .wmload al 7 30 (.g 20 .wait) 0 → Wm i [(rd 20).w2] [30] ∧
      ∃ t bs r, State.wmRead (ctx U i) 0 ((ctx U i).value 0 (rd 20).w2 + 0) 7 3 ((atIssue (st U) (ctx U i)).openWalk (ctx U i) 0)
          = (t, .ok bs) ∧
        ((t.clearWalkFaults 7).wmOpen (ctx U i) 0 (recWord bs.1 4) (recWord bs.1 0xC % 256) (recWord bs.1 0xC / 256) bs.2
          (dwordAt bs.1 0x10)) = .ok r) ∧
    Wm (.wmclose al (.g 18 .wait)) [(rd 18).w1] [] ∧
    Wm (.wmapp al 7 (.g 18 .wait) (.g 56 .consume)) ((rd 18).w1 :: (List.range 8).map (fun k => (Src.plus (.g 56 .consume) k).w1)) [] ∧
    Wm (.wmprop al 7 30 (.g 18 .wait) 29) [(rd 18).w1] (29 :: (List.range 8).map fun k => (30 : GReg) + BitVec.ofNat 6 k) ∧
    (∀ f ∈ [WmField.len, .cap, .total, .bounds], Wm (.wmlen al f 30 (.g 18 .wait)) [(rd 18).w1] [30]) ∧
    Wm (.wmown al (.g 18 .wait) (.g 6 .wait)) [(rd 18).w1, (rd 6).w1] [] ∧ tagOk (lo32 ((ctx U .nop).value 0 (rd 6).w1)) = true ∧
    ((atIssue (st U) (ctx U .nop)).clearWalkFaults 7).wmCheck (ctx U .nop) 0 (lo32 ((ctx U .nop).value 0 (rd 18).w1)) = .ok slot0 ∧
    (∀ i : Instr, i = .wmsave al true 7 (.g 8 .wait) 64 (.g 18 .wait) → Wm i [(rd 8).w2, (rd 18).w1] [] ∧
      (atIssue (st U) (ctx U i)).wmCheck (ctx U i) 0 (lo32 ((ctx U i).value 0 (rd 18).w1)) = .ok slot0 ∧
      ∃ t segs, (chkThen ((atIssue (st U) (ctx U i)).placeCheck (ctx U i) { need := .wr } 0x00FF000000002040 (64 + 4 * slot0.win.length))
          fun s segs => s.writeCheck (ctx U i) 0 false .dev segs) = (t, .ok segs) ∧
        (t.clearWalkFaults 7).wmCheck (ctx U i) 0 (lo32 ((ctx U i).value 0 (rd 18).w1)) = .ok slot0) := by
  refine ⟨?_, ?_, wm rfl rfl, wm rfl rfl, wm rfl rfl, ?_, wm rfl rfl, by decide, rfl, ?_⟩
  · rintro i rfl; exact ⟨wm rfl rfl, list1, by decide, _, rfl⟩
  · rintro i rfl; exact ⟨wm rfl rfl, _, _, _, rfl, rfl⟩
  · intro f hf
    simp only [List.mem_cons, List.not_mem_nil, or_false] at hf
    rcases hf with rfl | rfl | rfl | rfl <;> exact wm rfl rfl
  · rintro i rfl; exact ⟨wm rfl rfl, rfl, _, _, rfl, rfl⟩

/-- A warp of one lane. -/
def warp1 : Agent := { warp with slotA := some { pathOf warp with mask := 1 } }

theorem test_TilesIssue_words :
    packCheck (((atIssue (st warp1) (ctx warp1 (.tpack al .w1 0 (.g 4 .consume) 0 0))).tilesOf ⟨0, 32⟩).desc 0) 1 0 0 1 = none ∧
    Issues (.tpack al .w1 0 (.g 4 .consume) 0 0) al (st warp1) (ctx warp1 (.tpack al .w1 0 (.g 4 .consume) 0 0)) ∧
    Reads (st warp1) (ctx warp1 (.tpack al .w1 0 (.g 4 .consume) 0 0)) [(Src.plus (.g 4 .consume) 0).w1] [] [] ∧
    Issues (.tunpk al .w1 30 0 0 0) al (st warp1) (ctx warp1 (.tunpk al .w1 30 0 0 0)) ∧
    Reads (st warp1) (ctx warp1 (.tunpk al .w1 30 0 0 0)) [] [] [30 + BitVec.ofNat 6 0] ∧
    (st warp1).tileWriter ⟨0, 32⟩ 0 100 = false ∧ (pathOf warp1).wait = none ∧
    { st warp1 with mops := [⟨50, 7, ⟨0, 32⟩, .user, 1, 0, 0, .tzero 0, false, [], 0⟩] }.tileWriter ⟨0, 32⟩ 0 100 = true ∧ ((st warp1).tilesOf ⟨0, 32⟩).bad.getLsbD 0 = false :=
  ⟨rfl, can _ warp1 _ al rfl rfl (by decide) (by decide) (by decide) (by decide), readsOne _ _ _ rfl rfl,
    can _ warp1 _ al rfl rfl (by decide) (by decide) (by decide) (by decide), readsOne _ _ _ rfl rfl, rfl, rfl, rfl, rfl⟩

/-- A warp of one lane whose `TREST` has read these bytes. -/
def stR (bs : List Byte) : State := { st warp1 with
  loads := [⟨50, 7, 0, .held, .none, [⟨0, 0, 0x80500, some (bs, false), false, 0⟩], false, false, 0, false⟩] }

theorem dwAt_zeros (n k : Nat) : dwAt (List.replicate n 0#8) k = 0 := by
  have h : ∀ m : Nat, ofBytes (List.replicate m 0#8) = 0 := by
    intro m; induction m with
    | zero => rfl
    | succ m ih => simp [List.replicate_succ, ofBytes, ih]
  simp [dwAt, List.drop_replicate, List.take_replicate, h]

theorem zeros_ok (n : Nat) : tileRecordOk (List.replicate n 0#8) = true := by
  simp [tileRecordOk, dwAt_zeros, List.drop_replicate, List.take_replicate, tdOk, tdFields]

theorem test_TilesIssue_record :
    MeetsOnce (stR (List.replicate 0x80500 0#8)) warp1 (.trest al 7 ⟨.dev, .g 10 .wait, 0xC0⟩) al [(rd 10).w2] []
      (fun c s l x =>
        chkThen (if (s.walkOf c.uid l).isSome then (s, .ok ())
          else match recordClass (x.v 0 + (0xC0 : BitVec 16).signExtend 64) with
            | some e => (s, .fault e (x.v 0 + (0xC0 : BitVec 16).signExtend 64) 0)
            | none =>
              match recordOut (x.v 0 + (0xC0 : BitVec 16).signExtend 64) 0x80500 with
              | some (b, e) => chkThen (State.rowsCheck c { need := .rd } s
                  [(x.v 0 + (0xC0 : BitVec 16).signExtend 64, (b - (x.v 0 + (0xC0 : BitVec 16).signExtend 64)).toNat)])
                    fun s _ => (s, .fault e b 0)
              | none => (s, .ok ())) fun s _ =>
          chkThen (s.heldRead c l 256 (x.v 0 + (0xC0 : BitVec 16).signExtend 64) 0x80500 (some (7 : BitVec 3).toNat)) fun s bs =>
            (s, if tileRecordOk bs then .ok bs else .fault 0x19 0 0))
      (fun c s l bs => (s.setTiles { s.tilesOf c.a.place.coreId with
        td := Vector.ofFn fun k : Fin 8 => dwAt bs (8 * k.val), prog := dwAt bs 0x40 }).queueMop c l (.trest bs)) := by
  have ok := zeros_ok 0x80500
  generalize List.replicate 0x80500 0#8 = bs at ok
  refine meetsOnce (can _ warp1 _ al rfl rfl (by decide) (by decide) (by decide) (by decide)) (by decide) rfl
    ⟨_, bs, Eq.trans (b := (_, if tileRecordOk bs = true then Chk.ok bs else Chk.fault 0x19 0 0)) rfl (by rw [if_pos ok])⟩

theorem test_TilesIssue_hyps :
    ((fun (g : Guard) (sat : Bool) (sint : Bool) (t : TReg) (ta : TReg) (tb : TReg) (acc : AccReg) (m0 : BitVec 6) (n0 : BitVec 7) =>
      (∀ e ∈ [(Instr.tzero g t, fun (_ : Tiles) => Except.ok (MKind.tzero t.toNat)),
        (.accz g acc, fun _ => .ok (.accz acc.toNat)),
        (.mma g acc ta tb m0 n0, fun x => if mmaCheck (x.desc ta.toNat) (x.desc tb.toNat) m0.toNat n0.toNat then
            .ok (.mma acc.toNat ta.toNat tb.toNat (x.desc ta.toNat) (x.desc tb.toNat) m0.toNat n0.toNat) else .error 0x61),
        (.mmc g acc ta tb m0 n0, fun x =>
          if cellOk x.prog = false then .error 0x63
          else if (twoTys (x.desc ta.toNat) (x.desc tb.toNat)).isNone || tdK (x.desc ta.toNat) != tdK (x.desc tb.toNat) ||
              !shapeOk (x.desc ta.toNat) (x.desc tb.toNat) m0.toNat n0.toNat then .error 0x61
          else .ok (.mmc acc.toNat ta.toNat tb.toNat (x.desc ta.toNat) (x.desc tb.toNat) x.prog m0.toNat n0.toNat)),
        (.acccvt g sat sint t acc m0 n0, fun x =>
          if (tdTy (x.desc t.toNat)).isNone || decide (64 < m0.toNat + tdRows (x.desc t.toNat) ∨
              128 < n0.toNat + tdK (x.desc t.toNat)) then .error 0x61
          else .ok (.acccvt t.toNat acc.toNat (x.desc t.toNat) sat sint m0.toNat n0.toNat))],
      MeetsOnce (st warp) warp e.1 g [] [] (fun c s _ _ => match e.2 (s.tilesOf c.a.place.coreId) with
          | .error k => (s, .fault k 0 0)
          | .ok k => (s, .ok k)) (fun c s l k => s.queueMop c l k)))
      al true true 0 0 1 3 63 124) ∧
    ((fun (g : Guard) (ta : TReg) (tb : TReg) (sa : TReg) (sb : TReg) (acc : AccReg) (m0 : BitVec 6) (n0 : BitVec 7) =>
      MeetsOnce (st warp) warp (.mmas g acc ta tb sa sb m0 n0) g [] []
      (fun c s _ _ =>
        let x := s.tilesOf c.a.place.coreId
        let da := x.desc ta.toNat
        let db := x.desc tb.toNat
        let dp := x.desc sa.toNat
        let dq := x.desc sb.toNat
        if (match twoTys da db with | some (u, v) => mmasPair u v | none => false) && mmaCheck da db m0.toNat n0.toNat
            && tdFmt dp == 0xC && tdFmt dq == 0xC && tdRows dp == tdRows da && tdRows dq == tdRows db
            && decide ((tdK da + 7) / 8 ≤ tdBytes dp ∧ (tdK da + 7) / 8 ≤ tdBytes dq)
            && sa != ta && sa != tb && sb != ta && sb != tb then
          (s, .ok (MKind.mmas acc.toNat ta.toNat tb.toNat sa.toNat sb.toNat da db m0.toNat n0.toNat))
        else (s, .fault 0x61 0 0))
      (fun c s l k => s.queueMop c l k))
      al 0 1 2 3 3 63 124) ∧
    ((fun (g : Guard) (t : TReg) (fmt : BitVec 4) (rows1 : BitVec 7) (rb : BitVec 7) (_ : Src3) =>
      MeetsOnce (st warp) warp (.tcfg g t fmt rows1 rb) g [] []
      (fun c s _ _ => match s.writeTd c.a.place.coreId t.toNat (if fmt = 0 then 0
          else BitVec.ofNat 64 ((rb.toNat + 1) * 4 * 65536 + (rows1.toNat + 1) * 256 + fmt.toNat)) with
        | .error e => (s, .fault e 0 0)
        | .ok _ => (s, .ok (if fmt = 0 then (0 : DWord)
          else BitVec.ofNat 64 ((rb.toNat + 1) * 4 * 65536 + (rows1.toNat + 1) * 256 + fmt.toNat))))
      (fun c s _ v => (s.writeTd c.a.place.coreId t.toNat v).toOption.getD s))
      al 0 12 0 0 (.g 4)) ∧
    ((fun (g : Guard) (a : Src) (_ : Src3) =>
      MeetsOnce (st warp) warp (.cellp g a) g [a.w2] []
      (fun c s _ x => match s.writeProg c.a.place.coreId (x.v 0) with
        | .error e => (s, .fault e 0 0)
        | .ok _ => (s, .ok (x.v 0))) (fun c s _ v => (s.writeProg c.a.place.coreId v).toOption.getD s))
      al (.g 22 .wait) (.g 4)) ∧
    ((fun (g : Guard) (q : Bool) (lease : BitVec 3) (t : TReg) (a : Src) (d : GReg) (m : MemArg) =>
      (∀ e ∈ [(Instr.tld g q lease d t m a, true), (.tst g q lease d t m a, false)],
      MeetsOnce (st warp) warp e.1 g [m.base.w2, a.w1] [d, d + 1]
        (fun c s l x =>
          let td := (s.tilesOf c.a.place.coreId).desc t.toNat
          if td = 0 then (s, .fault 0x61 0 0)
          else chkThen (s.acqCheck c.uid) fun s _ => (s, if s.cmdRoom { c with act := laneBit l } 3 then
            .ok (td, x.v 0 + m.off.signExtend 64, (x.w 1).toInt) else .wait .order))
        (fun c s l r =>
          { { s with nextId := s.nextId + 1 }.issueCmd c l 3 q d (if e.2 then .tld t.toNat r.2.1 r.2.2 r.1 lease.toNat s.nextId
              else .tst t.toNat r.2.1 r.2.2 r.1 lease.toNat s.nextId) with
            mops := ({ s with nextId := s.nextId + 1 }.issueCmd c l 3 q d
                (if e.2 then .tld t.toNat r.2.1 r.2.2 r.1 lease.toNat s.nextId
                  else .tst t.toNat r.2.1 r.2.2 r.1 lease.toNat s.nextId)).mops ++
              [⟨s.nextId, c.uid, c.a.place.coreId, c.p.priv, c.a.job, l, 0,
                if e.2 then .tload t.toNat (s.nextId + 1) else .tstore t.toNat (s.nextId + 1), false, [], 0⟩] })))
      al true 7 0 (.g 4 .wait) 30 ⟨.dev, .g 10 .wait, 64⟩) ∧
    ((fun (g : Guard) (lease : BitVec 3) (acc : AccReg) (a : Src) (m : MemArg) (m0 : BitVec 6) (m1 : BitVec 6) (n0 : BitVec 7) (n1 : BitVec 7) =>
      MeetsOnce (st warp) warp (.accld g lease acc m a m0 n0 m1 n1) g [m.base.w2, a.w1] []
      (fun c s _ x => accPlaces true m.off m0.toNat n0.toNat (m1.toNat + 1) (n1.toNat + 1) c s x)
      (fun c s l r => s.queueMop c l (.accld acc.toNat r m0.toNat n0.toNat (m1.toNat + 1) (n1.toNat + 1) lease.toNat)))
      al 7 3 (.g 22 .consume) ⟨.dev, .g 10 .wait, 64⟩ 63 0 124 0) ∧
    ((fun (g : Guard) (lease : BitVec 3) (acc : AccReg) (a : Src) (m : MemArg) (m0 : BitVec 6) (m1 : BitVec 6) (n0 : BitVec 7) (n1 : BitVec 7) =>
      MeetsOnce (st warp) warp (.accst g lease acc m a m0 n0 m1 n1) g [m.base.w2, a.w1] []
      (fun c s _ x => accPlaces false m.off m0.toNat n0.toNat (m1.toNat + 1) (n1.toNat + 1) c s x)
      (fun c s l r => s.queueMop c l (.accst acc.toNat r m0.toNat n0.toNat (m1.toNat + 1) (n1.toNat + 1) lease.toNat)))
      al 7 3 (.g 22 .consume) ⟨.dev, .g 10 .wait, 64⟩ 63 0 124 0) ∧
    ((fun (g : Guard) (sat : Bool) (sint : Bool) (acc : AccReg) (a : Src) (b : Src) (v : Src3) (m1 : BitVec 6) (n1 : BitVec 7) (ty : Ty) =>
      MeetsOnce (st warp) warp (.accsend g ty sat sint acc a b v m1 n1) g [a.w2, b.w2, v.src.w1] []
      (fun c s _ x =>
        match sendCheck s c (x.v 0) (x.v 1) ((m1.toNat + 1) * (n1.toNat + 1) * (ty.width / 8)) with
        | .error e => (s, .fault e.1 e.2 0)
        | .ok (core, doff, foff) => chkThen (s.acqCheck c.uid) fun s _ =>
          (s, .ok (MKind.accsend acc.toNat ty sat sint (m1.toNat + 1) (n1.toNat + 1) core doff foff (x.w 2) 0 none)))
      (fun c s l k => s.queueMop c l k))
      al true true 3 (.g 20 .wait) (.g 8 .wait) (.g 4) 0 0 .i8) ∧
    ((fun (g : Guard) (lease : BitVec 3) (m : MemArg) =>
      MeetsOnce (st warp) warp (.tsave g lease m) g [m.base.w2] []
      (fun c s _ x =>
        match recordClass (x.v 0 + m.off.signExtend 64) with
        | some e => (s, .fault e (x.v 0 + m.off.signExtend 64) 0)
        | none =>
          match recordOut (x.v 0 + m.off.signExtend 64) 0x80500 with
          | some (b, e) => chkThen (State.rowsCheck c { need := .wr } s
              [(x.v 0 + m.off.signExtend 64, (b - (x.v 0 + m.off.signExtend 64)).toNat)]) fun s _ => (s, .fault e b 0)
          | none => State.rowsCheck c { need := .wr } s (partRanges (x.v 0 + m.off.signExtend 64) recordParts))
      (fun c s l r => s.queueMop c l (.tsave r lease.toNat (s.tilesOf c.a.place.coreId).td.toList
        (s.tilesOf c.a.place.coreId).prog)))
      al 7 ⟨.dev, .g 10 .wait, 0xC0⟩) := by
  refine ⟨?_, ?_, ?_, ?_, ?_, ?_, ?_, ?_, ?_⟩
  all_goals
    repeat' first
      | exact fun _ h => (List.not_mem_nil h).elim
      | refine List.forall_mem_cons.2 ⟨meetsOnce (canW _ rfl (by decide)) (by decide) rfl ⟨_, _, rfl⟩, ?_⟩
      | exact meetsOnce (canW _ rfl (by decide)) (by decide) rfl ⟨_, _, rfl⟩

/-! ### Events -/

/-- A request of the unit for line 300, and a reply for it. -/
def rq (k : ReqKind) : Req := ⟨60, k, 0, 7, 0, 300, 9, 16, 0, 3⟩
def rp (k : RepKind) (bad : BitVec 8) : Rep := ⟨61, 60, k, 0, 7, 0, 300, 4, 20, 9, bad, 3⟩
/-- The states in which they are on their way, with the home `h` of the line. -/
def stQ (k : ReqKind) (h : Home) : State := { st U with reqs := [rq k], homes := [(300, h)] }
def stP (k : RepKind) : State := { st U with reps := [rp k 0] }
/-- An atomic of the unit. -/
def act4 : EAct := ⟨4, 4, .add, 5, 0, none⟩
/-- The home of a line that cluster 0 owns; one that cluster 0 is an update holder of; one with every sector poisoned. -/
def homeO : Home := { Home.fresh with owner := some 0, wts := 4, rts := 6 }
def homeJ : Home := { Home.fresh with holders := 2, wts := 4, rts := 6 }
def homeB : Home := { Home.fresh with bad := 0xFF, wts := 4, rts := 6 }

theorem test_HomesServeAndReply_hyps :
    (∀ k ∈ [ReqKind.read, .renew, .watch 3], (stQ k homeB).reqs.find? (·.id == 60) = some (rq k) ∧
      ∃ u a, (stQ k homeB).homeReadAt 300 9 16 (some 60) = .ok (u, a)) ∧
    (∃ u a, (stQ .own Home.fresh).homeOwnAt 300 0 (some 60) = .ok (u, a)) ∧ ((stQ (.writeback 5 0 7 8) homeO).homeOf 300).owner = some 0 ∧
    ((stQ (.writeback 5 0 7 8) Home.fresh).homeOf 300).owner ≠ some 0 ∧ (∃ u, (stQ .join homeJ).homeJoinAt 300 0 (some 60) = .ok u) ∧
    (∀ s : State, s = stQ (.atomic act4 (.regs [20] 4 false) true true ⟨0, 0⟩ 0x10084) Home.fresh →
      s.loadsBound 7 60 = true ∧ s.writeBefore ⟨0, 0⟩ 7 60 300 = false ∧ s.loadBefore ⟨0, 0⟩ 7 60 300 = false ∧ s.agent? 7 = some U ∧
      ∃ u old t bad, s.homeActAt 300 4 4 (tmax 9 (s.writeTime U 0)) act4.apply (some 60) = .ok (u, old, t, bad)) ∧
    (∀ k ∈ [RepKind.fill none, .fill (some 5), .atomic 5 (.regs [20] 4 false) true false, .grant 5, .confirm 3, .strike 3 5],
      (stP k).reps.find? (·.id == 61) = some (rp k 0)) := by
  refine ⟨?_, ⟨_, _, rfl⟩, rfl, by decide, ⟨_, rfl⟩, ?_, ?_⟩
  · intro k hk
    simp only [List.mem_cons, List.not_mem_nil, or_false] at hk
    rcases hk with rfl | rfl | rfl <;> exact ⟨rfl, _, _, rfl⟩
  · rintro s rfl; exact ⟨rfl, rfl, rfl, rfl, _, _, _, _, rfl⟩
  · intro k hk
    simp only [List.mem_cons, List.not_mem_nil, or_false] at hk
    rcases hk with rfl | rfl | rfl | rfl | rfl | rfl <;> rfl

theorem test_HomeActions_hyps : (∀ h ∈ [Home.fresh, homeB], h.owner = none ∧ h.holders = 0 ∧ h.host = false) ∧
    (stQ .own homeB).homeOf 300 = homeB ∧ (stQ .own homeB).lineHeld 300 none = false ∧
    (stQ .own homeB).lineHeld 300 (some 60) = false ∧ Home.fresh.bad &&& sectorMask 4 4 = 0 ∧ homeB.bad &&& sectorMask 4 4 ≠ 0 := by
  refine ⟨by decide, rfl, by decide, by decide, by decide, by decide⟩

/-- A copy of line 300 in cluster 0. -/
def copy300 (x : CopyState) : Copy := ⟨0, 300, x, 5, 0, 4, 6⟩
/-- Every slice's time far ahead, every die at cycle 4,096, a sweep notice, a copy. -/
def stS (x : CopyState) : State := { st U with
  htime := Vector.replicate 128 0x50000000, cycle := Vector.replicate 6 4096, notes := [⟨62, 0, 300⟩], copies := [copy300 x] }

theorem test_TimeEvents_hyps :
    (lags ((stS .O).homeOf 300).wts (stS .O).htime[sliceOf 300] = true ∧ (stS .O).hostHolds 300 = false ∧
      ∃ u, (stS .O).recallAll 300 = .ok u) ∧
    (stS .O).notes.find? (·.id == 62) = some ⟨62, 0, 300⟩ ∧ (63 < 64 ∧ 127 < 128) ∧
    ((stS .O).agent? 7 = some U ∧ U.status = .issuing ∧ (U.lane 0).crept + 4096 ≤ (stS .O).now 0) ∧
    (∀ x ∈ [CopyState.O, .U [⟨4, 4, .add, 5, none⟩] 9, .L false, .L true], (stS x).copyOf 0 300 = some (copy300 x)) := by
  refine ⟨⟨by decide, by decide, _, rfl⟩, rfl, by decide, ⟨rfl, rfl, by decide⟩, ?_⟩
  intro x hx
  simp only [List.mem_cons, List.not_mem_nil, or_false] at hx
  rcases hx with rfl | rfl | rfl | rfl <;> rfl

/-- A walk of page 1; with tables that end in a leaf. -/
def stW (m : List Host.Cell) : State := { st U with mem := m, walks := [⟨63, 0, 1, 1, true, [(7, 0, ⟨0, 0⟩)], .start⟩], acks := [⟨64, 7, 0, [300], 2⟩] }
/-- A remote access of the unit to core 1, of which the port of the core has parked `n` others. -/
def rem (acc : LAcc) (r : Option Nat) : Remote :=
  ⟨65, 7, 0, ⟨0, 0⟩, ⟨0, 1⟩, 0x2000, acc, .none, false, false, false, 9, false, 0, false, true, r, none, [], []⟩
def stM (acc : LAcc) (r : Option Nat) (n : Nat) : State := { st U with
  remotes := [rem acc r], parked := List.replicate n (rem (.ldf false) none), cycle := Vector.replicate 6 64
  rreplies := [⟨66, 7, 0, 5, 0, .regs [20] 4 false, false, 0, false, true, false, []⟩] }
/-- The unit waiting since cycle 0 with a limit of 64 cycles. -/
def waiter (k : WaitKind) (en : DWord) : Agent := { U with
  waitlim := en ||| 64, slotA := some { pathOf U with wait := some ⟨k, 0, 0⟩, parked := if k = .reg then 0 else 1 } }

/-- What a step of a walk of page 1 answers: 0 another phase, 1 a cause, 2 a leaf. -/
def walkEnds (s : State) (ph : WalkPhase) : Nat :=
  match s.walkStep ⟨63, 0, 1, 1, true, [(7, 0, ⟨0, 0⟩)], ph⟩ with
  | .ok (_, .error _) => 0
  | .ok (_, .ok (.fault _)) => 1
  | .ok (_, .ok (.leaf ..)) => 2
  | .error _ => 3
theorem walk_ends {s : State} {ph : WalkPhase} {w : Walk} (hw : w = ⟨63, 0, 1, 1, true, [(7, 0, ⟨0, 0⟩)], ph⟩) :
    (walkEnds s ph = 0 → ∃ u p, s.walkStep w = .ok (u, .error p)) ∧ (walkEnds s ph = 1 → ∃ u c, s.walkStep w = .ok (u, .ok (.fault c))) ∧
    (walkEnds s ph = 2 → ∃ u e bits pa, s.walkStep w = .ok (u, .ok (.leaf e bits pa))) := by
  subst hw
  unfold walkEnds
  refine ⟨?_, ?_, ?_⟩ <;> intro h <;> split at h <;> first | exact ⟨_, _, by assumption⟩ | exact ⟨_, _, _, _, by assumption⟩ | cases h

theorem test_AccessEvents_hyps :
    (∀ m ∈ [[], [(0, 0x01), (1, 0x20), (0x2000, 0x7B), (0x2001, 0x03)]],
      (stW m).walks.find? (·.id == 63) = some ⟨63, 0, 1, 1, true, [(7, 0, ⟨0, 0⟩)], .start⟩ ∧ (stW m).prefs = [] ∧
      (((stW m).walks.filter (·.cluster == 0)).take 32).any (·.id == 63) = true) ∧
    (∀ w : Walk, w = ⟨63, 0, 1, 1, true, [(7, 0, ⟨0, 0⟩)], .start⟩ →
      (∃ u c, (stW []).walkStep w = .ok (u, .ok (.fault c))) ∧
      ∃ u p, (stW [(0, 0x01), (1, 0x20), (0x2000, 0x7B), (0x2001, 0x03)]).walkStep w = .ok (u, .error p)) ∧
    (∀ w : Walk, w = ⟨63, 0, 1, 1, true, [(7, 0, ⟨0, 0⟩)], .reading 2 0x2000⟩ →
      ∃ u e bits pa, (stW [(0, 0x01), (1, 0x20), (0x2000, 0x7B), (0x2001, 0x03)]).walkStep w = .ok (u, .ok (.leaf e bits pa))) ∧
    (stW []).acks.find? (·.id == 64) = some ⟨64, 7, 0, [300], 2⟩ ∧
    (∀ x ∈ [(LAcc.store [5], 0), (.ldf false, 31), (.ldf false, 32)], (stM x.1 none x.2).remotes.find? (·.id == 65) = some (rem x.1 none) ∧
      (stM x.1 none x.2).reaches (rem x.1 none) = true ∧ ((rem x.1 none).acc.isDec && (stM x.1 none x.2).ringFull ⟨0, 1⟩ 0x2000) = false) ∧
    (stM (.store [5]) none 0).lcond ⟨0, 1⟩ 0x2000 (.store [5]) = true ∧ (stM (.ldf false) none 0).lcond ⟨0, 1⟩ 0x2000 (.ldf false) = false ∧
    ((stM (.ldf false) none 31).parked.filter fun q => q.dst == ⟨0, 1⟩ && q.src != q.dst).length < 32 ∧
    32 ≤ ((stM (.ldf false) none 32).parked.filter fun q => q.dst == ⟨0, 1⟩ && q.src != q.dst).length ∧
    (stM (.ldf false) none 0).rreplies.find? (·.id == 66) = some ⟨66, 7, 0, 5, 0, .regs [20] 4 false, false, 0, false, true, false, []⟩ ∧
    (∀ x ∈ [LAcc.ldf false, .depdec 1 none false], (stM x (some 0) 0).remotes.find? (·.id == 65) = some (rem x (some 0)) ∧
      (rem x (some 0)).refused = some 0 ∧ 0 + 64 ≤ (stM x (some 0) 0).now 0) ∧
    (∀ x ∈ [(WaitKind.reg, (0 : DWord)), (.reg, 0x8000000000000000), (.sync, 0x8000000000000000)], ∀ s : State,
      s = { st (waiter x.1 x.2) with cycle := Vector.replicate 6 64 } → s.agent? 7 = some (waiter x.1 x.2) ∧
      ((waiter x.1 x.2).slot false).bind (·.wait) = some ⟨x.1, 0, 0⟩ ∧ x.1.limited = true ∧ waitLimit (waiter x.1 x.2).waitlim = 64 ∧
      0 + 64 ≤ s.now 0 ∧ ((waiter x.1 x.2).waitlim.getLsbD 63 = x.2.getLsbD 63)) ∧
    (∀ s : State, s = st (waiter .sync 0x8000000000000000) → ∃ q, ((s.withdraw 7 1).agent? 7).bind (·.slot false) = some q ∧
      (1 : Mask) &&& ~~~q.done ≠ 0) := by
  refine ⟨by decide, fun w h => ⟨(walk_ends h).2.1 (by decide +kernel), (walk_ends h).1 (by decide +kernel)⟩,
    fun w h => (walk_ends h).2.2 (by decide +kernel), rfl, by decide, by decide, by decide, by decide, by decide, rfl, by decide, ?_, ?_⟩
  · intro x hx s hs
    simp only [List.mem_cons, List.not_mem_nil, or_false] at hx
    subst hs
    rcases hx with rfl | rfl | rfl <;> exact ⟨rfl, rfl, rfl, by decide, by decide, by decide⟩
  · rintro s rfl; exact ⟨_, rfl, by decide⟩

/-- How a command's work ends. -/
def outKind {α : Type} : EOut α → Nat
  | .ok .. => 0
  | .fault .. => 1
  | .wait _ => 2
theorem out_ok {α : Type} {w : EOut α} (h : outKind w = 0) : ∃ u t x, w = .ok u t x := by cases w <;> simp_all [outKind]
theorem out_fault {α : Type} {w : EOut α} (h : outKind w = 1) : ∃ u t x v, w = .fault u t x v := by cases w <;> simp_all [outKind]
theorem out_wait {α : Type} {w : EOut α} (h : outKind w = 2) : ∃ l, w = .wait l := by cases w <;> simp_all [outKind]
/-- A command's checks have given it parts to perform. -/
def hasWork : EOut CmdPhase → Bool
  | .ok _ _ (.working _) => true
  | _ => false
theorem has_work {w : EOut CmdPhase} (h : hasWork w = true) : ∃ u t x, w = .ok u t (.working x) := by
  unfold hasWork at h
  split at h
  · exact ⟨_, _, _, rfl⟩
  · cases h

/-- The first command of the unit. -/
def cmd (op : CmdOp) (ph : CmdPhase) (cls : Nat) : Cmd := ⟨70, 7, 0, ⟨0, 0⟩, 1, .user, cls, 1, false, (30, 31), op, 9, ph, []⟩
/-- The state with it: records of a copy of one byte at `0x6000` (to `0x7000` of the own store) and `0x6040` (from translated
memory), the header of an empty open queue at `0x10040` of translated memory, `h` the home of its line. -/
def stC (c : Cmd) (h : Home) : State :=
  [(0x1800, 0x7000), (0x1801, 0x00FF0000), (0x1802, 1), (0x1803, 1), (0x1804, 1), (0x1810, 0x10060), (0x1812, 1), (0x1813, 1),
    (0x1814, 1)].foldl (fun s x => s.putLword ⟨0, 0⟩ x.1 x.2) { st U with
  cmds := [c], mem := [(0x10060, 1)], homes := [(512, h)] }
/-- An address of the own store. -/
def ownAt (d : DWord) : DWord := 0x00FF000000000000 + d
/-- A copy from a record to a record. -/
def cpy (d e : DWord) : CmdOp := .copy 1 d e none
/-- The checks of a copy. -/
def cpyRun (d e : DWord) (h : Home) : EOut CmdPhase := copyRun (cmd (cpy d e) .waiting 0) 1 d e none (stC (cmd (cpy d e) .waiting 0) h) 9
def tgen1 : CmdOp := .tgen false 0x10040 0x00FF000000007000 1 0 1 0 4
def cmdT : Cmd := cmd tgen1 (.reserved 0 1 0 0) 2
def cmdX : Cmd := cmd (.tgenClose 0x10040) .waiting 2
/-- The work of a copy of one byte from translated memory, of one from an address outside the address space, and of a command that
is done. -/
def work1 (src : DWord) : EWork := ⟨0, 0, none, false, [⟨some (src, 1), .copy (ownAt 0x7000), none⟩], [], none, [], [], []⟩
def work0 : EWork := ⟨0, 0, none, false, [], [], none, [], [], []⟩
/-- How some steps of a command's work end. -/
def stepKind (r : State × DWord × EWork × EEnd) : Nat := match r.2.2.2 with | .more => 0 | .held _ => 1 | .fault .. => 2

theorem test_EnginesExecute_hyps :
    (∀ op ∈ [cpy (ownAt 0x6000) (ownAt 0x6040), .gather 0x00FF000000007000 0 0 1, .scadd 0x00FF000000007000 0 0 1, .quant 0 0, tgen1],
      ∀ ph ∈ [CmdPhase.waiting, .heading [[]], .working work0, .finished 0x26 5],
        (stC (cmd op ph 0) Home.fresh).cmds.find? (·.id == 70) = some (cmd op ph 0) ∧
        (stC (cmd op ph 0) Home.fresh).cmdTurn (cmd op ph 0) = true) ∧
    (∃ u t x, cpyRun (ownAt 0x6000) (ownAt 0x6040) Home.fresh = .ok u t (.working x)) ∧
    (∃ u t x v, cpyRun (ownAt 0x7000) (ownAt 0x6040) Home.fresh = .fault u t x v) ∧
    (∃ l, cpyRun 0x10040 (ownAt 0x6000) { Home.fresh with owner := some 1 } = .wait l) ∧
    (∃ u t ph, tgenRun (cmd tgen1 .waiting 2) 0x10040 0x00FF000000007000 1 0 1 0 4 (stC (cmd tgen1 .waiting 2) Home.fresh) 9 =
      .ok u t ph) := by
  refine ⟨?_, has_work (by decide +kernel), out_fault (by decide +kernel), out_wait (by decide +kernel), out_ok (by decide +kernel)⟩
  intro op hop ph hph
  simp only [List.mem_cons, List.not_mem_nil, or_false] at hop hph
  rcases hop with rfl | rfl | rfl | rfl | rfl <;> rcases hph with rfl | rfl | rfl | rfl <;> exact ⟨rfl, rfl⟩

/-- How many steps are made is a free choice; one step of a work of one part reads it, and is held up or faults there. -/
theorem test_EnginesExecute_steps :
    (∀ c n v, Cmd.steps c (2 * work0.todo.length - n) work0 v 9 = (v, 9, work0, .more)) ∧
    stepKind ((cmd (cpy 0 0) (.working (work1 0x10060)) 0).steps 1 (work1 0x10060)
      (stC (cmd (cpy 0 0) (.working (work1 0x10060)) 0) { Home.fresh with owner := some 1 }) 9) = 1 ∧
    stepKind ((cmd (cpy 0 0) (.working (work1 0)) 0).steps 1 (work1 0x8000000000000000)
      (stC (cmd (cpy 0 0) (.working (work1 0x8000000000000000)) 0) Home.fresh) 9) = 2 := by
  refine ⟨fun c n v => by simp [work0, Cmd.steps], ?_, ?_⟩ <;>
    simp [Cmd.steps, State.chooseNat, Nat.mod_one, EWork.next, work1] <;> decide +kernel

/-- The header at `0x10040` is read and then updated with `tail` = `resv` = 0. -/
def queueOk (c : Cmd) (o : HeadOp) : Bool :=
  match eHeadRead c 0x10040 (stC c Home.fresh) 9 with
  | .ok u t h => h.ok && h.tail == 0 && h.resv == 0 &&
    (match eHeader c 0x10040 o u t with
      | .ok _ _ h => h.ok && h.tail == 0 && h.resv == 0
      | _ => false)
  | _ => false
theorem queue_ok {c : Cmd} {o : HeadOp} (h : queueOk c o = true) :
    ∃ u t h0 u2 t2 q, eHeadRead c 0x10040 (stC c Home.fresh) 9 = .ok u t h0 ∧ h0.ok = true ∧ h0.tail = 0 ∧ h0.resv = 0 ∧
      eHeader c 0x10040 o u t = .ok u2 t2 q ∧ q.ok = true ∧ q.tail = 0 ∧ q.resv = 0 := by
  unfold queueOk at h
  split at h
  · rename_i u t h0 h1
    simp only [Bool.and_eq_true, beq_iff_eq] at h
    obtain ⟨⟨⟨a, b⟩, c'⟩, h⟩ := h
    split at h
    · rename_i u2 t2 q h2
      simp only [Bool.and_eq_true, beq_iff_eq] at h
      exact ⟨u, t, h0, u2, t2, q, h1, a, b, c', h2, h.1.1, h.1.2, h.2⟩
    · cases h
  · cases h

theorem test_EnginesExecute_queues :
    cmdT.op = tgen1 ∧ cmdT.phase = .reserved 0 1 0 0 ∧ (stC cmdT Home.fresh).cmdWin 70 = false ∧
    (cmdT.wins.any fun w => decide (2 ^ 60 ≤ w.1)) = false ∧ (stC cmdX Home.fresh).cmdTime cmdX = 9 ∧
    (stC cmdT Home.fresh).cmdTurn cmdT = true ∧ headerAt cmdX 0x10040 (stC cmdX Home.fresh) = true ∧
    (stC cmdX Home.fresh).cmdTurn cmdX = true ∧
    (∃ u t h0 u2 t2 q, eHeadRead cmdT 0x10040 (stC cmdT Home.fresh) 9 = .ok u t h0 ∧ h0.ok = true ∧ h0.tail = 0 ∧ h0.resv = 0 ∧
      eHeader cmdT 0x10040 (.publish 0 1 ((0 : BitVec 8) != 0)) u t = .ok u2 t2 q ∧ q.ok = true ∧ q.tail = 0 ∧ q.resv = 0) ∧
    (∃ u t h0 u2 t2 q, eHeadRead cmdX 0x10040 (stC cmdX Home.fresh) 9 = .ok u t h0 ∧ h0.ok = true ∧ h0.tail = 0 ∧ h0.resv = 0 ∧
      eHeader cmdX 0x10040 .close u t = .ok u2 t2 q ∧ q.ok = true ∧ q.tail = 0 ∧ q.resv = 0) :=
  ⟨rfl, rfl, rfl, rfl, rfl, rfl, by decide, rfl, queue_ok (by decide +kernel), queue_ok (by decide +kernel)⟩

/-- A producer of the unit. -/
def pend (k : PendKind) : Pending := ⟨71, 7, 0, ⟨0, 0⟩, k⟩

theorem test_CommandsAndProducersComplete_hyps :
    (∀ x ∈ [(0 : BitVec 8), 0x26], ∀ s : State, ∀ c : Cmd, c = cmd (.quant 0 0) (.finished x 5) 2 → s = stC c Home.fresh →
      s.cmds.find? (·.id == 70) = some c ∧ c.phase = .finished x 5 ∧ s.cmdWin 70 = false) ∧
    (∀ k ∈ [PendKind.value 5 [20, 21], .wmprop [5, 6] [20, 21] 22 2, .hsift .i32 true 2 0x2000 7 8 [20, 21]], ∀ s : State,
      s = { st U with pendings := [pend k] } → s.pendings.find? (·.id == 71) = some (pend k) ∧
      ∀ q ∈ s.pendings, q.id < 71 → q.core = (pend k).core → ∀ a b c d e f g, q.kind ≠ .hsift a b c d e f g) := by
  refine ⟨?_, ?_⟩
  · rintro x - s c rfl rfl; exact ⟨rfl, rfl, rfl⟩
  · rintro k - s rfl
    refine ⟨rfl, fun q hq h => ?_⟩
    rw [List.mem_singleton.1 hq] at h
    exact absurd h (Nat.lt_irrefl 71)

/-- A tile instruction of the warp, and the state with it, a tile load or store of class 3 and a warp's tiles. -/
def mop (k : MKind) : MOp := ⟨72, 7, ⟨0, 32⟩, .user, 1, 0, 9, k, false, [], 0⟩
def tcmd (op : CmdOp) (ph : CmdPhase) : Cmd := ⟨73, 7, 0, ⟨0, 32⟩, 1, .user, 3, 1, false, (30, 31), op, 9, ph, []⟩
def stK (k : MKind) (c : Cmd) : State := { st warp with mops := [mop k], cmds := [c] }
/-- One row of four bytes at `0x10040`. -/
def row1 : List (List (DWord × Seg)) := [[(0x10040, .mem 0x10040 4 placeLeaf)]]
def send1 (sent : Nat) (f : Option Nat) : MKind := .accsend 0 .i8 true false 1 1 ⟨0, 32⟩ 0x2000 0x2100 5 sent f

theorem test_TilesExecute_hyps :
    (∀ c ∈ [tcmd (.tld 0 0x10040 64 0x40101 1 72) .waiting, tcmd (.tld 0 0x10040 64 0x40101 1 72) (.working work0),
        tcmd (.tld 0 0x10040 64 0x40101 1 72) (.readPart [(0, 0, 5)] 0x20 0x10040),
        tcmd (.tst 0 0x10040 64 0x40101 1 72) (.working work0), tcmd (.tst 0 0x10040 64 0x40101 1 72) .waiting], ∀ s : State, s = stK (.tload 0 73) c →
      s.cmds.find? (·.id == 73) = some c ∧ s.cmdTurn c = true ∧ s.mops.find? (·.id == 72) = some (mop (.tload 0 73)) ∧
      s.hazard (mop (.tload 0 73)) = false) ∧
    (∀ k ∈ [MKind.tzero 0, .accld 0 row1 0 0 1 1 1, .accst 0 row1 0 0 1 1 1, .tsave [] 1 [] 0, send1 0 none, send1 1 none,
        send1 1 (some 74)], ∀ s : State, s = stK k (cmd (.quant 0 0) .waiting 1) → s.mops.find? (·.id == 72) = some (mop k) ∧
      s.hazard (mop k) = false ∧ s.issuerReady 7 72 = true ∧ (s.tilesOf ⟨0, 32⟩).bad.getLsbD 8 = false ∧
      (∀ r ∈ s.remotes, r.mop ≠ some 72) ∧ s.sendRoom (mop k) ⟨0, 32⟩ 1 = 1 ∧ (∀ r ∈ s.remotes, r.id ≠ 74) ∧ ∀ r ∈ s.rreplies, r.id ≠ 74) ∧
    (∃ x f bad, (tiles0.perform (.tzero 0)) = some (x, f, bad)) ∧
    (∀ k ∈ [MKind.accld 0 row1 0 0 1 1 1, .accst 0 row1 0 0 1 1 1, .tsave [] 1 [] 0],
      ∃ u t bad, memMop (mop k) tiles0 (stK k (cmd (.quant 0 0) .waiting 1)) 9 = .ok u t bad) := by
  refine ⟨?_, ?_, ⟨_, _, _, rfl⟩, ?_⟩
  · intro c hc s hs
    simp only [List.mem_cons, List.not_mem_nil, or_false] at hc
    subst hs
    rcases hc with rfl | rfl | rfl | rfl | rfl <;> exact ⟨rfl, rfl, rfl, by decide⟩
  · intro k hk s hs
    simp only [List.mem_cons, List.not_mem_nil, or_false] at hk
    subst hs
    rcases hk with rfl | rfl | rfl | rfl | rfl | rfl | rfl <;>
      exact ⟨rfl, by decide, rfl, by decide, fun _ h => (List.not_mem_nil h).elim, by decide +kernel, fun _ h => (List.not_mem_nil h).elim,
        fun _ h => (List.not_mem_nil h).elim⟩
  · intro k hk
    simp only [List.mem_cons, List.not_mem_nil, or_false] at hk
    rcases hk with rfl | rfl | rfl
    · exact out_ok (by decide +kernel)
    · refine out_ok ?_
      simp only [memMop, mop, writeRows]
      split <;> decide +kernel
    · exact out_ok (by decide +kernel)

/-- A leaf descriptor, a room of it with the unit as its caller, and the unit on the way to a cluster. -/
def leaf1 : Leaf := ⟨0x3000, 0x10000, 0, 0, 64, 0, 1, 1, 1, []⟩
def room1 : Room := ⟨0, 3, leaf1, 5, 1, [⟨7, 0, 0⟩], true⟩
def UT2 : Agent := { U with status := .travelling, place := ⟨1, 0, 0⟩ }
def stI (home : Bool) (w : List Arrival) : State := { st UT2 with rooms := [room1], moves := [⟨75, 7, 0, home, some 4⟩], arrivals := w }

theorem test_InnEvents_hyps :
    room1 ∈ (stI false []).rooms ∧ ((stI false []).noteRooms 0).pickRoom 0 = some (room1, 32) ∧
    sget 0 0 (stI false []).departs ≠ (stI false []).now 0 + 1 ∧ sget 0 0 ({ stI false [] with departs := [(0, 1)] } : State).departs = (stI false []).now 0 + 1 ∧
    (∀ x ∈ [(true, []), (false, []), (false, [(⟨0, 8, none⟩ : Arrival)])], ∀ s : State, s = stI x.1 x.2 →
      s.moves.find? (·.id == 75) = some ⟨75, 7, 0, x.1, some 4⟩ ∧ s.agent? 7 = some UT2) ∧
    (stI false []).arrivals.any (·.cluster == 0) = false ∧ (stI false []).bestSlot 0 = some ⟨0, 1, 0⟩ ∧
    (stI false [⟨0, 8, none⟩]).arrivals.any (·.cluster == 0) = true ∧
    (∃ w, (stI false [⟨0, 8, none⟩]).physWrite 0 ((stI false [⟨0, 8, none⟩]).travAddr UT2.home)
      ((stI false [⟨0, 8, none⟩]).travRec UT2) = .ok w) ∧
    (∀ x ∈ [none, some (7, 0, 30)], (stI false [⟨0, 7, x⟩]).arrivals.find? (·.cluster == 0) = some ⟨0, 7, x⟩ ∧
      (stI false [⟨0, 7, x⟩]).bestSlot 0 = some ⟨0, 1, 0⟩ ∧ (stI false [⟨0, 7, x⟩]).agent? 7 = some UT2) := by
  refine ⟨by decide, by decide +kernel, by decide, by decide, ?_, by decide, by decide +kernel, by decide, ?_, ?_⟩
  · rintro x - s rfl; exact ⟨rfl, rfl⟩
  · have h : ∀ r : AtHome State, (match r with | .ok _ => true | .error _ => false) = true → ∃ w, r = .ok w := by
      intro r h; cases r
      · cases h
      · exact ⟨_, rfl⟩
    exact h _ (by decide +kernel)
  · intro x hx
    simp only [List.mem_cons, List.not_mem_nil, or_false] at hx
    rcases hx with rfl | rfl <;> exact ⟨rfl, by decide +kernel, rfl⟩

/-- 64-bit words in memory. -/
def cells (a : Nat) (ws : List DWord) : List Host.Cell :=
  (ws.flatMap fun w => toBytes 8 w.toNat).zipIdx.filterMap fun x => if x.1 = 0 then none else some (a + x.2, x.1)
/-- Tables that map the first 64 GiB one to one. -/
def tables : List Host.Cell := cells 0 [0x2001] ++ cells 0x2000 [0x37B]
/-- Queue 0 of job 1, with one record in its ring in host memory. -/
def queue0 (st : QState) (head tail : Word) (ph : Option Nat) : Queue :=
  ⟨0, st, 0x800000000000, 64, 1, 0, head, tail, 0, 0, 0, ph, 0, 80, []⟩
/-- The state with it; at `0x40000` of memory lie some words. -/
def stH (ws node : List DWord) (ph : Option Nat) : State := { st U with
  mem := tables ++ cells 0x40000 node ++ cells 0x800000000000 ws, queues := [queue0 .running 0 1 ph], launches := []
  tlb := [(64, ⟨1, false, 0, 36, 0x37B, 0x2000⟩)] }

/-- A launch of two units or groups. -/
def launch2 (wide : Bool) : Launch := { launch5 with wide := wide, count := 2, sent := 1, last := some 0 }
/-- A node that a done node leads to, or not; a node of kind `k`. -/
def graph1 (k : DWord) (live : BitVec 4) : Graph := ⟨90, 1, 0, 5,
  [(.done live, [2, 0, 0xFFFFFFFFFFFF0001, 0, 0, 0, 0, 0]), (.waiting, [k, 0x40000, 0xFFFFFFFFFFFFFFFF, 0, 0, 0, 0, 0])], none, true, false, 9⟩
def stG (k : DWord) (live : BitVec 4) : State := { stH [] [5 * 65536 + 1, 0x10000, 1] none with graphs := [graph1 k live] }
/-- What a node reads. -/
def nodeRead (k : DWord) (n : Nat) : EOut (List Byte) := (stG k 1).edgeRead (edgeClient 80 1 (stG k 1).edgeTime []) 0x40000 n
/-- A swapped warp, and sixteen resident ones of the same core. -/
def swapped : Agent := { warp with uid := 30, status := .swapped, place := ⟨0, 32, 20⟩ }
def resident (k : Nat) : Agent := { warp with uid := 40 + k, place := ⟨0, 32, k⟩ }

/-- How a read that needs no more ends. -/
def readOk (w : EOut (List Byte)) (q : State → List Byte → Bool) : Bool := match w with | .ok u _ bs => q u bs | _ => false
theorem read_ok {w : EOut (List Byte)} {q : State → List Byte → Bool} (h : readOk w q = true) :
    ∃ u t bs, w = .ok u t bs ∧ q u bs = true := by
  cases w with
  | ok u t bs => exact ⟨u, t, bs, rfl, h⟩
  | _ => cases h

theorem out_unit {w : EOut Unit} (h : outKind w = 0) : ∃ u t, w = .ok u t () := by cases w <;> simp_all [outKind]

theorem test_LaunchEvents_hyps :
    (∀ w ∈ [true, false], ∀ s : State, s = { st U with launches := [launch2 w] } → s.launches.find? (·.id == 5) = some (launch2 w) ∧
      (launch2 w).cancelled = false ∧ (launch2 w).sent < (launch2 w).count ∧ s.nextCluster (launch2 w) = some 0 ∧
      s.bestCore 0 1 = some 32 ∧ s.bestSlot 0 = some ⟨0, 1, 0⟩) ∧
    (∀ s : State, ∀ e : RingEntry, e = ⟨⟨0, 0⟩, 0x2000, 9, 1, none, false⟩ → s = { st U with rings := [e] } →
      s.ringOf ⟨0, 0⟩ = e :: [] ∧ ((List.range 15).find? fun i => !s.slotTaken ⟨0, 0, i⟩) = some 1) ∧
    (∀ g ∈ [none, some (90, 0)], ∀ s : State, ∀ l : Launch, l = { launch5 with graph := g } → s = { st V with agents := [], launches := [l] } →
      s.launches.find? (·.id == 5) = some l ∧ s.launchOver l = true ∧ s.hostLeft = false) ∧
    (∀ s : State, s = { stG 2 1 with launches := [{ launch5 with graph := some (90, 0) }] } →
      s.graphs.find? (·.id == 90) = some (graph1 2 1) ∧ ∃ w t, (s.nodeDone 90 0 (.done 0xF) 9).readPredicates 90 2 = .ok w t ()) ∧
    (∀ x ∈ [((2 : DWord), (0 : BitVec 4)), (2, 1), (1, 1), (0, 1)], (stG x.1 x.2).graphs.find? (·.id == 90) = some (graph1 x.1 x.2) ∧
      (graph1 x.1 x.2).nodes[1]? = some (.waiting, [x.1, 0x40000, 0xFFFFFFFFFFFFFFFF, 0, 0, 0, 0, 0]) ∧
      (stG x.1 x.2).queueOf 0 = some (queue0 .running 0 1 none)) ∧
    nodeRuns (graph1 2 0).nodes 1 = some false ∧ nodeRuns (graph1 2 1).nodes 1 = some true ∧ nodeRuns (graph1 1 1).nodes 1 = some true ∧
    nodeRuns (graph1 0 1).nodes 1 = some true ∧
    (∀ x ∈ [((2 : DWord), (0 : BitVec 4), NodeState.skipped), (2, 1, .done 0xF)],
      ∃ w t, ((stG x.1 x.2.1).nodeDone 90 1 x.2.2 0).readPredicates 90 2 = .ok w t ()) ∧
    (∃ w t, (stG 1 1).readPredicates 90 2 = .ok w t ()) ∧ (graph1 1 1).nextRead = some (1, (graph1 1 1).nodes[1].2) ∧
    (∃ u t bs, nodeRead 1 4 = .ok u t bs ∧ true = true) ∧
    (∃ u t c v, (stG 1 1).edgeRead (edgeClient 80 1 (stG 1 1).edgeTime []) 0xFF000000000000 4 = .fault u t c v) ∧
    (∃ u t bs, nodeRead 0 64 = .ok u t bs ∧ ((CRec.of bs).op == 1 && !u.malformed 1 bs && !u.badMask 1 (CRec.of bs) &&
      !(CRec.of bs).indir) = true) ∧
    (∀ s : State, s = { st U with agents := [swapped] } → s.oldestSwapped ⟨0, 32⟩ = some swapped ∧ s.residents ⟨0, 32⟩ < 16) ∧
    (∀ s : State, s = { st U with agents := swapped :: (List.range 16).map resident, cycle := Vector.replicate 6 2048 } →
      s.oldestSwapped ⟨0, 32⟩ = some swapped ∧ 16 ≤ s.residents ⟨0, 32⟩ ∧
      (s.agents.find? fun a => a.wide && a.place == ⟨0, 32, 3⟩ && (a.status == .issuing || a.status == .halted)) = some (resident 3) ∧
      (resident 3).idleSince + 2048 ≤ s.now 0 ∧ (resident 3).acks = 0 ∧ s.producing (resident 3) = false ∧
      s.areaUsed ⟨0, 32⟩ 1 = false ∧ swapped.area = 0) := by
  refine ⟨?_, ?_, ?_, ?_, ?_, by decide +kernel, by decide +kernel, by decide +kernel,
    by decide +kernel, ?_, out_unit (by decide +kernel), by decide +kernel, read_ok (q := fun _ _ => true) (by decide +kernel),
    out_fault (by decide +kernel),
    read_ok (q := fun u bs => (CRec.of bs).op == 1 && !u.malformed 1 bs && !u.badMask 1 (CRec.of bs) && !(CRec.of bs).indir)
      (by decide +kernel), ?_, ?_⟩
  · intro w hw s hs
    simp only [List.mem_cons, List.not_mem_nil, or_false] at hw
    subst hs
    rcases hw with rfl | rfl <;> exact ⟨rfl, rfl, by decide, by decide +kernel, by decide +kernel, by decide +kernel⟩
  · rintro s e rfl rfl; exact ⟨by decide, by decide +kernel⟩
  · intro g hg s l hl hs
    simp only [List.mem_cons, List.not_mem_nil, or_false] at hg
    subst hl hs
    rcases hg with rfl | rfl <;> exact ⟨rfl, by decide, by decide +kernel⟩
  · rintro s rfl; exact ⟨rfl, out_unit (by decide +kernel)⟩
  · intro x hx
    simp only [List.mem_cons, List.not_mem_nil, or_false] at hx
    rcases hx with rfl | rfl | rfl | rfl <;> exact ⟨rfl, rfl, rfl⟩
  · intro x hx
    simp only [List.mem_cons, List.not_mem_nil, or_false] at hx
    rcases hx with rfl | rfl <;> exact out_unit (by decide +kernel)
  · rintro s rfl; exact ⟨rfl, by decide +kernel⟩
  · rintro s rfl; exact ⟨rfl, by decide +kernel, by decide +kernel, by decide, rfl, by decide +kernel, by decide +kernel, rfl⟩

/-- The unit with a pending cancel, parked; a coach lane that is cancelled, parked. -/
def UP : Agent := { UX with slotA := some { pathOf UX with wait := some ⟨.sync, 0, 0⟩, parked := 1 } }
def coachP : Agent := { coach with
  lanes := { lane0 with cancelled := true } :: List.replicate 31 lane0
  slotA := some { pathOf coach with wait := some ⟨.sync, 0, 0⟩ } }
/-- The launch of a stalled unit, and the supervisor of cluster 0. -/
def launchQ (q : Option Nat) : Launch := { launch5 with quietSince := q }
def stalled (q : Option Nat) : State := { st UP with launches := [launchQ q], cycle := Vector.replicate 6 65536 }
def sup : Agent := { V with kind := .supervisor, place := ⟨0, 0, 15⟩ }

theorem test_CancelEvents_hyps :
    ((st UP).agent? 7 = some UP ∧ UP.slot false = some (pathOf UP) ∧ (pathOf UP).wait = some ⟨.sync, 0, 0⟩ ∧ WaitKind.sync.cancels = true ∧
      (pathOf UP).mode = .run ∧ UP.kind ≠ .coach ∧ (st UP).mayCancel UP = true ∧
      (∃ q, (((st UP).withdraw 7 1).agent? 7).bind (·.slot false) = some q ∧ (1 : Mask) &&& ~~~q.done ≠ 0) ∧
      ∃ t, (st UP).actCancel 7 false = some t) ∧
    ((st coachP).agent? 7 = some coachP ∧ coachP.kind = .coach ∧ (pathOf coachP).act = false ∧ (pathOf coachP).trap = none ∧
      (st coachP).leavers coachP 1 = 1 ∧ ∃ q, (((st coachP).withdraw 7 1).agent? 7).bind (·.slot false) = some q) ∧
    (st U).stalled launch5 = false ∧ (∀ q ∈ [none, some 0], (stalled q).launches.find? (·.id == 5) = some (launchQ q) ∧
      (stalled q).stalled (launchQ q) = true ∧ (launchQ q).quietSince = q ∧ (launchQ q).reported = false ∧
      0 + 65536 ≤ (stalled q).now (launchQ q).lowest ∧ ((stalled q).quietReports.filter (·.1 == (launchQ q).lowest)).length < 64) ∧
    (∀ s : State, s = { st sup with quietReports := [(0, 5)], quietDropped := [0] } → s.quietReports.find? (·.1 == 0) = some (0, 5) ∧
      (s.agents.find? fun a => a.kind == .supervisor && a.place == ⟨0, 0, 15⟩ && a.status == .issuing) = some sup ∧
      sup.slotA = some (pathOf sup) ∧ (pathOf sup).act = false ∧ (pathOf sup).wait = none ∧ (pathOf sup).trap = none ∧
      (pathOf sup).mode = .run) := by
  refine ⟨⟨rfl, rfl, rfl, rfl, rfl, by decide, by decide, ⟨_, rfl, by decide⟩, _, rfl⟩,
    ⟨rfl, rfl, rfl, rfl, by decide, _, rfl⟩, by decide, ?_, ?_⟩
  · intro q hq
    simp only [List.mem_cons, List.not_mem_nil, or_false] at hq
    rcases hq with rfl | rfl <;> exact ⟨rfl, by decide, rfl, rfl, by decide +kernel, by decide⟩
  · rintro s rfl; exact ⟨rfl, rfl, rfl, rfl, rfl, rfl, rfl⟩

/-- A queue comes to a command of an OP, with what is asked of its queue, its record and the state. -/
def startsWith (op : Nat) (s : State) (f : Queue → CRec → State → Bool) : Bool :=
  match s.queueOf 0 with
  | some x => (x.state == .running) && (x.head != x.tail) && (match s.headBytes x with
    | .ok (v, bs, false) => !v.malformed x.job bs && (CRec.of bs).op == op && v.mayStart x (CRec.of bs) && !v.badMask x.job (CRec.of bs) &&
      f x (CRec.of bs) (v.updQueue 0 fun x => { x with state := .running, head := x.head + 1, wins := [] })
    | _ => false)
  | none => false
theorem starts {op : Nat} {s : State} {f : Queue → CRec → State → Bool} (h : startsWith op s f = true) :
    ∃ x r u, Starts op 0 s x r u ∧ f x r u = true := by
  unfold startsWith at h
  split at h
  · rename_i x h1
    simp only [Bool.and_eq_true, beq_iff_eq, bne_iff_ne] at h
    obtain ⟨⟨h2, h3⟩, h⟩ := h
    split at h
    · rename_i v bs h4
      simp only [Bool.and_eq_true, Bool.not_eq_true', beq_iff_eq] at h
      obtain ⟨⟨⟨⟨h5, h6⟩, h7⟩, h9⟩, h8⟩ := h
      exact ⟨x, CRec.of bs, _, ⟨h1, .inl h2, h3, bs, v, h4, rfl, h5, h6, h7, h9, rfl⟩, h8⟩
    · cases h
  · cases h

/-- A record: OP, counter 5, flags and value, then its words. -/
def record (op flags value : Nat) (ws : List DWord) : List DWord :=
  BitVec.ofNat 64 (op + flags * 256 + 5 * 65536 + value * 2 ^ 32) :: ws
/-- Two nodes. -/
def nodes1 : List DWord := [2, 0, 0xFFFFFFFFFFFF0001, 0, 0, 0, 0, 0, 0x10002, 0, 0xFFFFFFFFFFFFFFFF, 0, 0, 0, 0, 0]
/-- What the queue reads for its job. -/
def reads (x : Queue) (u : State) (va : DWord) (n : Nat) (f : State → List Byte → Bool) : Bool :=
  readOk (u.edgeRead (edgeClient x.id x.job u.edgeTime x.wins) va n) f

/-- The level of a command is not cancelled; it is. -/
def going (x : Queue) (_ : CRec) (u : State) : Bool := !u.levelGone x.job x.phase none
def gone (x : Queue) (_ : CRec) (u : State) : Bool := u.levelGone x.job x.phase none
/-- The queue in a cancelled phase. -/
def stCancelled (ws : List DWord) : State := { stH ws [] (some 9) with phases := [⟨9, 0, 5, false, false, true, 0⟩] }

theorem test_QueueCommands_hyps :
    (∃ x r u, Starts 1 0 (stH (record 1 0 7 [0x10000, 1]) [] none) x r u ∧ ((fun _ r _ => !r.indir) x r u) = true) ∧
    (∃ x r u, Starts 1 0 (stH (record 1 4 0 [0x10000, 1, 0, 0x40000]) [3] none) x r u ∧ ((fun x r u => r.indir && !u.levelGone x.job x.phase none && reads x u (r.x 3) 4 (fun _ _ => true)) x r u) = true) ∧
    (∃ x r u, Starts 2 0 (stH (record 2 0 0 [0x40000, 2]) nodes1 none) x r u ∧ ((fun x r u => (r.x 0).toNat % 64 == 0 &&
      reads x u (r.x 0) (64 * (r.x 1).toNat) (fun v bs =>
        (fun ns : List (List DWord) => !(ns.zipIdx.any fun y => !nodeOk ns y.2 y.1) && !v.levelGone x.job x.phase none &&
          outKind (State.readPredicates v.nextId (r.x 1).toNat { v with
            graphs := v.graphs ++ [⟨v.nextId, x.job, 0, r.cnt, ns.map fun ws => (.waiting, ws), x.phase, r.irq, false, 0⟩]
            nextId := v.nextId + 1 }) == 0)
          ((List.range (r.x 1).toNat).map fun i => (List.range 8).map fun k => dwAt bs (64 * i + 8 * k)))) x r u) = true) ∧
    (∃ x r u, Starts 3 0 (stH (record 3 2 0 []) [] none) x r u ∧ ((fun x r _ => x.phase.isNone && r.irq) x r u) = true) ∧
    (∃ x r u, Starts 3 0 (stH (record 3 2 0 []) [] (some 9)) x r u ∧ ((fun x _ _ => x.phase == some 9) x r u) = true) ∧
    (∃ x r u, Starts 3 0 (stH (record 3 0 0 []) [] none) x r u ∧ ((fun _ r _ => !r.irq) x r u) = true) ∧
    (∃ x r u, Starts 4 0 (stH (record 4 0 6 [5]) [] none) x r u ∧ (going x r u) = true) ∧
    (∃ x r u, Starts 5 0 (stH (record 5 0 3 [5]) [] none) x r u ∧ ((fun x r u => going x r u && !(r.x 0).getLsbD 12) x r u) = true) ∧
    (∃ x r u, Starts 5 0 (stH (record 5 0 3 [0x1005]) [] none) x r u ∧ ((fun x r u => going x r u && (r.x 0).getLsbD 12) x r u) = true) ∧
    (∃ x r u, Starts 6 0 (stH (record 6 0 0 [5]) [] none) x r u ∧ (going x r u) = true) ∧
    (∃ x r u, Starts 7 0 (stH (record 7 0 0 [0x50000, 0x40000, 4]) [3] none) x r u ∧ ((fun x r u => going x r u && u.hostCmds.isEmpty) x r u) = true) ∧
    (∃ x r u, Starts 8 0 (stH (record 8 0 0 []) [] none) x r u ∧ (going x r u) = true) ∧
    (∃ x r u, Starts 1 0 (stCancelled (record 1 4 0 [0x10000, 1, 0, 0x40000])) x r u ∧ gone x r u = true) ∧
    (∃ x r u, Starts 4 0 (stCancelled (record 4 0 6 [5])) x r u ∧ gone x r u = true) ∧
    (∃ x r u, Starts 5 0 (stCancelled (record 5 0 3 [5])) x r u ∧ gone x r u = true) ∧
    (∃ x r u, Starts 6 0 (stCancelled (record 6 0 0 [5])) x r u ∧ gone x r u = true) ∧
    (∃ x r u, Starts 7 0 (stCancelled (record 7 0 0 [0x50000, 0x40000, 4])) x r u ∧ gone x r u = true) ∧
    (∃ x r u, Starts 8 0 (stCancelled (record 8 0 0 [])) x r u ∧ gone x r u = true) := by
  refine ⟨starts (f := fun _ r _ => !r.indir) (by decide +kernel),
    starts (f := fun x r u => r.indir && !u.levelGone x.job x.phase none && reads x u (r.x 3) 4 (fun _ _ => true)) (by decide +kernel),
    starts (f := fun x r u => (r.x 0).toNat % 64 == 0 &&
      reads x u (r.x 0) (64 * (r.x 1).toNat) (fun v bs =>
        (fun ns : List (List DWord) => !(ns.zipIdx.any fun y => !nodeOk ns y.2 y.1) && !v.levelGone x.job x.phase none &&
          outKind (State.readPredicates v.nextId (r.x 1).toNat { v with
            graphs := v.graphs ++ [⟨v.nextId, x.job, 0, r.cnt, ns.map fun ws => (.waiting, ws), x.phase, r.irq, false, 0⟩]
            nextId := v.nextId + 1 }) == 0)
          ((List.range (r.x 1).toNat).map fun i => (List.range 8).map fun k => dwAt bs (64 * i + 8 * k)))) (by decide +kernel),
    starts (f := fun x r _ => x.phase.isNone && r.irq) (by decide +kernel),
    starts (f := fun x _ _ => x.phase == some 9) (by decide +kernel),
    starts (f := fun _ r _ => !r.irq) (by decide +kernel),
    starts (f := going) (by decide +kernel),
    starts (f := fun x r u => going x r u && !(r.x 0).getLsbD 12) (by decide +kernel),
    starts (f := fun x r u => going x r u && (r.x 0).getLsbD 12) (by decide +kernel),
    starts (f := going) (by decide +kernel),
    starts (f := fun x r u => going x r u && u.hostCmds.isEmpty) (by decide +kernel),
    starts (f := going) (by decide +kernel),
    starts (f := gone) (by decide +kernel),
    starts (f := gone) (by decide +kernel),
    starts (f := gone) (by decide +kernel),
    starts (f := gone) (by decide +kernel),
    starts (f := gone) (by decide +kernel),
    starts (f := gone) (by decide +kernel)⟩

/-- A host COPY of four bytes. -/
def hcmd (perf : Bool) (w : Option EWork) : HostCmd := ⟨91, 0, 1, none, 5, true, 0x50000, 0x40000, 4, [], perf, false, 9, w⟩
def stY (perf : Bool) (w : Option EWork) : State := { stH [] [3] none with hostCmds := [hcmd perf w] }

/-- How many steps of a COPY are made is a free choice; one step of a work of one part reads it, and is held up at a walk. -/
theorem test_QueueCommands_copies :
    (∀ b ∈ [false, true], ∀ w ∈ [none, some work0, some (work1 0x1000000000)], (stY b w).hostCmds.find? (·.id == 91) = some (hcmd b w) ∧
      (hcmd b w).failed = false ∧ (hcmd b w).performed = b ∧ (stY b w).winReqs = []) ∧
    (∀ c n v t, Cmd.steps c (2 * work0.todo.length - n) work0 v t = (v, t, work0, .more)) ∧
    stepKind ((edgeClient 91 1 9 []).steps 1 (work1 0x1000000000) (stY false none) 9) = 1 := by
  refine ⟨?_, fun c n v t => by simp [work0, Cmd.steps], ?_⟩
  · intro b hb w hw
    simp only [List.mem_cons, List.not_mem_nil, or_false] at hb hw
    rcases hb with rfl | rfl <;> rcases hw with rfl | rfl | rfl <;> exact ⟨rfl, rfl, rfl, rfl⟩
  · simp [Cmd.steps, State.chooseNat, Nat.mod_one, EWork.next, work1] <;> decide +kernel

/-- The record at HEAD is one that puts the queue in ERROR. -/
def headBad (s : State) : Bool :=
  match s.headBytes (queue0 .running 0 1 none) with
  | .ok (v, bs, false) => (v.malformed 1 bs || v.mayStart (queue0 .running 0 1 none) (CRec.of bs) && v.badMask 1 (CRec.of bs)) &&
      (v.queueOf 0).isSome
  | _ => false
theorem head_bad {s : State} (h : headBad s = true) :
    ∃ v bs y, s.headBytes (queue0 .running 0 1 none) = .ok (v, bs, false) ∧
      (v.malformed 1 bs = true ∨ v.mayStart (queue0 .running 0 1 none) (CRec.of bs) = true ∧ v.badMask 1 (CRec.of bs) = true) ∧
      v.queueOf 0 = some y := by
  unfold headBad at h
  split at h
  · rename_i v bs hv
    simp only [Bool.and_eq_true, Bool.or_eq_true, Option.isSome_iff_exists] at h
    exact ⟨v, bs, h.2.choose, hv, h.1, h.2.choose_spec⟩
  · cases h

theorem test_QueuesAnswer_hyps :
    (∀ x ∈ [QState.running, .waiting, .disabled, .error, .stopped], ∀ s : State, s = { st U with queues := [queue0 x 3 5 none] } →
      s.queueOf 0 = some (queue0 x 3 5 none) ∧ s.lifecycle = .production) ∧
    2 ^ 31 ≤ ((4 : Word) - 5).toNat ∧ ((7 : Word) - 5).toNat < 2 ^ 31 ∧ ((67 : Word) - 3).toNat ≤ 64 ∧ 64 < ((68 : Word) - 3).toNat ∧
    ringOk 0x800000000000 2 = true ∧ ringOk 0x800000000000 65536 = true ∧
    (∀ r ∈ [record 9 0 0 [], record 1 0 7 [0x10000, 0x80000000]], ∃ v bs y,
      (stH r [] none).headBytes (queue0 .running 0 1 none) = .ok (v, bs, false) ∧
      (v.malformed 1 bs = true ∨ v.mayStart (queue0 .running 0 1 none) (CRec.of bs) = true ∧ v.badMask 1 (CRec.of bs) = true) ∧
      v.queueOf 0 = some y) ∧
    (st U).counters.find? (·.num == 5) = some ⟨5, 1, false, 6, 0⟩ := by
  refine ⟨?_, by decide, by decide, by decide, by decide, by decide, by decide, ?_, rfl⟩
  · rintro x - s rfl; exact ⟨rfl, rfl⟩
  · intro r hr
    simp only [List.mem_cons, List.not_mem_nil, or_false] at hr
    rcases hr with rfl | rfl <;> exact head_bad (by decide +kernel)

/-- The spill engine of cluster 0 with a command of job 1. -/
def stL (op core ctx : Nat) (as : List Agent) : State := { st U with
  agents := as, spills := [⟨0, some (BitVec.ofNat 64 (op * 2 ^ 62 + core * 1024 + ctx * 32), 1), none, false, false, 0⟩] }
/-- The same with some memory. -/
def stLm (op core ctx : Nat) (as : List Agent) (m : List Host.Cell) : State := { stL op core ctx as with mem := m }
/-- A unit out of its slot; a warp out of its context; one of another job. -/
def US : Agent := { U with status := .spilled }
def warpS : Agent := { warp with status := .spilled }
def U2 : Agent := { U with job := 2 }
/-- A read or a write of memory succeeds. -/
theorem home_ok {α : Type} {w : AtHome α} {f : α → Bool} (h : (match w with | .ok x => f x | .error _ => false) = true) :
    ∃ x, w = .ok x ∧ f x = true := by
  cases w with
  | ok x => exact ⟨x, rfl, h⟩
  | error _ => cases h

theorem some_ok {α : Type} {w : Option α} {f : α → Bool} (h : (match w with | some x => f x | none => false) = true) :
    ∃ x, w = some x ∧ f x = true := by
  cases w with
  | some x => exact ⟨x, rfl, h⟩
  | none => cases h

/-- The records lie outside the tiers. -/
def noTier (s : State) : State := { s with recbase := 0x0000FFFFFFFF0000 }
/-- The engine waits for the unit; the unit travels, or has arrived in another slot, or is in a handler; one of another job. -/
def waitsFor (s : State) : State := { s with spills := s.spills.map fun x => { x with target := some 7 } }
def UV : Agent := { U with status := .travelling, place := ⟨0, 1, 2⟩ }
def UA : Agent := { U with place := ⟨0, 1, 2⟩ }
def UHand : Agent := { U with slotA := some { pathOf U with act := true, priv := .super } }
/-- The unit to spill stands in the slot, or has arrived where the engine waits for it. -/
def Stands (s : State) (a : Agent) : Prop :=
  (s.spillOf 0).target.bind s.agent? = some a ∧ a.status ≠ .travelling ∧ a.inSlot = true ∨
    (s.spillOf 0).target.bind s.agent? = none ∧ s.inSlotOf ⟨0, 0, 0⟩ = some a

theorem test_SpillEngine_slots :
    (∀ x ∈ [(stL 0 0 0 [U], U), (waitsFor (stL 0 0 0 [UA]), UA)], Commanded x.1 0 0 0 0 1 ∧ Stands x.1 x.2 ∧ x.2.job = 1 ∧
      recordOk (x.1.travAddr x.2.home) 1024 = true ∧ x.2.inHandler = false ∧
      (∃ b, (x.1.unpark x.2).agent? x.2.uid = some b ∧ (!b.finishing && (x.1.unpark x.2).settled b &&
        (match (x.1.unpark x.2).physWrite 0 ((x.1.unpark x.2).travAddr b.home) ((x.1.unpark x.2).travRec b) with
          | .ok _ => true | .error _ => false)) = true)) ∧
    (∀ s : State, s = stL 0 0 0 [U2] → Commanded s 0 0 0 0 1 ∧ Stands s U2 ∧ U2.job ≠ 1) ∧
    (∀ s : State, s = noTier (stL 0 0 0 [U]) → Commanded s 0 0 0 0 1 ∧ Stands s U ∧ U.job = 1 ∧ recordOk (s.travAddr U.home) 1024 = false) ∧
    (∀ s : State, s = stL 0 0 0 [UHand] → Commanded s 0 0 0 0 1 ∧ Stands s UHand ∧ UHand.job = 1 ∧
      recordOk (s.travAddr UHand.home) 1024 = true ∧ UHand.inHandler = true) ∧
    (∀ as ∈ [[], [UV], [UA], [{ UV with job := 2 }]], ∀ s : State, s = stL 0 0 0 as → Commanded s 0 0 0 0 1 ∧
      (s.spillOf 0).target.bind s.agent? = none ∧ s.inSlotOf ⟨0, 0, 0⟩ = none ∧ s.homedAt ⟨0, 0, 0⟩ 1 = as.head?) := by
  refine ⟨?_, ?_, ?_, ?_, ?_⟩
  · intro x hx
    simp only [List.mem_cons, List.not_mem_nil, or_false] at hx
    rcases hx with rfl | rfl
    · exact ⟨rfl, .inr ⟨rfl, rfl⟩, rfl, by decide +kernel, rfl, by apply some_ok; decide +kernel⟩
    · exact ⟨rfl, .inl ⟨rfl, by decide, rfl⟩, rfl, by decide +kernel, rfl, by apply some_ok; decide +kernel⟩
  · rintro s rfl; exact ⟨rfl, .inr ⟨rfl, rfl⟩, by decide⟩
  · rintro s rfl; exact ⟨rfl, .inr ⟨rfl, rfl⟩, rfl, by decide +kernel⟩
  · rintro s rfl; exact ⟨rfl, .inr ⟨rfl, rfl⟩, rfl, by decide +kernel, rfl⟩
  · intro as ha s hs
    simp only [List.mem_cons, List.not_mem_nil, or_false] at ha
    rcases ha with rfl | rfl | rfl | rfl <;> subst hs <;> exact ⟨rfl, rfl, rfl, rfl⟩

theorem test_SpillEngine_hyps :
    (∀ s : State, s = stL 1 0 0 [US] → Commanded s 1 0 0 0 1 ∧ s.inSlotOf ⟨0, 0, 0⟩ = none ∧
      recordOk (s.travAddr ⟨0, 0, 0⟩) 1024 = true ∧ (∀ b ∈ s.agents, b.job = 1 ∨ s.holdsSlot ⟨0, 0, 0⟩ b = false) ∧
      s.homedAt ⟨0, 0, 0⟩ 1 = some US ∧ US.status = .spilled ∧
      (∃ r, s.physRead 0 (s.travAddr ⟨0, 0, 0⟩ / 128) 8 = .ok r ∧ travOk r.2 = true) ∧
      ∃ r, (stLm 1 0 0 [US] [((stL 1 0 0 [US]).travAddr ⟨0, 0, 0⟩ + 8 * 0x44, 0x50)]).physRead 0
        ((stL 1 0 0 [US]).travAddr ⟨0, 0, 0⟩ / 128) 8 = .ok r ∧ (!travOk r.2) = true) ∧
    (∀ s : State, s = stL 1 0 0 [U] → Commanded s 1 0 0 0 1 ∧ s.inSlotOf ⟨0, 0, 0⟩ = some U) ∧
    (∀ s : State, s = noTier (stL 1 0 0 [US]) → Commanded s 1 0 0 0 1 ∧ s.inSlotOf ⟨0, 0, 0⟩ = none ∧
      recordOk (s.travAddr ⟨0, 0, 0⟩) 1024 = false) ∧
    (∀ b s, b = { U with job := 2, place := ⟨0, 1, 0⟩ } → s = stL 1 0 0 [b] → Commanded s 1 0 0 0 1 ∧ s.inSlotOf ⟨0, 0, 0⟩ = none ∧
      recordOk (s.travAddr ⟨0, 0, 0⟩) 1024 = true ∧ b.job ≠ 1 ∧ s.holdsSlot ⟨0, 0, 0⟩ b = true) ∧
    (∀ s : State, s = stL 2 32 0 [warp] → Commanded s 2 0 32 0 1 ∧ s.pairAt ⟨0, 32, 0⟩ Agent.admitted = [warp] ∧
      (∀ a ∈ [warp], a.job = 1 ∧ recordOk (s.warpAddr a.place) 9728 = true ∧ a.inHandler = false ∧ ∀ ln ∈ a.lanes, ln.chain = none) ∧
      ∃ b, (s.unpark warp).agent? 7 = some b ∧ (!b.finishing && (s.unpark warp).settled b &&
        (match State.writeWarps 0 [b] (s.unpark warp) with | .ok _ => true | .error _ => false)) = true) ∧
    (∀ s : State, s = stL 2 32 31 [] → Commanded s 2 0 32 31 1 ∧ s.pairAt ⟨0, 32, 31⟩ Agent.admitted = []) ∧
    (∀ s : State, s = stL 3 32 0 [warpS] → Commanded s 3 0 32 0 1 ∧ s.pairAt ⟨0, 32, 0⟩ (fun a => a.status == .spilled) = [warpS] ∧
      warpS.job = 1 ∧ recordOk (s.warpAddr warpS.place) 9728 = true ∧
      (∀ b ∈ s.agents, b.wide = true → b.admitted = true → b.place ≠ warpS.place) ∧
      (∃ r, State.readWarps 0 [warpS] s = .ok r ∧ r.2.isSome = true) ∧
      ∃ r, State.readWarps 0 [warpS] (stLm 3 32 0 [warpS] [((stL 3 32 0 [warpS]).warpAddr warpS.place + 8 * 0x48D, 0x50)]) = .ok r ∧
        r.2.isNone = true) := by
  refine ⟨?_, ?_, ?_, ?_, ?_, ?_, ?_⟩
  · rintro s rfl
    exact ⟨rfl, rfl, by decide +kernel, by decide, rfl, rfl, (by apply home_ok; decide +kernel), by apply home_ok; decide +kernel⟩
  · rintro s rfl; exact ⟨rfl, rfl⟩
  · rintro s rfl; exact ⟨rfl, rfl, by decide +kernel⟩
  · rintro b s rfl rfl; exact ⟨rfl, rfl, by decide +kernel, by decide, rfl⟩
  · rintro s rfl; exact ⟨rfl, rfl, by decide +kernel, by apply some_ok; decide +kernel⟩
  · rintro s rfl; exact ⟨rfl, rfl⟩
  · rintro s rfl
    exact ⟨rfl, rfl, rfl, by decide +kernel, by decide, (by apply home_ok; decide +kernel), by apply home_ok; decide +kernel⟩

theorem test_SystemWrites_hyps : (st U).agent? 7 = some U := rfl

/-- The host has taken line 300; a snoop of it is out. -/
def stX : State := { st U with homes := [(300, { Home.fresh with host := true })], snoops := [(95, 300)] }

/-- Decoder 0 stands at `0x400000000000` of the host's addresses, or decoder 1 alone. -/
def stD : State := { st U with hdm := ⟨#[some 0x400000000000, none], rfl⟩ }
def stD1 : State := { st U with hdm := ⟨#[none, some 0x400000000000], rfl⟩ }

theorem test_HostAccesses_hyps :
    (stD.hdm[0] = some 0x400000000000 ∧ stD.hdm[1] = none ∧ stD1.hdm[1] = some 0x400000000000 ∧ stD1.hdm[0] = none) ∧
    (stD.hostPa (128 * 0x800000012C) = some (128 * 300) ∧
      ∃ r, stD.homeReadAt 300 (stD.htime[sliceOf 300].setWidth 64) 0 = .ok r ∧ true = true) ∧
    ((st U).hostPa (128 * 300) = some (128 * 0x1000000012C) ∧
      ∃ r, (st U).homeReadAt 0x1000000012C ((st U).htime[sliceOf 0x1000000012C].setWidth 64) 0 = .ok r ∧ true = true) ∧
    (∀ off ∈ [0, 124], ∀ bad, stD.hostPa (128 * 0x800000012C + off) = some (128 * 300 + off) ∧
      stD.hostPa (128 * 0x800000012C + off + 4 - 1) = some (128 * 300 + off + 4 - 1) ∧ 300 = (128 * 300 + off) / 128 ∧
      off = (128 * 300 + off) % 128 ∧ off + 4 ≤ 128 ∧ ∃ u, stD.hostParts (128 * 300 + off) [1, 2, 3, 4] bad = .ok u ∧ true = true) ∧
    (∃ u, stD.hostRecall 300 = .ok u ∧ true = true) ∧
    stX.snoops.find? (·.1 == 95) = some (95, 300) ∧
    (hostOwn 0x10000000000 = true ∧ (∃ u, (st U).hostRecall 0x10000000000 = .ok u ∧ true = true) ∧
      ∃ r, (st U).homeReadAt 0x10000000000 ((st U).htime[sliceOf 0x10000000000].setWidth 64) 0 = .ok r ∧ true = true) ∧
    (st U).hostPa (128 * 0x8000000000) = none := by
  refine ⟨⟨rfl, rfl, rfl, rfl⟩, ⟨by decide, by apply home_ok (f := fun _ => true); decide +kernel⟩,
    ⟨by decide, by apply home_ok (f := fun _ => true); decide +kernel⟩, ?_, by apply home_ok (f := fun _ => true); decide +kernel, rfl,
    ⟨by decide, by apply home_ok (f := fun _ => true); decide +kernel, by apply home_ok (f := fun _ => true); decide +kernel⟩, by decide⟩
  intro off hoff bad
  simp only [List.mem_cons, List.not_mem_nil, or_false] at hoff
  rcases hoff with rfl | rfl <;> cases bad <;>
    exact ⟨by decide, by decide, by decide, by decide, by decide, by apply home_ok (f := fun _ => true); decide +kernel⟩

/-- Link 0, with a flit that is not acknowledged, replaying or not; a window request of the unit on it. -/
def link0 (r : Bool) : Link := ⟨0, 1, 4095, 7, r, [⟨1, 7, 4095, Vector.replicate 240 0, false⟩]⟩
def winReq (k : WinKind) : WinReq := ⟨96, 0, 7, 0, 0x440000000000, 4, k, some 0, 0⟩
def stZ (r : Bool) (k : WinKind) : State := { st U with
  links := [link0 r], winReqs := [winReq k], cycle := Vector.replicate 6 (2 ^ 24) }

/-- What a flit's payload says is not of the spec: the clauses about a request or an answer hold for every reading of it. -/
theorem test_LinkFlits_hyps :
    (∀ f : Flit, f = ⟨15, 4095, 4095, Vector.replicate 240 0, Config.flitPoisoned (List.replicate 240 0)⟩ →
      f.ty < 16 ∧ f.seq < 4096 ∧ f.ack < 4096 ∧ f.bad = Config.flitPoisoned f.payload.toList) ∧
    ((link0 true).replaying = true ∧ (link0 false).replaying = false) ∧
    (∀ r ∈ [false, true], (stZ r (.load 9)).linkNo 0 = some (link0 r) ∧ (link0 r).sent ≠ []) ∧
    (4096 % 4096 = ((link0 false).inSeq + 1) % 4096 ∧ 4095 % 4096 ≠ ((link0 false).inSeq + 1) % 4096) ∧
    (∀ k ∈ [WinKind.load 9, .store [5] false, .atomic act4 (.regs [20] 4 false) false false],
      (stZ false k).winOf 96 = some (winReq k) ∧ (winReq k).link = 0 ∧ (winReq k).failed = some 0 ∧
      0 + 2 ^ 24 ≤ (stZ false k).now ((stZ false k).coreOf 7).cluster) ∧
    (∀ q ∈ [Config.PeerReq.read 0x9600 4, .write 0x9600 [5] false, .element 0x9600 4 0 5 0], peerReaches (peerRange q).1 = true ∧ peerReaches (peerRange q).2 = true ∧
      ∃ r, (stZ false (.load 9)).servePeer q = .ok r ∧ true = true) := by
  refine ⟨?_, ⟨rfl, rfl⟩, ?_, by decide, ?_, ?_⟩
  · rintro f rfl; exact ⟨by decide, by decide, by decide, rfl⟩
  · intro r hr
    simp only [List.mem_cons, List.not_mem_nil, or_false] at hr
    rcases hr with rfl | rfl <;> exact ⟨rfl, by decide⟩
  · intro k hk
    simp only [List.mem_cons, List.not_mem_nil, or_false] at hk
    rcases hk with rfl | rfl | rfl <;> exact ⟨rfl, rfl, rfl, by decide +kernel⟩
  · intro q hq
    simp only [List.mem_cons, List.not_mem_nil, or_false] at hq
    rcases hq with rfl | rfl | rfl <;> exact ⟨by decide, by decide, by apply home_ok (f := fun _ => true); decide +kernel⟩

/-- Whether a chain is accepted is not of the spec: every chain of a device that keeps its keys meets one of the two clauses. -/
theorem test_Attestation_hyps : State.reset.lifecycle ≠ .decommissioned ∧
    { State.reset with lifecycle := .decommissioned }.lifecycle = Lifecycle.decommissioned ∧
    ∀ slot, accepted (.certificate slot) = true ∨ accepted (.certificate slot) = false :=
  ⟨by decide, rfl, fun slot => by cases accepted (.certificate slot) <;> simp⟩

/-- A sag of k = 1 of die 0 that recovers. -/
def stV (p : Power) (k : Nat) : State := { State.reset with power := p, sag := [⟨0, k, some 0⟩], cycle := Vector.replicate 6 256, gated := 1 }

/-- In Production-Debug, at the invasive level. -/
def stB (p : Power) : State := { stV p 1 with lifecycle := .productionDebug, debug := 2 }

theorem test_PowerStates_hyps :
    (∀ p ∈ [Power.active, .throttled, .standby], (stV p 1).power = p) ∧ (∀ x ∈ (stV .active 1).queues, x.state = .disabled) ∧
    (stV .standby 1).lifecycle ≠ .decommissioned ∧ (stV .active 1).lifecycle ≠ .productionDebug ∧
    ((stB .active).lifecycle = .productionDebug ∧ (stB .active).debug = 2) ∧
    (∀ j ∈ (stV .active 1).jobs, j.clmask.getLsbD 63 = false) ∧ (stV .active 1).unanswered 63 = false ∧
    (∀ a ∈ (stV .active 1).agents, a.place.cluster = 63 → a.admitted = false) ∧
    (stV .active 1).gated.getLsbD 0 = true ∧
    (∀ k ∈ [1, 8], (stV .active k).sag = [⟨0, k, some 0⟩] ∧ 0 + 256 ≤ (stV .active k).now 0) ∧
    ∀ die, ∃ f : Sag → Sag, (∀ x, x.die ≠ die ∨ x.since = none → f x = x) ∧
      ∀ x t, x.die = die → x.since = some t →
        f x = if t + 256 ≤ (stV .active 1).now (16 * die) then ⟨die, x.k - 1, some (t + 256)⟩ else x := by
  refine ⟨by decide, by decide, by decide, by decide, ⟨rfl, rfl⟩, by decide, by decide, by decide, by decide, ?_, fun die =>
    ⟨fun x => match x.since with
      | none => x
      | some t => if x.die = die then (if t + 256 ≤ (stV .active 1).now (16 * die) then ⟨die, x.k - 1, some (t + 256)⟩ else x) else x,
     ?_, ?_⟩⟩
  · intro k hk
    simp only [List.mem_cons, List.not_mem_nil, or_false] at hk
    rcases hk with rfl | rfl <;> exact ⟨rfl, by decide +kernel⟩
  · rintro ⟨d, k, _ | t⟩ h
    · rfl
    · simp only [reduceCtorEq, or_false] at h; simp [h]
  · rintro ⟨d, k, _⟩ t rfl rfl; simp

/-- Whether an image is accepted is not of the spec: every image meets one of the clauses about it. -/
theorem test_ResetAndLifecycle_hyps :
    lifecycleOf 3 = some .decommissioned ∧ forward State.reset.lifecycle .decommissioned = true ∧
    lifecycleOf 0 = some .manufacturing ∧ forward State.reset.lifecycle .manufacturing = false ∧
    (∀ s : State, s = stV .standby 0 → s.power = .standby ∧ levelOk s.lifecycle 1 = true ∧ levelOk s.lifecycle 2 = false ∧
      s.lifecycle ≠ .productionDebug) ∧
    (∀ s : State, s = stB .standby → s.power = .standby ∧ levelOk s.lifecycle 2 = true ∧ s.lifecycle = .productionDebug) ∧
    State.reset.nextLifecycle.getD State.reset.lifecycle ≠ .decommissioned ∧
    { State.reset with nextLifecycle := some .decommissioned }.nextLifecycle.getD State.reset.lifecycle = .decommissioned ∧
    ∀ i, imageOk i = true ∨ imageOk i = false := by
  refine ⟨rfl, rfl, rfl, rfl, ?_, ?_, by decide, rfl, fun i => by cases imageOk i <;> simp⟩
  · rintro s rfl; exact ⟨rfl, rfl, rfl, by decide⟩
  · rintro s rfl; exact ⟨rfl, rfl, rfl⟩

/-- A context stopped by a double trap; one stopped by `HALT`. -/
def UH : Agent := { U with status := .halted }
def UI : Agent := { U with slotA := some { pathOf U with mode := .halted } }

def warpH : Agent := { warp with status := .haltedOut }

theorem test_FirmwareActs_hyps :
    ((st UH).agent? 7 = some UH ∧ UH.status = .halted ∧ UH.slot (0 == 1) = some (pathOf UH)) ∧
    ((st warpH).agent? 7 = some warpH ∧ warpH.status = .haltedOut ∧ warpH.slot (0 == 1) = some (pathOf warpH)) ∧
    ((st UI).agent? 7 = some UI ∧ UI.status ≠ .halted ∧ UI.status ≠ .haltedOut ∧ UI.slot (0 == 1) = some (pathOf UI) ∧
      (pathOf UI).mode = .halted) ∧
    (st U).inSlotOf ⟨63, 31, 15⟩ = none ∧ homed 0x9600 = true ∧ ∃ j v, (st U).chooseNat (2 ^ 32) = (j, v) := by
  refine ⟨⟨rfl, rfl, rfl⟩, ⟨rfl, rfl, rfl⟩, ⟨rfl, by decide, by decide, rfl, rfl⟩, by decide, by decide, _, _, rfl⟩

/-! ### Encoding, the step, traps, frames -/

theorem test_RoundTrip_hyps : (Instr.mfc al 3 (.pair 4)).wf = true ∧ (Instr.mfc al 3 (.pair 4)).isEvent = false ∧
    (Instr.brX96 4).wf = true ∧ (Instr.brX96 4).isEvent = false := by decide

theorem test_SpecWords_hyps : (0x00000013 : Word).extractLsb' 0 2 = 3 ∧ (0x00000100 : Word).extractLsb' 0 2 = 0 ∧
    0x40 ≤ ((0x00000100 : Word).extractLsb' 2 8).toNat ∧ decodeWords 0x00000010 0 0 = .ok .ret :=
  ⟨by decide, by decide, by decide, rfl⟩

/-- A traveller at `0x20000` that has fetched three words ahead, and the same at the end of the translated addresses. -/
def UF (w0 w1 w2 : Word) : Agent := { U with
  slotA := some { pathOf U with pc := 0x20000, buf := [(0x20000, w0), (0x20004, w1), (0x20008, w2)] } }
def UE (pc : DWord) (w0 w1 : Word) : Agent := { U with
  slotA := some { pathOf U with pc := pc, buf := [(pc.toNat, w0), (0xFEFFFFFFFFFFFC, w1)] } }
/-- The words of the fetches of a path. -/
def Fetches (a : Agent) (w0 w1 w2 : Word) : Prop :=
  (st a).agenda = [] ∧ (st a).focused = some (a, pathOf a, false) ∧ (st a).powered a.place.cluster = true ∧
  (st a).fetchWord a (pathOf a) (pathOf a).pc = (st a, .word w0) ∧
  (st a).fetchWord a (pathOf a) ((pathOf a).pc + 4) = (st a, .word w1) ∧
  (st a).fetchWord a (pathOf a) ((pathOf a).pc + 8) = (st a, .word w2)

theorem test_StepRunsDecoded_hyps :
    (Fetches (UF 0x00000010 0 0) 0x00000010 0 0 ∧ lenWords 0x00000010 = some 1 ∧ decodeWords 0x00000010 0 0 = .ok .ret) ∧
    (Fetches (UF 0x0000124D 0x00030000 0) 0x0000124D 0x00030000 0 ∧ lenWords 0x0000124D = some 2 ∧
      decodeWords 0x0000124D 0x00030000 0 = .ok (.mfc al 3 (.pair 4))) ∧
    (Fetches (UF 0x0000124D 0xFFFF0000 0) 0x0000124D 0xFFFF0000 0 ∧ ∃ e, decodeWords 0x0000124D 0xFFFF0000 0 = .error e) ∧
    (Fetches (UF 0x00000346 0 4) 0x00000346 0 4 ∧ lenWords 0x00000346 = some 3 ∧ decodeWords 0x00000346 0 4 = .ok (.brX96 4)) ∧
    (Fetches (UF 0x00000346 0xFFFFFFFF 4) 0x00000346 0xFFFFFFFF 4 ∧ ∃ e, decodeWords 0x00000346 0xFFFFFFFF 4 = .error e) ∧
    (Fetches (UF 0x00000013 0 0) 0x00000013 0 0 ∧ lenWords 0x00000013 = none ∧ decodeWords 0x00000013 0 0 = .error .length) ∧
    (Fetches (UF 0x00000100 0 0) 0x00000100 0 0 ∧ lenWords 0x00000100 = some 1 ∧ decodeWords 0x00000100 0 0 = .error .opcode) ∧
    (∀ a, a = UE 0xFEFFFFFFFFFFFC 0x00000346 0x00000346 → (st a).focused = some (a, pathOf a, false) ∧
      (st a).fetchWord a (pathOf a) (pathOf a).pc = (st a, .word 0x00000346) ∧
      (st a).fetchWord a (pathOf a) ((pathOf a).pc + 4) = (st a, .fault 0x23 0xFF000000000000)) ∧
    (∀ a, a = UE 0xFEFFFFFFFFFFF8 0x00000346 0 → (st a).focused = some (a, pathOf a, false) ∧
      (st a).fetchWord a (pathOf a) (pathOf a).pc = (st a, .word 0x00000346) ∧
      (st a).fetchWord a (pathOf a) ((pathOf a).pc + 4) = (st a, .word 0) ∧
      (st a).fetchWord a (pathOf a) ((pathOf a).pc + 8) = (st a, .fault 0x23 0xFF000000000000)) ∧
    (∀ a, a = { U with slotA := some { pathOf U with pc := 0xFF000000000000 } } → (st a).focused = some (a, pathOf a, false) ∧
      (st a).fetchWord a (pathOf a) (pathOf a).pc = (st a, .fault 0x23 0xFF000000000000)) ∧
    ((Instr.sweep 300).isEvent = true ∧ (st U).power ≠ .off) := by
  refine ⟨⟨⟨rfl, rfl, rfl, rfl, rfl, rfl⟩, rfl, rfl⟩, ⟨⟨rfl, rfl, rfl, rfl, rfl, rfl⟩, rfl, rfl⟩, ⟨⟨rfl, rfl, rfl, rfl, rfl, rfl⟩, _, rfl⟩,
    ⟨⟨rfl, rfl, rfl, rfl, rfl, rfl⟩, rfl, rfl⟩, ⟨⟨rfl, rfl, rfl, rfl, rfl, rfl⟩, _, rfl⟩, ⟨⟨rfl, rfl, rfl, rfl, rfl, rfl⟩, rfl, rfl⟩,
    ⟨⟨rfl, rfl, rfl, rfl, rfl, rfl⟩, rfl, rfl⟩, ?_, ?_, ?_, rfl, by decide⟩ <;> rintro a rfl
  · exact ⟨rfl, rfl, rfl⟩
  · exact ⟨rfl, rfl, rfl, rfl⟩
  · exact ⟨rfl, rfl⟩

/-- A coach and its shadow wave, which differ in no register. -/
def twoUnits : List Agent := [{ Agent.fresh 7 1 .coach ⟨0, 32, 0⟩ 32 0x10000 .user with partner := some 8 },
  { Agent.fresh 8 1 .shadow ⟨0, 32, 4⟩ 32 0x10000 .user with partner := some 7 }]

/-- They pair; so a step of the state with them meets the premises of `WindowShared` and of `StepKeepsInvariants`. -/
theorem test_WindowShared_hyps : ∀ s, s = { State.reset with agents := twoUnits, nextId := 100 } → step s = .next (State.mirror s s) ∧
    Paired s ∧ Paired (State.mirror s s) ∧ Memory.wf s.mem = true ∧ swf LWord.fresh s.lwords = true ∧ swf Home.fresh s.homes = true := by
  rintro s rfl
  have h : State.mirror { State.reset with agents := twoUnits, nextId := 100 } { State.reset with agents := twoUnits, nextId := 100 } =
      { State.reset with agents := twoUnits, nextId := 100 } := by decide +kernel
  have g : Paired { State.reset with agents := twoUnits, nextId := 100 } := by
    refine ⟨by decide, fun a ha => ?_, fun sh hs co hc hk _ => ?_⟩
    · have ha' : a = twoUnits[0] ∨ a = twoUnits[1] := by simpa [twoUnits] using ha
      rcases ha' with rfl | rfl <;> exact ⟨by decide, fun u hu => by cases hu; decide⟩
    have hs' : sh = twoUnits[0] ∨ sh = twoUnits[1] := by simpa [twoUnits] using hs
    have hc' : co = twoUnits[0] ∨ co = twoUnits[1] := by simpa [twoUnits] using hc
    rcases hs' with rfl | rfl
    · cases hk
    · rcases hc' with rfl | rfl
      · exact ⟨rfl, rfl, by decide, by decide⟩
      · rename_i h; exact absurd h (by decide)
  exact ⟨rfl, g, by rw [h]; exact g, by decide, by decide, by decide⟩

theorem test_StepKeepsInvariants_hyps : ∃ s t, step s = .next t ∧ Paired s ∧ Memory.wf s.mem = true ∧ swf LWord.fresh s.lwords = true ∧
    swf Home.fresh s.homes = true :=
  have h := test_WindowShared_hyps _ rfl
  ⟨_, _, h.1, h.2.1, h.2.2.2⟩

theorem test_IssueChecks_hyps :
    (Instr.eret.wf = true ∧ Instr.eret.isEvent = false ∧ (st U).focused = some (U, pathOf U, false) ∧ preCheck U (pathOf U) .eret ≠ none) ∧
    ((Instr.moviX96 ⟨1, false⟩ .word 4 5).wf = true ∧ (Instr.moviX96 ⟨1, false⟩ .word 4 5).isEvent = false ∧
      ownGuard (.moviX96 ⟨1, false⟩ .word 4 5) = false ∧ preCheck U (pathOf U) (.moviX96 ⟨1, false⟩ .word 4 5) = none ∧
      (U.atEnd (pathOf U).act 0x1000C && U.diverged (pathOf U).act) = false ∧
      (ctxM U (.moviX96 ⟨1, false⟩ .word 4 5) 0).badGuards ⟨1, false⟩ = [] ∧
      (Mask.filter (pathOf U).mask fun l => guardOn U (pathOf U) l ⟨1, false⟩) = 0) := by
  refine ⟨⟨by decide, by decide, rfl, by decide⟩, ?_⟩
  decide

/-- A unit in a trap handler, which goes back to `0x10040`. -/
def unitH : Agent := { U with
  slotA := some { pathOf U with act := true, priv := .super }
  frame := { U.frame with epc := 0x10040, gmask := 1 } }

theorem test_TrapsTaken_hyps :
    ((st U).agent? 7 = some U ∧ U.slot false = some (pathOf U) ∧ (pathOf U).act = false ∧ (st U).watchesHeld 7 (pathOf U).mask = false ∧
      (st U).propHeld 7 (pathOf U).mask = false ∧ U.status = .issuing) ∧
    ((st unitH).agent? 7 = some unitH ∧ unitH.slot false = some (pathOf unitH) ∧ (pathOf unitH).act = true ∧ unitH.wide = false ∧
      (pathOf unitH).mask = unitH.frame.gmask &&& unitH.live ∧ targetOk unitH.frame.epc = true ∧ (st unitH).watchesHeld 7 (pathOf unitH).mask = false) := by
  exact ⟨⟨rfl, rfl, rfl, rfl, rfl, rfl⟩, ⟨rfl, rfl, rfl, rfl, rfl, rfl, rfl⟩⟩

theorem test_RegisterFrame_hyps : ∀ c, c = ctx U .nop → (st U).agent? c.uid = some U ∧ c.a.uid = c.uid ∧
    (∀ l ∈ Mask.list c.act, (out1 4 9).uni = none) ∧ U.loops = [] ∧ U.hloops = [] ∧ U.wide = false := by
  rintro c rfl
  exact ⟨rfl, rfl, fun _ _ => rfl, rfl, rfl, rfl⟩

/-- The cluster owns line 300; the unit has a store to it. -/
def copyOne : Copy := ⟨0, 300, .O, 0, 0, 0, 0⟩
def writeOne : Write := ⟨97, 7, 0, ⟨0, 0⟩, .store, [⟨300, 4, [1, 2, 3, 4], false, 0⟩], false, 0x9604, 0⟩
def stOne : State := { st U with copies := [copyOne], writes := [writeOne] }

theorem test_StoreFrames_hyps :
    Memory.wf (Memory.writeBytes [] 0x1FC [1, 2, 3, 4]) = true ∧ (124 + ([1, 2, 3, 4] : List Byte).length ≤ 128 ∧ 127 < 128) ∧
    (swf LWord.fresh (st U).lwords = true ∧ (ctx U .nop).a.place.coreId.core < 64 ∧
      0xFFFFC + ([1, 2, 3, 4] : List Byte).length ≤ 2 ^ 20) ∧
    Seg.dev (.mem 0x9604 4 placeLeaf) = false ∧
    (stOne.writes.find? (·.id == writeOne.id) = some writeOne ∧ writeOne.kind = .store ∧
      writeOne.pieces[0]? = some ⟨300, 4, [1, 2, 3, 4], false, 0⟩ ∧ stOne.mayWrite writeOne 300 = true ∧
      stOne.copyOf writeOne.core.cluster 300 = some copyOne ∧ copyOne.isO = true) := by
  refine ⟨by decide, by decide, ⟨by decide, by decide, by decide⟩, by decide, rfl, rfl, rfl, by decide, rfl, rfl⟩

/-! ### Further clauses -/

theorem test_IntegerValues_flags : (∀ f ∈ [(0 : DWord), 0x2000], ({ out1 4 9 with flags := 0x20 } : LaneOut).fault = none ∧
    ({ out1 4 9 with flags := 0x20 } : LaneOut).flags = 0x20 ∧ f.getLsbD 13 = decide (f ≠ 0)) := by
  intro f hf; simp only [List.mem_cons, List.not_mem_nil, or_false] at hf; rcases hf with rfl | rfl <;> exact ⟨rfl, rfl, by decide⟩

/-- `PAND` with F = 1, and `PNOT` with B = 1. -/
theorem test_Predicates_words : (0x100000EC : Word).extractLsb' 0 10 = 0xEC ∧ (0x100000EC : Word).extractLsb' 28 4 ≠ 0 ∧
    (0x004000F8 : Word).extractLsb' 0 10 = 0xF8 ∧ (0x004000F8 : Word).extractLsb' 22 6 ≠ 0 := by decide

theorem test_ResetValues_region : swf LWord.fresh (st U).lwords = true ∧ (⟨63, 35⟩ : CoreId).core < 64 ∧ 2 ^ 18 - 1 < 2 ^ 18 ∧
    0xFFFFC % 4 = 0 ∧ 4 % 4 = 0 ∧ 0xFFFFC + 4 ≤ 2 ^ 20 :=
  ⟨by decide, by decide, by omega, rfl, rfl, by omega⟩

/-- A loop that would end after the loop around it. -/
theorem test_LoopsBegin_outer : Begins UL (.g 4 .wait) 17 5 0x10044 ∧ (UL.loopsOf false).length < 4 ∧
    UL.curLoop false = some loop1 ∧ loop1.stop.toNat < (0x10044 : DWord).toNat ∧ 0 < UL.lanes.length :=
  ⟨begins rfl (by decide), by decide, rfl, by decide, by decide⟩

/-- A unit at the last instruction of a loop, and one that has stopped. -/
def unitL : Agent := { UL with slotA := some { pathOf UL with pc := 0x1003C } }
def unitS : Agent := { F with slotA := some { pathOf F with mode := .halted } }

theorem test_TrapsAndStops_more :
    (atIssue (st unitL) (ctx unitL .nop)).agent? 7 = some { unitL with behind := false } ∧
    (unitL.curLoop false = some loop1 ∧ loop1.stop = (ctx unitL .nop).npc ∧ 1 < loop1.remain.toNat ∧ loop1.stages = 0) ∧
    ((st U).focused = some (U, pathOf U, false) ∧ (pathOf U).priv ≠ .firmware) ∧
    ((st unitS).agent? 7 = some unitS ∧ unitS.status ≠ .halted ∧ unitS.status ≠ .haltedOut ∧ unitS.slot false = some (pathOf unitS) ∧
      (pathOf unitS).mode = .halted) := by
  exact ⟨rfl, ⟨rfl, rfl, by decide, rfl⟩, ⟨rfl, by decide⟩, ⟨rfl, by decide, by decide, rfl, rfl⟩⟩

/-- A watch entry of the unit. -/
def stHeld : State := { st U with watches := [⟨98, 0, 7, 0, 300, 0, 0, [1, 2, 3, 4]⟩] }

theorem test_TrapsTaken_more :
    (stHeld.agent? 7 = some U ∧ (pathOf U).act = false ∧ stHeld.watchesHeld 7 (pathOf U).mask = true) ∧
    ((ctx U .nop).uid = 7 ∧ (ctx U .nop).b = false ∧ (ctx U .nop).p = pathOf U ∧ (ctx U .nop).act ≠ 0 ∧ U.wide = false) := by
  refine ⟨⟨rfl, rfl, by decide⟩, rfl, rfl, rfl, by decide, rfl⟩

/-! ### Issue selection -/

/-- Two travellers in slots 3 and 15 of core 0; the first has issued last, in cycle 0. -/
def coreSt (n : Nat) : State := { st U with
  agents := [{ U with place := ⟨0, 0, 3⟩ }, { U with uid := 8, place := ⟨0, 0, 15⟩ }], agenda := [.core ⟨0, 0⟩], mem := []
  cores := [⟨⟨0, 0⟩, some (0, 3), [(3, 0)], []⟩], cycle := Vector.replicate 6 n }
/-- Two warps of wide core 32, a loader second; the first has been ready since cycle 1. -/
def wideSt (n : Nat) : State := { st warp with
  agents := [warp, { warp with uid := 8, place := ⟨0, 32, 1⟩, role := .load }], mem := []
  cores := [⟨⟨0, 32⟩, none, [], [((7, false), 1)]⟩], cycle := Vector.replicate 6 n }

/-- An outcome that is a next state of some kind. -/
theorem nextWith {o : Host.Outcome State Fault Refusal} (f : State → Bool) (h : (match o with | .next t => f t | _ => false) = true) :
    ∃ t, o = .next t ∧ f t = true := by
  cases o with
  | next t => exact ⟨t, rfl, h⟩
  | fault x => cases h
  | refused x => cases h

theorem test_IssueSelection_hyps :
    (∀ n, n = 0 ∨ n = 1 → ∃ t, (coreSt n).agenda = [.core ⟨0, 0⟩] ∧
      retryStep (State.waitingPaths { coreSt n with agenda := [] } ⟨0, 0⟩) { coreSt n with agenda := [] } = .next t ∧
      (t.noteReady ⟨0, 0⟩).selected ⟨0, 0⟩ = if n = 0 then none else some (8, false)) ∧
    (coreSt 0).hasIssued ⟨0, 0⟩ = true ∧ (coreSt 1).hasIssued ⟨0, 0⟩ = false ∧
    ((coreSt 3).readyPaths ⟨0, 0⟩).map (·.1) = [(8, false)] ∧
    ((coreSt 4).readyPaths ⟨0, 0⟩).map (·.1) = [(7, false), (8, false)] ∧ (coreSt 4).selected ⟨0, 0⟩ = some (8, false) ∧
    ((wideSt 64).readyPaths ⟨0, 32⟩).map (·.1) = [(7, false), (8, false)] ∧
    (wideSt 64).selected ⟨0, 32⟩ = some (8, false) ∧ (wideSt 65).selected ⟨0, 32⟩ = some (7, false) := by
  refine ⟨?_, by decide +kernel, by decide +kernel, by decide +kernel, by decide +kernel, by decide +kernel, by decide +kernel, by decide +kernel, by decide +kernel⟩
  rintro n (rfl | rfl)
  · obtain ⟨t, h, g⟩ := nextWith (o := retryStep (State.waitingPaths { coreSt 0 with agenda := [] } ⟨0, 0⟩) { coreSt 0 with agenda := [] })
      (fun t => (t.noteReady ⟨0, 0⟩).selected ⟨0, 0⟩ == none) (by decide +kernel)
    exact ⟨t, rfl, h, by simpa using g⟩
  · obtain ⟨t, h, g⟩ := nextWith (o := retryStep (State.waitingPaths { coreSt 1 with agenda := [] } ⟨0, 0⟩) { coreSt 1 with agenda := [] })
      (fun t => (t.noteReady ⟨0, 0⟩).selected ⟨0, 0⟩ == some (8, false)) (by decide +kernel)
    exact ⟨t, rfl, h, by simpa using g⟩

/-! ### One step from reset with one instruction placed -/

/-- What a test reads of the unit after the step: its PC, whether its path is in a handler, its mode, the trap registers, `g5`. -/
structure Seen where
  pc : DWord
  act : Bool
  priv : Priv
  epc : DWord
  cause : BitVec 8
  tval : DWord
  g5 : Word
  deriving DecidableEq, Repr
/-- The unit in focus after an outcome. -/
def seen (o : Host.Outcome State Fault Refusal) : Option Seen :=
  match o with
  | .next t => t.focused.map fun (a, p, _) => ⟨p.pc, p.act, p.priv, a.frame.epc, a.frame.cause, a.frame.tval, (a.lane 0).reg 5⟩
  | _ => none
/-- The first step with an instruction of `nbits` bits placed at address `0x10000`. -/
def first (nbits w : Nat) : Option Seen := seen (step (State.reset.withFetchWord nbits w))

/-- R390: `NOP` only advances the PC. -/
theorem test_step_nop : first 32 0 = some ⟨0x10004, false, .user, 0, 0, 0, 0⟩ := by decide +kernel
/-- R213, R155: `ADD g5, g6, -1` in its I32 form, from `g6` = 0. -/
theorem test_step_addi : first 32 0xFFC61480 = some ⟨0x10004, false, .user, 0, 0, 0, 0xFFFFFFFF⟩ := by decide +kernel
/-- R366: `BR` 5 words on from its own address. -/
theorem test_step_branch : first 32 0x00001404 = some ⟨0x10014, false, .user, 0, 0, 0, 0⟩ := by decide +kernel
/-- R385, R416: `TRAP 0xE3` saves the next PC and the value of `g5` and enters at `TRAPVEC` + 64 × 0xE3 in supervisor mode. -/
theorem test_step_trap : first 32 0x38C500B0 = some ⟨0x38C0, true, .super, 0x10004, 0xE3, 0, 0⟩ := by decide +kernel
/-- R171: LEN 11 is cause 0x01 with word 0 in TVAL and the PC of the instruction. -/
theorem test_step_illegal : first 32 0x00000013 = some ⟨0x40, true, .super, 0x10000, 0x01, 0x13, 0⟩ := by decide +kernel
/-- R421, R171 check 8: `ERET` in user mode is cause 0x04. -/
theorem test_step_privilege : first 32 0x00000034 = some ⟨0x100, true, .super, 0x10000, 0x04, 0x34, 0⟩ := by decide +kernel

end Sys2Proof.Tests
end

section
/-! Laws of the integer results of 10_isa_lane.md R211-R216: what `plain`, `wrapI`, `iopR` and `uopR` come to in the arithmetic of
integers and of bit vectors. -/

namespace Sys2Proof.Laws

open Sys2Proof.Machine Sys2Proof.Terms

/-! ### Vectors of an integer -/

/-- Reducing an integer modulo a power of two leaves the bits below that power. -/
theorem emod_two_pow_ediv_emod (v : Int) (s w k : Nat) : v % 2 ^ (s + w + k) / 2 ^ s % 2 ^ w = v / 2 ^ s % 2 ^ w := by
  have hs : (2 : Int) ^ s ≠ 0 := Int.ne_of_gt (Int.pow_pos (by decide))
  have hN : (2 : Int) ^ (s + w + k) = 2 ^ k * 2 ^ w * 2 ^ s := by rw [Int.pow_add, Int.pow_add]; ac_rfl
  have hv : v = v % 2 ^ (s + w + k) + v / 2 ^ (s + w + k) * 2 ^ k * 2 ^ w * 2 ^ s :=
    calc v = v % 2 ^ (s + w + k) + v / 2 ^ (s + w + k) * 2 ^ (s + w + k) := (Int.emod_add_ediv_mul v _).symm
      _ = v % 2 ^ (s + w + k) + v / 2 ^ (s + w + k) * (2 ^ k * 2 ^ w * 2 ^ s) := by rw [← hN]
      _ = v % 2 ^ (s + w + k) + v / 2 ^ (s + w + k) * 2 ^ k * 2 ^ w * 2 ^ s := by simp only [Int.mul_assoc]
  calc v % 2 ^ (s + w + k) / 2 ^ s % 2 ^ w
      = (v % 2 ^ (s + w + k) / 2 ^ s + v / 2 ^ (s + w + k) * 2 ^ k * 2 ^ w) % 2 ^ w := (Int.add_mul_emod_self_right ..).symm
    _ = (v % 2 ^ (s + w + k) + v / 2 ^ (s + w + k) * 2 ^ k * 2 ^ w * 2 ^ s) / 2 ^ s % 2 ^ w := by
      rw [Int.add_mul_ediv_right _ _ hs]
    _ = v / 2 ^ s % 2 ^ w := by rw [← hv]

theorem toNat_ofInt_cast (n : Nat) (v : Int) : ((BitVec.ofInt n v).toNat : Int) = v % 2 ^ n := by
  rw [BitVec.toNat_ofInt, Int.natCast_pow]
  exact Int.toNat_of_nonneg (Int.emod_nonneg _ (Int.ne_of_gt (Int.pow_pos (by decide))))

/-- Bits of an integer's vector, from bit `s` on, are those of the quotient by `2 ^ s`. -/
theorem extractLsb'_ofInt (n s w : Nat) (v : Int) (h : s + w ≤ n) :
    (BitVec.ofInt n v).extractLsb' s w = BitVec.ofInt w (v / 2 ^ s) := by
  obtain ⟨k, rfl⟩ := Nat.exists_eq_add_of_le h
  apply BitVec.eq_of_toNat_eq
  apply Int.ofNat_inj.mp
  rw [toNat_ofInt_cast, BitVec.extractLsb'_toNat, Nat.shiftRight_eq_div_pow, Int.natCast_emod, Int.natCast_ediv, Int.natCast_pow,
    Int.natCast_pow, toNat_ofInt_cast]
  exact emod_two_pow_ediv_emod v s w k

@[simp] theorem lo32_ofInt (v : Int) : lo32 (BitVec.ofInt 64 v) = BitVec.ofInt 32 v := by
  simpa [lo32] using extractLsb'_ofInt 64 0 32 v (by decide)

theorem ofInt_sub {n : Nat} (x y : Int) : BitVec.ofInt n (x - y) = BitVec.ofInt n x - BitVec.ofInt n y := by
  rw [Int.sub_eq_add_neg, BitVec.ofInt_add, BitVec.ofInt_neg, BitVec.sub_eq_add_neg]

/-- The high half of the exact signed product. -/
theorem ofInt_high_signed {w : Nat} (x y : BitVec w) :
    BitVec.ofInt w (x.toInt * y.toInt / 2 ^ w) = (x.signExtend (w + w) * y.signExtend (w + w)).extractLsb' w w := by
  rw [BitVec.signExtend, BitVec.signExtend, ← BitVec.ofInt_mul, extractLsb'_ofInt _ _ _ _ (Nat.le_refl _)]

/-- The high half of the exact unsigned product. -/
theorem ofInt_high_unsigned {w : Nat} (x y : BitVec w) :
    BitVec.ofInt w ((x.toNat : Int) * y.toNat / 2 ^ w) = (x.setWidth (w + w) * y.setWidth (w + w)).extractLsb' w w := by
  have h (z : BitVec w) : z.setWidth (w + w) = BitVec.ofInt (w + w) z.toNat := by
    rw [BitVec.ofInt_natCast, BitVec.ofNat_toNat]
  rw [h, h, ← BitVec.ofInt_mul, extractLsb'_ofInt _ _ _ _ (Nat.le_refl _)]

/-! ### Low words -/

theorem lo32_and (a b : DWord) : lo32 (a &&& b) = lo32 a &&& lo32 b := BitVec.extractLsb'_and
theorem lo32_or (a b : DWord) : lo32 (a ||| b) = lo32 a ||| lo32 b := BitVec.extractLsb'_or
theorem lo32_xor (a b : DWord) : lo32 (a ^^^ b) = lo32 a ^^^ lo32 b := BitVec.extractLsb'_xor
theorem lo32_not (a : DWord) : lo32 (~~~a) = ~~~lo32 a := BitVec.extractLsb'_not_of_lt (by decide)
/-- A choice depends on what its condition says, not on how it is decided. -/
theorem ite_of_iff {α : Type} {p q : Prop} [Decidable p] [Decidable q] (h : p ↔ q) (x y : α) :
    (if p then x else y) = if q then x else y := ite_congr (propext h) (fun _ => rfl) fun _ => rfl
theorem lo32_ite (p : Prop) [Decidable p] (a b : DWord) : lo32 (if p then a else b) = if p then lo32 a else lo32 b := by
  split <;> rfl
theorem lo32_shiftLeft (a : DWord) (n : Nat) : lo32 (a <<< n) = lo32 a <<< n := by
  apply BitVec.eq_of_getLsbD_eq
  intro i hi
  simp only [lo32, BitVec.getLsbD_extractLsb', BitVec.getLsbD_shiftLeft, Nat.zero_add, hi, decide_true, Bool.true_and,
    show i < 64 by omega, show i - n < 32 by omega]
@[simp] theorem lo32_setWidth (v : Word) : lo32 (v.setWidth 64) = v := by
  rw [lo32, BitVec.extractLsb'_setWidth_of_le (by decide), BitVec.extractLsb'_eq_self]
theorem lo32_setWidth_shiftRight (v : Word) (n : Nat) : lo32 (v.setWidth 64 >>> n) = v >>> n := by
  apply BitVec.eq_of_getLsbD_eq
  intro i hi
  simp only [lo32, BitVec.getLsbD_extractLsb', hi, BitVec.getLsbD_ushiftRight, BitVec.getLsbD_setWidth, decide_true, Bool.true_and,
    Nat.zero_add]
  by_cases h : n + i < 64
  · simp [h]
  · simp [h, BitVec.getLsbD_of_ge v (n + i) (by omega)]

/-! ### The integers of a type -/

/-- Bits of a signed type stand for the integer of their vector of the type's width. -/
theorem intOf_of_signed {t : Ty} (h : Ty.signed t = true) (bits : Nat) : Ty.intOf t bits = (BitVec.ofNat t.width bits).toInt := by
  have hw : 2 ^ t.width = 2 * 2 ^ (t.width - 1) := by cases t <;> rfl
  rw [BitVec.toInt_eq_toNat_cond, BitVec.toNat_ofNat]
  simp only [Ty.intOf, h, Bool.true_and, decide_eq_true_eq]
  by_cases hb : 2 ^ (t.width - 1) ≤ bits % 2 ^ t.width
  · rw [if_pos hb, if_neg (by omega)]; norm_cast
  · rw [if_neg hb, if_pos (by omega)]

/-- Bits of an unsigned type stand for the natural number of that vector. -/
theorem intOf_of_unsigned {t : Ty} (h : Ty.signed t = false) (bits : Nat) : Ty.intOf t bits = (BitVec.ofNat t.width bits).toNat := by
  simp [Ty.intOf, h]

/-- The reading of a source value that the model computes with is that of the statements. -/
theorem int_eq_plain (t : ITy) (v : DWord) : ITy.int t v = plain t v := by
  have hlo : lo32 v = BitVec.ofNat 32 v.toNat := BitVec.setWidth_eq_extractLsb' (by decide) |>.symm
  have hall : v = BitVec.ofNat 64 v.toNat := by simp
  cases t with
  | i32 => exact (intOf_of_signed rfl _).trans (congrArg BitVec.toInt hlo.symm)
  | n32 => exact (intOf_of_unsigned rfl _).trans (congrArg (fun x : Word => (x.toNat : Int)) hlo.symm)
  | i64 => exact (intOf_of_signed rfl _).trans (congrArg BitVec.toInt hall.symm)
  | n64 => exact (intOf_of_unsigned rfl _).trans (congrArg (fun x : DWord => (x.toNat : Int)) hall.symm)

/-! The order of a type's integers is the signed or the unsigned comparison of vectors. -/

theorem plain_i32_le_iff (a b : DWord) : plain .i32 a ≤ plain .i32 b ↔ (lo32 a).sle (lo32 b) = true :=
  BitVec.sle_iff_toInt_le.symm
theorem plain_n32_le_iff (a b : DWord) : plain .n32 a ≤ plain .n32 b ↔ (lo32 a).ule (lo32 b) = true :=
  Int.ofNat_le.trans BitVec.ule_iff_toNat_le.symm
theorem plain_i64_le_iff (a b : DWord) : plain .i64 a ≤ plain .i64 b ↔ a.sle b = true := BitVec.sle_iff_toInt_le.symm
theorem plain_n64_le_iff (a b : DWord) : plain .n64 a ≤ plain .n64 b ↔ a.ule b = true :=
  Int.ofNat_le.trans BitVec.ule_iff_toNat_le.symm

theorem imin_eq_least (t : ITy) : Ty.imin (ITy.ty t) = least t := by cases t <;> rfl
theorem imax_eq_greatest (t : ITy) : Ty.imax (ITy.ty t) = greatest t := by cases t <;> rfl
theorem least_le_greatest (t : ITy) : least t ≤ greatest t := by cases t <;> decide

/-- The integer of a type has the low word as its vector of 32 bits. -/
theorem ofInt32_plain {t : ITy} (h : t.is64 = false) (v : DWord) : BitVec.ofInt 32 (plain t v) = lo32 v := by
  cases t with
  | i32 => exact BitVec.ofInt_toInt
  | n32 => simp [plain]
  | i64 | n64 => cases h

/-- The integer of a 64-bit type has the value itself as its vector of 64 bits. -/
theorem ofInt64_plain {t : ITy} (h : t.is64 = true) (v : DWord) : BitVec.ofInt 64 (plain t v) = v := by
  cases t with
  | i64 => exact BitVec.ofInt_toInt
  | n64 => simp [plain]
  | i32 | n32 => cases h

@[simp] theorem modulus_i32 : modulus .i32 = 2 ^ 32 := rfl
@[simp] theorem modulus_n32 : modulus .n32 = 2 ^ 32 := rfl
@[simp] theorem modulus_i64 : modulus .i64 = 2 ^ 64 := rfl
@[simp] theorem modulus_n64 : modulus .n64 = 2 ^ 64 := rfl

/-- Reading an integer's vector back in a type wraps it modulo the type's modulus (R211). -/
theorem plain_ofInt_emod (t : ITy) (v : Int) : (plain t (BitVec.ofInt 64 v) - v) % modulus t = 0 := by
  cases t with
  | i32 =>
    rw [plain, lo32_ofInt, BitVec.toInt_ofInt, modulus_i32, Int.bmod_def]
    split <;> omega
  | n32 =>
    rw [plain, lo32_ofInt, BitVec.toNat_ofInt, modulus_n32]
    omega
  | i64 =>
    rw [plain, BitVec.toInt_ofInt, modulus_i64, Int.bmod_def]
    split <;> omega
  | n64 =>
    rw [plain, BitVec.toNat_ofInt, modulus_n64]
    omega

theorem plain_mem_range (t : ITy) (v : DWord) : least t ≤ plain t v ∧ plain t v ≤ greatest t := by
  cases t with
  | i32 =>
    have h1 := (lo32 v).le_toInt
    have h2 := (lo32 v).toInt_lt
    simp only [plain, least, greatest]
    omega
  | n32 =>
    have := (lo32 v).isLt
    simp only [plain, least, greatest]
    omega
  | i64 =>
    have h1 := v.le_toInt
    have h2 := v.toInt_lt
    simp only [plain, least, greatest]
    omega
  | n64 =>
    have := v.isLt
    simp only [plain, least, greatest]
    omega

/-- An integer in the range of a type is read back as it is: two integers of the range that agree modulo its size are equal. -/
theorem plain_ofInt_of_mem_range {t : ITy} {v : Int} (hl : least t ≤ v) (hg : v ≤ greatest t) : plain t (BitVec.ofInt 64 v) = v := by
  have hm := plain_ofInt_emod t v
  obtain ⟨hl', hg'⟩ := plain_mem_range t (BitVec.ofInt 64 v)
  cases t <;> simp only [least, greatest, modulus_i32, modulus_n32, modulus_i64, modulus_n64] at hl hg hl' hg' hm <;> omega

/-! ### Wrapping and clamping -/

theorem clamp_eq_max_min {lo hi : Int} (h : lo ≤ hi) (v : Int) : clamp lo hi v = max lo (min hi v) := by
  unfold clamp
  split
  · omega
  · split <;> omega

/-- The clamp changes exactly the integers out of its range. -/
theorem clamp_ne_iff {lo hi : Int} (h : lo ≤ hi) (v : Int) : clamp lo hi v ≠ v ↔ v < lo ∨ hi < v := by
  rw [clamp_eq_max_min h]
  omega

/-- A result that is `v` wrapped, with no flag. -/
def Wraps (t : ITy) (r : DWord × BitVec 6) (v : Int) : Prop := (plain t r.1 - v) % modulus t = 0 ∧ r.2 = 0

/-- A result that is `v` clamped, with SAT exactly where the clamp changes the value. -/
def Clamps (t : ITy) (r : DWord × BitVec 6) (v : Int) : Prop :=
  plain t r.1 = max (least t) (min (greatest t) v) ∧ r.2 = (if v < least t ∨ greatest t < v then 0x20 else 0)

theorem wrapI_false (t : ITy) (v : Int) : wrapI t false v = (BitVec.ofInt 64 v, 0) := rfl

theorem wrapI_wraps (t : ITy) (v : Int) : Wraps t (wrapI t false v) v := ⟨plain_ofInt_emod t v, rfl⟩

theorem wrapI_clamps (t : ITy) (v : Int) : Clamps t (wrapI t true v) v := by
  have hr := least_le_greatest t
  simp only [Clamps, wrapI, if_true, imin_eq_least, imax_eq_greatest, flagIf, decide_eq_true_eq, clamp_ne_iff hr]
  refine ⟨?_, rfl⟩
  rw [clamp_eq_max_min hr]
  exact plain_ofInt_of_mem_range (by omega) (by omega)

theorem wrapI_flags (t : ITy) (sat : Bool) (v : Int) : (wrapI t sat v).2 = 0 ∨ (wrapI t sat v).2 = 0x20 := by
  cases sat with
  | false => exact .inl rfl
  | true =>
    rw [(wrapI_clamps t v).2]
    split
    · exact .inr rfl
    · exact .inl rfl

/-! ### The operations in terms of the integers of their sources -/

section Operations
variable (t : ITy) (sat : Bool) (a b z : DWord)

theorem iopR_add : iopR .add t sat a b = wrapI t sat (plain t a + plain t b) := by rw [← int_eq_plain, ← int_eq_plain]; rfl
theorem iopR_sub : iopR .sub t sat a b = wrapI t sat (plain t a - plain t b) := by rw [← int_eq_plain, ← int_eq_plain]; rfl
theorem iopR_mul : iopR .mul t sat a b = wrapI t sat (plain t a * plain t b) := by rw [← int_eq_plain, ← int_eq_plain]; rfl
theorem iopR_mulh : iopR .mulh t sat a b = (BitVec.ofInt 64 (plain t a * plain t b / 2 ^ ITy.width t), 0) := by
  rw [← int_eq_plain, ← int_eq_plain]; rfl
theorem iopR_min : iopR .min t sat a b = (if plain t a ≤ plain t b then a else b, 0) := by
  simp only [← int_eq_plain]; rfl
theorem iopR_max : iopR .max t sat a b = (if plain t a ≤ plain t b then b else a, 0) := by
  simp only [← int_eq_plain]; rfl
theorem madR_eq : madR t sat a b z = wrapI t sat (plain t a * plain t b + plain t z) := by
  rw [madR, int_eq_plain, int_eq_plain, int_eq_plain]
theorem uopR_neg : uopR .neg t sat a = wrapI t sat (-plain t a) := by rw [← int_eq_plain]; rfl
theorem uopR_abs_signed (h : ITy.signed t = true) : uopR .abs t sat a = wrapI t sat (plain t a).natAbs := by
  rw [← int_eq_plain]; exact if_pos h
theorem uopR_abs_unsigned (h : ITy.signed t = false) : uopR .abs t sat a = (a, 0) := by
  simp [uopR, h]

/-- An unsigned value is its own magnitude. -/
theorem plain_eq_natAbs (h : ITy.signed t = false) : plain t a = (plain t a).natAbs := by
  cases t with
  | n32 | n64 => rfl
  | i32 | i64 => cases h

theorem uopR_abs_wraps : Wraps t (uopR .abs t false a) (plain t a).natAbs := by
  cases h : ITy.signed t with
  | true => rw [uopR_abs_signed t _ a h]; exact wrapI_wraps t _
  | false => rw [uopR_abs_unsigned t _ a h, ← plain_eq_natAbs t a h]; simp [Wraps]

theorem uopR_abs_clamps : Clamps t (uopR .abs t true a) (plain t a).natAbs := by
  cases h : ITy.signed t with
  | true => rw [uopR_abs_signed t _ a h]; exact wrapI_clamps t _
  | false =>
    obtain ⟨hl, hg⟩ := plain_mem_range t a
    rw [uopR_abs_unsigned t _ a h, ← plain_eq_natAbs t a h]
    exact ⟨by rw [Int.min_eq_right hg, Int.max_eq_right hl], (if_neg (by omega)).symm⟩

/-- Only a sum, a difference or a product can raise a flag, and that is SAT. -/
theorem iopR_flags (op : IOp) : (iopR op t sat a b).2 = 0 ∨ (iopR op t sat a b).2 = 0x20 := by
  cases op with
  | add | sub | mul => exact wrapI_flags t sat _
  | mulh | min | max | and | or | xor | andn | shl | shr | sar | rot => exact .inl rfl

theorem uopR_flags (op : UOp) : (uopR op t sat a).2 = 0 ∨ (uopR op t sat a).2 = 0x20 := by
  cases op with
  | neg => exact wrapI_flags t sat _
  | abs =>
    cases h : ITy.signed t with
    | true => rw [uopR_abs_signed t _ a h]; exact wrapI_flags t sat _
    | false => rw [uopR_abs_unsigned t _ a h]; exact .inl rfl
  | not | clz | popc | brev | mov => exact .inl rfl

end Operations

/-! ### Values of 32 bits -/

theorem lo32_iopR_bits (t : ITy) (a b : DWord) :
    lo32 (iopR .and t false a b).1 = lo32 a &&& lo32 b ∧ lo32 (iopR .or t false a b).1 = lo32 a ||| lo32 b ∧
    lo32 (iopR .xor t false a b).1 = lo32 a ^^^ lo32 b ∧ lo32 (iopR .andn t false a b).1 = lo32 a &&& ~~~(lo32 b) :=
  ⟨lo32_and a b, lo32_or a b, lo32_xor a b, by rw [← lo32_not]; exact lo32_and a (~~~b)⟩

section Words
variable {t : ITy} (h : t.is64 = false) (a b : DWord)
include h

theorem lo32_iopR_arith : lo32 (iopR .add t false a b).1 = lo32 a + lo32 b ∧ lo32 (iopR .sub t false a b).1 = lo32 a - lo32 b ∧
    lo32 (iopR .mul t false a b).1 = lo32 a * lo32 b := by
  simp only [iopR_add, iopR_sub, iopR_mul, wrapI_false, lo32_ofInt]
  simp only [BitVec.ofInt_add, ofInt_sub, BitVec.ofInt_mul, ofInt32_plain h, and_self]

theorem lo32_iopR_shifts : lo32 (iopR .shl t false a b).1 = lo32 a <<< ((lo32 b).toNat % 32) ∧
    lo32 (iopR .shr t false a b).1 = lo32 a >>> ((lo32 b).toNat % 32) ∧
    lo32 (iopR .sar t false a b).1 = (lo32 a).sshiftRight ((lo32 b).toNat % 32) ∧
    lo32 (iopR .rot t false a b).1 = (lo32 a).rotateLeft ((lo32 b).toNat % 32) := by
  simp [iopR, shiftN, lowT, h, lo32_shiftLeft, lo32_setWidth_shiftRight, BitVec.sshiftRight, Int.shiftRight_eq_div_pow]

end Words

/-! ### Values of 64 bits -/

section Pairs
variable {t : ITy} (h : t.is64 = true) (a b : DWord)
include h

theorem iopR_arith : (iopR .add t false a b).1 = a + b ∧ (iopR .sub t false a b).1 = a - b ∧ (iopR .mul t false a b).1 = a * b := by
  simp only [iopR_add, iopR_sub, iopR_mul, wrapI_false, BitVec.ofInt_add, ofInt_sub, BitVec.ofInt_mul, ofInt64_plain h, and_self]

theorem iopR_shifts : (iopR .shl t false a b).1 = a <<< ((lo32 b).toNat % 64) ∧
    (iopR .shr t false a b).1 = a >>> ((lo32 b).toNat % 64) ∧ (iopR .sar t false a b).1 = a.sshiftRight ((lo32 b).toNat % 64) ∧
    (iopR .rot t false a b).1 = a.rotateLeft ((lo32 b).toNat % 64) := by
  simp [iopR, shiftN, lowT, h, BitVec.sshiftRight, Int.shiftRight_eq_div_pow]

end Pairs

/-! ### SAT -/

/-- Of SAT alone only ESAT, bit 13 of `FPCTL`, makes a trap, with cause 0x85 (07_number_formats.md R146). -/
theorem flagCause_sat (fpctl : DWord) : flagCause fpctl 0x20 = if fpctl.getLsbD 13 then some 0x85 else none := by
  cases h : fpctl[13] <;> simp [flagCause, List.range_succ, h]

/-- A lane that raises SAT alone traps exactly where ESAT is 1. -/
theorem trapped_sat {o : LaneOut} (hf : o.fault = none) (hs : o.flags = 0x20) (fpctl : DWord) :
    o.trapped fpctl = if fpctl.getLsbD 13 then { o with fault := some (0x85, 0x20) } else o := by
  simp only [LaneOut.trapped, hf, hs, flagCause_sat]
  cases fpctl.getLsbD 13 <;> rfl

/-- Settles O14: every operation is `wrapI` of an exact integer, or a vector operation, or picks a source. -/
theorem integerValues : Obligations.IntegerValues := by
  intro a b z fpctl t
  refine ⟨?w32, ?w64, ?mulhI32, ?mulhN32, ?mulhI64, ?mulhN64, ?minI32, ?maxI32, ?minN32, ?maxN32, ?minI64, ?maxI64, ?minN64,
    ?maxN64, ?wraps, ?clamps, fun op sat => iopR_flags t sat a b op, fun op sat => uopR_flags t sat a op, ?sat⟩
  case w32 =>
    intro h
    obtain ⟨hadd, hsub, hmul⟩ := lo32_iopR_arith h a b
    obtain ⟨hand, hor, hxor, handn⟩ := lo32_iopR_bits t a b
    exact ⟨hadd, hsub, hmul, hand, hor, hxor, handn, lo32_iopR_shifts h a b⟩
  case w64 =>
    intro h
    obtain ⟨hadd, hsub, hmul⟩ := iopR_arith h a b
    exact ⟨hadd, hsub, hmul, rfl, rfl, rfl, rfl, iopR_shifts h a b⟩
  case mulhI32 => rw [iopR_mulh, lo32_ofInt]; exact ofInt_high_signed (lo32 a) (lo32 b)
  case mulhN32 => rw [iopR_mulh, lo32_ofInt]; exact ofInt_high_unsigned (lo32 a) (lo32 b)
  case mulhI64 => rw [iopR_mulh]; exact ofInt_high_signed a b
  case mulhN64 => rw [iopR_mulh]; exact ofInt_high_unsigned a b
  case minI32 => rw [iopR_min, lo32_ite]; exact ite_of_iff (plain_i32_le_iff a b) _ _
  case maxI32 => rw [iopR_max, lo32_ite]; exact ite_of_iff (plain_i32_le_iff a b) _ _
  case minN32 => rw [iopR_min, lo32_ite]; exact ite_of_iff (plain_n32_le_iff a b) _ _
  case maxN32 => rw [iopR_max, lo32_ite]; exact ite_of_iff (plain_n32_le_iff a b) _ _
  case minI64 => rw [iopR_min]; exact ite_of_iff (plain_i64_le_iff a b) _ _
  case maxI64 => rw [iopR_max]; exact ite_of_iff (plain_i64_le_iff a b) _ _
  case minN64 => rw [iopR_min]; exact ite_of_iff (plain_n64_le_iff a b) _ _
  case maxN64 => rw [iopR_max]; exact ite_of_iff (plain_n64_le_iff a b) _ _
  case wraps =>
    simp only [List.forall_mem_cons, iopR_add, iopR_sub, iopR_mul, madR_eq, uopR_neg]
    exact ⟨wrapI_wraps t _, wrapI_wraps t _, wrapI_wraps t _, wrapI_wraps t _, wrapI_wraps t _, uopR_abs_wraps t a, by simp⟩
  case clamps =>
    simp only [List.forall_mem_cons, iopR_add, iopR_sub, iopR_mul, madR_eq, uopR_neg]
    exact ⟨wrapI_clamps t _, wrapI_clamps t _, wrapI_clamps t _, wrapI_clamps t _, wrapI_clamps t _, uopR_abs_clamps t a, by simp⟩
  case sat =>
    intro x o hf hs
    refine ⟨by rw [hs]; rfl, fun he => ?_, fun he => ?_⟩
    · rw [trapped_sat hf hs, he]; rfl
    · rw [trapped_sat hf hs, he]; rfl

end Sys2Proof.Laws
end

section
/-! The predicates of a lane by name (06_registers.md R117, R122). -/

namespace Sys2Proof.Machine

theorem setBit_getLsbD {w : Nat} (v : BitVec w) (i : Nat) (b : Bool) (k : Nat) (hk : k < w) :
    (setBit v i b).getLsbD k = if k = i then b else v.getLsbD k := by
  have hbit : (BitVec.ofNat w (2 ^ i)).getLsbD k = decide (k = i) := by
    rw [BitVec.getLsbD_ofNat, Nat.testBit_two_pow, decide_eq_true hk, Bool.true_and, decide_eq_decide]; exact eq_comm
  cases b with
  | true =>
    simp only [setBit, if_true, BitVec.getLsbD_or, hbit]
    by_cases h : k = i <;> simp [h]
  | false =>
    simp only [setBit, Bool.false_eq_true, if_false, BitVec.getLsbD_and, BitVec.getLsbD_not, hk, hbit]
    by_cases h : k = i <;> simp [h]

theorem physP_of_lt {p : PReg} (h : p.toNat < 8) (rrb : BitVec 4) : physP rrb p = p.toNat := if_neg (by omega)
theorem physP_of_ge {p : PReg} (h : 8 ≤ p.toNat) (rrb : BitVec 4) : physP rrb p = 8 + (p.toNat - 8 + rrb.toNat) % 8 := if_pos h

@[simp] theorem Lane.pred_zero (ln : Lane) (rrb : BitVec 4) : ln.pred rrb 0 = true := rfl
@[simp] theorem Lane.setPred_zero (ln : Lane) (rrb : BitVec 4) (v : Bool) : ln.setPred rrb 0 v = ln := rfl
theorem Lane.pred_of_ne {p : PReg} (h : p ≠ 0) (ln : Lane) (rrb : BitVec 4) : ln.pred rrb p = ln.p.getLsbD (physP rrb p) := if_neg h
theorem Lane.setPred_p_of_ne {p : PReg} (h : p ≠ 0) (ln : Lane) (rrb : BitVec 4) (v : Bool) :
    (ln.setPred rrb p v).p = setBit ln.p (physP rrb p) v := by rw [Lane.setPred, if_neg h]

theorem preg_ne_zero_of_pos {p : PReg} (h : 0 < p.toNat) : p ≠ 0 := by
  rintro rfl
  exact absurd h (by decide)

end Sys2Proof.Machine
end

section
/-! The decoder on the one-word forms (08_encoding.md R155, R171) and the predicate instructions (10_isa_lane.md R222). -/

namespace Sys2Proof.Laws

open Sys2Proof.Machine Sys2Proof.Terms

/-! ### Decoding one word (R171) -/

/-- A word of an assigned one-word opcode decodes exactly where it is the encoding of the instruction that its fields give. -/
theorem decodeWords_one {w : Word} {i : Instr} (hlen : w.extractLsb' 0 2 = 0) (hopc : opcodeWords (w.extractLsb' 2 8) = some 1)
    (hi : extract (Fields.of w 0 0) = some i) (w1 w2 : Word) :
    decodeWords w w1 w2 = if i.wf = true ∧ encode i = [w] then .ok i else .error .reserved := by
  have hl : lenWords w = some 1 := by rw [lenWords, hlen]; rfl
  simp only [decodeWords, hl, hopc, ne_eq, not_true_eq_false, if_false, List.take, List.getD_cons_succ, List.getD_nil, hi]
  exact ite_of_iff (by rw [Bool.and_eq_true, beq_iff_eq]) _ _

/-- The word of a well-formed Z32 form decodes to it. -/
theorem decodeWords_z32 {opc : BitVec 8} {f : BitVec 4} {d a b : BitVec 6} {i : Instr} (hopc : opcodeWords opc = some 1)
    (hi : extract (Fields.of (word0 0 opc f d a b) 0 0) = some i) (hwf : i.wf = true) (he : encode i = z32 opc f d a b) :
    decodeWords (word0 0 opc f d a b) 0 0 = .ok i := by
  rw [decodeWords_one (word0_len ..) (by rw [word0_opc, hopc]) hi, if_pos ⟨hwf, he⟩]

/-- A word whose F or B field is not that of the encoding of its fields' instruction decodes to none. -/
theorem decodeWords_z32_error {opc : BitVec 8} {f : BitVec 4} {d a b : BitVec 6} {i : Instr} {w : Word}
    (hopc : opcodeWords opc = some 1) (hw : w.extractLsb' 0 10 = opc ++ 0#2)
    (hi : (Fields.of w 0 0).opc = opc → extract (Fields.of w 0 0) = some i) (he : encode i = z32 opc f d a b)
    (hne : w.extractLsb' 28 4 ≠ f ∨ w.extractLsb' 22 6 ≠ b) : ∃ e, decodeWords w 0 0 = .error e := by
  have hlen : w.extractLsb' 0 2 = 0 := by
    rw [← BitVec.extractLsb'_extractLsb'_of_le (len' := 10) (by decide), hw]; exact extract_low _ _
  have hop : w.extractLsb' 2 8 = opc := by
    rw [← BitVec.extractLsb'_extractLsb'_of_le (len' := 10) (by decide), hw, extract_high _ _ 2 0 8 rfl]; exact extract_all _
  refine ⟨.reserved, ?_⟩
  rw [decodeWords_one hlen (by rw [hop, hopc]) (hi hop), if_neg]
  rintro ⟨-, h⟩
  rw [he, z32, List.singleton_inj] at h
  subst h
  simp at hne

theorem extract_of_pand {x : Fields} (h : x.opc = 0x3B) : extract x = some (.pand (preg x.d) (preg x.a) (preg x.b)) := by
  simp [extract, extract32, h]
theorem extract_of_por {x : Fields} (h : x.opc = 0x3C) : extract x = some (.por (preg x.d) (preg x.a) (preg x.b)) := by
  simp [extract, extract32, h]
theorem extract_of_pxor {x : Fields} (h : x.opc = 0x3D) : extract x = some (.pxor (preg x.d) (preg x.a) (preg x.b)) := by
  simp [extract, extract32, h]
theorem extract_of_pnot {x : Fields} (h : x.opc = 0x3E) : extract x = some (.pnot (preg x.d) (preg x.a)) := by
  simp [extract, extract32, h]

@[simp] theorem preg_setWidth (p : PReg) : preg (p.setWidth 6) = p := by simp [preg]

/-! ### The predicate instructions -/

/-- The words of the predicate instructions decode to them. -/
theorem decodeWords_predicate (d a b : PReg) :
    decodeWords (word0 0 0x3B 0 (d.setWidth 6) (a.setWidth 6) (b.setWidth 6)) 0 0 = .ok (.pand d a b) ∧
    decodeWords (word0 0 0x3C 0 (d.setWidth 6) (a.setWidth 6) (b.setWidth 6)) 0 0 = .ok (.por d a b) ∧
    decodeWords (word0 0 0x3D 0 (d.setWidth 6) (a.setWidth 6) (b.setWidth 6)) 0 0 = .ok (.pxor d a b) ∧
    decodeWords (word0 0 0x3E 0 (d.setWidth 6) (a.setWidth 6) 0) 0 0 = .ok (.pnot d a) :=
  ⟨decodeWords_z32 rfl ((extract_of_pand (word0_opc ..)).trans (by simp [Fields.of])) rfl encode_pand,
    decodeWords_z32 rfl ((extract_of_por (word0_opc ..)).trans (by simp [Fields.of])) rfl encode_por,
    decodeWords_z32 rfl ((extract_of_pxor (word0_opc ..)).trans (by simp [Fields.of])) rfl encode_pxor,
    decodeWords_z32 rfl ((extract_of_pnot (word0_opc ..)).trans (by simp [Fields.of])) rfl encode_pnot⟩

/-- Words of their opcodes with F, or with B in `PNOT`, not zero are no instruction. -/
theorem decodeWords_predicate_error {w : Word}
    (hw : w.extractLsb' 0 10 = 0xEC ∨ w.extractLsb' 0 10 = 0xF0 ∨ w.extractLsb' 0 10 = 0xF4 ∨ w.extractLsb' 0 10 = 0xF8)
    (hne : w.extractLsb' 28 4 ≠ 0 ∨ (w.extractLsb' 0 10 = 0xF8 ∧ w.extractLsb' 22 6 ≠ 0)) :
    ∃ e, decodeWords w 0 0 = .error e := by
  have hf (h : w.extractLsb' 0 10 ≠ 0xF8) : w.extractLsb' 28 4 ≠ 0 := hne.resolve_right fun hb => h hb.1
  obtain h | h | h | h := hw
  · exact decodeWords_z32_error rfl h extract_of_pand encode_pand (.inl (hf (by rw [h]; decide)))
  · exact decodeWords_z32_error rfl h extract_of_por encode_por (.inl (hf (by rw [h]; decide)))
  · exact decodeWords_z32_error rfl h extract_of_pxor encode_pxor (.inl (hf (by rw [h]; decide)))
  · exact decodeWords_z32_error rfl h extract_of_pnot encode_pnot (hne.imp_right And.right)

/-- Settles O16: the decoder's checks on Z32 words, the register instructions' meaning, and the predicate operations of a lane. -/
theorem predicates : Obligations.Predicates := by
  refine ⟨fun d a b => ⟨?words, laneResult fun _ => rfl, laneResult fun _ => rfl, laneResult fun _ => rfl, laneResult fun _ => rfl⟩,
    fun w => decodeWords_predicate_error, fun ln rrb p v => ⟨ln.pred_zero rrb, ln.setPred_zero rrb v, ?low, ?high, ?write⟩,
    rfl, rfl, rfl, rfl, rfl⟩
  case words =>
    have hname (p : PReg) : 0#2 ++ p = p.setWidth 6 := (BitVec.setWidth_eq_append (by decide)).symm
    simp only [List.forall_mem_cons, hname]
    obtain ⟨hand, hor, hxor, hnot⟩ := decodeWords_predicate d a b
    exact ⟨hand, hor, hxor, hnot, by simp⟩
  case low =>
    intro h0 h8
    rw [Lane.pred_of_ne (preg_ne_zero_of_pos h0), physP_of_lt h8]
  case high =>
    intro h8
    rw [Lane.pred_of_ne (preg_ne_zero_of_pos (by omega)), physP_of_ge h8]
  case write =>
    intro hp k hk
    rw [Lane.setPred_p_of_ne hp, setBit_getLsbD _ _ _ _ hk]
    by_cases h8 : p.toNat < 8
    · rw [physP_of_lt h8, if_pos h8]
    · rw [physP_of_ge (by omega), if_neg h8]

end Sys2Proof.Laws
end

section
/-! The path in focus (18_scheduling.md R406): what it is, and that the joins of a warp and the completion of an instruction leave
the focus where it stands (15_travellers.md R346, R347). -/

namespace Sys2Proof.Machine

/-- The path that may issue: that of the slot in focus, running, in a unit that is Issuing, with no trap entry outstanding and not
held back by a `YIELD`. -/
theorem State.focused_eq_some_iff {s : State} {a : Agent} {p : Path} {b : Bool} :
    s.focused = some (a, p, b) ↔ s.focus = some (a.uid, b) ∧ s.agent? a.uid = some a ∧ a.slot b = some p ∧ a.status = .issuing ∧
      p.mode = .run ∧ p.trap = none ∧ s.yields a p = false := by
  unfold State.focused
  constructor
  · intro h
    split at h
    · cases h
    · next u c hfocus =>
      split at h
      · cases h
      · next x hagent =>
        have hu : x.uid = u := by simpa using List.find?_some hagent
        split at h
        · cases h
        · next q hslot =>
          split at h
          · next hready =>
            cases h
            subst hu
            simp only [Bool.and_eq_true, beq_iff_eq, Option.isNone_iff_eq_none, Bool.not_eq_true'] at hready
            obtain ⟨⟨⟨hstatus, hmode⟩, htrap⟩, hyields⟩ := hready
            exact ⟨hfocus, hagent, hslot, hstatus, hmode, htrap, hyields⟩
          · cases h
  · rintro ⟨hfocus, hagent, hslot, hstatus, hmode, htrap, hyields⟩
    simp [hfocus, hagent, hslot, hstatus, hmode, htrap, hyields]

/-! ### Changes of a unit's paths leave the focus -/

@[simp] theorem State.putRec_focus (s : State) (a : Agent) (k : Nat) (p : Path) : (s.putRec a k p).focus = s.focus := by
  simp [State.putRec, State.putLword]

@[simp] theorem State.pushPath_focus (s : State) (u : Nat) (p : Path) : (s.pushPath u p).focus = s.focus := by
  unfold State.pushPath
  split <;> simp

@[simp] theorem State.popPath_focus (s : State) (u : Nat) (b : Bool) : (s.popPath u b).focus = s.focus := by
  unfold State.popPath
  split
  · rfl
  · split <;> simp

/-- A conditional answer is that of its first branch, or the second branch gives it. -/
theorem some_eq_or_of_ite_eq_some {α : Type} {q : Prop} [Decidable q] {x t : α} {o : Option α}
    (h : (if q then some x else o) = some t) : some x = some t ∨ o = some t := by
  split at h
  · exact .inl h
  · exact .inr h

theorem State.focus_of_some_eq {s t u : State} (h : some u = some t) (hu : u.focus = s.focus) : t.focus = s.focus :=
  Option.some.inj h ▸ hu

theorem State.settle1_alone_focus {s t : State} {a : Agent} {b : Bool} {p : Path} (h : State.settle1.alone s a b p = some t) :
    t.focus = s.focus := by
  unfold State.settle1.alone at h
  dsimp only at h
  split at h
  · split at h
    · split at h <;> exact State.focus_of_some_eq h (by simp)
    · split at h <;> exact State.focus_of_some_eq h (by simp)
  · split at h
    · exact State.focus_of_some_eq h (by simp)
    · cases h

theorem State.settle1_row_focus {s t : State} {a : Agent} {b : Bool} {p : Path} (h : State.settle1.row s a b p = some t) :
    t.focus = s.focus := by
  unfold State.settle1.row at h
  split at h
  · split at h
    · split at h
      · exact State.focus_of_some_eq h (by simp)
      · split at h
        · exact State.focus_of_some_eq h (by simp)
        · exact State.settle1_alone_focus h
    · exact State.settle1_alone_focus h
  · cases h

theorem State.settle1_focus {s t : State} {a : Agent} (h : s.settle1 a = some t) : t.focus = s.focus := by
  unfold State.settle1 at h
  dsimp only at h
  -- the changes before the slots are compared: an empty slot frees, a record is taken into one, a held path is released
  iterate 5
    obtain h | h := some_eq_or_of_ite_eq_some h
    · exact State.focus_of_some_eq h (by simp)
  split at h
  · obtain h | h := some_eq_or_of_ite_eq_some h
    · exact State.focus_of_some_eq h (by simp)
    · obtain h | ⟨-, h⟩ := Option.or_eq_some_iff.1 h <;> exact State.settle1_row_focus h
  · exact State.settle1_row_focus h
  · exact State.settle1_row_focus h
  · cases h

theorem State.settleN_focus (u : Nat) : ∀ (n : Nat) (s : State), (State.settleN u n s).focus = s.focus
  | 0, _ => rfl
  | n + 1, s => by
    unfold State.settleN
    split
    · rfl
    · split
      · rfl
      · next t h => rw [settleN_focus u n t, State.settle1_focus h]

@[simp] theorem State.settle_focus (s : State) (u : Nat) : (s.settle u).focus = s.focus := by
  unfold State.settle
  split
  · rfl
  · split
    · exact State.settleN_focus u 400 s
    · rfl

@[simp] theorem State.jump_focus (s : State) (c : Ctx) (pc : DWord) : (s.jump c pc).focus = s.focus := by simp [State.jump]

@[simp] theorem State.complete_focus (s : State) (c : Ctx) : (s.complete c).focus = s.focus := by
  unfold State.complete
  split <;> simp

/-! ### A unit whose paths have all changed -/

@[simp] theorem Agent.mapPaths_uid (a : Agent) (f : Path → Path) : (a.mapPaths f).uid = a.uid := rfl

@[simp] theorem Agent.slot_mapPaths (a : Agent) (f : Path → Path) (b : Bool) : (a.mapPaths f).slot b = (a.slot b).map f := by
  cases b <;> rfl

/-- No path of the unit in focus may issue once each has been given a mode other than running. -/
theorem State.focused_mapPaths_eq_none {s : State} {u : Nat} {b : Bool} {f : Path → Path} (hf : ∀ p, (f p).mode ≠ .run)
    (hs : s.focus = some (u, b)) : (s.updAgent u fun a => a.mapPaths f).focused = none := by
  refine Option.eq_none_iff_forall_ne_some.2 fun ⟨a, p, b'⟩ h => ?_
  obtain ⟨hfocus, hagent, hslot, -, hmode, -, -⟩ := State.focused_eq_some_iff.1 h
  obtain rfl : u = a.uid := by simpa using congrArg (Option.map Prod.fst) (hs.symm.trans hfocus)
  rw [State.agent?_updAgent s a.uid a.uid _ fun a => a.mapPaths_uid f, if_pos rfl] at hagent
  obtain ⟨a₀, -, rfl⟩ := Option.map_eq_some_iff.1 hagent
  rw [Agent.slot_mapPaths] at hslot
  obtain ⟨q, -, rfl⟩ := Option.map_eq_some_iff.1 hslot
  exact hf q hmode

end Sys2Proof.Machine
end

section
/-! Traps, returns from them and stopping (17_isa_control.md R385, R386, R389, R390), and what cannot be decoded or fetched
(08_encoding.md R154, R171). -/

namespace Sys2Proof.Laws

open Sys2Proof.Machine Sys2Proof.Terms

/-! ### An instruction that a check of R171 refuses -/

/-- Every lane of the path takes the cause of the check together, with the instruction's words as TVAL. -/
theorem issue_of_preCheck {i : Instr} {s : State} {a : Agent} {p : Path} {b : Bool} {x : BitVec 8}
    (hf : s.focused = some (a, p, b)) (hc : preCheck a p i = some x) (g : Guard) (k : Ctx → State → State) :
    issue i g s k = .next (s.faultAll ⟨a.uid, b, a, p, p.mask, p.pc + 4 * BitVec.ofNat 64 (encode i).length⟩ x
      (wordsTval (encode i))) := by
  simp only [issue, hf, hc]

/-- `HALT` below firmware mode is refused: it has no registers and is of both kinds of core, so its privilege decides. -/
theorem preCheck_halt {p : Path} (hp : p.priv ≠ .firmware) (a : Agent) : preCheck a p .halt = some 0x04 := by
  have huses : uses .halt = [] := rfl
  have hwide : wideOnly .halt = false := rfl
  have hbarrel : barrelOnly .halt = false := rfl
  have hpriv : privFault p.priv .halt = true := bne_iff_ne.2 hp
  simp [preCheck, huses, hwide, hbarrel, hpriv]

/-! ### The back edge (16_loops.md R351) -/

/-- A unit with a current loop holds a level. -/
theorem loopsOf_length_pos {a : Agent} {act : Bool} {lp : Loop} (h : a.curLoop act = some lp) : 0 < (a.loopsOf act).length :=
  List.length_pos_of_mem (List.mem_of_find?_eq_some h)

/-- At the END of a current loop that has turns left and does not pipeline, one turn is taken off and the path goes to START. -/
theorem backEdge_of_remain {a : Agent} {act : Bool} {npc : DWord} {lp : Loop} (hcur : a.curLoop act = some lp)
    (hstop : lp.stop = npc) (hremain : 1 < lp.remain.toNat) (hstages : lp.stages = 0) (n : Nat) :
    backEdge act (n + 1) a npc =
      (a.setLoops act (a.rrbOf act) (replaceCur (a.loopsOf act) (some { lp with remain := lp.remain - 1 })), lp.start) := by
  simp [backEdge, hcur, hstop, hremain, hstages]

/-! ### The instructions -/

theorem exec_trap_eq (code : BitVec 8) (r : GReg) (s : State) : exec (.trap code r) s = execTrap code r s := rfl
theorem exec_eret_eq (s : State) : exec .eret s = execEret s := rfl
theorem exec_nop_eq (s : State) : exec .nop s = execNop s := rfl
theorem exec_halt_eq (s : State) : exec .halt s = execHalt s := rfl
theorem exec_isync_eq (s : State) : exec .isync s = execIsync s := rfl
theorem exec_haltRestart_eq (unit slot : Nat) (s : State) : exec (.haltRestart unit slot) s = execHaltRestart unit slot s := rfl
theorem exec_illegalInstruction_eq (w0 w1 : Word) (s : State) :
    exec (.illegalInstruction w0 w1) s = .next (s.fetchCause 0x01 (w1 ++ w0)) := rfl
theorem exec_fetchFault_eq (cause : BitVec 8) (addr : DWord) (s : State) :
    exec (.fetchFault cause addr) s = .next (s.fetchCause cause addr) := rfl

/-- `TRAP` with a readable operand, where no other path of the warp is in a handler: the operand is read in every lane, the back
edge is performed, and the lanes trap together from the PC that it gives. -/
theorem exec_trap {code : BitVec 8} {r : GReg} {s u : State} {c : Ctx} {a : Agent} {x : Agent × DWord}
    (hi : Issues (.trap code r) Guard.always s c) (hr : Reads s c [(rd r).w1] [] [])
    (hother : (c.a.wide && !c.p.act && !c.a.leaves && c.a.otherAct c.b) = false)
    (hu : u = (Mask.list c.p.mask).foldl (fun s l => s.consumeOps c l [(rd r).w1]) (atIssue s c))
    (ha : u.agent? c.uid = some a) (hx : x = backEdge c.p.act (a.loopsOf c.p.act).length a c.npc) :
    exec (.trap code r) s = .next (((u.setAgent x.1).updPath c.uid c.b fun p => { p with pc := x.2, wait := none }).raiseFaults
      c.uid c.b (lanesFault c.p.mask code (c.value (Mask.lowest c.p.mask) (rd r).w1)) c.p.mask 0 0 x.2 none) := by
  subst hu hx
  rw [exec_trap_eq, execTrap, issue_of_issues hi]
  simp only [stand_of_reads hr, hother, hi.together, ha, Bool.false_eq_true, if_false]

/-- `HALT` that issues completes, and then every path of the unit stops. -/
theorem exec_halt {s : State} {c : Ctx} (hi : Issues .halt Guard.always s c) :
    exec .halt s = .next (((atIssue s c).complete c).updAgent c.uid fun a => a.mapPaths fun p => { p with mode := .halted }) := by
  rw [exec_halt_eq, execHalt, issue_of_issues hi, hi.together, if_neg Bool.false_ne_true]

/-- After it nothing of the unit in focus issues. -/
theorem focused_eq_none_of_exec_halt {s t : State} {c : Ctx} (hi : Issues .halt Guard.always s c) (ht : exec .halt s = .next t) :
    t.focused = none := by
  obtain rfl := Host.Outcome.next.inj ((exec_halt hi).symm.trans ht)
  obtain ⟨hfocus, -⟩ := State.focused_eq_some_iff.1 hi.focus
  refine State.focused_mapPaths_eq_none (fun _ => by simp) (b := c.b) ?_
  rw [State.complete_focus, atIssue, State.noteIssue_focus, hi.uid, hfocus]

/-- `HALT` in user or supervisor mode: its one word is the TVAL. -/
theorem exec_halt_of_not_firmware {s : State} {a : Agent} {p : Path} {b : Bool} (hf : s.focused = some (a, p, b))
    (hp : p.priv ≠ .firmware) : exec .halt s = .next (s.faultAll ⟨a.uid, b, a, p, p.mask, p.pc + 4⟩ 0x04 0x38) := by
  rw [exec_halt_eq, execHalt, issue_of_preCheck hf (preCheck_halt hp a)]
  rfl

/-- Management restarts a slot that stands stopped: every stopped path of the unit runs. -/
theorem exec_haltRestart {unit slot : Nat} {s : State} {a : Agent} {p : Path} (ha : s.agent? unit = some a)
    (hh : a.status ≠ .halted) (ho : a.status ≠ .haltedOut) (hs : a.slot (slot == 1) = some p) (hp : p.mode = .halted) :
    exec (.haltRestart unit slot) s = .next (s.setAgent (a.mapPaths Path.restart)) := by
  simp [exec_haltRestart_eq, execHaltRestart, Agent.isHalted, ha, hh, ho, hs, hp]

/-- `ISYNC` with every write acknowledged: no path of the unit keeps a word that it has fetched ahead. -/
theorem exec_isync {s : State} {c : Ctx} (hi : Issues .isync Guard.always s c) (ha : c.a.acks = 0) :
    exec .isync s = .next (((atIssue s c).updAgent c.uid fun a => a.mapPaths fun p => { p with buf := [] }).complete c) := by
  rw [exec_isync_eq, execIsync, issue_of_issues hi, if_neg (not_not_intro ha), completeWith_of_not_clash hi.together]

/-- The lanes of the path in focus take a cause of its fetch or its decoding together. -/
theorem fetchCause_of_focused {s : State} {a : Agent} {p : Path} {b : Bool} (hf : s.focused = some (a, p, b)) (cause : BitVec 8)
    (tval : DWord) : s.fetchCause cause tval =
      (s.clearWalkFaults a.uid p.mask).faultAll ⟨a.uid, b, a, p, p.mask, p.pc⟩ cause tval := by
  simp only [State.fetchCause, hf]

/-- Settles O30: each clause is the law of its instruction above; an instruction that issues reads its operands and completes by
the laws of `issue`. -/
theorem trapsAndStops : Obligations.TrapsAndStops := by
  intro code cause r w0 w1 addr s c
  refine ⟨fun hi hr _ hother u a x hu ha hx => exec_trap hi hr hother hu ha hx, ?eret, ?nop,
    ?complete, ?backEdge, fun a p b hf hp => exec_halt_of_not_firmware hf hp, fun t => focused_eq_none_of_exec_halt,
    fun unit slot a p ha hh ho hs hp => exec_haltRestart ha hh ho hs hp, exec_halt, exec_isync, ?fetch⟩
  case eret =>
    intro hi
    rw [exec_eret_eq, execEret, issueBranch_of_branches hi]
  case nop =>
    intro hi
    rw [exec_nop_eq, execNop, issue_of_issues hi, completeWith_of_not_clash hi.together, id]
  case complete =>
    intro a ha
    simp only [State.complete, ha]
  case backEdge =>
    intro a act npc lp hcur hstop hremain hstages
    obtain ⟨n, hn⟩ := Nat.exists_eq_add_one.2 (loopsOf_length_pos hcur)
    rw [hn, backEdge_of_remain hcur hstop hremain hstages]
  case fetch =>
    intro a p b hf
    rw [exec_illegalInstruction_eq, exec_fetchFault_eq, fetchCause_of_focused hf, fetchCause_of_focused hf]
    exact ⟨rfl, rfl⟩

end Sys2Proof.Laws
end

section
/-! The shared queue window (18_scheduling.md R408): what the pairing of coach and shadow wave rests on, and that the mirror which
ends every step makes the two windows one. -/

namespace Sys2Proof.Machine

open Sys2Proof.Terms

/-! ### What the pairing rests on -/

/-- What the pairing of units says of one: its number, its kind, its partner and how many lanes it has. -/
def Agent.badge (a : Agent) : Nat × UKind × Option Nat × Nat := (a.uid, a.kind, a.partner, a.lanes.length)

/-- The badges of the units, in their order. -/
def State.badges (s : State) : List (Nat × UKind × Option Nat × Nat) := s.agents.map Agent.badge

/-- Changing a unit without changing its badge changes no badge. -/
theorem State.badges_updAgent (s : State) (u : Nat) {f : Agent → Agent} (hf : ∀ a, (f a).badge = a.badge) :
    (s.updAgent u f).badges = s.badges := by
  simp only [State.badges, State.updAgent, List.map_map]
  refine List.map_congr_left fun a _ => ?_
  simp only [Function.comp]
  split
  · exact hf a
  · rfl

@[simp] theorem Agent.badge_updLane (a : Agent) (l : Nat) (f : Lane → Lane) : (a.updLane l f).badge = a.badge := by
  simp [Agent.badge]

@[simp] theorem State.badges_updLane (s : State) (u l : Nat) (f : Lane → Lane) : (s.updLane u l f).badges = s.badges :=
  s.badges_updAgent u fun a => a.badge_updLane l f

/-- The pairing, said of badges. -/
def PairedBadges (bs : List (Nat × UKind × Option Nat × Nat)) (next : Nat) : Prop :=
  (bs.map (·.1)).Nodup ∧ (∀ b ∈ bs, b.1 < next ∧ ∀ u, b.2.2.1 = some u → u < next) ∧
  ∀ sh ∈ bs, ∀ co ∈ bs, sh.2.1 = .shadow → sh.2.2.1 = some co.1 →
    co.2.1 = .coach ∧ co.2.2.1 = some sh.1 ∧ co.2.2.2 = 32 ∧ sh.2.2.2 = 32

theorem paired_iff_badges (s : State) : Paired s ↔ PairedBadges s.badges s.nextId := by
  simp only [Paired, PairedBadges, State.badges, List.map_map, List.forall_mem_map, Agent.badge]
  rfl

theorem eq_of_nodup_map {α β : Type} {f : α → β} {l : List α} (h : (l.map f).Nodup) {a b : α} (ha : a ∈ l) (hb : b ∈ l)
    (hf : f a = f b) : a = b := by
  induction l with
  | nil => cases ha
  | cons x l ih =>
    rw [List.map_cons, List.nodup_cons] at h
    obtain ⟨hx, hl⟩ := h
    obtain rfl | hal := List.mem_cons.1 ha
    · obtain rfl | hbl := List.mem_cons.1 hb
      · rfl
      · exact absurd (hf ▸ List.mem_map_of_mem hbl) hx
    · obtain rfl | hbl := List.mem_cons.1 hb
      · exact absurd (hf ▸ List.mem_map_of_mem hal) hx
      · exact ih hl hal hbl

/-- Numbers of units that differ make each unit the one found under its number. -/
theorem State.agent?_of_mem {s : State} (h : (s.agents.map (·.uid)).Nodup) {a : Agent} (ha : a ∈ s.agents) :
    s.agent? a.uid = some a := by
  obtain ⟨b, hb⟩ : ∃ b, s.agents.find? (·.uid == a.uid) = some b :=
    Option.isSome_iff_exists.1 (List.find?_isSome.2 ⟨a, ha, by simp⟩)
  have hu : b.uid = a.uid := by simpa using List.find?_some hb
  rw [State.agent?, hb, eq_of_nodup_map h (List.mem_of_find?_eq_some hb) ha hu]

theorem State.agent?_mem {s : State} {u : Nat} {a : Agent} (h : s.agent? u = some a) : a ∈ s.agents ∧ a.uid = u :=
  ⟨List.mem_of_find?_eq_some h, by simpa using List.find?_some h⟩

/-! ### One register of the window -/

/-- What R408 makes one of a register in the two waves: its value, its full and pending bits and its poison. -/
def Lane.shown (ln : Lane) (r : Fin 64) : Word × Bool × Bool × Bool :=
  (ln.reg r, ln.full.getLsbD r.val, ln.pend.getLsbD r.val, ln.bad.getLsbD r.val)

theorem Lane.shown_eq_of_cell_eq {x y : Lane} {r : Fin 64} (h : x.cell r = y.cell r) : x.shown r = y.shown r := by
  obtain ⟨hv, hf, hp, hb, -, -⟩ := Cell.mk.inj h
  rw [Lane.shown, Lane.shown, hv, hf, hp, hb]

/-- A cell that is put shows in its register, and no other register shows anything new. -/
theorem Lane.shown_putCell (ln x : Lane) (r k : Fin 64) : (ln.putCell x r).shown k = if k = r then x.shown r else ln.shown k := by
  have hg : (ln.putCell x r).reg k = if k = r then x.reg r else ln.reg k := Lane.reg_setReg ln r k (x.reg r)
  simp only [Lane.shown, hg]
  simp only [Lane.putCell, setBit_getLsbD _ _ _ _ k.isLt, Lane.cell, Fin.val_inj]
  split <;> rfl

/-- What a register of a lane of a unit shows. -/
def State.shownAt (s : State) (u l : Nat) (r : Fin 64) : Option (Word × Bool × Bool × Bool) :=
  (s.agent? u).map fun a => (a.lane l).shown r

theorem State.agent?_updLane (s : State) (u v l : Nat) (f : Lane → Lane) :
    (s.updLane u l f).agent? v = if v = u then (s.agent? v).map fun a => a.updLane l f else s.agent? v :=
  s.agent?_updAgent u v _ fun _ => rfl

/-- Putting a cell into a lane that is there. -/
theorem State.shownAt_putCell_same {s : State} {u l : Nat} {a : Agent} (ha : s.agent? u = some a) (hl : l < a.lanes.length) (x : Lane)
    (r : Fin 64) : (s.updLane u l fun ln => ln.putCell x r).shownAt u l r = some (x.shown r) := by
  rw [State.shownAt, State.agent?_updLane, if_pos rfl, ha]
  simp [Agent.lane_updLane _ _ _ _ hl, Lane.shown_putCell]

/-- Putting a cell changes what no other register of no other lane of no other unit shows. -/
theorem State.shownAt_putCell_of_ne (s : State) {u v l k : Nat} {r q : Fin 64} (h : ¬ (v = u ∧ k = l ∧ q = r)) (x : Lane) :
    (s.updLane u l fun ln => ln.putCell x r).shownAt v k q = s.shownAt v k q := by
  rw [State.shownAt, State.shownAt, State.agent?_updLane]
  split
  · next hv =>
    rw [Option.map_map]
    congr 1
    funext a
    simp only [Function.comp]
    by_cases hl : l < a.lanes.length
    · rw [Agent.lane_updLane _ _ _ _ hl]
      split
      · next hk =>
        subst hk
        rw [Lane.shown_putCell, if_neg fun hq => h ⟨hv, rfl, hq⟩]
      · rfl
    · rw [Agent.updLane, List.modify_eq_self (Nat.le_of_not_lt hl)]
  · rfl

/-- The mirror of one register of one lane writes one of the two waves, or nothing. -/
theorem State.mirror1_cases (s0 s : State) (co sh l : Nat) (r : Fin 64) :
    State.mirror1 s0 s co sh l r = s ∨ (∃ x, State.mirror1 s0 s co sh l r = s.updLane sh l fun ln => ln.putCell x r) ∨
      ∃ x, State.mirror1 s0 s co sh l r = s.updLane co l fun ln => ln.putCell x r := by
  unfold State.mirror1
  dsimp only
  split
  · next x y _ _ =>
    split
    · exact .inl rfl
    · split
      · exact .inr (.inl ⟨x, rfl⟩)
      · exact .inr (.inr ⟨y, rfl⟩)
  · exact .inl rfl

theorem State.mirror1_badges (s0 s : State) (co sh l : Nat) (r : Fin 64) : (State.mirror1 s0 s co sh l r).badges = s.badges := by
  obtain h | ⟨x, h⟩ | ⟨x, h⟩ := State.mirror1_cases s0 s co sh l r <;> simp [h]

theorem State.mirror1_shownAt_of_ne (s0 s : State) {co sh v l k : Nat} {r q : Fin 64} (h : ¬ ((v = co ∨ v = sh) ∧ k = l ∧ q = r)) :
    (State.mirror1 s0 s co sh l r).shownAt v k q = s.shownAt v k q := by
  obtain e | ⟨x, e⟩ | ⟨x, e⟩ := State.mirror1_cases s0 s co sh l r <;> rw [e]
  · exact s.shownAt_putCell_of_ne (fun hv => h ⟨.inr hv.1, hv.2⟩) x
  · exact s.shownAt_putCell_of_ne (fun hv => h ⟨.inl hv.1, hv.2⟩) x

/-- After its mirror a register of a lane that both waves have shows the same in both. -/
theorem State.mirror1_shownAt_eq (s0 : State) {s : State} {co sh l : Nat} {a b : Agent} (hco : s.agent? co = some a)
    (hsh : s.agent? sh = some b) (hne : co ≠ sh) (ha : l < a.lanes.length) (hb : l < b.lanes.length) (r : Fin 64) :
    (State.mirror1 s0 s co sh l r).shownAt co l r = (State.mirror1 s0 s co sh l r).shownAt sh l r := by
  unfold State.mirror1
  simp only [hco, hsh, Option.map_some]
  split
  · next hc => simp [State.shownAt, hco, hsh, Lane.shown_eq_of_cell_eq hc]
  · split
    · rw [State.shownAt_putCell_same hsh hb, s.shownAt_putCell_of_ne (fun h => hne h.1), State.shownAt, hco]; rfl
    · rw [State.shownAt_putCell_same hco ha, s.shownAt_putCell_of_ne (fun h => hne h.1.symm), State.shownAt, hsh]; rfl

/-! ### The mirror of every window -/

/-- The registers that the mirror visits: coach, shadow wave, lane and register. -/
def State.mirrorSpots (s : State) : List (Nat × Nat × Nat × Fin 64) :=
  (s.agents.filter (·.kind == .shadow)).flatMap fun sh => match sh.partner with
    | some co => (List.range 32).flatMap fun l => windowRegs.map fun r => (co, sh.uid, l, r)
    | none => []

/-- The mirror visits them one after another. -/
theorem State.mirror_eq_foldl (s0 s : State) :
    State.mirror s0 s = s.mirrorSpots.foldl (fun s x => State.mirror1 s0 s x.1 x.2.1 x.2.2.1 x.2.2.2) s := by
  rw [State.mirror, State.mirrorSpots, List.foldl_flatMap]
  congr 1
  funext t sh
  cases sh.partner with
  | some co => simp only [List.foldl_flatMap, List.foldl_map]
  | none => rfl

theorem State.mem_mirrorSpots {s : State} {x : Nat × Nat × Nat × Fin 64} :
    x ∈ s.mirrorSpots ↔ ∃ sh ∈ s.agents, sh.kind = .shadow ∧ sh.partner = some x.1 ∧ x.2.1 = sh.uid ∧ x.2.2.1 < 32 ∧
      x.2.2.2 ∈ windowRegs := by
  obtain ⟨co, u, l, r⟩ := x
  simp only [State.mirrorSpots, List.mem_flatMap, List.mem_filter, beq_iff_eq]
  refine exists_congr fun sh => ?_
  rw [and_assoc]
  refine and_congr_right fun _ => and_congr_right fun _ => ?_
  cases sh.partner with
  | none => simp
  | some v => 
    simp only [List.mem_flatMap, List.mem_range, List.mem_map, Prod.mk.injEq, Option.some.injEq]
    constructor
    · rintro ⟨l, hl, r, hr, rfl, rfl, rfl, rfl⟩
      exact ⟨rfl, rfl, hl, hr⟩
    · rintro ⟨rfl, rfl, hl, hr⟩
      exact ⟨l, hl, r, hr, rfl, rfl, rfl, rfl⟩

/-- The register of a spot shows the same in both waves, where the coach is still there. -/
def State.Mirrored (s : State) (x : Nat × Nat × Nat × Fin 64) : Prop :=
  ∀ co, s.agent? x.1 = some co → s.shownAt x.1 x.2.2.1 x.2.2.2 = s.shownAt x.2.1 x.2.2.1 x.2.2.2

/-- A fold over steps each of which reaches its own goal and spoils none reaches every goal of its list. -/
theorem foldl_reaches {α β : Type} {f : β → α → β} {I : β → Prop} {P : β → α → Prop} (l : List α)
    (hI : ∀ b, ∀ x ∈ l, I b → I (f b x)) (hown : ∀ b, ∀ x ∈ l, I b → P (f b x) x)
    (hkeep : ∀ b, ∀ x ∈ l, ∀ y ∈ l, I b → P b y → P (f b x) y) :
    ∀ b, I b → I (l.foldl f b) ∧ ∀ y ∈ l, P (l.foldl f b) y := by
  suffices H : ∀ l' : List α, l' ⊆ l → ∀ b done, done ⊆ l → I b → (∀ y ∈ done, P b y) →
      I (l'.foldl f b) ∧ (∀ y ∈ done, P (l'.foldl f b) y) ∧ ∀ y ∈ l', P (l'.foldl f b) y from
    fun b hb => (H l (List.Subset.refl l) b [] (List.nil_subset l) hb (by simp)).imp_right And.right
  intro l'
  induction l' with
  | nil => exact fun _ b done _ hb hd => ⟨hb, hd, by simp⟩
  | cons x l' ih =>
    intro hsub b done hdone hb hd
    obtain ⟨hx, hl'⟩ := List.cons_subset.1 hsub
    obtain ⟨hI', hall, hrest⟩ := ih hl' (f b x) (x :: done) (List.cons_subset.2 ⟨hx, hdone⟩) (hI b x hx hb) (by
      intro y hy
      obtain rfl | hy := List.mem_cons.1 hy
      · exact hown b y hx hb
      · exact hkeep b x hx y (hdone hy) hb (hd y hy))
    exact ⟨hI', fun y hy => hall y (List.mem_cons_of_mem x hy),
      fun y hy => (List.mem_cons.1 hy).elim (fun h => h ▸ hall x List.mem_cons_self) (hrest y)⟩

theorem State.agents_nodup_of_badges {s t : State} (ht : t.badges = s.badges) (hp : Paired s) : (t.agents.map (·.uid)).Nodup := by
  have huids (u : State) : u.agents.map (·.uid) = u.badges.map (·.1) := by simp only [State.badges, List.map_map]; rfl
  rw [huids t, ht, ← huids s]
  exact hp.1

/-- A spot's shadow wave and its coach, found by their numbers, with 32 lanes each. -/
theorem State.spot_pair {s t : State} (ht : t.badges = s.badges) (hp : Paired s) {x : Nat × Nat × Nat × Fin 64}
    (hx : x ∈ s.mirrorSpots) {co : Agent} (hco : t.agent? x.1 = some co) :
    ∃ sh, t.agent? x.2.1 = some sh ∧ sh.uid = x.2.1 ∧ co.uid = x.1 ∧ sh.kind = .shadow ∧ co.kind = .coach ∧
      sh.partner = some co.uid ∧ co.partner = some sh.uid ∧ co.lanes.length = 32 ∧ sh.lanes.length = 32 := by
  obtain ⟨sh0, hsh0, hkind0, hpart0, hu0, -, -⟩ := State.mem_mirrorSpots.1 hx
  obtain ⟨-, -, hpair⟩ := (paired_iff_badges s).1 hp
  obtain ⟨hcomem, hcouid⟩ := State.agent?_mem hco
  have hb : sh0.badge ∈ t.badges := ht ▸ List.mem_map_of_mem hsh0
  obtain ⟨sh, hsh, he⟩ := List.mem_map.1 hb
  simp only [Agent.badge, Prod.mk.injEq] at he
  obtain ⟨hu, hk, hpt, -⟩ := he
  have h := hpair sh.badge (ht ▸ List.mem_map_of_mem hsh) co.badge (ht ▸ List.mem_map_of_mem hcomem) (hk.trans hkind0)
    (by simp only [Agent.badge]; rw [hpt, hpart0, hcouid])
  simp only [Agent.badge] at h
  refine ⟨sh, ?_, hu.trans hu0.symm, hcouid, hk.trans hkind0, h.1, hpt.trans (hpart0.trans (by rw [hcouid])), h.2⟩
  rw [hu0, ← hu]
  exact State.agent?_of_mem (State.agents_nodup_of_badges ht hp) hsh

/-- A number that a unit has before the mirror of a register, it has afterwards, and the other way round. -/
theorem State.agent?_mirror1_isSome (s0 s : State) (co sh l v : Nat) (r : Fin 64) :
    ((State.mirror1 s0 s co sh l r).agent? v).isSome = (s.agent? v).isSome := by
  obtain h | ⟨x, h⟩ | ⟨x, h⟩ := State.mirror1_cases s0 s co sh l r <;> rw [h]
  all_goals
    rw [State.agent?_updLane]
    split
    · exact Option.isSome_map
    · rfl

theorem State.mirror1_of_no_coach (s0 : State) {s : State} {co : Nat} (h : s.agent? co = none) (sh l : Nat) (r : Fin 64) :
    State.mirror1 s0 s co sh l r = s := by
  simp [State.mirror1, h]

/-- The mirror of a spot mirrors it. -/
theorem State.mirror1_mirrors (s0 : State) {s t : State} (ht : t.badges = s.badges) (hp : Paired s) {x : Nat × Nat × Nat × Fin 64}
    (hx : x ∈ s.mirrorSpots) : (State.mirror1 s0 t x.1 x.2.1 x.2.2.1 x.2.2.2).Mirrored x := by
  intro co' hco'
  obtain ⟨co, hco⟩ := Option.isSome_iff_exists.1 ((State.agent?_mirror1_isSome s0 t ..).symm.trans (Option.isSome_of_mem hco'))
  obtain ⟨sh, hsh, -, -, hshk, hcok, -, -, hcol, hshl⟩ := State.spot_pair ht hp hx hco
  obtain ⟨-, -, -, -, -, hl, -⟩ := State.mem_mirrorSpots.1 hx
  refine State.mirror1_shownAt_eq s0 hco hsh ?_ (hcol ▸ hl) (hshl ▸ hl) _
  intro h
  rw [h, hsh, Option.some.injEq] at hco
  rw [hco, hcok] at hshk
  cases hshk

/-- The mirror of a spot leaves the other spots mirrored: no two coaches share a shadow wave. -/
theorem State.mirror1_keeps_mirrored (s0 : State) {s t : State} (ht : t.badges = s.badges) (hp : Paired s)
    {x y : Nat × Nat × Nat × Fin 64} (hx : x ∈ s.mirrorSpots) (hy : y ∈ s.mirrorSpots) (h : t.Mirrored y) :
    (State.mirror1 s0 t x.1 x.2.1 x.2.2.1 x.2.2.2).Mirrored y := by
  intro co' hco'
  obtain ⟨co, hco⟩ := Option.isSome_iff_exists.1 ((State.agent?_mirror1_isSome s0 t ..).symm.trans (Option.isSome_of_mem hco'))
  cases hxco : t.agent? x.1 with
  | none => rw [State.mirror1_of_no_coach s0 hxco]; exact h co hco
  | some xco =>
    obtain ⟨sh, hsh, hshu, hcou, hshk, hcok, hshp, hcop, -, -⟩ := State.spot_pair ht hp hy hco
    obtain ⟨xsh, hxsh, hxshu, hxcou, hxshk, hxcok, hxshp, hxcop, -, -⟩ := State.spot_pair ht hp hx hxco
    by_cases hsame : x = y
    · subst hsame
      exact State.mirror1_mirrors s0 ht hp hx co' hco'
    · -- the two spots are of one pair or of pairs with no wave in common
      have hcs : y.1 ≠ x.2.1 := fun e => by
        rw [e, hxsh, Option.some.injEq] at hco; rw [← hco, hxshk] at hcok; cases hcok
      have hsc : y.2.1 ≠ x.1 := fun e => by
        rw [e, hxco, Option.some.injEq] at hsh; rw [← hsh, hxcok] at hshk; cases hshk
      have hpair : y.1 = x.1 ↔ y.2.1 = x.2.1 := by
        constructor <;> intro e
        · rw [e, hxco, Option.some.injEq] at hco
          rw [← hco, hxcop, Option.some.injEq, hxshu, hshu] at hcop
          exact hcop.symm
        · rw [e, hxsh, Option.some.injEq] at hsh
          rw [← hsh, hxshp, Option.some.injEq, hxcou, hcou] at hshp
          exact hshp.symm
      have hother : ¬ (y.1 = x.1 ∧ y.2.2.1 = x.2.2.1 ∧ y.2.2.2 = x.2.2.2) := fun ⟨e1, e2, e3⟩ =>
        hsame (Prod.ext e1.symm (Prod.ext (hpair.1 e1).symm (Prod.ext e2.symm e3.symm)))
      rw [State.mirror1_shownAt_of_ne s0 t fun ⟨hv, hq⟩ => hv.elim (fun e => hother ⟨e, hq⟩) hcs,
        State.mirror1_shownAt_of_ne s0 t fun ⟨hv, hq⟩ => hv.elim hsc fun e => hother ⟨hpair.2 e, hq⟩]
      exact h co hco

/-- The mirror keeps what the pairing says of units, and afterwards every spot is mirrored. -/
theorem State.mirror_mirrors (s0 : State) {s : State} (hp : Paired s) :
    (State.mirror s0 s).badges = s.badges ∧ ∀ x ∈ s.mirrorSpots, (State.mirror s0 s).Mirrored x := by
  rw [State.mirror_eq_foldl]
  exact foldl_reaches (I := fun t => t.badges = s.badges) (P := State.Mirrored) s.mirrorSpots
    (fun t x _ ht => (State.mirror1_badges ..).trans ht) (fun t x hx ht => State.mirror1_mirrors s0 ht hp hx)
    (fun t x hx y hy ht h => State.mirror1_keeps_mirrored s0 ht hp hx hy h) s rfl

@[simp] theorem State.mirror_badges (s0 s : State) : (State.mirror s0 s).badges = s.badges := by
  rw [State.mirror_eq_foldl]
  induction s.mirrorSpots generalizing s with
  | nil => rfl
  | cons x l ih => rw [List.foldl_cons, ih, State.mirror1_badges]

@[simp] theorem State.mirror1_nextId (s0 s : State) (co sh l : Nat) (r : Fin 64) : (State.mirror1 s0 s co sh l r).nextId = s.nextId := by
  obtain h | ⟨x, h⟩ | ⟨x, h⟩ := State.mirror1_cases s0 s co sh l r <;> simp [h]

@[simp] theorem State.mirror_nextId (s0 s : State) : (State.mirror s0 s).nextId = s.nextId := by
  rw [State.mirror_eq_foldl]
  induction s.mirrorSpots generalizing s with
  | nil => rfl
  | cons x l ih => rw [List.foldl_cons, ih, State.mirror1_nextId]

/-- After the mirror each coach and its shadow wave have one queue window. -/
theorem State.shared_mirror (s0 : State) {s : State} (hp : Paired s) : Shared (State.mirror s0 s) := by
  intro sh hsh co hco hkind hpart l hl r hr
  have hn := State.agents_nodup_of_badges (State.mirror_badges s0 s) hp
  obtain ⟨sh0, hsh0, he⟩ := List.mem_map.1 ((State.mirror_badges s0 s) ▸ List.mem_map_of_mem hsh : sh.badge ∈ s.badges)
  simp only [Agent.badge, Prod.mk.injEq] at he
  obtain ⟨hu, hk, hp', -⟩ := he
  have h := (State.mirror_mirrors s0 hp).2 (co.uid, sh.uid, l, r)
    (State.mem_mirrorSpots.2 ⟨sh0, hsh0, hk.trans hkind, hp'.trans hpart, hu.symm, hl, hr⟩) co (State.agent?_of_mem hn hco)
  simp only [State.shownAt, State.agent?_of_mem hn hco, State.agent?_of_mem hn hsh, Option.map_some, Option.some.injEq, Lane.shown,
    Prod.mk.injEq] at h
  obtain ⟨hv, hf, hpd, hb⟩ := h
  exact ⟨hv.symm, hf.symm, hpd.symm, hb.symm⟩

/-- Every step ends with the mirror. -/
theorem eq_mirror_of_mirrored {s t : State} {o : Host.Outcome State Fault Refusal} (h : mirrored s o = .next t) :
    ∃ u, o = .next u ∧ t = State.mirror s u.dropOrphans.writeCoachFaults := by
  cases o with
  | next u => exact ⟨u, rfl, (Host.Outcome.next.inj h).symm⟩
  | fault | refused => cases h

/-- Settles O6: a step ends with the mirror, which makes the two windows of each pair one. -/
theorem windowShared : Obligations.WindowShared := by
  intro s t h hp
  obtain ⟨u, -, rfl⟩ := eq_mirror_of_mirrored h
  refine State.shared_mirror s ?_
  rw [paired_iff_badges, State.mirror_badges, State.mirror_nextId] at hp
  exact (paired_iff_badges _).2 hp

end Sys2Proof.Machine
end

section
/-! Encoding and decoding agree (08_encoding.md R155-R171): every code comes back from its field, and the words of every well-formed
instruction decode to it. -/

namespace Sys2Proof.Laws

open Sys2Proof.Terms

/-! ### The codes of the fields -/

@[simp] theorem ITy.ofCode_code (t : ITy) : ITy.ofCode t.code = some t := by cases t <;> rfl
@[simp] theorem Ty.ofCode_code (t : Ty) : Ty.ofCode t.code = t := by cases t <;> rfl
@[simp] theorem Rnd.ofCode_code (r : Rnd) : Rnd.ofCode r.code = some r := by cases r <;> rfl
@[simp] theorem Scope.ofCode_code (s : Scope) : Scope.ofCode s.code = some s := by cases s <;> rfl
@[simp] theorem Size.ofCode_code (s : Size) : Size.ofCode s.code = some s := by cases s <;> rfl
@[simp] theorem Ord4.ofCode_code (o : Ord4) : Ord4.ofCode o.code = o := by cases o <;> rfl
@[simp] theorem Cond.ofCode_code (c : Cond) : Cond.ofCode c.code = some c := by cases c <;> rfl
@[simp] theorem FCond.ofCode_code (c : FCond) : FCond.ofCode c.code = c := by cases c <;> rfl
@[simp] theorem ShflMode.ofCode_code (m : ShflMode) : ShflMode.ofCode m.code = some m := by cases m <;> rfl
@[simp] theorem VoteOp.ofCode_code (o : VoteOp) : VoteOp.ofCode o.code = some o := by cases o <;> rfl
@[simp] theorem RedlOp.ofCode_code (o : RedlOp) : RedlOp.ofCode o.code = some o := by cases o <;> rfl
@[simp] theorem KeyTy.ofCode_code (t : KeyTy) : KeyTy.ofCode t.code = some t := by cases t <;> rfl
@[simp] theorem ProbeKind.ofCode_code (k : ProbeKind) : ProbeKind.ofCode k.code = some k := by cases k <;> rfl
@[simp] theorem FenceKind.ofCode_code (k : FenceKind) : FenceKind.ofCode k.code = some k := by cases k <;> rfl
@[simp] theorem BarDir.ofCode_code (d : BarDir) : BarDir.ofCode d.code = some d := by cases d <;> rfl
@[simp] theorem AtomOp.ofCode_code (o : AtomOp) : AtomOp.ofCode o.code = some o := by cases o <;> rfl
@[simp] theorem RedOp.ofCode_code (o : RedOp) : RedOp.ofCode o.code = some o := by cases o <;> rfl
@[simp] theorem RedTy.ofCode_code (t : RedTy) : RedTy.ofCode t.kind t.size = some t := by cases t <;> rfl
@[simp] theorem Level.ofCode_code (l : Level) : Level.ofCode l.code = some l := by cases l <;> rfl
@[simp] theorem Role.ofCode_code (r : Role) : Role.ofCode r.code = some r := by cases r <;> rfl
@[simp] theorem WmField.ofCode_code (f : WmField) : WmField.ofCode f.code = some f := by cases f <;> rfl
@[simp] theorem WordCount.ofCode_code (w : WordCount) : WordCount.ofCode w.code = some w := by cases w <;> rfl
@[simp] theorem CopyShape.ofCode_code (s : CopyShape) : CopyShape.ofCode s.code = some s := by cases s <;> rfl
@[simp] theorem MoviKind.ofCode_code (k : MoviKind) : MoviKind.ofCode k.code = some k := by cases k <;> rfl
@[simp] theorem ReadMode.ofCode_code (m : ReadMode) : ReadMode.ofCode m.code = some m := by cases m <;> rfl

@[simp] theorem Src.ofFields_fields (a : Src) : Src.ofFields a.u a.mode a.v = some a := by
  cases a with
  | g r m => simp [Src.ofFields, Src.u, Src.mode, Src.v]
  | s r => 
    have h : (r.setWidth 6).toNat < 32 := by simpa using Nat.lt_of_le_of_lt (Nat.mod_le _ _) r.isLt
    rw [Src.u, Src.mode, Src.v, Src.ofFields, if_pos rfl, if_pos ⟨rfl, h⟩, BitVec.setWidth_setWidth_of_le _ (by decide),
      BitVec.setWidth_eq]


@[simp] theorem Src3.ofFields_fields (a : Src3) : Src3.ofFields a.u a.v = some a := by
  cases a with
  | g r => simp [Src3.ofFields, Src3.u, Src3.v]
  | s r => 
    have h : (r.setWidth 6).toNat < 32 := by simpa using Nat.lt_of_le_of_lt (Nat.mod_le _ _) r.isLt
    rw [Src3.u, Src3.v, Src3.ofFields, if_pos rfl, if_pos h, BitVec.setWidth_setWidth_of_le _ (by decide), BitVec.setWidth_eq]

/-! ### Parts of an append

The widths of the parts of IMM16 and of word 2 add up to a numeral, under which the library's laws are not found. -/

@[simp] theorem extract_append_low {m n : Nat} (x : BitVec m) (y : BitVec n) {s l : Nat} (h : s + l ≤ n) :
    (no_index (x ++ y)).extractLsb' s l = y.extractLsb' s l := BitVec.extractLsb'_append_eq_of_add_le h

@[simp] theorem extract_append_high {m n : Nat} (x : BitVec m) (y : BitVec n) {s l : Nat} (h : n ≤ s) :
    (no_index (x ++ y)).extractLsb' s l = x.extractLsb' (s - n) l := BitVec.extractLsb'_append_eq_of_le h

@[simp] theorem getElem_append_low {m n : Nat} (x : BitVec m) (y : BitVec n) {i : Nat} (h : i < n) (hi : i < m + n) :
    GetElem.getElem (coll := no_index (BitVec (m + n))) (no_index (x ++ y)) i hi = y[i] := by rw [BitVec.getElem_append, dif_pos h]

@[simp] theorem getElem_append_high {m n : Nat} (x : BitVec m) (y : BitVec n) {i : Nat} (h : n ≤ i) (hi : i < m + n) :
    GetElem.getElem (coll := no_index (BitVec (m + n))) (no_index (x ++ y)) i hi = x[i - n] := by
  rw [BitVec.getElem_append, dif_neg (Nat.not_lt.2 h)]

@[simp] theorem setWidth_append_low {m n : Nat} (x : BitVec m) (y : BitVec n) {l : Nat} (h : l ≤ n) :
    (no_index (x ++ y)).setWidth l = y.setWidth l := by rw [BitVec.setWidth_append, dif_pos h]

/-- A flag that a choice of codes stands for. -/
@[simp] theorem ite_beq_left {n : Nat} {x y : BitVec n} (h : y ≠ x) (b : Bool) : ((if b = true then x else y) == x) = b := by
  cases b <;> simp [h]

@[simp] theorem ordA_beq (acq : Bool) : (ordA acq == 1#2) = acq := by cases acq <;> rfl
@[simp] theorem ordR_beq (rel : Bool) : (ordR rel == 2#2) = rel := by cases rel <;> rfl
@[simp] theorem mtW_beq (w64 : Bool) : (mtW w64 == 3#6) = w64 := by cases w64 <;> rfl

/-- An absent source reads back as such, and so does an absent third register. -/
@[simp] theorem Src.ofFields_none : Src.ofFields Src.none.u Src.none.mode 0#6 = some Src.none := rfl
@[simp] theorem Src3.ofFields_zero : Src3.ofFields 0#1 0#6 = some (.g 0) := rfl

@[simp] theorem Src.v_g (r : GReg) (m : ReadMode) : (Src.g r m).v = r := rfl
@[simp] theorem Src.v_s (r : SReg) : (Src.s r).v = r.setWidth 6 := rfl
@[simp] theorem Src.mode_g (r : GReg) (m : ReadMode) : (Src.g r m).mode = m.code := rfl

@[simp] theorem bit_getElem_zero (b : Bool) (h : 0 < 1) : (bit b)[0] = b := by simp [bit]

/-- COND of `FCMP` lies in RND's place, which is zero there. -/
@[simp] theorem immF_or_extract (mb ma : FMod) (c : BitVec 3) :
    (immF mb ma false .dyn ||| c.setWidth 16).extractLsb' 0 3 = c := by
  have h : (immF mb ma false .dyn).extractLsb' 0 3 = 0#3 := extract_low _ _
  rw [BitVec.extractLsb'_or, h, BitVec.extractLsb'_setWidth_of_le (by decide)]
  simp

section ImmF
variable (mb ma : FMod) (sat : Bool) (r : Rnd)
@[simp] theorem immF_rnd : (immF mb ma sat r).extractLsb' 0 3 = r.code := extract_low _ _
@[simp] theorem immF_sat (h : 3 < 16) : (immF mb ma sat r)[3] = sat := by simp [immF]
@[simp] theorem immF_ma_neg (h : 4 < 16) : (immF mb ma sat r)[4] = ma.neg := by simp [immF]
@[simp] theorem immF_ma_abs (h : 5 < 16) : (immF mb ma sat r)[5] = ma.abs := by simp [immF]
@[simp] theorem immF_mb_neg (h : 6 < 16) : (immF mb ma sat r)[6] = mb.neg := by simp [immF]
@[simp] theorem immF_mb_abs (h : 7 < 16) : (immF mb ma sat r)[7] = mb.abs := by simp [immF]
end ImmF

/-! ### A form's words -/

/-- An instruction whose words are these decodes from them, and LEN counts them. -/
def DecodesFrom (ws : List Word) (i : Instr) : Prop :=
  decodeWords (ws.getD 0 0) (ws.getD 1 0) (ws.getD 2 0) = .ok i ∧ lenWords (ws.getD 0 0) = some ws.length

/-- The decoder gives back an instruction whose fields give it. -/
theorem decodesFrom_of_extract {i : Instr} {w : Word} {ws : List Word} (he : encode i = w :: ws)
    (hlen : lenWords w = some (ws.length + 1)) (hopc : opcodeWords (w.extractLsb' 2 8) = some (ws.length + 1))
    (hws : ws.length ≤ 2)
    (hx : extract (Fields.of w (ws.getD 0 0) (ws.getD 1 0)) = some i) (hwf : i.wf = true) : DecodesFrom (encode i) i := by
  have htake : [w, ws.getD 0 0, ws.getD 1 0].take (ws.length + 1) = w :: ws := by
    match ws, hws with
    | [], _ | [_], _ | [_, _], _ => rfl
  refine ⟨?_, by simp [he, hlen]⟩
  rw [he]
  simp only [List.getD_cons_zero, List.getD_cons_succ, decodeWords, hlen, hopc, ne_eq, not_true_eq_false, if_false]
  rw [htake]
  simp only [List.getD_cons_succ, hx, hwf, he, Bool.true_and, BEq.rfl, if_true]

theorem decodesFrom_z32 {i : Instr} {opc : BitVec 8} {f : BitVec 4} {d a b : BitVec 6} (he : encode i = z32 opc f d a b)
    (hopc : opcodeWords opc = some 1) (hwf : i.wf = true) (hx : extract (Fields.of (word0 0 opc f d a b) 0 0) = some i) :
    DecodesFrom (encode i) i :=
  decodesFrom_of_extract he (by simp [lenWords]) (by simpa using hopc) (Nat.zero_le 2) hx hwf

theorem decodesFrom_wordI {i : Instr} {opc : BitVec 8} {d a : BitVec 6} {imm : BitVec 10} (he : encode i = [wordI opc d a imm])
    (hopc : opcodeWords opc = some 1) (hwf : i.wf = true) (hx : extract (Fields.of (wordI opc d a imm) 0 0) = some i) :
    DecodesFrom (encode i) i :=
  decodesFrom_of_extract he (by simp [lenWords]) (by simpa using hopc) (Nat.zero_le 2) hx hwf

theorem decodesFrom_j32 {i : Instr} {opc : BitVec 8} {disp : BitVec 22} (he : encode i = [wordJ 0 opc disp])
    (hopc : opcodeWords opc = some 1) (hwf : i.wf = true) (hx : extract (Fields.of (wordJ 0 opc disp) 0 0) = some i) :
    DecodesFrom (encode i) i :=
  decodesFrom_of_extract he (by simp [lenWords]) (by simpa using hopc) (Nat.zero_le 2) hx hwf

theorem decodesFrom_j64 {i : Instr} {opc : BitVec 8} {disp : BitVec 22} {imm : BitVec 16} {g : Guard}
    (he : encode i = [wordJ 1 opc disp, word1 imm 0 0 .none .none g]) (hopc : opcodeWords opc = some 2) (hwf : i.wf = true)
    (hx : extract (Fields.of (wordJ 1 opc disp) (word1 imm 0 0 .none .none g) 0) = some i) : DecodesFrom (encode i) i :=
  decodesFrom_of_extract he (by simp [lenWords]) (by simpa using hopc) (Nat.le_succ 1) hx hwf

section Long
variable {i : Instr} {opc : BitVec 8} {g : Guard} {f : BitVec 4} {d bv : BitVec 6} {a bm : Src} {imm : BitVec 16} {ord : BitVec 2}
  {lease : BitVec 3} {w2 : Word}

theorem decodesFrom_q64 (he : encode i = q64 opc g f d a bv bm imm ord lease) (hopc : opcodeWords opc = some 2) (hwf : i.wf = true)
    (hx : extract (Fields.of (word0 1 opc f d a.v bv) (word1 imm ord lease bm a g) 0) = some i) : DecodesFrom (encode i) i :=
  decodesFrom_of_extract he (by simp [lenWords]) (by simpa using hopc) (Nat.le_succ 1) hx hwf

theorem decodesFrom_x96 (he : encode i = x96 opc g f d a bv bm imm ord lease w2) (hopc : opcodeWords opc = some 3)
    (hwf : i.wf = true) (hx : extract (Fields.of (word0 2 opc f d a.v bv) (word1 imm ord lease bm a g) w2) = some i) :
    DecodesFrom (encode i) i :=
  decodesFrom_of_extract he (by simp [lenWords]) (by simpa using hopc) (Nat.le_refl 2) hx hwf

end Long

/-- The 64-bit lane forms, which the decoder reads apart from the other 64-bit forms. -/
def isLane64 : Instr → Bool
  | .addQ64 .. | .subQ64 .. | .mulQ64 .. | .mulhQ64 .. | .minQ64 .. | .maxQ64 .. | .andQ64 .. | .orQ64 .. | .xorQ64 ..
  | .andnQ64 .. | .shlQ64 .. | .shrQ64 .. | .sarQ64 .. | .rotQ64 .. | .div .. | .rem .. | .mad .. | .notQ64 .. | .negQ64 ..
  | .absQ64 .. | .clzQ64 .. | .popcQ64 .. | .brevQ64 .. | .bfe .. | .bfi .. | .selQ64 .. | .movQ64 .. | .movs .. | .leaQ64 ..
  | .cmp .. | .fcmp .. | .faddQ64 .. | .fsubQ64 .. | .fmulQ64 .. | .ffma .. | .fminQ64 .. | .fmaxQ64 .. | .frcp .. | .frsq ..
  | .fsqrt .. | .fexp2 .. | .flog2 .. | .cvt .. | .pack .. | .upk .. | .dot4 .. | .dot8 .. | .shfl .. | .bcast .. | .vote ..
  | .redl .. | .scanl .. | .first .. | .rand .. | .hsift .. | .bins .. | .twalk .. | .tmask .. => true
  | _ => false

theorem decodesFrom_of_one_word {i : Instr} (hwf : i.wf = true) (h : (encode i).length = 1) : DecodesFrom (encode i) i := by
  cases i with
  | nop | ret | calli | calliTail | brk | yield | poll | taskend | innflush | drain | drainArrive | isync | eret | halt
  | addZ32 | subZ32 | mulZ32 | mulhZ32 | minZ32 | maxZ32 | andZ32 | orZ32 | xorZ32 | andnZ32 | shlZ32 | shrZ32 | sarZ32
  | rotZ32 | selZ32 | movZ32 | notZ32 | negZ32 | absZ32 | clzZ32 | popcZ32 | brevZ32 | faddZ32 | fsubZ32 | fmulZ32 | fminZ32
  | fmaxZ32 | pand | por | pxor | pnot =>
    refine decodesFrom_z32 rfl rfl hwf ?_
    simp [extract, extract32, Fields.of]
  | addI32 | mulI32 | minI32 | maxI32 | andI32 | orI32 | xorI32 | shlI32 | shrI32 | sarI32 | rotI32 | moviI32 | trap | ldI32
  | stI32 =>
    refine decodesFrom_wordI rfl rfl hwf ?_
    simp [extract, extract32, Fields.of]
  | brJ32 | callJ32 | chk =>
    refine decodesFrom_j32 rfl rfl hwf ?_
    simp [extract, extract32, Fields.of]
  | waitt g c n => cases n <;> cases h
  | mfc g k d => cases d <;> cases h
  | copy g sh q d a b k => cases k <;> cases h
  | _ => cases h

theorem decodesFrom_of_lane64 {i : Instr} (hwf : i.wf = true) (h : isLane64 i = true) : DecodesFrom (encode i) i := by
  cases i with
  | addQ64 | subQ64 | mulQ64 | mulhQ64 | minQ64 | maxQ64 | andQ64 | orQ64 | xorQ64 | andnQ64 | shlQ64 | shrQ64 | sarQ64
  | rotQ64 | div | rem | mad | notQ64 | negQ64 | absQ64 | clzQ64 | popcQ64 | brevQ64 | bfe | bfi | selQ64 | movQ64 | movs
  | leaQ64 | cmp | fcmp | faddQ64 | fsubQ64 | fmulQ64 | ffma | fminQ64 | fmaxQ64 | frcp | frsq | fsqrt | fexp2 | flog2 | cvt
  | pack | upk | dot4 | dot8 | shfl | bcast | vote | redl | scanl | first | rand | hsift | bins | twalk | tmask =>
    refine decodesFrom_q64 rfl rfl hwf ?_
    simp [extract, extractLane, Fields.of, Fields.srcA, Fields.srcB, Fields.srcC, Fields.rnd, Fields.sat, Fields.ma, Fields.mb,
      immSat, immC, preg, BitVec.extractLsb'_setWidth_of_le]
  | _ => cases h

theorem decodesFrom_of_two_words {i : Instr} (hwf : i.wf = true) (hl : isLane64 i = false) (h : (encode i).length = 2) :
    DecodesFrom (encode i) i := by
  cases i with
  | ldQ64 | ldu | ldw | ldf | take | fill | setf | clrf | pref | probe | tinv | stQ64 | fence | barinit | bararr | barwait
  | barexp | depdec | mtc | brkd | loop | loopr | lsave | lrest | gcall | gcalli | retg | migrate | route | rethome | routeset
  | rcsnap | spawn | taskmk | cancel | cntw | role | wmopen | wmclose | wmapp | wmprop | wmlen | wmsave | wmload | wmown | tcfg
  | tpack | tunpk | tzero | accz | cellp | tsave | trest | twait =>
    refine decodesFrom_q64 rfl rfl hwf ?_
    simp [extract, extract64, Fields.of, Fields.srcA, Fields.srcB, Fields.srcD, Fields.mem, Fields.size, mt,
      BitVec.extractLsb'_setWidth_of_le]
  | brc | bru =>
    refine decodesFrom_j64 rfl rfl hwf ?_
    simp [extract, extract64, Fields.of]
  | waitt g c n =>
    cases n <;> refine decodesFrom_q64 rfl rfl hwf ?_ <;> simp [extract, extract64, Fields.of, Fields.srcA]
  | mfc g k d =>
    cases d <;> refine decodesFrom_q64 rfl rfl hwf ?_ <;> simp [extract, extract64, Fields.of]
  | copy g sh q d a b k => cases k <;> cases h
  | addQ64 | subQ64 | mulQ64 | mulhQ64 | minQ64 | maxQ64 | andQ64 | orQ64 | xorQ64 | andnQ64 | shlQ64 | shrQ64 | sarQ64
  | rotQ64 | div | rem | mad | notQ64 | negQ64 | absQ64 | clzQ64 | popcQ64 | brevQ64 | bfe | bfi | selQ64 | movQ64 | movs
  | leaQ64 | cmp | fcmp | faddQ64 | fsubQ64 | fmulQ64 | ffma | fminQ64 | fmaxQ64 | frcp | frsq | fsqrt | fexp2 | flog2 | cvt
  | pack | upk | dot4 | dot8 | shfl | bcast | vote | redl | scanl | first | rand | hsift | bins | twalk | tmask =>
    cases hl
  | _ => cases h

theorem decodesFrom_of_three_words {i : Instr} (hwf : i.wf = true) (h : (encode i).length = 3) : DecodesFrom (encode i) i := by
  cases i with
  | moviX96 | atom | red | gather | scadd | quant | tgenNew | tgenApp | tgenClose | tld | tst | mma | mmas | mmc | accld
  | accst | acccvt | accsend | brX96 | callX96 | leaX96 | leaPc =>
    refine decodesFrom_x96 rfl rfl hwf ?_
    simp [extract, extract96, Fields.of, Fields.srcA, Fields.srcB, Fields.srcD, Fields.mem]
  | copy g sh q d a b k =>
    cases k <;> refine decodesFrom_x96 rfl rfl hwf ?_ <;> simp [extract, extract96, Fields.of, Fields.srcA, Fields.srcB]
  | waitt g c n => cases n <;> cases h
  | mfc g k d => cases d <;> cases h
  | _ => cases h

/-- An instruction that is no event has one, two or three words. -/
theorem encode_length {i : Instr} : i.isEvent = false → (encode i).length = 1 ∨ (encode i).length = 2 ∨ (encode i).length = 3 := by
  cases i with
  | waitt g c n => cases n <;> exact of_decide_eq_true rfl
  | mfc g k d => cases d <;> exact of_decide_eq_true rfl
  | copy g sh q d a b k => cases k <;> exact of_decide_eq_true rfl
  | _ => exact of_decide_eq_true rfl

/-- Settles O1: the decoder takes the fields that the encoder laid out back out, form by form. -/
theorem roundTrip : Obligations.RoundTrip := by
  intro i hwf he
  show DecodesFrom (encode i) i
  obtain h | h | h := encode_length he
  · exact decodesFrom_of_one_word hwf h
  · cases hl : isLane64 i with
    | true => exact decodesFrom_of_lane64 hwf hl
    | false => exact decodesFrom_of_two_words hwf hl h
  · exact decodesFrom_of_three_words hwf h

/-! ### Words that decode to nothing (R171) -/

/-- What decodes is the encoding of what it decodes to: no field of the words that LEN announces is ignored. -/
theorem encode_of_decodeWords {w0 w1 w2 : Word} {i : Instr} (h : decodeWords w0 w1 w2 = .ok i) :
    ∃ n, lenWords w0 = some n ∧ encode i = [w0, w1, w2].take n := by
  unfold decodeWords at h
  split at h
  · cases h
  · next n hn =>
    split at h
    · cases h
    · dsimp only at h
      split at h
      · next j _ =>
        split at h
        · next hj =>
          cases h
          exact ⟨n, hn, eq_of_beq (Bool.and_eq_true_iff.1 hj).2⟩
        · cases h
      · cases h

theorem decodeWords_of_len_three {w0 : Word} (h : w0.extractLsb' 0 2 = 3) (w1 w2 : Word) : decodeWords w0 w1 w2 = .error .length := by
  have hl : lenWords w0 = none := by rw [lenWords, h]; rfl
  rw [decodeWords, hl]

/-- An opcode of two words or more, or none, under LEN 00. -/
theorem decodeWords_of_long_opcode {w0 : Word} (h : w0.extractLsb' 0 2 = 0) (ho : 0x40 ≤ (w0.extractLsb' 2 8).toNat) (w1 w2 : Word) :
    decodeWords w0 w1 w2 = .error .opcode := by
  have hl : lenWords w0 = some 1 := by rw [lenWords, h]; rfl
  have hopc : opcodeWords (w0.extractLsb' 2 8) ≠ some 1 := by
    have hlong : ¬ (w0.extractLsb' 2 8).toNat ≤ 0x3E := by omega
    unfold opcodeWords
    dsimp only
    repeat' split
    all_goals simp
  simp only [decodeWords, hl, hopc, ne_eq, not_false_eq_true, if_true]

/-- Settles O2: the words of the spec's table are evaluated, and the decoder's checks reject the others. -/
theorem specWords : Obligations.SpecWords := by
  refine ⟨rfl, rfl, rfl, rfl, rfl, rfl, rfl, rfl, fun w0 w1 w2 h => decodeWords_of_len_three h w1 w2,
    fun w0 w1 w2 h ho => decodeWords_of_long_opcode h ho w1 w2, fun w h => ?_⟩
  obtain ⟨n, hn, he⟩ := encode_of_decodeWords h
  match n with
  | 0 => cases he
  | n + 1 => exact (List.cons.inj he).1.symm

end Sys2Proof.Laws
end

section
/-! What every instruction of the table is (08_encoding.md R158, R171): `issue` under the guard that its words hold, or
`issueBranch` where the guard is its condition; and that no step stops but at a host access to no address. -/

namespace Sys2Proof.Laws

open Sys2Proof.Machine Sys2Proof.Terms

/-! ### The guard of an instruction's words -/

theorem guardOf_one_word {i : Instr} {w : Word} (h : encode i = [w]) : guardOf i = Guard.always := by simp [guardOf, h, Fields.of, Guard.always]

theorem guardOf_q64 {i : Instr} {opc : BitVec 8} {g : Guard} {f : BitVec 4} {d bv : BitVec 6} {a bm : Src} {imm : BitVec 16}
    {ord : BitVec 2} {lease : BitVec 3} (h : encode i = q64 opc g f d a bv bm imm ord lease) : guardOf i = g := by
  simp [guardOf, h, q64, Fields.of]

theorem guardOf_x96 {i : Instr} {opc : BitVec 8} {g : Guard} {f : BitVec 4} {d bv : BitVec 6} {a bm : Src} {imm : BitVec 16}
    {ord : BitVec 2} {lease : BitVec 3} {w2 : Word} (h : encode i = x96 opc g f d a bv bm imm ord lease w2) : guardOf i = g := by
  simp [guardOf, h, x96, Fields.of]

/-! ### Issuing -/

/-- An instruction that the guard of its words masks: its meaning is run by `issue`. -/
def Masked (i : Instr) : Prop := ∀ s, ∃ k, exec i s = issue i (guardOf i) s k

theorem Masked.of_guard {i : Instr} {g : Guard} (hg : guardOf i = g) (h : ∀ s, ∃ k, exec i s = issue i g s k) : Masked i := by
  subst hg; exact h

theorem masked_waitt (g : Guard) (c : BitVec 2) (n : WaitN) : Masked (.waitt g c n) := by
  refine .of_guard (g := g) (by cases n <;> exact guardOf_q64 rfl) fun s => ?_
  show ∃ k, execWaitt g c n s = _
  unfold execWaitt
  exact ⟨_, rfl⟩

theorem masked_mfc (g : Guard) (k : BitVec 12) (d : MfcDst) : Masked (.mfc g k d) := by
  refine .of_guard (g := g) (by cases d <;> exact guardOf_q64 rfl) fun s => ?_
  show ∃ f, execMfc g k d s = _
  unfold execMfc
  exact ⟨_, rfl⟩

theorem masked_copy (g : Guard) (sh : CopyShape) (q : Bool) (d : GReg) (a b : Src) (k : Option Src3) :
    Masked (.copy g sh q d a b k) := by
  refine .of_guard (g := g) (by cases k <;> exact guardOf_x96 rfl) fun s => ?_
  show ∃ f, execCopy g sh q d a b k s = _
  unfold execCopy
  exact ⟨_, rfl⟩

theorem masked_of_one_word {i : Instr} (hl : (encode i).length = 1) (ho : ownGuard i = false) : Masked i := by
  cases i with
  | drain | drainArrive | addZ32 | subZ32 | mulZ32 | mulhZ32 | minZ32 | maxZ32 | andZ32 | orZ32 | xorZ32 | andnZ32 | shlZ32
  | shrZ32 | sarZ32 | rotZ32 | selZ32 | movZ32 | notZ32 | negZ32 | absZ32 | clzZ32 | popcZ32 | brevZ32 | faddZ32 | fsubZ32
  | fmulZ32 | fminZ32 | fmaxZ32 | pand | por | pxor | pnot =>
    exact .of_guard (guardOf_one_word rfl) fun s => ⟨_, rfl⟩
  | addI32 | mulI32 | minI32 | maxI32 | andI32 | orI32 | xorI32 | shlI32 | shrI32 | sarI32 | rotI32 | moviI32 | ldI32 | stI32 =>
    exact .of_guard (guardOf_one_word rfl) fun s => ⟨_, rfl⟩
  | nop => exact .of_guard (guardOf_one_word rfl) fun s => ⟨_, execNop.eq_1 s⟩
  | yield => exact .of_guard (guardOf_one_word rfl) fun s => ⟨_, execYield.eq_1 s⟩
  | poll => exact .of_guard (guardOf_one_word rfl) fun s => ⟨_, execPoll.eq_1 s⟩
  | taskend => exact .of_guard (guardOf_one_word rfl) fun s => ⟨_, execTaskend.eq_1 s⟩
  | innflush => exact .of_guard (guardOf_one_word rfl) fun s => ⟨_, execInnflush.eq_1 s⟩
  | isync => exact .of_guard (guardOf_one_word rfl) fun s => ⟨_, execIsync.eq_1 s⟩
  | halt => exact .of_guard (guardOf_one_word rfl) fun s => ⟨_, execHalt.eq_1 s⟩
  | trap _ _ => exact .of_guard (guardOf_one_word rfl) fun s => ⟨_, execTrap.eq_1 _ _ s⟩
  | brJ32 | chk | callJ32 | calli | calliTail | ret | brk | eret => cases ho
  | waitt g c n => cases n <;> cases hl
  | mfc g k d => cases d <;> cases hl
  | copy g sh q d a b k => cases k <;> cases hl
  | _ => cases hl

theorem masked_of_two_words {i : Instr} (hl : (encode i).length = 2) (ho : ownGuard i = false) : Masked i := by
  cases i with
  | addQ64 | subQ64 | mulQ64 | mulhQ64 | minQ64 | maxQ64 | andQ64 | orQ64 | xorQ64 | andnQ64 | shlQ64 | shrQ64 | sarQ64
  | rotQ64 | div | rem | mad | notQ64 | negQ64 | absQ64 | clzQ64 | popcQ64 | brevQ64 | bfe | bfi | selQ64 | movQ64 | movs
  | leaQ64 | cmp | fcmp | faddQ64 | fsubQ64 | fmulQ64 | ffma | fminQ64 | fmaxQ64 | frcp | frsq | fsqrt | fexp2 | flog2 | cvt
  | pack | upk | dot4 | dot8 | shfl | bcast | vote | redl | scanl | first | rand | hsift | bins | twalk | tmask | ldQ64 | ldu
  | ldw | ldf | take | fill | setf | clrf | pref | probe | tinv | stQ64 | fence | barinit | bararr | barwait | barexp | depdec
  | mtc | lsave | lrest | gcall | gcalli | routeset | spawn | taskmk | wmopen | wmclose | wmapp | wmprop | wmlen | wmsave
  | wmload | wmown | tcfg | tpack | tunpk | tzero | accz | cellp | tsave | trest =>
    exact .of_guard (guardOf_q64 rfl) fun s => ⟨_, rfl⟩
  | migrate _ _ => exact .of_guard (guardOf_q64 rfl) fun s => ⟨_, execMigrate.eq_1 _ _ s⟩
  | route _ _ _ => exact .of_guard (guardOf_q64 rfl) fun s => ⟨_, execRoute.eq_1 _ _ _ s⟩
  | rethome _ => exact .of_guard (guardOf_q64 rfl) fun s => ⟨_, execRethome.eq_1 _ s⟩
  | retg _ => exact .of_guard (guardOf_q64 rfl) fun s => ⟨_, execRetg.eq_1 _ s⟩
  | rcsnap _ _ _ _ => exact .of_guard (guardOf_q64 rfl) fun s => ⟨_, execRcsnap.eq_1 _ _ _ _ s⟩
  | cancel _ _ => exact .of_guard (guardOf_q64 rfl) fun s => ⟨_, execCancel.eq_1 _ _ s⟩
  | cntw _ _ _ _ => exact .of_guard (guardOf_q64 rfl) fun s => ⟨_, execCntw.eq_1 _ _ _ _ s⟩
  | role _ _ => exact .of_guard (guardOf_q64 rfl) fun s => ⟨_, execRole.eq_1 _ _ s⟩
  | twait _ => exact .of_guard (guardOf_q64 rfl) fun s => ⟨_, execTwait.eq_1 _ s⟩
  | brc | bru | brkd | loop | loopr => cases ho
  | waitt g c n => exact masked_waitt g c n
  | mfc g k d => exact masked_mfc g k d
  | copy g sh q d a b k => cases k <;> cases hl
  | _ => cases hl

theorem masked_of_three_words {i : Instr} (hl : (encode i).length = 3) (ho : ownGuard i = false) : Masked i := by
  cases i with
  | moviX96 | atom | red | gather | scadd | quant | tgenNew | tgenApp | tgenClose | tld | tst | mma | mmas | mmc | accld
  | accst | acccvt | accsend | leaX96 | leaPc =>
    exact .of_guard (guardOf_x96 rfl) fun s => ⟨_, rfl⟩
  | brX96 | callX96 => cases ho
  | copy g sh q d a b k => exact masked_copy g sh q d a b k
  | waitt g c n => cases n <;> cases hl
  | mfc g k d => cases d <;> cases hl
  | _ => cases hl

/-- The instructions whose guard is no condition of their own are masked by it (R158). -/
theorem masked_of_not_ownGuard {i : Instr} (he : i.isEvent = false) (ho : ownGuard i = false) : Masked i := by
  obtain h | h | h := encode_length he
  · exact masked_of_one_word h ho
  · exact masked_of_two_words h ho
  · exact masked_of_three_words h ho

/-- The others are run by `issueBranch`. -/
theorem exec_eq_issueBranch {i : Instr} (ho : ownGuard i = true) (s : State) : ∃ g k, exec i s = issueBranch i g s k := by
  cases i with
  | brJ32 _ => exact ⟨_, _, execBrJ32.eq_1 _ s⟩
  | brX96 _ => exact ⟨_, _, execBrX96.eq_1 _ s⟩
  | brc _ _ _ => exact ⟨_, _, execBrc.eq_1 _ _ _ s⟩
  | bru _ _ => exact ⟨_, _, execBru.eq_1 _ _ s⟩
  | chk _ => exact ⟨_, _, execChk.eq_1 _ s⟩
  | calli _ => exact ⟨_, _, execCalli.eq_1 _ s⟩
  | calliTail _ => exact ⟨_, _, execCalliTail.eq_1 _ s⟩
  | ret => exact ⟨_, _, execRet.eq_1 s⟩
  | brk => exact ⟨_, _, execBrk.eq_1 s⟩
  | brkd _ _ => exact ⟨_, _, execBrkd.eq_1 _ _ s⟩
  | eret => exact ⟨_, _, execEret.eq_1 s⟩
  | callJ32 | callX96 | loop | loopr =>
    exact ⟨_, _, rfl⟩
  | _ => cases ho

theorem issueBranch_of_preCheck {i : Instr} {s : State} {a : Agent} {p : Path} {b : Bool} {x : BitVec 8}
    (hf : s.focused = some (a, p, b)) (hc : preCheck a p i = some x) (g : Guard) (k : Ctx → State → State) :
    issueBranch i g s k = .next (s.faultAll ⟨a.uid, b, a, p, p.mask, p.pc + 4 * BitVec.ofNat 64 (encode i).length⟩ x
      (wordsTval (encode i))) := by
  simp only [issueBranch, hf, hc]

/-- An instruction whose guard is false in every lane only completes. -/
theorem issue_of_masked {i : Instr} {g : Guard} {s : State} {c : Ctx} (hf : s.focused = some (c.a, c.p, c.b)) (hu : c.uid = c.a.uid)
    (hn : c.npc = c.p.pc + 4 * BitVec.ofNat 64 (encode i).length) (hc : preCheck c.a c.p i = none) (hg : c.badGuards g = [])
    (hact : c.act = 0) (hm : (Mask.filter c.p.mask fun l => guardOn c.a c.p l g) = 0) (hk : c.clash = false)
    (k : Ctx → State → State) : issue i g s k = .next ((atIssue s c).complete c) := by
  obtain ⟨uid, b, a, p, act, npc⟩ := c
  simp only at hu hn hact
  subst hu hn hact
  have hg' : Ctx.badGuards ⟨a.uid, b, a, p, p.mask, p.pc + 4 * BitVec.ofNat 64 (encode i).length⟩ g = [] := hg
  simp only [issue, hf, hc, hg', hm, List.isEmpty_nil, Bool.not_true, Bool.false_eq_true, if_false, if_true,
    completeWith_of_not_clash hk, id, atIssue]

/-- Settles O8: the checks and the guard come before every meaning. -/
theorem issueChecks : Obligations.IssueChecks := by
  intro i s a p b _ he hf
  constructor
  · intro x hx
    cases ho : ownGuard i with
    | false =>
      obtain ⟨k, hk⟩ := masked_of_not_ownGuard he ho s
      rw [hk, issue_of_preCheck hf hx]; rfl
    | true =>
      obtain ⟨g, k, hk⟩ := exec_eq_issueBranch ho s
      rw [hk, issueBranch_of_preCheck hf hx]; rfl
  · intro c ho hc hctx hclash hg hm
    subst hctx
    obtain ⟨k, hk⟩ := masked_of_not_ownGuard he ho s
    rw [hk]
    exact issue_of_masked hf rfl rfl hc hg rfl hm hclash k

/-! ### No step stops -/

/-- An outcome that goes on. -/
def Continues (o : Host.Outcome State Fault Refusal) : Prop := ∃ t, o = .next t

theorem Continues.next (t : State) : Continues (.next t) := ⟨t, rfl⟩

theorem issue_continues (i : Instr) (g : Guard) (s : State) (k : Ctx → State → State) : Continues (issue i g s k) := by
  unfold issue
  split
  · exact .next _
  · split
    · exact .next _
    · dsimp only
      split
      · exact .next _
      · split <;> exact .next _

theorem issueBranch_continues (i : Instr) (g : Guard) (s : State) (k : Ctx → State → State) : Continues (issueBranch i g s k) := by
  unfold issueBranch
  split
  · exact .next _
  · split <;> exact .next _

/-- No instruction stops. -/
theorem exec_continues_of_not_event {i : Instr} (he : i.isEvent = false) (s : State) : Continues (exec i s) := by
  cases ho : ownGuard i with
  | false =>
    obtain ⟨k, hk⟩ := masked_of_not_ownGuard he ho s
    exact hk ▸ issue_continues ..
  | true =>
    obtain ⟨g, k, hk⟩ := exec_eq_issueBranch ho s
    exact hk ▸ issueBranch_continues ..

end Sys2Proof.Laws
end

section
/-! No step stops but at a host access to no address of the device (01_main_memory.md R13, 23_host_and_links.md R463): every event
continues, what a fetch decodes is no event, and so every turn of the agenda continues. -/

namespace Sys2Proof.Laws

open Sys2Proof.Machine Sys2Proof.Terms

/-! ### Events -/

/-- The three events that name an address of the host. -/
def atHostAddress : Instr → Bool
  | .hostRead .. | .hostWrite .. | .hostOwnershipRequest .. => true
  | _ => false

/-- Every branch of every other event is a next state. -/
theorem event_continues {e : Instr} (he : e.isEvent = true) (hh : atHostAddress e = false) (s : State) : Continues (exec e s) := by
  cases e with
  | illegalInstruction | fetchFault | homeRead | homeRenewal | homeOwnership | homeWriteback | homeAtomic | homeUpdateJoin
  | watchRenewal | fillReply | ownershipGrant | confirm | strike | sweep | sweepNotice | timeExchange | creep
  | clusterEviction =>
    dsimp only [exec,
      execIllegalInstruction, execFetchFault, execHomeRead, execHomeRenewal, execHomeOwnership, execHomeWriteback,
      execHomeAtomic, execHomeUpdateJoin, execWatchRenewal, execFillReply, execOwnershipGrant, execConfirm, execStrike,
      execSweep, execSweepNotice, execTimeExchange, execCreep, execClusterEviction]
    (repeat' split) <;> exact .next _
  | tableWalk | acknowledge | remoteAccess | remoteReply | remoteReissue | depdecResend | waitLimit | divCompletion
  | wmpropCompletion =>
    dsimp only [exec,
      execTableWalk, execAcknowledge, execRemoteAccess, execRemoteReply, execRemoteReissue, execDepdecResend, execWaitLimit,
      execDivCompletion, execWmpropCompletion]
    (repeat' split) <;> exact .next _
  | copyExecute | gatherExecute | scaddExecute | quantExecute | tgenExecute | tgenPublish | tgenCloseExecute
  | tileLoadExecute | tileStoreExecute | commandCompletion | matrixExecute | accsendFlag | roomLimit | roomDepart
  | migrationArrival | arrivalPlacement =>
    dsimp only [exec,
      execCopyExecute, execGatherExecute, execScaddExecute, execQuantExecute, execTgenExecute, execTgenPublish,
      execTgenCloseExecute, execTileLoadExecute, execTileStoreExecute, execCommandCompletion, execMatrixExecute,
      execAccsendFlag, execRoomLimit, execRoomDepart, execMigrationArrival, execArrivalPlacement]
    (repeat' split) <;> exact .next _
  | unitDispatch | codeletStart | launchCompletion | nodeRun | cancelPoint | quiescence | quiescenceReport | warpSwap
  | launch | graph | phase | wait | signal | hostCancel | hostCopy | hostFence | dbell | queueEnable | queueReset =>
    dsimp only [exec,
      execUnitDispatch, execCodeletStart, execLaunchCompletion, execNodeRun, execCancelPoint, execQuiescence,
      execQuiescenceReport, execWarpSwap, execLaunch, execGraph, execPhase, execWait, execSignal, execHostCancel,
      execHostCopy, execHostFence, execDbell, execQueueEnable, execQueueReset]
    (repeat' split) <;> exact .next _
  | spillSlot | restoreSlot | preemptWarp | resumeWarp | evsel | ltimeWrite | clgrantWrite | clmaskWrite | leasesWrite
  | registerWrite | backInvalidateReply | snoopInvalidate | snoopData =>
    dsimp only [exec,
      execSpillSlot, execRestoreSlot, execPreemptWarp, execResumeWarp, execEvsel, execLtimeWrite, execClgrantWrite,
      execClmaskWrite, execLeasesWrite, execRegisterWrite, execBackInvalidateReply, execSnoopInvalidate, execSnoopData]
    (repeat' split) <;> exact .next _
  | requestFlit | responseFlit | dataFlit | creditFlit | idleFlit | flitReplay | windowRequestTimeout =>
    dsimp only [exec,
      execRequestFlit, execResponseFlit, execDataFlit, execCreditFlit, execIdleFlit, execFlitReplay,
      execWindowRequestTimeout]
    (repeat' split) <;> exact .next _
  | negotiateAlgorithms | getCertificate | challenge | getMeasurements | deviceReset | firmwareResume | firmwareJobCancel
  | haltRestart | clusterGate | clusterUngate | supplySag | sagRecoveryStep | debugLevelChange | lifecycleChange | logClear
  | malformedRecord | flitCrcFailure | softError | hsiftCompletion | supplyRecovery | supervisorStart | getVersion
  | getCapabilities | getDigests | throttle | throttleRecovery | standby | powerOff | overTemperature | recovery =>
    dsimp only [exec,
      execNegotiateAlgorithms, execGetCertificate, execChallenge, execGetMeasurements, execDeviceReset, execFirmwareResume,
      execFirmwareJobCancel, execHaltRestart, execClusterGate, execClusterUngate, execSupplySag, execSagRecoveryStep,
      execDebugLevelChange, execLifecycleChange, execLogClear, execMalformedRecord, execFlitCrcFailure, execSoftError,
      execHsiftCompletion, execSupplyRecovery, execSupervisorStart, execGetVersion, execGetCapabilities, execGetDigests,
      execThrottle, execThrottleRecovery, execStandby, execPowerOff, execOverTemperature, execRecovery]
    (repeat' split) <;> exact .next _
  | hostRead | hostWrite | hostOwnershipRequest => cases hh
  | _ => cases he

/-- A host access continues or stops at an address that its decoders do not have. -/
theorem exec_hostRead_cases (n : Nat) (s : State) :
    Continues (exec (.hostRead n) s) ∨ exec (.hostRead n) s = .fault (.unassignedAddress (128 * n)) := by
  show Continues (execHostRead n s) ∨ execHostRead n s = _
  unfold execHostRead
  cases s.hostPa (128 * n) with
  | none => exact .inr rfl
  | some pa => dsimp only; split <;> exact .inl (.next _)

theorem exec_hostOwnershipRequest_cases (n : Nat) (s : State) :
    Continues (exec (.hostOwnershipRequest n) s) ∨ exec (.hostOwnershipRequest n) s = .fault (.unassignedAddress (128 * n)) := by
  show Continues (execHostOwnershipRequest n s) ∨ execHostOwnershipRequest n s = _
  unfold execHostOwnershipRequest
  cases s.hostPa (128 * n) with
  | none => exact .inr rfl
  | some pa => dsimp only; split <;> exact .inl (.next _)

theorem exec_hostWrite_cases (a : Nat) (d : HostBytes) (s : State) :
    Continues (exec (.hostWrite a d) s) ∨ exec (.hostWrite a d) s = .fault (.unassignedAddress a) := by
  show Continues (execHostWrite a d s) ∨ execHostWrite a d s = _
  unfold execHostWrite
  split
  · split
    · exact .inr rfl
    · split <;> exact .inl (.next _)
  · exact .inr rfl

/-- An event continues, or is a host access that stops at its address. -/
theorem event_cases {e : Instr} (he : e.isEvent = true) (s : State) : Continues (exec e s) ∨
    ∃ a, exec e s = .fault (.unassignedAddress a) ∧
      ((∃ n, e = .hostRead n) ∨ (∃ n, e = .hostOwnershipRequest n) ∨ ∃ d, e = .hostWrite a d) := by
  cases hh : atHostAddress e with
  | false => exact .inl (event_continues he hh s)
  | true =>
    cases e with
    | hostRead n => exact (exec_hostRead_cases n s).imp_right fun h => ⟨_, h, .inl ⟨n, rfl⟩⟩
    | hostOwnershipRequest n => exact (exec_hostOwnershipRequest_cases n s).imp_right fun h => ⟨_, h, .inr (.inl ⟨n, rfl⟩)⟩
    | hostWrite a d => exact (exec_hostWrite_cases a d s).imp_right fun h => ⟨a, h, .inr (.inr ⟨d, rfl⟩)⟩
    | _ => cases hh

/-! ### What a fetch decodes (R171) -/

/-- Not an event: an instruction of the table. -/
def Fetched.OfTable (f : Fetched) : Prop := ∀ i, f = .instr i → i.isEvent = false

/-- The instructions of the table are those that have words. -/
theorem isEmpty_encode (i : Instr) : (encode i).isEmpty = i.isEvent := by
  cases i with
  | waitt g c n => cases n <;> rfl
  | mfc g k d => cases d <;> rfl
  | copy g sh q d a b k => cases k <;> rfl
  | _ => rfl

theorem lenWords_ne_zero {w : Word} : lenWords w ≠ some 0 := by
  unfold lenWords
  split <;> simp

theorem decoded_ofTable (w0 w1 w2 : Word) : Fetched.OfTable (decoded w0 w1 w2) := by
  intro i hi
  unfold decoded at hi
  split at hi
  · next j hj =>
    cases hi
    obtain ⟨n, hn, hw⟩ := encode_of_decodeWords hj
    rw [← isEmpty_encode, hw]
    cases n with
    | zero => exact absurd hn lenWords_ne_zero
    | succ n => rfl
  · cases hi

theorem Fetched.OfTable.wait : Fetched.OfTable .wait := fun _ h => nomatch h

theorem Fetched.OfTable.fault (c : BitVec 8) (v : DWord) : Fetched.OfTable (.fault c v) := fun _ h => nomatch h

theorem Fetched.OfTable.illegal (w0 w1 : Word) : Fetched.OfTable (.illegal w0 w1) := fun _ h => nomatch h

theorem fetchWords_ofTable (s : State) (a : Agent) (p : Path) : Fetched.OfTable (s.fetchWords a p).2 := by
  unfold State.fetchWords
  dsimp only
  split
  · exact .wait
  · exact .fault _ _
  · split
    · exact .illegal _ _
    · split
      · exact decoded_ofTable _ _ _
      · split
        · exact .wait
        · exact .fault _ _
        · split
          · exact decoded_ofTable _ _ _
          · split
            · exact .wait
            · exact .fault _ _
            · exact decoded_ofTable _ _ _

theorem fetchInstr_ofTable (s : State) (a : Agent) (p : Path) : Fetched.OfTable (s.fetchInstr a p).2 := by
  unfold State.fetchInstr
  split
  · exact decoded_ofTable _ _ _
  · exact fetchWords_ofTable s a p

/-! ### Turns -/

theorem issueStep_continues (s : State) : Continues (issueStep s) := by
  unfold issueStep
  split
  · exact .next _
  · split
    · exact .next _
    · split
      · exact .next _
      · next a p _ _ _ =>
        have ht := fetchInstr_ofTable s a p
        split
        · next hf => rw [hf] at ht; exact exec_continues_of_not_event (ht _ rfl) _
        · exact .next _
        · exact .next _
        · exact .next _

theorem Continues.mirrored {o : Host.Outcome State Fault Refusal} (h : Continues o) (s : State) : Continues (mirrored s o) := by
  obtain ⟨t, rfl⟩ := h
  exact .next _

theorem retryStep_continues (l : List (Nat × Bool)) : ∀ s, Continues (retryStep l s) := by
  induction l with
  | nil => exact .next
  | cons x l ih =>
    intro s
    obtain ⟨t, ht⟩ := (issueStep_continues { s with focus := some x }).mirrored s
    rw [retryStep, ht]
    exact ih t

theorem coreStep_continues (c : CoreId) (s : State) : Continues (coreStep c s) := by
  obtain ⟨t, ht⟩ := retryStep_continues (s.waitingPaths c) s
  rw [coreStep, ht]
  dsimp only
  split
  · exact (issueStep_continues _).mirrored _
  · exact .next _

theorem flitInTurn_continues (link : Nat) (raw : List Byte) (s : State) : Continues (flitInTurn link raw s) := by
  unfold flitInTurn
  split
  · exact event_continues (e := .flitCrcFailure link) rfl rfl s
  · next f _ =>
    dsimp only
    split
    · exact event_continues (e := .requestFlit link f.seq f.ack f.payload.toList) rfl rfl s
    · exact event_continues (e := .responseFlit link f.seq f.ack f.payload.toList) rfl rfl s
    · exact event_continues (e := .dataFlit link f.seq f.ack f.payload.toList) rfl rfl s
    · exact event_continues (e := .creditFlit link f.seq f.ack f.payload.toList) rfl rfl s
    · exact event_continues (e := .idleFlit link f.seq f.ack f.payload.toList) rfl rfl s

theorem bar2WriteTurn_continues (off : Nat) (bytes : List Byte) (s : State) : Continues (bar2WriteTurn off bytes s) := by
  unfold bar2WriteTurn
  split
  · exact event_continues (e := .dbell _ _) rfl rfl s
  · exact .next _

theorem turnStep_event_cases {e : Instr} {s : State}
    (h : turnStep (.event e) s = if e.isEvent && s.answers e then exec e s else .next s) :
    Continues (turnStep (.event e) s) ∨ ∃ e', Turn.event e = .event e' ∧ e'.isEvent = true ∧
      turnStep (.event e) s = exec e' s := by
  rw [h]
  split
  · next hc => exact .inr ⟨e, rfl, (Bool.and_eq_true_iff.mp hc).1, rfl⟩
  · exact .inl (.next _)

/-- Every turn continues but that of an event, which may run it. -/
theorem turnStep_cases (t : Turn) (s : State) :
    Continues (turnStep t s) ∨ ∃ e, t = .event e ∧ e.isEvent = true ∧ turnStep t s = exec e s := by
  cases t with
  | core c => exact .inl (coreStep_continues c s)
  | event e =>
    cases e with
    | illegalInstruction => exact .inl (.next _)
    | fetchFault => exact .inl (.next _)
    | _ => exact turnStep_event_cases rfl
  | bar2Write off bytes => exact .inl (bar2WriteTurn_continues off bytes s)
  | flitIn link raw => exact .inl (flitInTurn_continues link raw s)
  | _ => exact .inl (.next _)

/-- Settles O7: only the three host accesses have an outcome that is no next state, at an address that no decoder has. -/
theorem noStepStops : Obligations.NoStepStops := by
  intro s
  cases hag : s.agenda with
  | nil =>
    left
    obtain ⟨t, ht⟩ := (issueStep_continues s).mirrored s
    exact ⟨t, by rw [step, hag]; exact ht⟩
  | cons tn rest =>
    have hs : step s = mirrored s (turnStep tn { s with agenda := rest }) := by rw [step, hag]
    rw [hs]
    obtain hc | ⟨e, rfl, he, hr⟩ := turnStep_cases tn { s with agenda := rest }
    · exact .inl (hc.mirrored s)
    · rw [hr]
      obtain hc | ⟨a, ha, hk⟩ := event_cases he { s with agenda := rest }
      · exact .inl (hc.mirrored s)
      · rw [ha]
        refine .inr ⟨a, rest, rfl, ?_⟩
        obtain ⟨n, rfl⟩ | ⟨n, rfl⟩ | ⟨d, rfl⟩ := hk
        · exact .inl ⟨n, rfl⟩
        · exact .inr (.inl ⟨n, rfl⟩)
        · exact .inr (.inr ⟨d, rfl⟩)

end Sys2Proof.Laws
end

section
/-! The register instructions complete (10_isa_lane.md): each form of the table is one of a few shapes of register instruction, whose
value function `laneResult` carries to every state in which it issues. -/

namespace Sys2Proof.Laws

open Sys2Proof.Machine Sys2Proof.Terms

/-! ### Shapes -/

theorem int2_result {i : Instr} {g : Guard} {op : IOp} {t : ITy} {sat : Bool} {d : GReg} {a b : Src}
    (h : ∀ s, exec i s = int2 i g op t sat d a b s) :
    LaneResult i g [a.wT t, if op.shifts then b.w1 else b.wT t] [] (dstT t d) (intOut op t sat d) := laneResult h

theorem intImm_result {i : Instr} {op : IOp} {d a : GReg} {imm : DWord} (h : ∀ s, exec i s = intImm i op d a imm s) :
    LaneResult i Guard.always [(rd a).w1] [] [d] (immOut op d imm) := laneResult h

theorem int1_result {i : Instr} {g : Guard} {op : UOp} {t : ITy} {sat : Bool} {d : GReg} {a : Src}
    (h : ∀ s, exec i s = int1 i g op t sat d a s) :
    LaneResult i g [a.wT t] [] (if op.counts then [d] else dstT t d) (int1Out op t sat d) := laneResult h

theorem flt2_result {i : Instr} {g : Guard} {f : RM → Bool → Nat → Nat → FRes} {r : Rnd} {sat : Bool} {d : GReg} {a b : Src}
    {ma mb : FMod} (h : ∀ s, exec i s = flt2 i g f r sat d a ma b mb s) :
    LaneResult i g [a.w1, b.w1] [] [d] (flt2Out f r sat d ma mb) := laneResult h

theorem flt1_result {i : Instr} {g : Guard} {f : RM → Bool → Nat → FRes} {r : Rnd} {sat : Bool} {d : GReg} {a : Src} {ma : FMod}
    (h : ∀ s, exec i s = flt1 i g f r sat d a ma s) : LaneResult i g [a.w1] [] [d] (flt1Out f r sat d ma) := laneResult h

/-! ### The instructions -/

/-- Settles O13: every form is the operation that the list names beside it. -/
theorem integerTwoSources : Obligations.IntegerTwoSources := by
  intro g t sat d a b x y imm n
  simp only [List.forall_mem_cons]
  refine ⟨⟨?_, ?_, ?_, ?_, ?_, ?_, ?_, ?_, ?_, ?_, ?_, ?_, ?_, ?_, List.forall_mem_nil _⟩, ⟨?q1, ?q2, ?q3, List.forall_mem_nil _⟩,
    ⟨?_, ?_, ?_, ?_, ?_, ?_, ?_, ?_, ?_, ?_, ?_, List.forall_mem_nil _⟩, ⟨?i1, ?i2, ?i3, ?i4, ?i5, ?i6, ?i7, List.forall_mem_nil _⟩, ⟨?s1, ?s2, ?s3, ?s4, List.forall_mem_nil _⟩⟩
  case i1 | i2 | i3 | i4 | i5 | i6 | i7 | s1 | s2 | s3 | s4 => exact intImm_result fun _ => rfl
  case q1 | q2 | q3 => exact laneResult fun _ => rfl
  all_goals exact int2_result fun _ => rfl

/-- Settles O17: the operations differ in the function that `flt1Out` and `flt2Out` take. -/
theorem floatingResults : Obligations.FloatingResults := by
  intro g r sat na nb nc d a b p x y z ma mb k
  simp only [List.forall_mem_cons]
  refine ⟨⟨?_, ?_, ?_, ?_, ?_, List.forall_mem_nil _⟩, ⟨?_, ?_, ?_, List.forall_mem_nil _⟩, ⟨?_, ?_, List.forall_mem_nil _⟩, ⟨?o1, ?o2, ?o3, ?o4, ?o5, List.forall_mem_nil _⟩, ?fma, ?cmp⟩
  case fma | cmp => exact laneResult fun _ => rfl
  case o1 | o2 | o3 | o4 | o5 => exact flt1_result fun _ => rfl
  all_goals exact flt2_result fun _ => rfl

theorem pack_result (g : Guard) (dt : Ty) (r : Rnd) (sat : Bool) (d : GReg) (a b : Src) (ma mb : FMod) :
    LaneResult (.pack g dt r sat d a ma b mb) g ([a.w1, b.w1] ++ (if dt.width = 16 then [] else [(rd d).w1])) [] [d]
      (fun c _ _ x =>
        let f : Ty := if dt.isFloat then .f32 else .i32
        let u := convert dt f (Rnd.mode r c.a.fpctl) sat (srcElem f ma (x.v 0))
        let v := convert dt f (Rnd.mode r c.a.fpctl) sat (srcElem f mb (x.v 1))
        let pair := BitVec.ofNat 32 (v.bits * 2 ^ dt.width + u.bits)
        { out1 d (if dt.width = 16 then pair else (x.w 2 >>> (2 * dt.width)) ||| (pair <<< (32 - 2 * dt.width))) with
          flags := u.flags ||| v.flags }) := laneResult fun _ => rfl

/-- Settles O18: `PACK` of 16 bits reads no destination. -/
theorem conversionResults : Obligations.ConversionResults := by
  intro g dt st t r sat d x y z ma mb idx
  refine ⟨laneResult fun _ => rfl, fun h => ?_, fun h => ?_, ?_, ?_, ?_, ?_⟩
  · have hp := pack_result g dt r sat d x y ma mb
    simp only [h, if_true, List.append_nil] at hp
    exact hp
  · have hp := pack_result g dt r sat d x y ma mb
    simp only [h, if_false, List.cons_append, List.nil_append] at hp
    exact hp
  all_goals exact laneResult fun _ => rfl

/-- Settles O19: the value function of each form is given the inputs of all lanes that take part. -/
theorem crossLaneResults : Obligations.CrossLaneResults := by
  intro g m d x y p u op t r n1
  refine ⟨?_, ?_, ?_, ?_, ?_, ?_, ?_, ?_, ?_, ?_, ?_, ?_, ?_, ?tmask⟩
  case tmask =>
    have hu : ((List.range 4).map fun i => (Src.s (u + BitVec.ofNat 5 i)).w2) =
        [(Src.s u).w2, (Src.s (u + 1)).w2, (Src.s (u + 2)).w2, (Src.s (u + 3)).w2] := by simp [List.range_succ]
    refine laneResult fun s => ?_
    show execTmask g d u y n1 s = _
    unfold execTmask
    rw [hu]
    rfl
  all_goals exact laneResult fun _ => rfl

/-- The value function of `MOVS`: the lowest lane gives the uniform register its value. -/
def movsOut (t : ITy) (u : SReg) (x : Src) (_ : Ctx) (tbl : List (Nat × LaneIn)) (l : Nat) (i : LaneIn) : LaneOut :=
  if tbl.head?.map (·.1) = some l then { uni := some (u, movsValue t x (i.v 0)) } else {}

theorem answer_movsOut (t : ITy) (u : SReg) (x : Src) (c : Ctx) (o : Opnd) (l : Nat) : answer c [o] [] (movsOut t u x) l =
    if (Mask.list c.act).head? = some l then { uni := some (u, movsValue t x (c.value l o)) } else {} := by
  simp [answer, movsOut, table, Ctx.inputs, LaneIn.v, Function.comp_def]

/-- Without flags nothing traps. -/
theorem flagCause_zero (fpctl : DWord) : flagCause fpctl 0 = none := by simp [flagCause]

/-- `MOVS` writes the uniform register with the value of the lowest lane once no producer writes it. -/
theorem exec_movs {g : Guard} {t : ITy} {u : SReg} {x : Src} {s : State} {c : Ctx} {o : Opnd}
    (ho : o = (match x with | .s _ => x.w2 | .g .. => x.wT t)) (hb : s.sregBusy c.uid c.p.act u = false)
    (hi : Issues (.movs g t u x) g s c) (hr : Reads s c [o] [] []) :
    exec (.movs g t u x) s = .next ((ran s c [o] (fun l =>
      if (Mask.list c.act).head? = some l then { uni := some (u, movsValue t x (c.value l o)) } else {})).complete c) := by
  subst ho
  show execMovs g t u x s = _
  unfold execMovs
  have hb' : (atIssue s c).sregBusy c.uid c.p.act u = false := (sregBusy_noteIssue ..).trans hb
  rw [issue_of_issues hi, busyExec, if_pos (by rw [hb']; rfl)]
  refine congrArg _ ((laneExec_spec (movsOut t u x) hi.together hr fun l _ => ?_).trans ?_)
  · rw [answer_movsOut]
    split <;> exact ⟨rfl, flagCause_zero _⟩
  · simp only [funext (answer_movsOut t u x c _)]

/-- Settles O15: `MOVS` apart, each form is a register instruction. -/
theorem integerOthers : Obligations.IntegerOthers := by
  intro g t sat sg notp d a b x y z p q u cnd imm w pos len sh disp
  simp only [List.forall_mem_cons]
  refine ⟨⟨?u1, ?u2, ?u3, ?u4, ?u5, ?u6, ?u7, List.forall_mem_nil _⟩, ⟨?u8, ?u9, ?u10, ?u11, ?u12, List.forall_mem_nil _⟩, ⟨?_, ?_, List.forall_mem_nil _⟩, ?_, ?_, ?_, ?_,
    ?_, ?_, ?_, ?_, ?_, ?_, ?_, ?movs, ?_, ?_, ?_, ?_⟩
  case u1 | u2 | u3 | u4 | u5 | u6 | u7 | u8 | u9 | u10 | u11 | u12 => exact int1_result fun _ => rfl
  case movs =>
    intro s c o ho hb hi hr
    refine (exec_movs ho hb hi hr).trans ?_
    cases x <;> cases t <;> rfl
  all_goals exact laneResult fun _ => rfl

end Sys2Proof.Laws
end

section
/-! The instructions that meet the rest of the device complete (09_isa_arrival.md, 13_isa_return.md, 10_isa_lane.md R235-R240). -/

namespace Sys2Proof.Laws

open Sys2Proof.Machine Sys2Proof.Terms

/-- The immediate of the short forms, extended by way of the offset field's width. -/
theorem signExtend_imm10 (x : BitVec 10) : (x.signExtend 16).signExtend 64 = x.signExtend 64 := by
  ext i hi
  simp only [BitVec.getElem_signExtend, BitVec.msb_signExtend]
  simp
  omega

/-- An instruction performed once for the warp, given what its lane's operands and its check answer. -/
theorem onceExec_spec {β : Type} {os : List Opnd} {ds : List GReg} {check : Ctx → State → Nat → LaneIn → State × Chk β}
    {perform : Ctx → State → Nat → β → State} {c : Ctx} {s t : State} {b : β} (hk : c.clash = false)
    (hr : s.ready c (Mask.lowest c.act) os [] ds = .ok)
    (hc : check c (atIssue s c) (Mask.lowest c.act) (c.inputs (Mask.lowest c.act) os []) = (t, .ok b)) :
    onceExec os ds check perform c (atIssue s c) =
      (perform c ((t.clearWalkFaults c.uid c.p.mask).consumeOps c (Mask.lowest c.act) os) (Mask.lowest c.act) b).complete c := by
  have hr' : (atIssue s c).ready c (Mask.lowest c.act) os [] ds = .ok := by rw [atIssue, ready_noteIssue, hr]
  simp only [onceExec, hr', hc, completeWith_of_not_clash hk]

theorem busyExec_of_free {busy : Ctx → State → Bool} {c : Ctx} {s : State} (h : busy c s = false) (os : List Opnd) (once : Bool)
    (k : Ctx → State → State) : busyExec busy os once k c s = k c s := by
  rw [busyExec, if_pos (by simp [h])]

/-- Settles O20: the short form's offset is its immediate, `LDU` waits for its uniform register. -/
theorem loadsComplete : Obligations.LoadsComplete := by
  intro g z sx acq dev lease d a u imm m k am
  refine ⟨performs fun s => ?_, performs fun s => ?_, performs fun s => ?_, ?ldu, performs fun s => ?_, performs fun s => ?_, performs fun s => ?_⟩
  case ldu =>
    intro s c t segs va hi hb hr hva hc
    show execLdu g z sx acq lease u m s = _
    unfold execLdu
    have hb' : (atIssue s c).sregBusy c.uid c.p.act u = false := (sregBusy_noteIssue ..).trans hb
    rw [issue_of_issues hi, busyExec_of_free hb', onceExec_spec (t := t) (b := (va, segs)) hi.together hr]
    have hea : eaOf ((c.inputs (Mask.lowest c.act) [m.base.w2] []).v 0) m.off = va := hva.symm
    rw [hea, hc]
    rfl
  · have himm : (imm.signExtend 16).signExtend 64 = imm.signExtend 64 := signExtend_imm10 imm
    rw [← himm]
    rfl
  all_goals rfl

/-- Settles O21: the data operand is checked for poison beside the address. -/
theorem storesComplete : Obligations.StoresComplete := by
  intro g z rel w64 lease d e a imm m op ord v k rop t
  refine ⟨performs fun s => ?_, performs fun s => ?_, performs fun s => ?_, performs fun s => ?_⟩
  · have himm : (imm.signExtend 16).signExtend 64 = imm.signExtend 64 := signExtend_imm10 imm
    refine congrArg (issue (.stI32 e a imm) Guard.always s) (funext fun c => funext fun s => ?_)
    unfold storeExec
    simp only [dataOps, List.any_cons, List.any_nil, Bool.or_false, eaOf, himm]
    rfl
  · rfl
  · cases w64 <;> rfl
  · rfl

/-- Settles O22: `SETF` and `CLRF` by the width of their word. -/
theorem localFormsComplete : Obligations.LocalFormsComplete := by
  intro g rel w64 d e m dir sc b off kind ord
  refine ⟨?_, ?_, ?_, ?_, ?_, ?_, ?_, ?_, ?_⟩
  · cases w64 <;> exact performs fun _ => rfl
  · cases w64 <;> exact performs fun _ => rfl
  all_goals exact performs fun _ => rfl

/-- Settles O23: the divides by the width of their type. -/
theorem producersComplete : Obligations.ProducersComplete := by
  intro g t k bot lt d x y kk mm lease n
  simp only [List.forall_mem_cons]
  refine ⟨⟨?_, ?_, List.forall_mem_nil _⟩, ?_, ?_, ?_⟩
  · cases t <;> exact performs fun _ => rfl
  · cases t <;> exact performs fun _ => rfl
  all_goals exact performs fun _ => rfl

end Sys2Proof.Laws
end

section
/-! Branches, calls and returns (17_isa_control.md R364-R369, 15_travellers.md R346, R348, 16_loops.md R353, R355). -/

namespace Sys2Proof.Laws

open Sys2Proof.Machine Sys2Proof.Terms

/-! ### Masks -/

/-- A mask with a lane lists its lowest lane first. -/
theorem Mask.list_eq_lowest_cons {m : Mask} (h : m ≠ 0) : ∃ ls, Mask.list m = Mask.lowest m :: ls := by
  unfold Mask.lowest
  cases hl : Mask.list m with
  | nil => exact absurd ((ofList_list m).symm.trans (by rw [hl]; rfl)) h
  | cons l ls => exact ⟨ls, rfl⟩

theorem sameAs_map (ls : List Nat) (f : Nat → DWord) (v : DWord) :
    sameAs (ls.map fun l => (l, f l)) v = Mask.ofList (ls.filter fun l => f l == v) := by
  simp only [sameAs, List.filter_map, List.map_map]
  congr 1
  exact List.map_id _

/-! ### Branches -/

theorem branch_of_inRange {c : Ctx} {t : DWord} (h : c.a.outOfRange c.p.act t = false) (s : State) : s.branch c t = s.jump c t := by
  simp [State.branch, h]

theorem branch_of_outOfRange {c : Ctx} {t : DWord} (h : c.a.outOfRange c.p.act t = true) (s : State) :
    s.branch c t = s.faultAll c 0x11 0 := by
  simp [State.branch, h]

theorem fallThrough_of_not_clash {c : Ctx} (h : c.clash = false) (s : State) : s.fallThrough c = s.complete c :=
  completeWith_of_not_clash h s id

/-- An instruction whose meaning is `diverge` parts its lanes as the table of R366 says. -/
theorem diverges {i : Instr} {g : Guard} {take : Ctx → Mask} {t : Ctx → DWord} {j : Ctx → List (DWord × Bool)}
    {pre : Ctx → State → State} {more : State → Ctx → Prop}
    (h : ∀ s c, Branches i g s c → more (atIssue s c) c →
      exec i s = .next ((atIssue s c).diverge c (take c) (t c) (j c) (pre c))) :
    Diverges i g take t j pre more := by
  intro s c hb hm
  rw [h s c hb hm]
  refine ⟨fun h0 hk => ?_, fun h0 hr hall => ?_, fun h0 hr hsome hend hroom => ?_⟩
  · rw [State.diverge, if_pos h0, fallThrough_of_not_clash hk]
  · simp only [State.diverge, if_neg h0, hr, Bool.false_eq_true, if_false, if_pos hall]
  · simp only [State.diverge, if_neg h0, hr, Bool.false_eq_true, if_false, if_neg hsome, hend, if_neg hroom]

theorem exec_bru {g : Guard} {disp : BitVec 22} {s : State} {c : Ctx} (h : Branches (.bru g disp) g s c) :
    exec (.bru g disp) s = .next (
      let s := atIssue s c
      let seen (s : State) : State := s.updAgent c.uid fun a => { a with thctl := a.thctl ||| 2 }
      if c.guarded g = c.p.mask then s.branch c (c.rel disp)
      else if c.guarded g = 0 then s.fallThrough c
      else if c.a.thctl.getLsbD 0 = false then s.faultAll c 0x13 0
      else if !(c.guarded g).getLsbD (Mask.lowest c.p.mask) then s.completeWith c seen
      else if c.a.outOfRange c.p.act (c.rel disp) then s.faultAll c 0x11 0
      else (seen s).jump c (c.rel disp)) := by
  show execBru g disp s = _
  rw [execBru, issueBranch_of_branches h]

/-- Settles O24: `BR` by its two forms, `BRC` and `CHK` as `diverge`, `BRU` branch by branch. -/
theorem branchesComplete : Obligations.BranchesComplete := by
  refine ⟨fun disp imm s c => ?_, fun g disp join => ⟨diverges fun s c hb _ => ?_, diverges fun s c hb hw => ?_, ?_⟩⟩
  · simp only [List.forall_mem_cons]
    refine ⟨fun hb => ?_, fun hb => ?_, List.forall_mem_nil _⟩
    · rw [show exec (.brJ32 disp) s = execBrJ32 disp s from rfl, execBrJ32, issueBranch_of_branches hb]
      exact ⟨fun h => congrArg _ (branch_of_inRange h _), fun h => congrArg _ (branch_of_outOfRange h _)⟩
    · rw [show exec (.brX96 imm) s = execBrX96 imm s from rfl, execBrX96, issueBranch_of_branches hb]
      exact ⟨fun h => congrArg _ (branch_of_inRange h _), fun h => congrArg _ (branch_of_outOfRange h _)⟩
  · show execBrc g disp join s = _
    rw [execBrc, issueBranch_of_branches hb]
    rfl
  · show execChk disp s = _
    rw [execChk, issueBranch_of_branches hb]
    simp only [hw, Bool.false_eq_true, if_false]
    rfl
  · intro s c tk hb htk hm hr
    have htk' : tk = c.guarded g := htk
    have hr' : c.a.outOfRange c.p.act (c.rel disp) = false := hr
    rw [exec_bru hb, ← htk']
    refine ⟨fun h => ?_, fun hk h => ?_, fun h h0 hu => ?_, fun h h0 hu hl => ?_, fun hk h h0 hu hl => ?_⟩
    · rw [if_pos h]
      exact congrArg _ (branch_of_inRange hr _)
    · rw [if_neg (by rw [h]; exact hm.symm), if_pos h, fallThrough_of_not_clash hk]
    · rw [if_neg h, if_neg h0, if_pos hu]
    · simp only [if_neg h, if_neg h0, hu, hl, hr', Bool.true_eq_false, Bool.not_true, Bool.false_eq_true, if_false]
      rfl
    · simp only [if_neg h, if_neg h0, hu, hl, Bool.true_eq_false, Bool.not_false, if_true, if_false, completeWith_of_not_clash hk]

/-! ### Calls -/

/-- Lanes whose operands are readable, in an instruction that the guard does not mask: what reading a target answers. -/
theorem targets_of_reads {s : State} {c : Ctx} {r : GReg} {ds : List GReg} (h : Reads s c [(rd r).w2] [] ds) :
    (atIssue s c).targets c r ds = (⟨[], none⟩, (Mask.list c.p.mask).map fun l => (l, c.value l (rd r).w2)) := by
  rw [State.targets, stand_of_reads h]

/-- The first of the lanes' targets is the lowest lane's. -/
theorem firstTarget {m : Mask} (h : m ≠ 0) (f : Nat → DWord) :
    ((((Mask.list m).map fun l => (l, f l)).head?).map (·.2)).getD 0 = f (Mask.lowest m) := by
  obtain ⟨ls, hl⟩ := Mask.list_eq_lowest_cons h
  rw [hl]; rfl

theorem callExec_of_reads {s : State} {c : Ctx} (t : Ctx → DWord) (h : Reads s c [] [] [62, 63]) :
    callExec t c (atIssue s c) = (atIssue s c).call c c.p.mask (t c) false := by
  have hs : (atIssue s c).stand c [] [] linkRegs = ⟨[], none⟩ := stand_of_reads h
  simp only [callExec, hs]

theorem filter_map_eq_nil {f : Nat → DWord} {p : DWord → Bool} {ls : List Nat} (h : ∀ l ∈ ls, p (f l) = false) :
    ((ls.map fun l => (l, f l)).filter fun x => p x.2) = [] := by
  simp only [List.filter_eq_nil_iff, List.mem_map]
  rintro _ ⟨l, hl, rfl⟩
  simp [h l hl]

/-- The fields of a link (R355). -/
theorem callLink_fields (a : Agent) (act : Bool) (ret : DWord) (h : (a.loopsOf act).length ≤ 4) :
    (callLink a act ret).extractLsb' 0 56 = ret.extractLsb' 0 56 ∧ (callLink a act ret).extractLsb' 56 4 = a.rrbOf act ∧
    ((callLink a act ret).extractLsb' 60 3).toNat = ((a.loopsOf act).filter fun l => !l.frz).length ∧
    (callLink a act ret).getLsbD 63 = false := by
  have hn : a.unfrozen act ≤ 4 := Nat.le_trans (List.length_filter_le _ _) h
  unfold callLink
  refine ⟨extract_low .., ?_, ?_, ?_⟩
  · rw [extract_high _ _ 56 0 4 rfl, extract_low]
  · rw [extract_high _ _ 60 4 3 rfl, extract_high _ _ 4 0 3 rfl, extract_low, BitVec.toNat_ofNat, Nat.mod_eq_of_lt (by omega)]
    rfl
  · simp [BitVec.getLsbD_append]

/-- Settles O25: every lane's target is read first. -/
theorem callsComplete : Obligations.CallsComplete := by
  intro disp imm r s c
  refine ⟨?_, fun hb hr hok t g ht hg hm => ?_, fun hb hr hm hu t ht hok => ?_, fun a act ret h => callLink_fields a act ret h⟩
  · simp only [List.forall_mem_cons]
    refine ⟨fun hb hr => ?_, fun hb hr => ?_, List.forall_mem_nil _⟩
    · rw [show exec (.callJ32 disp) s = execCallJ32 disp s from rfl, execCallJ32, issueBranch_of_branches hb, callExec_of_reads _ hr]
      rfl
    · rw [show exec (.callX96 imm) s = execCallX96 imm s from rfl, execCallX96, issueBranch_of_branches hb, callExec_of_reads _ hr]
      rfl
  · rw [show exec (.calli r) s = execCalli r s from rfl, execCalli, issueBranch_of_branches hb]
    have hbad : ((Mask.list c.p.mask).map fun l => (l, c.value l (rd r).w2)).filter (fun x => !targetOk x.2) = [] :=
      filter_map_eq_nil (p := fun v => !targetOk v) fun l hl => by simp [hok l hl]
    have hread := targets_of_reads (ds := linkRegs) hr
    simp only [hread, hbad, firstTarget hm, ← ht, sameAs_map, ← hg, List.isEmpty_nil, Bool.not_true, Bool.false_eq_true, if_false]
    exact ⟨fun h => by rw [if_pos h], fun h hroom => by rw [if_neg h, if_neg hroom]⟩
  · rw [show exec (.calliTail r) s = execCalliTail r s from rfl, execCalliTail, issueBranch_of_branches hb]
    have hsame : (((Mask.list c.p.mask).map fun l => (l, c.value l (rd r).w2)).any fun x => x.2 != t) = false := by
      simp only [List.any_map, List.any_eq_false]
      intro l hl
      simp [ht l hl]
    have hlow : c.value (Mask.lowest c.p.mask) (rd r).w2 = t := by
      obtain ⟨ls, hl⟩ := Mask.list_eq_lowest_cons hm
      exact ht _ (by rw [hl]; exact List.mem_cons_self ..)
    simp only [targets_of_reads hr, firstTarget hm, hlow, hu, hsame, hok, ne_eq, not_true_eq_false, Bool.false_eq_true,
      Bool.true_eq_false, if_false]

/-! ### Returns -/

/-- The return of a barrel unit's one lane, to an address that ends no loop (R369). -/
theorem ret_of_barrel {c : Ctx} {v : DWord} (s : State) (hw : c.a.wide = false) (hm : c.p.mask = 1)
    (he : (c.a.setLoops c.p.act (v.extractLsb' 56 4) (unfreeze (v.extractLsb' 60 3).toNat (c.a.loopsOf c.p.act))).atEnd c.p.act
      (linkAddr v) = false) (hj : c.p.joins = []) :
    s.ret c [(0, v)] = (((s.consumeOps c 0 [(rd 62).w2]).updAgent c.uid fun x =>
      x.setLoops c.p.act (v.extractLsb' 56 4) (unfreeze (v.extractLsb' 60 3).toNat (x.loopsOf c.p.act))).updPath c.uid c.b
        fun p => { p with mask := 1, pc := linkAddr v, joins := [], back := none, wait := none, done := 0, parked := 0 }).settle
          c.uid := by
  have hl : Mask.list c.p.mask = [0] := by rw [hm]; decide
  have hs : sameAs [(0, linkAddr v)] (linkAddr v) = 1 := by
    have h0 : Mask.ofList [0] = 1 := by decide
    simp [sameAs, h0]
  have hd : distinct [(0, linkAddr v)] = [linkAddr v] := rfl
  simp only [State.ret, List.map_cons, List.map_nil, List.head?_cons, Option.map_some, Option.getD_some, hd, hw, he, hj, hl, hs,
    Bool.false_and, List.any_cons, List.any_nil, Bool.or_false, Bool.false_eq_true, if_false, List.length_cons, List.length_nil,
    List.foldl_cons, List.foldl_nil, List.tail_cons, List.headD_cons, Nat.sub_self, Nat.not_lt_zero, returnJoins, Nat.zero_add]

/-- What `RET` does once every lane's link is there. -/
theorem exec_ret {s : State} {c : Ctx} (hb : Branches .ret Guard.always s c) (hr : Reads s c [(rd 62).w2] [] []) :
    exec .ret s = .next (
      let ls := (Mask.list c.p.mask).map fun l => (l, link c l)
      let f12 := ls.filter fun x => badLink c.a c.p.act x.2
      let f05 := ls.filter fun x => !badLink c.a c.p.act x.2 && (linkAddr x.2).extractLsb' 0 2 != 0
      if f12.isEmpty && f05.isEmpty then (atIssue s c).ret c ls
      else (atIssue s c).faultPart c ((f12.map fun x => ⟨x.1, 0x12, 0, 0, none⟩)
        ++ f05.map fun x => ⟨x.1, 0x05, linkAddr x.2, 0, none⟩)) := by
  rw [show exec .ret s = execRet s from rfl, execRet, issueBranch_of_branches hb]
  simp only [targets_of_reads hr]
  rfl

/-- Settles O26: every link well formed, every link malformed. -/
theorem returnsComplete : Obligations.ReturnsComplete := by
  intro s c hb hr
  rw [exec_ret hb hr]
  refine ⟨fun hok => ?_, fun hbad hm => ?_⟩
  · have h12 : ((Mask.list c.p.mask).map fun l => (l, link c l)).filter (fun x => badLink c.a c.p.act x.2) = [] :=
      filter_map_eq_nil fun l hl => (hok l hl).1
    have h05 : ((Mask.list c.p.mask).map fun l => (l, link c l)).filter
        (fun x => !badLink c.a c.p.act x.2 && (linkAddr x.2).extractLsb' 0 2 != 0) = [] :=
      filter_map_eq_nil (p := fun v => !badLink c.a c.p.act v && (linkAddr v).extractLsb' 0 2 != 0) fun l hl => by
        simp [(hok l hl).2]
    simp only [h12, h05, List.isEmpty_nil, Bool.and_self, if_true]
    refine ⟨trivial, fun v a hw hm hv ha he hj => ?_⟩
    subst ha
    have hl : Mask.list c.p.mask = [0] := by rw [hm]; decide
    rw [hl, List.map_cons, List.map_nil, hv, ret_of_barrel _ hw hm he hj]
  · have h12 : ((Mask.list c.p.mask).map fun l => (l, link c l)).filter (fun x => badLink c.a c.p.act x.2) =
        (Mask.list c.p.mask).map fun l => (l, link c l) := by
      simp only [List.filter_eq_self, List.mem_map]
      rintro _ ⟨l, hl, rfl⟩
      exact hbad l hl
    have h05 : ((Mask.list c.p.mask).map fun l => (l, link c l)).filter
        (fun x => !badLink c.a c.p.act x.2 && (linkAddr x.2).extractLsb' 0 2 != 0) = [] :=
      filter_map_eq_nil (p := fun v => !badLink c.a c.p.act v && (linkAddr v).extractLsb' 0 2 != 0) fun l hl => by
        simp [hbad l hl]
    obtain ⟨ls, hl⟩ := Mask.list_eq_lowest_cons hm
    simp only [h12, h05, List.map_nil, List.append_nil, List.map_map, Function.comp_def]
    rw [hl]
    rfl

end Sys2Proof.Laws
end

section
/-! The loop image (16_loops.md R360): the bytes of a list of words give the words back, and an image its loop state. -/

namespace Sys2Proof.Machine

open Sys2Proof.Laws

/-! ### Bytes of words -/

@[simp] theorem toBytes_length (n v : Nat) : (toBytes n v).length = n := by simp [toBytes]

theorem toBytes_succ (n v : Nat) : toBytes (n + 1) v = BitVec.ofNat 8 v :: toBytes n (v / 256) := by
  simp only [toBytes, List.range_succ_eq_map, List.map_cons, List.map_map, Function.comp_def, Nat.pow_zero, Nat.div_one,
    Nat.div_div_eq_div_mul, Nat.succ_eq_add_one, Nat.pow_succ, Nat.mul_comm]

theorem ofBytes_toBytes (n v : Nat) : ofBytes (toBytes n v) = v % 256 ^ n := by
  induction n generalizing v with
  | zero => simp [toBytes, ofBytes, Nat.mod_one]
  | succ n ih =>
    rw [toBytes_succ, ofBytes, ih, BitVec.toNat_ofNat]
    exact (Nat.pow_succ' ▸ Nat.mod_mul (x := v) (a := 256) (b := 256 ^ n)).symm

theorem dwordAt_flatMap (ws : List DWord) (k : Nat) (rest : List Byte) (h : k < ws.length) :
    dwordAt ((ws.flatMap fun w => toBytes 8 w.toNat) ++ rest) (8 * k) = ws[k] := by
  induction ws generalizing k with
  | nil => exact absurd h (by simp)
  | cons w ws ih =>
    cases k with
    | zero =>
      simp only [dwordAt, List.flatMap_cons, Nat.mul_zero, List.drop_zero, List.append_assoc, List.getElem_cons_zero]
      rw [List.take_append_of_le_length (by simp), List.take_of_length_le (by simp), ofBytes_toBytes]
      exact BitVec.eq_of_toNat_eq (by simpa using w.isLt)
    | succ k =>
      have hk : k < ws.length := by simpa using h
      rw [List.getElem_cons_succ, ← ih k hk, dwordAt, dwordAt, List.flatMap_cons, List.append_assoc,
        List.drop_append, toBytes_length, List.drop_of_length_le (by rw [toBytes_length]; omega), List.nil_append]
      congr 5

/-! ### The image -/

/-- START, END and COUNT of a level of a list, 0 where it has none. -/
def levelRegs (ls : List Loop) (k : Nat) : DWord × DWord × DWord :=
  match ls[k]? with
  | some l => (l.start, l.stop, l.countReg)
  | none => (0, 0, 0)

/-- The sixteen words of an image. -/
def imageWords (ls : List Loop) (rrb : BitVec 4) (ps : BitVec 8) : List DWord :=
  let r := levelRegs ls
  [(r 0).1, (r 0).2.1, (r 0).2.2, (r 1).1, (r 1).2.1, (r 1).2.2, (r 2).1, (r 2).2.1, (r 2).2.2, (r 3).1, (r 3).2.1, (r 3).2.2,
    rrbReg rrb ls.length, ps.setWidth 64, 0, 0]

/-- The same level as `loopImage` lays it out. -/
def levelList (ls : List Loop) (k : Nat) : List DWord :=
  match ls[k]? with
  | some l => [l.start, l.stop, l.countReg]
  | none => [0, 0, 0]

theorem levelList_eq (ls : List Loop) (k : Nat) : levelList ls k = [(levelRegs ls k).1, (levelRegs ls k).2.1, (levelRegs ls k).2.2] := by
  unfold levelList levelRegs
  cases ls[k]? <;> rfl

theorem loopImage_eq (ls : List Loop) (rrb : BitVec 4) (ps : BitVec 8) :
    loopImage ls rrb ps = (imageWords ls rrb ps).flatMap fun w => toBytes 8 w.toNat := by
  have h : loopImage ls rrb ps = ((List.range 4).flatMap (levelList ls) ++ [rrbReg rrb ls.length, ps.setWidth 64, 0, 0]).flatMap
      fun w => toBytes 8 w.toNat := rfl
  rw [h]
  simp only [List.range_succ, List.range_zero, List.nil_append, List.cons_append, List.flatMap_cons, List.flatMap_nil, List.append_nil,
    levelList_eq]
  rfl

theorem dwordAt_loopImage (ls : List Loop) (rrb : BitVec 4) (ps : BitVec 8) (k : Nat) (h : k < 16) :
    dwordAt (loopImage ls rrb ps) (8 * k) = (imageWords ls rrb ps)[k]'h := by
  have hd := dwordAt_flatMap (imageWords ls rrb ps) k [] h
  rwa [List.append_nil, ← loopImage_eq] at hd

/-! ### Its fields -/

theorem countReg_frz (l : Loop) : l.countReg.getLsbD 44 = l.frz := by
  simp [Loop.countReg]

theorem countReg_stages (l : Loop) : l.countReg.extractLsb' 40 4 = l.stages := by
  rw [Loop.countReg, extract_high _ _ 40 0 4 rfl, extract_low]

theorem countReg_remain (l : Loop) : l.countReg.extractLsb' 0 40 = l.remain := extract_low ..

theorem countReg_reserved (l : Loop) : l.countReg.extractLsb' 45 19 = 0 := by
  rw [Loop.countReg, extract_high _ _ 45 5 19 rfl, extract_high _ _ 5 1 19 rfl, extract_high _ _ 1 0 19 rfl, extract_all]

theorem ofRegs_countReg (l : Loop) : Loop.ofRegs l.start l.stop l.countReg = l := by
  rw [Loop.ofRegs, countReg_frz, countReg_stages, countReg_remain]

theorem rrbReg_rrb (rrb : BitVec 4) (d : Nat) : (rrbReg rrb d).extractLsb' 0 4 = rrb := extract_low ..

theorem rrbReg_depth (rrb : BitVec 4) (d : Nat) (h : d ≤ 4) : ((rrbReg rrb d).extractLsb' 4 3).toNat = d := by
  rw [rrbReg, extract_high _ _ 4 0 3 rfl, extract_low, BitVec.toNat_ofNat, Nat.mod_eq_of_lt (by omega)]

theorem rrbReg_reserved (rrb : BitVec 4) (d : Nat) : (rrbReg rrb d).extractLsb' 7 57 = 0 := by
  rw [rrbReg, extract_high _ _ 7 3 57 rfl, extract_high _ _ 3 0 57 rfl, extract_all]

/-- The COUNT of a level of an image is accepted. -/
theorem levelRegs_count_ok {ls : List Loop} (h : ∀ l ∈ ls, l.stages.toNat ≤ 8) (k : Nat) :
    (levelRegs ls k).2.2.extractLsb' 45 19 = 0 ∧ ((levelRegs ls k).2.2.extractLsb' 40 4).toNat ≤ 8 := by
  unfold levelRegs
  cases hk : ls[k]? with
  | none => exact ⟨rfl, by decide⟩
  | some l => exact ⟨countReg_reserved l, by rw [countReg_stages]; exact h l (List.mem_of_getElem? hk)⟩

theorem ofRegs_levelRegs {ls : List Loop} {k : Nat} (h : k < ls.length) :
    Loop.ofRegs (levelRegs ls k).1 (levelRegs ls k).2.1 (levelRegs ls k).2.2 = ls[k] := by
  unfold levelRegs
  rw [List.getElem?_eq_getElem h]
  exact ofRegs_countReg _

theorem dwordAt_loopImage_level (ls : List Loop) (rrb : BitVec 4) (ps : BitVec 8) {k : Nat} (h : k < 4) :
    dwordAt (loopImage ls rrb ps) (24 * k) = (levelRegs ls k).1 ∧ dwordAt (loopImage ls rrb ps) (24 * k + 8) = (levelRegs ls k).2.1 ∧
    dwordAt (loopImage ls rrb ps) (24 * k + 16) = (levelRegs ls k).2.2 := by
  have h0 := dwordAt_loopImage ls rrb ps (3 * k) (by omega)
  have h1 := dwordAt_loopImage ls rrb ps (3 * k + 1) (by omega)
  have h2 := dwordAt_loopImage ls rrb ps (3 * k + 2) (by omega)
  obtain rfl | rfl | rfl | rfl : k = 0 ∨ k = 1 ∨ k = 2 ∨ k = 3 := by omega
  all_goals exact ⟨h0, h1, h2⟩

/-- A well-formed loop state comes back from its image. -/
theorem loopOfImage_loopImage {ls : List Loop} (hn : ls.length ≤ 4) (hs : ∀ l ∈ ls, l.stages.toNat ≤ 8) (rrb : BitVec 4)
    (ps : BitVec 8) : loopOfImage (loopImage ls rrb ps) = some (ls, rrb, ps) := by
  have h12 : dwordAt (loopImage ls rrb ps) 0x60 = rrbReg rrb ls.length := dwordAt_loopImage ls rrb ps 12 (by decide)
  have h13 : dwordAt (loopImage ls rrb ps) 0x68 = ps.setWidth 64 := dwordAt_loopImage ls rrb ps 13 (by decide)
  have h14 : dwordAt (loopImage ls rrb ps) 0x70 = 0 := dwordAt_loopImage ls rrb ps 14 (by decide)
  have h15 : dwordAt (loopImage ls rrb ps) 0x78 = 0 := dwordAt_loopImage ls rrb ps 15 (by decide)
  have hw : ps.setWidth 64 = 0#56 ++ ps := BitVec.setWidth_eq_append (by decide)
  have hps : (ps.setWidth 64).extractLsb' 8 56 = 0 := by rw [hw, extract_high _ _ 8 0 56 rfl, extract_all]; rfl
  have hps' : (ps.setWidth 64).extractLsb' 0 8 = ps := by rw [hw, extract_low]
  have hc : (List.range 4).any (fun k => (dwordAt (loopImage ls rrb ps) (24 * k + 16)).extractLsb' 45 19 != 0 ||
      decide (8 < ((dwordAt (loopImage ls rrb ps) (24 * k + 16)).extractLsb' 40 4).toNat)) = false := by
    rw [List.any_eq_false]
    intro k hk
    obtain ⟨-, -, h⟩ := dwordAt_loopImage_level ls rrb ps (List.mem_range.mp hk)
    obtain ⟨h1, h2⟩ := levelRegs_count_ok hs k
    rw [h, h1, decide_eq_false (by omega)]
    exact Bool.false_ne_true
  have hl : ((List.range ls.length).map fun k => Loop.ofRegs (dwordAt (loopImage ls rrb ps) (24 * k))
      (dwordAt (loopImage ls rrb ps) (24 * k + 8)) (dwordAt (loopImage ls rrb ps) (24 * k + 16))) = ls := by
    refine List.ext_getElem (by simp) fun k _ hk => ?_
    obtain ⟨h0, h1, h2⟩ := dwordAt_loopImage_level ls rrb ps (k := k) (by omega)
    rw [List.getElem_map, List.getElem_range, h0, h1, h2, ofRegs_levelRegs hk]
  unfold loopOfImage
  simp only [h12, h13, h14, h15, hc, hps, hps', rrbReg_depth _ _ hn, rrbReg_reserved, rrbReg_rrb, hl]
  simp [Nat.not_lt.mpr hn]

end Sys2Proof.Machine
end

section
/-! The loop instructions (16_loops.md R350-R360, 17_isa_control.md R373, R374). -/

namespace Sys2Proof.Machine

/-! ### Stage predicates (R350) -/

theorem physP_injective {rrb : BitVec 4} {p q : PReg} (h : physP rrb p = physP rrb q) : p = q := by
  apply BitVec.eq_of_toNat_eq
  have hp := p.isLt
  have hq := q.isLt
  unfold physP at h
  split at h <;> split at h <;> omega

theorem Lane.pred_setPred {p : PReg} (hp : p ≠ 0) (ln : Lane) (rrb : BitVec 4) (v : Bool) (q : PReg) :
    (ln.setPred rrb p v).pred rrb q = if q = p then v else ln.pred rrb q := by
  by_cases hq : q = 0
  · subst hq
    rw [if_neg (Ne.symm hp), Lane.pred_zero, Lane.pred_zero]
  · have hlt : physP rrb q < 16 := by
      have := q.isLt
      unfold physP
      split <;> omega
    rw [Lane.pred_of_ne hq, Lane.pred_of_ne hq, Lane.setPred_p_of_ne hp, setBit_getLsbD _ _ _ _ hlt]
    by_cases h : q = p
    · rw [if_pos h, h, if_pos rfl]
    · rw [if_neg h, if_neg fun he => h (physP_injective he)]

/-- Writing `p8` and the predicates above it, up to a number of them. -/
theorem pred_foldl_setPred (rrb : BitVec 4) (ln : Lane) (q : PReg) (n : Nat) (hn : n ≤ 8) :
    ((List.range n).foldl (fun ln i => ln.setPred rrb (BitVec.ofNat 4 (8 + i)) (i == 0)) ln).pred rrb q =
      if 8 ≤ q.toNat ∧ q.toNat < 8 + n then decide (q = 8) else ln.pred rrb q := by
  induction n with
  | zero => rw [if_neg (by omega)]; rfl
  | succ n ih =>
    have hp : (BitVec.ofNat 4 (8 + n)).toNat = 8 + n := by rw [BitVec.toNat_ofNat, Nat.mod_eq_of_lt (by omega)]
    have h0 : BitVec.ofNat 4 (8 + n) ≠ 0 := fun h => by rw [h] at hp; exact absurd hp (by simp; omega)
    rw [List.range_succ, List.foldl_append, List.foldl_cons, List.foldl_nil, Lane.pred_setPred h0, ih (by omega)]
    by_cases hq : q = BitVec.ofNat 4 (8 + n)
    · have hqn : q.toNat = 8 + n := hq ▸ hp
      rw [if_pos hq, if_pos (by omega), Bool.eq_iff_iff, beq_iff_eq, decide_eq_true_iff, ← BitVec.toNat_inj, hqn]
      simp
    · have hqn : q.toNat ≠ 8 + n := fun h => hq (BitVec.eq_of_toNat_eq (h.trans hp.symm))
      rw [if_neg hq]
      by_cases hc : 8 ≤ q.toNat ∧ q.toNat < 8 + n
      · rw [if_pos hc, if_pos (by omega)]
      · rw [if_neg hc, if_neg (by omega)]

/-- After the stages start, `p8` is 1 and `p9`-`p15` are 0. -/
theorem startStages_pred (a : Agent) (rrb : BitVec 4) {l : Nat} (q : PReg) (h : l < a.lanes.length) :
    ((a.startStages rrb).lane l).pred rrb q = if q.toNat < 8 then (a.lane l).pred rrb q else decide (q = 8) := by
  have hl : (a.startStages rrb).lane l =
      (List.range 8).foldl (fun ln i => ln.setPred rrb (BitVec.ofNat 4 (8 + i)) (i == 0)) (a.lane l) := by
    simp only [Agent.startStages, Agent.lane, List.getD_eq_getElem?_getD, List.getElem?_map, List.getElem?_eq_getElem h,
      Option.map_some, Option.getD_some]
  have hq := q.isLt
  rw [hl, pred_foldl_setPred rrb _ q 8 (Nat.le_refl _)]
  by_cases h8 : q.toNat < 8
  · rw [if_neg (by omega), if_pos h8]
  · rw [if_pos (by omega), if_neg h8]

@[simp] theorem Agent.setLoops_lanes (a : Agent) (act : Bool) (rrb : BitVec 4) (ls : List Loop) :
    (a.setLoops act rrb ls).lanes = a.lanes := by cases act <;> rfl

end Sys2Proof.Machine

namespace Sys2Proof.Laws

open Sys2Proof.Machine Sys2Proof.Terms

/-! ### Loops begin -/

/-- The level that `LOOP` and `LOOPR` push; `stages` is 0 for `LOOP`. -/
def newLevel (c : Ctx) (stop : DWord) (stages : Nat) (k : Word) : Loop :=
  ⟨c.npc, stop, false, BitVec.ofNat 4 stages, BitVec.ofNat 40 (if stages = 0 then k.toNat else k.toNat + stages - 1)⟩

/-- What `LOOP` and `LOOPR` do once the operand is there. -/
theorem loopExec_of_ready {n : Src} {s : State} {c : Ctx} (hr : s.ready c (Mask.lowest c.act) [n.w1] [] [] = .ok) (off : BitVec 16)
    (stages : Nat) : loopExec n off stages c (atIssue s c) =
      let k := lo32 (c.value (Mask.lowest c.act) n.w1)
      let stop := c.p.pc + 4 * off.setWidth 64
      if 4 ≤ (c.a.loopsOf c.p.act).length then (atIssue s c).faultAll c 0x10 0
      else if stop.toNat ≤ c.npc.toNat || (match c.a.curLoop c.p.act with
          | some x => decide (x.stop.toNat < stop.toNat)
          | none => false) then (atIssue s c).faultAll c 0x11 0
      else if c.a.diverged c.p.act then (atIssue s c).faultAll c 0x1C 0
      else
        let s := (atIssue s c).consumeOps c (Mask.lowest c.act) [n.w1]
        if k = 0 then s.jump c stop
        else (s.updAgent c.uid fun a =>
          let a := a.setLoops c.p.act (a.rrbOf c.p.act) (newLevel c stop stages k :: a.loopsOf c.p.act)
          if stages = 0 then a else a.startStages (a.rrbOf c.p.act)).jump c c.npc := by
  have hr' : (atIssue s c).ready c (Mask.lowest c.act) [n.w1] [] [] = .ok := by rw [atIssue, ready_noteIssue, hr]
  simp only [loopExec, hr']
  rfl

/-- Settles O27: both forms are `loopExec`, whose branches the statement lists. -/
theorem loopsBegin : Obligations.LoopsBegin := by
  intro n off st s c k stop hr hk hstop
  refine ⟨fun e he hb => ?_, fun a rrb l q h => startStages_pred a rrb q h⟩
  have hx : exec e.1 s = .next (loopExec n off e.2.1 c (atIssue s c)) ∧
      e.2.2 = if e.2.1 = 0 then k.toNat else k.toNat + e.2.1 - 1 := by
    simp only [List.mem_cons, List.not_mem_nil, or_false] at he
    obtain rfl | rfl := he
    · exact ⟨issueBranch_of_branches hb (loopExec n off 0), rfl⟩
    · exact ⟨issueBranch_of_branches hb (loopExec n off (st.toNat + 1)), rfl⟩
  obtain ⟨hx, hrem⟩ := hx
  rw [hx, loopExec_of_ready hr off e.2.1]
  simp only [← hk, ← hstop]
  refine ⟨fun h4 => ?_, fun h4 hle => ?_, fun lp h4 hlp hlt => ?_, fun h4 hlt hin => ⟨fun hd => ?_, fun hd => ⟨fun h0 => ?_, fun h0 => ?_⟩⟩⟩
  · rw [if_pos h4]
  · rw [if_neg (by omega), if_pos (by simp [hle])]
  · rw [if_neg (by omega), if_pos (by simp [hlp, hlt])]
  all_goals
    have hc : ¬(stop.toNat ≤ c.npc.toNat || (match c.a.curLoop c.p.act with
        | some x => decide (x.stop.toNat < stop.toNat)
        | none => false)) = true := by
      cases hcur : c.a.curLoop c.p.act with
      | none => simpa using hlt
      | some lp => have := hin lp hcur; simp; omega
  · rw [if_neg (by omega), if_neg hc, if_pos hd]
  · rw [if_neg (by omega), if_neg hc, if_neg (by simp [hd]), if_pos h0]
  · rw [if_neg (by omega), if_neg hc, if_neg (by simp [hd]), if_neg h0, newLevel, ← hrem]

/-! ### Loops end -/

theorem curLoop_of_frozen {a : Agent} {act : Bool} (h : ∀ l ∈ a.loopsOf act, l.frz = true) : a.curLoop act = none := by
  rw [Agent.curLoop, List.find?_eq_none]
  intro l hl
  simp [h l hl]

theorem exec_brk {s : State} {c : Ctx} (hb : Branches .brk Guard.always s c) : exec .brk s = .next (
    match c.a.curLoop c.p.act with
    | none => (atIssue s c).faultAll c 0x11 0
    | some lp => (atIssue s c).leaveLoop c lp c.p.mask) :=
  (execBrk.eq_1 s).trans (issueBranch_of_branches hb _)

theorem exec_brkd {g : Guard} {off : BitVec 16} {s : State} {c : Ctx} (hb : Branches (.brkd g off) g s c) :
    exec (.brkd g off) s = .next (
      match c.a.curLoop c.p.act with
      | none => (atIssue s c).faultAll c 0x11 0
      | some lp => if c.rel off = lp.stop then (atIssue s c).leaveLoop c lp (c.guarded g) else (atIssue s c).faultAll c 0x11 0) :=
  (execBrkd.eq_1 g off s).trans (issueBranch_of_branches hb _)

/-- Settles O28: both forms are `leaveLoop` for some lanes. -/
theorem loopsEnd : Obligations.LoopsEnd := by
  refine ⟨fun g off s c hf => ⟨fun hb => ?_, fun hb => ?_⟩, fun g off s c lp hlp => ⟨fun e he hb hstop => ?_, fun hb hne => ?_⟩⟩
  · rw [exec_brk hb, curLoop_of_frozen hf]
  · rw [exec_brkd hb, curLoop_of_frozen hf]
  · have hx : exec e.1 s = .next ((atIssue s c).leaveLoop c lp e.2.2) := by
      simp only [List.mem_cons, List.not_mem_nil, or_false] at he
      obtain rfl | rfl := he
      · rw [exec_brk hb, hlp]
      · have hs : c.rel off = lp.stop := hstop.resolve_left (by simp)
        rw [exec_brkd hb, hlp]
        simp only [if_pos hs]
        rfl
    rw [hx]
    refine ⟨fun h0 hk => ?_, fun h0 hw => ?_, fun h0 hw hall => ?_, fun h0 hw hsome hk hroom => ?_⟩
    · rw [State.leaveLoop, if_pos h0, fallThrough_of_not_clash hk]
    · simp only [State.leaveLoop, if_neg h0, hw, Bool.not_false, if_true]
    · simp only [State.leaveLoop, if_neg h0, hw, Bool.not_true, Bool.false_eq_true, if_false, if_pos hall]
    · have hk' : (c.a.atEnd c.p.act c.npc && c.a.diverged c.p.act) = false := hk
      simp only [State.leaveLoop, if_neg h0, hw, Bool.not_true, Bool.false_eq_true, if_false, if_neg hsome, hk', if_neg hroom]
  · have hs : c.rel off ≠ lp.stop := hne
    rw [exec_brkd hb, hlp]
    simp only [if_neg hs]

/-! ### Loop images -/

/-- Settles O29: `LSAVE` and `LREST` act once for the unit, and the image of a loop state is read back. -/
theorem loopImages : Obligations.LoopImages := by
  intro g lease m
  refine ⟨performsOnce fun s => ?_, performsOnce fun s => ?_, fun ls rrb ps hn hs => loopOfImage_loopImage hn hs rrb ps⟩
  · rfl
  · show execLrest g lease m s = _
    unfold execLrest
    simp only [Agent.setLoops_lanes]
    rfl

end Sys2Proof.Laws
end

section
/-! Synchronising forms, control registers, waits, gang calls and the ends of lanes (04_cluster_store.md R81-R83, 06_registers.md R116,
15_travellers.md R334-R341, 17_isa_control.md R380-R388). -/

namespace Sys2Proof.Laws

open Sys2Proof.Machine Sys2Proof.Terms

/-- Settles O31: each form is `parkExec` of an attempt, by the width of its word. -/
theorem syncFormsComplete : Obligations.SyncFormsComplete := by
  intro g w64 acq rel d v m n hn
  subst hn
  refine ⟨?_, ?_, ?_, ?_⟩
  · cases w64 <;> exact parks fun _ => rfl
  · cases w64 <;> exact parks fun _ => rfl
  · cases w64 <;> exact parks fun _ => rfl
  · exact parks fun _ => rfl

/-! ### Control registers -/

/-- Noting an issue changes launches and units only. -/
theorem atIssue_eq (s : State) (c : Ctx) : ∃ ls as, atIssue s c = { s with launches := ls, agents := as } := by
  unfold atIssue State.noteIssue
  dsimp only
  split
  · exact ⟨_, _, rfl⟩
  · exact ⟨_, _, rfl⟩

/-- An instruction without operands reads nothing that it could wait for. -/
theorem reads_nil (s : State) (c : Ctx) : Reads s c [] [] [] := by
  intro l _
  simp [State.ready, Lane.tokensOf]

/-- A register instruction whose lanes fault in nothing and raise no flag. -/
theorem laneExec_plain {s : State} {c : Ctx} {os : List Opnd} {ps : List PReg} {ds : List GReg}
    (f : Ctx → List (Nat × LaneIn) → Nat → LaneIn → LaneOut) (out : Nat → LaneOut) (hk : c.clash = false)
    (hr : Reads s c os ps ds) (ha : ∀ l, answer c os ps f l = out l) (hf : ∀ l, (out l).fault = none) (hz : ∀ l, (out l).flags = 0) :
    laneExec os ps ds f c (atIssue s c) = (ran s c os out).complete c := by
  rw [laneExec_spec f hk hr fun l _ => by rw [ha, hf, hz]; exact ⟨rfl, flagCause_zero _⟩, funext ha]

/-- `MFC` where `SCRATCH` stands in no way. -/
theorem exec_mfc {g : Guard} {idx : BitVec 12} {d : MfcDst} {s : State} {c : Ctx} (hi : Issues (.mfc g idx d) g s c)
    (hs : idx = 0x105 → s.sregBusy c.uid true 31 = false ∧ c.a.sBad.getLsbD 32 = false) :
    exec (.mfc g idx d) s = .next (
      match d with
      | .pair d => laneExec [] [] [d, d + 1] (fun c _ l _ => out2 d (s.creg c.a c.p.act l idx.toNat)) c (atIssue s c)
      | .word d => laneExec [] [] [d] (fun c _ l _ => out1 d (lo32 (s.creg c.a c.p.act l idx.toNat))) c (atIssue s c)
      | .uni d => busyExec (fun c s => s.sregBusy c.uid c.p.act d) [] false (laneExec [] [] [] (fun c tbl l _ =>
          if tbl.head?.map (·.1) = some l then { uni := some (d, s.creg c.a c.p.act l idx.toNat) } else {})) c (atIssue s c)) := by
  have hb : ¬(idx = 0x105 ∧ (atIssue s c).sregBusy c.uid true 31 = true) := fun h => by
    rw [atIssue, sregBusy_noteIssue, (hs h.1).1] at h
    exact Bool.false_ne_true h.2
  have hp : ¬(idx = 0x105 ∧ c.a.sBad.getLsbD 32 = true) := fun h => by
    rw [(hs h.1).2] at h
    exact Bool.false_ne_true h.2
  show execMfc g idx d s = _
  unfold execMfc
  rw [issue_of_issues hi]
  simp only [if_neg hb, if_neg hp]
  cases d <;> rfl

/-- Settles O32: `MFC` is a register instruction, `MTC` one that meets the device, `ROLE` an update of the unit. -/
theorem controlRegisterForms : Obligations.ControlRegisterForms := by
  intro g idx d u w32 a r
  refine ⟨fun s c => ⟨?_, ?_, ?_, ?_⟩, ?_, fun s c hi => ?_, fun s x p b hf hw => ?_⟩
  · intro hi hs hr
    rw [exec_mfc hi hs]
    exact congrArg _ (laneExec_plain _ _ hi.together hr (fun _ => rfl) (fun _ => rfl) fun _ => rfl)
  · intro hi hs hr
    rw [exec_mfc hi hs]
    exact congrArg _ (laneExec_plain _ _ hi.together hr (fun _ => rfl) (fun _ => rfl) fun _ => rfl)
  · intro hi hs hb
    have hb' : (atIssue s c).sregBusy c.uid c.p.act u = false := (sregBusy_noteIssue ..).trans hb
    rw [exec_mfc hi hs]
    refine congrArg _ ((busyExec_of_free hb' ..).trans (laneExec_plain _ _ hi.together (reads_nil s c) (fun l => ?_) (fun l => ?_) fun l => ?_))
    · simp [answer, table, Function.comp_def]
    · split <;> rfl
    · split <;> rfl
  · intro k hi hb hbad hgone
    have hb' : (atIssue s c).sregBusy c.uid true 31 = false := (sregBusy_noteIssue ..).trans hb
    rw [show exec (.mfc g 0x105 k) s = execMfc g 0x105 k s from rfl, execMfc, issue_of_issues hi]
    rw [if_neg (by rw [hb']; simp), if_pos ⟨rfl, hbad⟩, hgone]
    rfl
  · refine performs fun s => ?_
    show execMtc g w32 idx a s = _
    unfold execMtc
    rfl
  · rw [show exec (.role g r) s = execRole g r s from rfl, execRole, issue_of_issues hi, completeWith_of_not_clash hi.together]
  · have hc : preCheck x p (.role g r) = some 0x03 := by
      have hu : uses (.role g r) = [] := rfl
      have ho : wideOnly (.role g r) = true := rfl
      simp [preCheck, hu, ho, hw]
    rw [show exec (.role g r) s = execRole g r s from rfl, execRole, issue_of_preCheck hf hc]
    rfl

/-! ### Waits -/

/-- Settles O33: by where the timeline, or the tile instructions of the unit, stand. -/
theorem waitsComplete : Obligations.WaitsComplete := by
  intro g cls n s c os v hos hv
  refine ⟨fun hi hr => ?_, fun hi ho mine hm hb => ?_, fun hi ho hb => ?_⟩
  · have hr' : (atIssue s c).ready c (Mask.lowest c.act) os [] [] = .ok := by rw [atIssue, ready_noteIssue, hr]
    have hx : exec (.waitt g cls n) s = .next (
        let s := atIssue s c
        let l := Mask.lowest c.act
        if c.a.issued[Fin.ofNat 4 cls.toNat].toNat < v.toNat then s.faultAll c 0x58 0
        else if c.a.tl[Fin.ofNat 4 cls.toNat].toNat < v.toNat then
          if c.a.kind == .codelet then s.faultAll c 0x18 0 else s.waitFor c .waitt
        else
          match c.a.dueAt fun d => d.cls == cls.toNat && decide (d.num.toNat ≤ v.toNat) with
          | none => s.completeWith c fun s => (s.consumeOps c l os).liftPath c.uid l (c.a.timeUpTo cls.toNat v)
          | some d => let f := dueLFault l d; s.faultAll c f.cause f.tval 0 f.due) := by
      subst hos hv
      show execWaitt g cls n s = _
      unfold execWaitt
      rw [issue_of_issues hi]
      cases n <;> (dsimp only at hr' ⊢; simp only [hr'] <;> rfl)
    rw [hx]
    refine ⟨fun h => by simp only [if_pos h], fun h1 h2 h3 => ?_, fun h1 h2 d f h3 hf => ?_⟩
    · simp only [if_neg (Nat.not_lt.mpr h1), if_neg (Nat.not_lt.mpr h2), h3, completeWith_of_not_clash hi.together]
    · simp only [if_neg (Nat.not_lt.mpr h1), if_neg (Nat.not_lt.mpr h2), h3, hf]
  · have ho' : (atIssue s c).tilesOpen c.uid = false := by obtain ⟨ls, as, h⟩ := atIssue_eq s c; rw [h]; exact ho
    have hm' : (atIssue s c).mdone = s.mdone := by obtain ⟨ls, as, h⟩ := atIssue_eq s c; rw [h]
    have hb' : (s.mdone.any fun d => d.uid == c.uid && d.bad) = false := by
      rw [← hb, hm, List.any_filter]
    rw [show exec (.twait g) s = execTwait g s from rfl, execTwait, issue_of_issues hi]
    simp only [ho', hm', hb', Bool.false_eq_true, if_false, completeWith_of_not_clash hi.together]
  · have ho' : (atIssue s c).tilesOpen c.uid = false := by obtain ⟨ls, as, h⟩ := atIssue_eq s c; rw [h]; exact ho
    have hm' : (atIssue s c).mdone = s.mdone := by obtain ⟨ls, as, h⟩ := atIssue_eq s c; rw [h]
    have hb' : (s.mdone.any fun d => d.uid == c.uid && d.bad) = true := by
      obtain ⟨d, hd, hu, hbad⟩ := hb
      exact List.any_eq_true.mpr ⟨d, hd, by simp [hu, hbad]⟩
    rw [show exec (.twait g) s = execTwait g s from rfl, execTwait, issue_of_issues hi]
    simp only [ho', hm', hb', Bool.false_eq_true, if_false, if_true]

/-! ### Gang calls -/

theorem mem_distinct {ts : List (Nat × DWord)} {v : DWord} (h : ∃ x ∈ ts, x.2 = v) : v ∈ distinct ts := by
  suffices H : ∀ (ts : List (Nat × DWord)) (r : List DWord), (v ∈ r ∨ ∃ x ∈ ts, x.2 = v) →
      v ∈ ts.foldl (fun r x => if r.contains x.2 then r else r ++ [x.2]) r from H ts [] (.inr h)
  intro ts
  induction ts with
  | nil =>
    rintro r (h | ⟨x, hx, -⟩)
    · exact h
    · cases hx
  | cons y ts ih =>
    intro r h
    apply ih
    obtain h | ⟨x, hx, rfl⟩ := h
    · left; dsimp only; split <;> simp [h]
    · obtain rfl | hx := List.mem_cons.mp hx
      · left
        dsimp only
        split
        · next hc => simpa using hc
        · simp
      · exact .inr ⟨x, hx, rfl⟩

theorem distinct_of_same {ts : List (Nat × DWord)} {v : DWord} (h : ∀ x ∈ ts, x.2 = v) : (distinct ts).length ≤ 1 := by
  suffices H : ∀ (ts : List (Nat × DWord)) (r : List DWord), (∀ x ∈ ts, x.2 = v) → r = [] ∨ r = [v] →
      (ts.foldl (fun r x => if r.contains x.2 then r else r ++ [x.2]) r).length ≤ 1 from H ts [] h (.inl rfl)
  intro ts
  induction ts with
  | nil => rintro r - (rfl | rfl) <;> simp
  | cons y ts ih =>
    intro r h hr
    refine ih _ (fun x hx => h x (List.mem_cons_of_mem _ hx)) ?_
    have hy := h y (List.mem_cons_self ..)
    obtain rfl | rfl := hr <;> simp [hy]

theorem distinct_of_different {ts : List (Nat × DWord)} {v w : DWord} (hv : ∃ x ∈ ts, x.2 = v) (hw : ∃ x ∈ ts, x.2 = w) (h : v ≠ w) :
    1 < (distinct ts).length := by
  have h1 := mem_distinct hv
  have h2 := mem_distinct hw
  match hd : distinct ts with
  | [] => rw [hd] at h1; exact absurd h1 (by simp)
  | [x] => rw [hd, List.mem_singleton] at h1 h2; exact absurd (h1.trans h2.symm) h
  | _ :: _ :: _ => simp

/-- A gang call whose lanes' operands are readable and whose descriptors do not stop it. -/
theorem gangExec_of_reads {same : Bool} {a b : Src} {s : State} {c : Ctx} (hk : c.a.kind ≠ .codelet) (hr : Reads s c [a.w2, b.w1] [] [])
    (hs : same = true → ∀ l ∈ Mask.list c.act, c.value l a.w2 = c.value (Mask.lowest c.act) a.w2) :
    gangExec same a b c (atIssue s c) =
      (parkExec (fun s => if s.roomWaits.any (·.caller.uid == c.uid) then .room else .inn) [a.w2, b.w1] []
        (fun c s l x => s.callCheck c l (x.v 0) (x.w 1)) (fun c s l r => s.park c [a.w2, b.w1] l r) c (atIssue s c)).noteRooms
          c.cluster := by
  have hone : same = true → ¬1 < (distinct ((Mask.list c.act).map fun l => (l, c.value l a.w2))).length := fun h => by
    refine Nat.not_lt.mpr (distinct_of_same (v := c.value (Mask.lowest c.act) a.w2) fun x hx => ?_)
    obtain ⟨l, hl, rfl⟩ := List.mem_map.mp hx
    exact hs h l hl
  have hcond : ¬(same && (c.p.done ||| c.p.parked) == 0 && Option.isNone (none : Option WaitKind) &&
      decide (1 < (distinct ((Mask.list c.act).map fun l => (l, c.value l a.w2))).length)) = true := by
    cases same with
    | false => simp
    | true => simp [hone rfl]
  unfold gangExec
  simp only [stand_of_reads hr, filter_all_nil]
  rw [if_neg (by simpa using hk), if_neg hcond]

/-- Settles O34: lanes of one descriptor park; of different descriptors they take cause 0x1B. -/
theorem gangCallsPark : Obligations.GangCallsPark := by
  intro g a b
  refine ⟨fun e he s c t bs hi hd hp hk hr hs hc u hu hn => ?_, fun s c hi hk hd hp hr hdiff => ?_⟩
  · have hx : exec e.1 s = .next (gangExec e.2 a b c (atIssue s c)) := by
      simp only [List.mem_cons, List.not_mem_nil, or_false] at he
      obtain rfl | rfl := he
      · exact issue_of_issues hi (gangExec true a b)
      · exact issue_of_issues hi (gangExec false a b)
    rw [hx, gangExec_of_reads hk hr hs, parkExec_spec _ _ _ hi.together hi.some hd hp hr hc, ← hu, hn]
    rfl
  · obtain ⟨l, hl, k, hk', hne⟩ := hdiff
    have hmany := distinct_of_different (ts := (Mask.list c.act).map fun l => (l, c.value l a.w2))
      ⟨_, List.mem_map_of_mem hl, rfl⟩ ⟨_, List.mem_map_of_mem hk', rfl⟩ hne
    rw [show exec (.gcall g a b) s = execGcall g a b s from rfl, execGcall, issue_of_runs hi]
    unfold gangExec
    simp only [stand_of_reads hr, filter_all_nil]
    rw [if_neg (by simpa using hk), if_pos (by rw [hd, hp]; simpa using hmany)]
    rfl

/-! ### The ends of lanes -/

/-- An instruction whose meaning ends its lanes. -/
theorem ends {i : Instr} {g : Guard} {more : Ctx → Prop} {check : Ctx → State → Nat → State × Chk Unit}
    {perform : Ctx → State → Nat → State}
    (h : ∀ s c, Runs i g s c → more c → exec i s = .next (endExec check perform c (atIssue s c))) :
    Ends i g more check perform (fun _ s => s) := by
  intro s c t bs hi hm hk hc
  rw [h s c hi hm, endExec_spec check perform hk hc]

/-- Settles O35: by the kind of the unit. -/
theorem lanesEnd : Obligations.LanesEnd := by
  intro g
  refine ⟨ends fun s c hi hm => ?_, ends fun s c hi hm => ?_, fun s c hi h1 h2 => ?_, ends fun s c hi hm => ?_, fun s c hi hk => ?_⟩
  · obtain ⟨hk, ha⟩ := hm
    rw [show exec (.retg g) s = execRetg g s from rfl, execRetg, issue_of_runs hi]
    simp only [hk, ha]
    rfl
  · obtain ⟨hk, ha⟩ := hm
    rw [show exec (.retg g) s = execRetg g s from rfl, execRetg, issue_of_runs hi]
    simp only [hk, ha]
    rfl
  · rw [show exec (.retg g) s = execRetg g s from rfl, execRetg, issue_of_runs hi]
    simp [h1, h2]
  · obtain ⟨hk, ha⟩ := hm
    rw [show exec .taskend s = execTaskend s from rfl, execTaskend, issue_of_runs hi]
    rw [if_neg (by simpa using hk), ha]
    simp only [Bool.false_and, Bool.false_eq_true, if_false]
    split <;> rfl
  · rw [show exec .taskend s = execTaskend s from rfl, execTaskend, issue_of_runs hi]
    simp [hk]

end Sys2Proof.Laws
end

section
/-! Moves and tasks (15_travellers.md R342-R345, 17_isa_control.md R372-R383). -/

namespace Sys2Proof.Laws

open Sys2Proof.Machine Sys2Proof.Terms

/-- A check that goes on after another passes where both pass. -/
theorem chkThen_eq_ok {α β : Type} {r : State × Chk α} {f : State → α → State × Chk β} {t : State} {b : β}
    (h : chkThen r f = (t, .ok b)) : ∃ s x, r = (s, .ok x) ∧ f s x = (t, .ok b) := by
  obtain ⟨s, _ | _ | _ | _⟩ := r
  · exact ⟨s, _, rfl, h⟩
  all_goals exact nomatch (Prod.mk.inj h).2

/-! ### Moves -/

theorem exec_migrate {g : Guard} {a : Src} {s : State} {c : Ctx} (hk : c.a.kind ≠ .codelet) (hi : Issues (.migrate g a) g s c) :
    exec (.migrate g a) s = .next (memExec [a.w1] [] []
      (fun c s l x => chkThen (s.moveCheck c l) fun s _ => s.destCheck c (x.w 0).toNat)
      (fun c s _ d => if d = c.cluster then s else s.ship c d false none) c (atIssue s c)) := by
  rw [show exec (.migrate g a) s = execMigrate g a s from rfl, execMigrate, issue_of_issues hi, if_neg (by simpa using hk)]

theorem exec_rethome {g : Guard} {s : State} {c : Ctx} (hk : c.a.kind ≠ .codelet) (hi : Issues (.rethome g) g s c) :
    exec (.rethome g) s = .next (memExec [] [] []
      (fun c s l _ => chkThen (s.moveCheck c l) fun s _ => s.homeCheck c)
      (fun c s _ d => if c.a.place = c.a.home then s else s.ship c d true none) c (atIssue s c)) := by
  rw [show exec (.rethome g) s = execRethome g s from rfl, execRethome, issue_of_issues hi, if_neg (by simpa using hk)]

theorem destCheck_of_mask {s : State} {c : Ctx} {d : Nat} (hd : d < 64) (h : d = c.cluster ∨ (s.job c.a.job).clmask.getLsbD d = true) :
    s.destCheck c d = (s, .ok d) := by
  unfold State.destCheck State.maskCheck
  by_cases hc : d = c.cluster
  · rw [if_pos hc]
  · rw [if_neg hc, if_pos ⟨hd, h.resolve_left hc⟩]

/-- The check of `ROUTE` in a lane that passes every part of it. -/
theorem routeCheck_of_parts {s s1 s2 : State} {c : Ctx} {l d : Nat} {e tok : Word} {v : List Byte} (he : e.toNat < 1024)
    (hp : s.heldPeek c l 4 (s.routeVa c e) 4 (some 0) = (s1, .ok v)) (hv : (wordAt v 0).getLsbD 31 = true)
    (hr : routeReserved (wordAt v 0) = false) (hm : s1.moveCheck c l = (s2, .ok ())) (hd : s2.destCheck c (routeDest (wordAt v 0) e tok) = (s2, .ok d)) :
    (if 1024 ≤ e.toNat then (s, .fault 0x75 (e.setWidth 64) 0)
      else chkThen (s.heldPeek c l 4 (s.routeVa c e) 4 (some 0)) fun s bs =>
        let v := wordAt bs 0
        if v.getLsbD 31 = false ∨ routeReserved v then (s.dropHeld c.uid (laneBit l), Chk.fault 0x75 (e.setWidth 64) 0)
        else
          match chkThen (s.moveCheck c l) fun s _ => s.destCheck c (routeDest v e tok) with
          | (s, .ok d) => (s.dropHeld c.uid (laneBit l), .ok (d, e.toNat))
          | (s, .wait k) => (s, .wait k)
          | (s, r) => (s.dropHeld c.uid (laneBit l), execRoute.chkMap r)) =
    (s2.dropHeld c.uid (laneBit l), .ok (d, e.toNat)) := by
  rw [if_neg (by omega), hp]
  simp only [chkThen, hv, hr, hm, hd, Bool.true_eq_false, Bool.false_eq_true, or_self, if_false]

/-- Settles O36. -/
theorem movesComplete : Obligations.MovesComplete := by
  intro g a b lease off
  refine ⟨fun s c t bs hk => ⟨fun hi hr hp => ?_, fun hi hp => ?_⟩, fun s c hk e he hi => ?_, ?_, performs fun _ => rfl, ?_⟩
  · rw [exec_migrate hk hi, memExec_spec _ _ hi.together hr hp]
  · rw [exec_rethome hk hi, memExec_spec _ _ hi.together (reads_nil s c) hp]
  · simp only [List.mem_cons, List.not_mem_nil, or_false] at he
    obtain rfl | rfl | rfl := he
    · rw [show exec (.migrate g a) s = execMigrate g a s from rfl, execMigrate, issue_of_runs hi, if_pos (by simpa using hk)]
    · rw [show exec (.route g a b) s = execRoute g a b s from rfl, execRoute, issue_of_runs hi, if_pos (by simpa using hk)]
    · rw [show exec (.rethome g) s = execRethome g s from rfl, execRethome, issue_of_runs hi, if_pos (by simpa using hk)]
  · intro s t c l e d hi hk hl hr he hlt v s1 s2 hp hv hres hm hd hd64 hmask ht
    rw [show exec (.route g a b) s = execRoute g a b s from rfl, execRoute, issue_of_issues hi, if_neg (by simpa using hk),
      memExec_spec (t := s2.dropHeld c.uid (laneBit l)) (bs := [(l, (d, e.toNat))]) _ _ hi.together hr]
    · rw [ht]; rfl
    · subst he hd
      rw [hl]
      exact ⟨_, _, [], routeCheck_of_parts hlt hp hv hres hm (destCheck_of_mask hd64 hmask), ⟨rfl, rfl⟩, rfl⟩
  · intro s t c va o n hi hd hp hr hva hc
    have hr' : (atIssue s c).ready c (Mask.lowest c.act) [a.w2] [] [] = .ok := by rw [atIssue, ready_noteIssue, hr]
    have hea : eaOf (c.value (Mask.lowest c.act) a.w2) off = va := hva.symm
    rw [show exec (.rcsnap g lease a off) s = execRcsnap g lease a off s from rfl, execRcsnap, issue_of_issues hi]
    dsimp only
    rw [if_neg (by simp [hd]), if_neg (by simp [hp]), hr']
    dsimp only
    rw [hea, hc]
    dsimp only
    rw [if_neg (by simp [hi.together])]
    rfl

/-! ### Tasks -/

theorem exec_cancel {g : Guard} {level : Level} {s : State} {c : Ctx} {la la' : Launch} (hi : Issues (.cancel g level) g s c)
    (hl : level = .phase → c.a.levelids.getLsbD 49 = true)
    (hf : ((atIssue s c).launches.find? fun l => some l.id == c.a.launch) = some la')
    (hid : la'.id = la.id) (hg : la'.graph = la.graph) (hp : la'.phase = la.phase) :
    exec (.cancel g level) s = .next ((match level with
        | .job => (atIssue s c).cancelJob c.a.job
        | .launch => (atIssue s c).cancelLaunch la.id
        | .graph => (match la.graph with
            | some x => (atIssue s c).cancelGraph x.1
            | none => (atIssue s c).cancelLaunch la.id)
        | .phase => (match la.phase with | some p => (atIssue s c).cancelPhase p | none => atIssue s c)).tidy.complete c) := by
  rw [show exec (.cancel g level) s = execCancel g level s from rfl, execCancel, issue_of_issues hi]
  dsimp only
  rw [if_neg (fun h => Bool.false_ne_true (h.2.symm.trans (hl h.1))), if_neg (by simp [hi.together]), hf]
  cases level
  case launch => exact congrArg (fun x => Host.Outcome.next ((((atIssue s c).cancelLaunch x).tidy).complete c)) hid
  case graph =>
    dsimp only
    rw [hg, hid] <;> cases la.graph <;> rfl
  case phase =>
    dsimp only
    rw [hp] <;> cases la.phase <;> rfl
  case job => rfl

/-- The launch that a state holds for a unit is the same after an issue, but for its notes of quiescence. -/
theorem find_launch_atIssue {s : State} {c : Ctx} {q : Nat → Bool} {la : Launch} (h : (s.launches.find? fun l => q l.id) = some la) :
    ∃ la', ((atIssue s c).launches.find? fun l => q l.id) = some la' ∧ la'.id = la.id ∧ la'.graph = la.graph ∧ la'.phase = la.phase := by
  unfold atIssue State.noteIssue
  dsimp only
  split
  · exact ⟨la, h, rfl, rfl, rfl⟩
  · dsimp only
    rw [List.find?_map]
    have hq : ((fun l : Launch => q l.id) ∘ fun l : Launch =>
        if (s.agent? c.a.uid).bind Agent.unitOf = some l.id then { l with quietSince := none, reported := false } else l) =
        fun l => q l.id := by
      funext l
      dsimp only [Function.comp_apply]
      split <;> rfl
    rw [hq, h]
    dsimp only [Option.map]
    refine ⟨_, rfl, ?_⟩
    split <;> exact ⟨rfl, rfl, rfl⟩

theorem atIssue_pendings (s : State) (c : Ctx) : (atIssue s c).pendings = s.pendings := by
  obtain ⟨ls, as, h⟩ := atIssue_eq s c; rw [h]

theorem atIssue_counterOf (s : State) (c : Ctx) (job num : Nat) : (atIssue s c).counterOf job num = s.counterOf job num := by
  obtain ⟨ls, as, h⟩ := atIssue_eq s c; rw [h]; rfl

/-- `CNTW` fills its destinations at once where no lane of its unit waits for a producer and the counter has come. -/
theorem exec_cntw {g : Guard} {d : GReg} {a b : Src} {s : State} {c : Ctx} {n : Counter} (hi : Issues (.cntw g d a b) g s c)
    (hr : s.ready c (Mask.lowest c.act) [a.w1, b.w1] [] [d] = .ok)
    (hpend : ∀ l ∈ Mask.list c.act, (c.a.lane l).pend.getLsbD (physG c.rrb d).val = false)
    (hno : ∀ p ∈ s.pendings, p.uid ≠ c.uid)
    (hn : s.counterOf c.a.job (lo32 (c.value (Mask.lowest c.act) a.w1)).toNat = some n)
    (hge : (lo32 (c.value (Mask.lowest c.act) b.w1)).toNat ≤ n.count.toNat) :
    exec (.cntw g d a b) s = .next ((((Mask.list c.act).foldl (fun s l =>
        s.fillRegs c.uid l [((physG c.rrb d).val, BitVec.ofBool n.cancelled ++ n.count)])
      ((atIssue s c).consumeOps c (Mask.lowest c.act) [a.w1, b.w1])).liftPath c.uid (Mask.lowest c.act) n.time).complete c) := by
  have hr' : (atIssue s c).ready c (Mask.lowest c.act) [a.w1, b.w1] [] [d] = .ok := by rw [atIssue, ready_noteIssue, hr]
  have hmine (r : Pending → Bool) : ∀ p ∈ (atIssue s c).pendings, (p.uid == c.uid && r p) = false := fun p hp => by
    rw [beq_false_of_ne (hno p (atIssue_pendings s c ▸ hp)), Bool.false_and]
  have hwait (r : Pending → Bool) : ((atIssue s c).pendings.any fun p => p.uid == c.uid && r p) = false :=
    List.any_eq_false.mpr fun p hp => by simp [hmine r p hp]
  have hkeep (r : Pending → Bool) : ((atIssue s c).pendings.filter fun p => !(p.uid == c.uid && r p)) = (atIssue s c).pendings :=
    List.filter_eq_self.mpr fun p hp => by simp [hmine r p hp]
  have hfree : ((Mask.list c.act).any fun l => (c.a.lane l).pend.getLsbD (physG c.rrb d).val) = false :=
    List.any_eq_false.mpr fun l hl => by rw [hpend l hl]; exact Bool.false_ne_true
  rw [show exec (.cntw g d a b) s = execCntw g d a b s from rfl, execCntw, issue_of_issues hi]
  simp only [Bool.and_assoc, hwait, hkeep, hr', hfree, atIssue_counterOf, hn, Nat.not_lt.mpr hge, hi.together, Bool.false_eq_true,
    if_false]

/-- What `TASKMK` checks, with the address that its store takes. -/
def taskmkCheck (d : GReg) (count : BitVec 16) (c : Ctx) (s : State) (l : Nat) (x : LaneIn) :
    State × Chk (DWord × List Seg × LaneIn × Bool) :=
  match classify s c.who (x.v 0) with
  | .error e => (s, .fault e (x.v 0) 0)
  | .ok _ =>
    if (x.v 0).toNat % 32 ≠ 0 then (s, .fault 0x24 (x.v 0) 0)
    else chkThen (s.recordCheck c (x.v 0)) fun s segs =>
      if count = 0 then (s, .fault 0x46 0 0)
      else if !targetOk (x.v 1) then (s, .fault 0x05 (x.v 1) 0)
      else chkThen (s.writeCheck c l false .dev segs) fun s segs =>
        (s, .ok (x.v 0, segs, x, (List.range 4).any fun k => c.opndBad l ⟨rd (d + BitVec.ofNat 6 k), 1, true⟩))

theorem taskmkCheck_eq_ok {d : GReg} {count : BitVec 16} {c : Ctx} {s t : State} {l : Nat} {x : LaneIn}
    {r : List Seg × LaneIn × Bool} (hn : count ≠ 0)
    (h : (match classify s c.who (x.v 0) with
      | .error e => (s, .fault e (x.v 0) 0)
      | .ok _ =>
        if (x.v 0).toNat % 32 ≠ 0 then (s, .fault 0x24 (x.v 0) 0)
        else chkThen (s.recordCheck c (x.v 0)) fun s segs =>
          if !targetOk (x.v 1) then (s, .fault 0x05 (x.v 1) 0)
          else chkThen (s.writeCheck c l false .dev segs) fun s segs =>
            (s, .ok (segs, x, (List.range 4).any fun k => c.opndBad l ⟨rd (d + BitVec.ofNat 6 k), 1, true⟩))) = (t, .ok r)) :
    taskmkCheck d count c s l x = (t, .ok (r.2.1.v 0, r)) := by
  unfold taskmkCheck
  revert h
  cases classify s c.who (x.v 0) with
  | error e => exact fun h => nomatch (Prod.mk.inj h).2
  | ok _ =>
    dsimp only
    by_cases ha : (x.v 0).toNat % 32 ≠ 0
    · rw [if_pos ha]
      exact fun h => nomatch (Prod.mk.inj h).2
    · rw [if_neg ha, if_neg ha]
      intro h
      obtain ⟨s1, segs, h1, h⟩ := chkThen_eq_ok h
      by_cases hb : (!targetOk (x.v 1)) = true
      · rw [if_pos hb] at h
        exact nomatch (Prod.mk.inj h).2
      · rw [if_neg hb] at h
        obtain ⟨s2, segs2, h2, h⟩ := chkThen_eq_ok h
        obtain ⟨rfl, h⟩ := Prod.mk.inj h
        cases h
        simp only [h1, chkThen, if_neg hn, if_neg hb, h2]

/-- Settles O37: the cancel acts on the launch that was there before the issue was noted, and `TASKMK` hands its address on beside
what the statement's check gives. -/
theorem tasksComplete : Obligations.TasksComplete := by
  intro g d a b count level
  refine ⟨fun s c hi => ?_, fun x p => ?_, fun s c t bs hi hu hr hp => ?_, fun hn => ?_, fun s c la hi hl hf => ?_,
    fun s c n hi hr hpend hno hn hge => exec_cntw hi hr hpend hno hn hge,
    fun s c hi hk => ⟨fun h => ?_, fun h => ?_, fun t h1 h2 h3 => ?_⟩, fun s c hi => ⟨fun h => ?_, fun h => ?_⟩⟩
  · rw [show exec .innflush s = execInnflush s from rfl, execInnflush, issue_of_issues hi, completeWith_of_not_clash hi.together]
  · have hu : uses .innflush = [] := rfl
    have hw : wideOnly .innflush = false := rfl
    have hb : barrelOnly .innflush = false := rfl
    have hv : privFault p.priv .innflush = false := rfl
    simp only [preCheck, hu, hw, hb, hv, List.any_nil, Bool.and_false, Bool.or_false, Bool.false_eq_true, if_false]
  · have hb : ((List.range 32).any fun r => (atIssue s c).sregBusy c.uid c.p.act (BitVec.ofNat 5 r)) = false :=
      List.any_eq_false.mpr fun r hr => by
        rw [atIssue, sregBusy_noteIssue, hu r (List.mem_range.mp hr)]
        exact Bool.false_ne_true
    show execSpawn g d a b s = _
    rw [execSpawn, issue_of_issues hi, busyExec_of_free hb]
    refine Eq.trans (congrArg Host.Outcome.next (memExec_spec _ _ hi.together hr (t := t) (bs := bs) ?_)) ?_
    · exact hp
    · rfl
  · intro s c t r hi hr hc
    show execTaskmk g count d a b s = _
    rw [execTaskmk, issue_of_issues hi]
    exact congrArg Host.Outcome.next (onceExec_spec (perform := fun c s l (r : DWord × List Seg × LaneIn × Bool) =>
      s.sendStore c l r.2.1 (toBytes 8 (r.2.2.1.v 1).toNat ++ toBytes 4 count.toNat ++ [0, 0, 0, 0]
        ++ (List.range 4).flatMap fun k => toBytes 4 (r.2.2.1.w (2 + k)).toNat) (some 0) false r.2.2.2 r.1)
      hi.together hr (taskmkCheck_eq_ok hn hc))
  · obtain ⟨la', hf', hid, hg, hp⟩ := find_launch_atIssue (q := fun n => some n == c.a.launch) (c := c) hf
    exact exec_cancel hi hl hf' hid hg hp
  · rw [show exec .poll s = execPoll s from rfl, execPoll, issue_of_issues hi]
    simp only [h, Option.isNone_none, Bool.true_or, if_true, completeWith_of_not_clash hi.together, beq_eq_false_iff_ne.mpr hk,
      Bool.false_and, Bool.false_eq_true, if_false, id]
  · rw [show exec .poll s = execPoll s from rfl, execPoll, issue_of_issues hi]
    simp only [h, Bool.not_false, Bool.or_true, if_true, completeWith_of_not_clash hi.together, beq_eq_false_iff_ne.mpr hk,
      Bool.false_and, Bool.false_eq_true, if_false, id]
  · rw [show exec .poll s = execPoll s from rfl, execPoll, issue_of_issues hi]
    simp only [h2, Option.isNone_eq_false_iff.mpr (Option.isSome_iff_ne_none.mpr h1), h3, beq_eq_false_iff_ne.mpr hk, Bool.not_true,
      Bool.or_false, Bool.false_and, Bool.false_eq_true, if_false, Option.getD_some]
  · rw [show exec .yield s = execYield s from rfl, execYield, issue_of_issues hi]
    simp only [hi.together, h, Bool.false_eq_true, if_false]
  · rw [show exec .yield s = execYield s from rfl, execYield, issue_of_issues hi]
    simp only [hi.together, h, Bool.false_eq_true, if_false, if_true]

end Sys2Proof.Laws
end

section
/-! Engine commands and Waymark instructions at issue (05_engines.md R102, 12_waymark.md R268-R288). -/

namespace Sys2Proof.Laws

open Sys2Proof.Machine Sys2Proof.Terms

/-! ### Engine commands -/

/-- Settles O38: every command is `cmdExec` with its class, operands and operation. -/
theorem commandsIssue : Obligations.CommandsIssue := by
  intro g sh q d r a b bar x y mt
  refine ⟨?_, fun s c l cls op u t n hcls ht w hw hn => ?_⟩
  · refine List.forall_mem_cons.2 ⟨performs fun _ => rfl, List.forall_mem_cons.2 ⟨performs fun _ => rfl,
      List.forall_mem_cons.2 ⟨performs fun _ => rfl, List.forall_mem_cons.2 ⟨performs fun _ => rfl,
      List.forall_mem_cons.2 ⟨performs fun _ => rfl, List.forall_mem_cons.2 ⟨performs fun _ => rfl,
      List.forall_mem_cons.2 ⟨performs fun _ => rfl, List.forall_mem_nil _⟩⟩⟩⟩⟩⟩⟩
  · subst hn
    unfold State.issueCmd
    simp only [ht, hw]
    exact ⟨rfl, rfl⟩

/-! ### Waymark instructions in one lane -/

/-- The inputs of a lane are the values of its operands. -/
theorem inputs_w_cons_succ (c : Ctx) (l : Nat) (o : Opnd) (os : List Opnd) (ps : List PReg) (k : Nat) :
    (c.inputs l (o :: os) ps).w (k + 1) = (c.inputs l os ps).w k := rfl

theorem inputs_w_cons_zero (c : Ctx) (l : Nat) (o : Opnd) (os : List Opnd) (ps : List PReg) :
    (c.inputs l (o :: os) ps).w 0 = lo32 (c.value l o) := rfl

theorem inputs_w_map (c : Ctx) (l n : Nat) (f : Nat → Opnd) (ps : List PReg) {k : Nat} (hk : k < n) :
    (c.inputs l ((List.range n).map f) ps).w k = lo32 (c.value l (f k)) := by
  simp [LaneIn.w, LaneIn.v, Ctx.inputs, List.getD, hk]

/-- A Waymark instruction whose one lane passes what may make it wait and acts. -/
theorem exec_wmExec {β : Type} {i : Instr} {g : Guard} {s t u : State} {c : Ctx} {l : Nat} {os : List Opnd} {ds : List GReg} {b : β}
    {prep : Ctx → State → Nat → LaneIn → State × Chk β} {act : Ctx → State → Nat → LaneIn → β → Except (BitVec 8) State}
    (h : exec i s = issue i g s (wmExec os ds prep act)) (hi : Issues i g s c) (hl : Mask.list c.act = [l]) (hr : Reads s c os [] ds)
    (hp : prep c (atIssue s c) l (c.inputs l os []) = (t, .ok b))
    (ha : act c ((t.clearWalkFaults c.uid c.p.mask).consumeOps c l os) l (c.inputs l os []) b = .ok u) :
    exec i s = .next ((u.noteFlight c.uid t.nextId c.p.mask).complete c) := by
  rw [h, issue_of_issues hi, wmExec_one _ _ hi.together hl hr hp ha]

/-- A lane that acts on the slot of a handle that passes the checks. -/
theorem wmAct_of_wmCheck {k : Nat} {f : Ctx → State → Nat → LaneIn → WmSlot → Except (BitVec 8) State} {c : Ctx} {s : State} {l : Nat}
    {x : LaneIn} {w : WmSlot} (h : s.wmCheck c l (x.w k) = .ok w) : wmAct k f c s l x () = f c s l x w := by
  unfold wmAct
  rw [h]

/-- `WMOWN` in one lane. -/
theorem wmownExec_one {s : State} {c : Ctx} {l : Nat} {a h : Src} (hl : Mask.list c.act = [l]) (hr : Reads s c [a.w1] [] []) :
    wmownExec a h c (atIssue s c) =
      (match (wmownLane a h c (atIssue s c, [], none) l).2.2 with
      | some k => if (wmownLane a h c (atIssue s c, [], none) l).2.1.isEmpty then (atIssue s c).waitFor c k
          else (atIssue s c).faultSome c (wmownLane a h c (atIssue s c, [], none) l).2.1 (some k)
      | none => if (wmownLane a h c (atIssue s c, [], none) l).2.1.isEmpty then
            (atIssue s c).completeWith c fun _ => (wmownLane a h c (atIssue s c, [], none) l).1
          else (if c.noneCompletes (wmownLane a h c (atIssue s c, [], none) l).2.1 then atIssue s c
            else (wmownLane a h c (atIssue s c, [], none) l).1).faultSome c (wmownLane a h c (atIssue s c, [], none) l).2.1 none) := by
  unfold wmownExec
  rw [stand_of_reads hr]
  simp only [filter_all_nil, hl, List.foldl_cons, List.foldl_nil, List.nil_append] <;> rfl

theorem wmownLane_of_wmCheck {s : State} {c : Ctx} {l : Nat} {a h : Src} {w : WmSlot}
    (hw : s.wmCheck c l (lo32 (c.value l a.w1)) = .ok w) (hr : s.ready c l [h.w1] [] [] = .ok)
    (ht : tagOk (lo32 (c.value l h.w1)) = true) :
    wmownLane a h c (s, [], none) l = ((s.consumeOps c l [a.w1, h.w1]).setWm { w with owner := lo32 (c.value l h.w1) }, [], none) := by
  have hw' : s.wmCheck c l ((c.inputs l [a.w1, h.w1] []).w 0) = .ok w := hw
  have ht' : tagOk ((c.inputs l [a.w1, h.w1] []).w 1) = true := ht
  unfold wmownLane
  simp only [hw', hr, ht', Option.isSome_none, Bool.false_eq_true, if_false, if_true]
  rfl

theorem wmownLane_of_wmCheck_error {s : State} {c : Ctx} {l : Nat} {a h : Src} {e : BitVec 8}
    (he : s.wmCheck c l (lo32 (c.value l a.w1)) = .error e) :
    wmownLane a h c (s, [], none) l = (s, [⟨l, e, 0, 0, none⟩], none) := by
  have he' : s.wmCheck c l ((c.inputs l [a.w1, h.w1] []).w 0) = .error e := he
  unfold wmownLane
  simp only [he', Option.isSome_none, Bool.false_eq_true, if_false, List.nil_append]

/-- Settles O39: each instruction is the rule of one lane that passes, `wmExec_one`, with its preparation and its act. -/
theorem waymarkComplete : Obligations.WaymarkComplete := by
  intro g lmin lmax d b a h k1 f close lease off s c l hl
  refine ⟨fun hi hr hsz hle r hopen => ?_, fun hi hr t bs r hread hopen => ?_, fun w u u' hu' hu hw => ⟨fun hi hr => ?_,
    fun os hos hi hr hw' => ?_, fun ds hds hi hr => ?_, fun hi hr => ?_⟩, fun hi hr => ⟨fun w hw hrd htag => ?_, fun e he => ?_⟩,
    fun hi hr w w' va t u segs hva hw hal hp hu hw' => ?_⟩
  · refine exec_wmExec (execWmopen.eq_1 ..) hi hl hr rfl ?_
    have hsz' : wmSizeOk ((c.inputs l [a.w1] []).w 0).toNat = true := hsz
    dsimp only
    rw [if_neg (by rw [hsz']; simpa using hle)]
    exact congrArg (Except.map _) hopen
  · exact exec_wmExec (execWmload.eq_1 ..) hi hl hr hread (congrArg (Except.map _) hopen)
  · subst hu hu'
    exact exec_wmExec (execWmclose.eq_1 ..) hi hl hr rfl (wmAct_of_wmCheck hw)
  · subst hos hu'
    refine exec_wmExec (execWmapp.eq_1 ..) hi hl hr rfl ((wmAct_of_wmCheck (w := w) ?_).trans ?_)
    · rwa [inputs_w_cons_zero]
    have hin : (List.range (k1.toNat + 1)).map (fun k => (c.inputs l (a.w1 :: (List.range (k1.toNat + 1)).map
        fun k => (Src.plus h k).w1) []).w (k + 1)) = (List.range (k1.toNat + 1)).map fun k => lo32 (c.value l (Src.plus h k).w1) :=
      List.map_congr_left fun k hk => by rw [inputs_w_cons_succ, inputs_w_map _ _ _ _ _ (List.mem_range.mp hk)]
    rw [hin]
  · subst hds hu hu'
    exact exec_wmExec (execWmprop.eq_1 ..) hi hl hr rfl (wmAct_of_wmCheck hw)
  · subst hu hu'
    refine (exec_wmExec (i := .wmlen g f d a) (execWmlen.eq_1 g f d a s) hi hl hr rfl (wmAct_of_wmCheck (w := w) ?_)).trans ?_
    · exact hw
    · rfl
  · rw [show exec (.wmown g a h) s = execWmown g a h s from rfl, execWmown, issue_of_issues hi, wmownExec_one hl hr,
      wmownLane_of_wmCheck hw hrd htag]
    simp only [List.isEmpty_nil, if_true, completeWith_of_not_clash hi.together]
  · rw [show exec (.wmown g a h) s = execWmown g a h s from rfl, execWmown, issue_of_issues hi, wmownExec_one hl hr,
      wmownLane_of_wmCheck_error he]
    simp only [List.isEmpty_cons, Bool.false_eq_true, if_false, ite_self]
  · subst hva hu
    refine exec_wmExec (execWmsave.eq_1 ..) hi hl hr (t := t) (b := (eaOf (c.value l a.w2) off, segs)) ?_ ?_
    · have hw0 : (atIssue s c).wmCheck c l ((c.inputs l [a.w2, h.w1] []).w 1) = .ok w := hw
      have hal' : ¬ (eaOf ((c.inputs l [a.w2, h.w1] []).v 0) off).toNat % 64 ≠ 0 := fun hn => hn hal
      dsimp only
      rw [hw0]
      dsimp only
      rw [if_neg hal']
      obtain ⟨s1, segs1, h1, h2⟩ := chkThen_eq_ok hp
      have h1' : (atIssue s c).placeCheck c { need := .wr } (eaOf ((c.inputs l [a.w2, h.w1] []).v 0) off) (64 + 4 * w.win.length) =
          (s1, .ok segs1) := h1
      rw [h1']
      simp only [chkThen, h2]
      rfl
    · have hw0 : (((t.clearWalkFaults c.uid c.p.mask).consumeOps c l [a.w2, h.w1])).wmCheck c l ((c.inputs l [a.w2, h.w1] []).w 1) =
          .ok w' := hw'
      dsimp only
      rw [hw0]
      rfl

end Sys2Proof.Laws
end

section
/-! Tile instructions at issue (11_isa_tiles.md R245-R267). -/

namespace Sys2Proof.Laws

open Sys2Proof.Machine Sys2Proof.Terms

theorem lanesExec_of_reads {os : List Opnd} {ds : List GReg} {c : Ctx} {s : State} (hr : Reads s c os [] ds) (k : Ctx → State → State) :
    lanesExec os ds k c (atIssue s c) = k c (atIssue s c) := by
  unfold lanesExec
  rw [stand_of_reads hr]
  rfl

/-- A tile instruction that names one cause, over its condition. -/
theorem tileExec_ite {p : Tiles → Prop} [DecidablePred p] {k : Tiles → MKind} {e : BitVec 8} :
    tileExec [] (fun x _ => if p x then .ok (k x) else .error e) = onceExec [] []
      (fun c s _ _ => if p (s.tilesOf c.a.place.coreId) then (s, .ok (k (s.tilesOf c.a.place.coreId))) else (s, .fault e 0 0))
      (fun c s l k => s.queueMop c l k) := by
  unfold tileExec
  funext c s
  dsimp only
  congr 1
  funext c s l x
  by_cases h : p (s.tilesOf c.a.place.coreId)
  · simp only [if_pos h]
  · simp only [if_neg h]

/-- Filling the lanes of `TUNPK` from a tile whose data is not poisoned. -/
theorem unpack_of_not_bad {s : State} {c : Ctx} {t : Nat} (h : (s.tilesOf c.a.place.coreId).bad.getLsbD t = false)
    (ds : List GReg) (row0 woff : Nat) :
    s.unpack c ds t row0 woff = (Mask.list c.act).foldl (fun s' l => s'.updLane c.uid l fun ln => ds.zipIdx.foldl (fun ln y =>
      ln.setReg (physG c.rrb y.1) (tileWord ((s.tilesOf c.a.place.coreId).tile t) (row0 + l) (woff + y.2))) ln) s := by
  unfold State.unpack
  simp only [h, Bool.false_eq_true, if_false]

/-- Settles O40: a tile instruction is performed once for the warp; `TPACK` and `TUNPK` take the lanes together. -/
theorem tilesIssue : Obligations.TilesIssue := by
  intro g q sat sint lease t ta tb sa sb acc fmt rows1 rb a b v d m m0 m1 n0 n1 ty
  refine ⟨?_, performsOnce fun s => ?mmas, performsOnce fun _ => rfl, performsOnce fun _ => rfl,
    fun s c wc row0 woff os ds hos hds hchk => ⟨fun hi hr => ?_, fun hi hr hw mine u hmine hu => ⟨fun hf hb => ?_, fun hf => ?_⟩⟩,
    List.forall_mem_cons.2 ⟨performsOnce fun _ => rfl, List.forall_mem_cons.2 ⟨performsOnce fun _ => rfl, List.forall_mem_nil _⟩⟩,
    performsOnce fun _ => rfl, performsOnce fun _ => rfl, performsOnce fun _ => rfl, performsOnce fun _ => rfl, performsOnce fun _ => rfl⟩
  · refine List.forall_mem_cons.2 ⟨performsOnce fun _ => rfl, List.forall_mem_cons.2 ⟨performsOnce fun _ => rfl,
      List.forall_mem_cons.2 ⟨performsOnce fun _ => rfl, List.forall_mem_cons.2 ⟨performsOnce fun _ => rfl,
      List.forall_mem_cons.2 ⟨performsOnce fun _ => rfl, List.forall_mem_nil _⟩⟩⟩⟩⟩
  case mmas => exact congrArg (fun k => issue (.mmas g acc ta tb sa sb m0 n0) g s k) tileExec_ite
  · subst hos
    rw [show exec (.tpack g wc t a row0 woff) s = execTpack g wc t a row0 woff s from rfl, execTpack, issue_of_issues hi,
      lanesExec_of_reads hr]
    simp only [hchk, completeWith_of_not_clash hi.together]
  · subst hds hu hmine
    rw [show exec (.tunpk g wc d t row0 woff) s = execTunpk g wc d t row0 woff s from rfl, execTunpk, issue_of_issues hi,
      lanesExec_of_reads hr]
    simp only [hw, Option.isSome_none, Bool.false_eq_true, if_false, hchk, hf, completeWith_of_not_clash hi.together]
    refine congrArg (fun (s : State) => Host.Outcome.next (s.complete c)) (unpack_of_not_bad ?_ _ _ _)
    exact hb
  · subst hds hu hmine
    rw [show exec (.tunpk g wc d t row0 woff) s = execTunpk g wc d t row0 woff s from rfl, execTunpk, issue_of_issues hi,
      lanesExec_of_reads hr]
    simp only [hw, Option.isSome_none, Bool.false_eq_true, if_false, hchk, hf, if_true]

end Sys2Proof.Laws
end

section
/-! Events of homes, replies, time and accesses (02_lines_and_homes.md, 03_watch_table.md, 04_cluster_store.md R81-R86). -/

namespace Sys2Proof.Laws

open Sys2Proof.Machine Sys2Proof.Terms

/-! ### Homes and replies -/

/-- Settles O41: the event finds its request or reply, whose kind picks the action. -/
theorem homesServeAndReply : Obligations.HomesServeAndReply := by
  refine ⟨fun req s u r a hr => ?_, fun rep s r hr => ?_⟩
  · have hr : s.reqOf req = some r := hr
    refine ⟨fun hk h => ?_, fun l hk h => ?_, fun hk h => ?_, fun hk h => ?_, fun e hk h => ?_, fun d bad wts rts hk h => ?_,
      fun d bad wts rts hk h => ?_, fun hk h => ?_, fun x dst acq sys core z old t bad w hk hl hwb hlb hw h t' ht => ?_⟩
    · show execHomeRead req s = _
      simp only [execHomeRead, hr, hk, h]
    · show execHomeRead req s = _
      simp only [execHomeRead, hr, hk, h]
    · show execHomeRenewal req s = _
      simp only [execHomeRenewal, hr, hk, h]
    · show execHomeOwnership req s = _
      simp only [execHomeOwnership, hr, hk, h]
    · show execWatchRenewal req s = _
      simp only [execWatchRenewal, hr, hk, h]
    · show execHomeWriteback req s = _
      simp only [execHomeWriteback, hr, hk, State.homeWritebackAt, if_pos h]
    · show execHomeWriteback req s = _
      simp only [execHomeWriteback, hr, hk, State.homeWritebackAt, if_neg h]
    · show execHomeUpdateJoin req s = _
      simp only [execHomeUpdateJoin, hr, hk, h]
    · show execHomeAtomic req s = _
      simp only [execHomeAtomic, hr, hk, hl, hwb, hlb, hw, h, ht, Bool.not_true, Bool.or_self, Bool.false_eq_true, if_false]
  · have hr : s.repOf rep = some r := hr
    refine ⟨fun d hk => ?_, fun v dst z bad hk => ?_, fun d hk => ?_, fun e hk => ?_, fun e d hk u hu => ?_⟩
    · show execFillReply rep s = _
      simp only [execFillReply, hr, hk]
    · show execFillReply rep s = _
      simp only [execFillReply, hr, hk]
    · show execOwnershipGrant rep s = _
      simp only [execOwnershipGrant, hr, hk]
    · show execConfirm rep s = _
      simp only [execConfirm, hr, hk] <;> rfl
    · subst hu
      show execStrike rep s = _
      simp only [execStrike, hr, hk] <;> rfl

/-- A line with no owner and no update holder has nothing to recall. -/
theorem recallAll_of_free {s : State} {line : Nat} (ho : (s.homeOf line).owner = none) (hh : (s.homeOf line).holders = 0) :
    s.recallAll line = .ok s := by
  simp only [State.recallAll, State.recallOwner, State.recallU, ho, hh, if_true]

/-- Settles O42: there is nothing to recall, so the home answers at once from its line. -/
theorem homeActions : Obligations.HomeActions := by
  intro s line cluster off n t f h me hh hl ho hu
  subst hh
  have hrec := recallAll_of_free ho hu
  refine ⟨⟨(s.setHome line { s.homeOf line with rts := smax (s.homeOf line).rts (t.extractLsb' 0 32 + BitVec.ofNat 32 n) }).noteStamp
    line (smax (s.homeOf line).rts (t.extractLsb' 0 32 + BitVec.ofNat 32 n)), ?_, rfl, rfl⟩, fun hhost => ?_⟩
  · simp only [State.homeReadAt, hl, hrec, Bool.false_eq_true, if_false]
    rfl
  · have hheld : (s.lineHeld line me || s.hostHolds line) = false := by rw [hl, State.hostHolds, hhost]; rfl
    refine ⟨⟨(s.setHome line { s.homeOf line with owner := some cluster }).tally cluster 0x0B 1, ?_, rfl, rfl⟩, fun hb w hw =>
      ⟨State.noteStamp (State.setHome { s with
        mem := putLine s.mem line (setLineBytes (lineAt s.mem line) off (f (lineBytes (lineAt s.mem line) off n))) } line
          { s.homeOf line with wts := w.extractLsb' 0 32, rts := w.extractLsb' 0 32 }) line (w.extractLsb' 0 32), ?_, by rw [State.noteStamp, State.setHome], by rw [State.noteStamp, State.setHome]⟩,
      fun hb => ?_⟩
    · simp only [State.homeOwnAt, hheld, hrec, Bool.false_eq_true, if_false]
      rfl
    · subst hw
      simp only [State.homeActAt, hheld, hrec, Bool.false_eq_true, if_false, hb, not_true_eq_false, ne_eq]
    · simp only [State.homeActAt, hheld, hrec, Bool.false_eq_true, if_false, hb, if_true, ne_eq, not_false_eq_true]

/-! ### Time -/

theorem raiseCtime_htime (s : State) (cluster : Nat) (t : DWord) : (s.raiseCtime cluster t).htime = s.htime := by
  unfold State.raiseCtime
  split <;> rfl

/-- Settles O43: each event finds what it acts on; a line with an `O`, `U` or `L` copy is given up as its state says. -/
theorem timeEvents : Obligations.TimeEvents := by
  intro s line cluster slice unit lane note
  refine ⟨fun u h ht hlag hhost hrec hh hht => ?_, fun n u hn hu => ?_, fun _ _ t ht => ?_, fun a ha h1 h2 h3 => ?_, rfl,
    fun c hc hst => ?_, fun c ps t hc hst => ?_, fun c e hc hst => ?_⟩
  · subst hh hht
    show execSweep line s = _
    simp only [execSweep, hlag, hhost, hrec, Bool.not_true, Bool.false_eq_true, if_false] <;> rfl
  · subst hu
    show execSweepNotice note s = _
    simp only [execSweepNotice, hn] <;> rfl
  · subst ht
    show execTimeExchange cluster slice s = _
    simp only [execTimeExchange, raiseCtime_htime]
  · show execCreep unit lane s = _
    simp only [execCreep, ha, h1, h2, Nat.not_lt.mpr h3, decide_false, Bool.or_self, Bool.false_eq_true, if_false]
  · simp only [State.evict, hc, hst]
  · simp only [State.evict, hc, hst]
  · simp only [State.evict, hc, hst]

/-! ### Accesses -/

/-- No prefetch waits for a page. -/
theorem filter_prefs_of_none {ps : List Pref} {cluster job page : Nat}
    (h : ∀ p ∈ ps, p.core.cluster ≠ cluster ∨ p.job ≠ job ∨ p.va.toNat / 65536 ≠ page) :
    (ps.filter fun p => p.core.cluster == cluster && p.job == job && p.va.toNat / 65536 == page) = [] := by
  refine List.filter_eq_nil_iff.mpr fun p hp => ?_
  simp only [Bool.and_eq_true, beq_iff_eq, not_and]
  obtain h | h | h := h p hp
  · exact fun h' => absurd h'.1 h
  · exact fun h' => absurd h'.2 h
  · exact fun _ => h

theorem installTlb_prefs (s : State) (cluster job : Nat) (va e : DWord) (bits entry : Nat) (cores : List CoreId) :
    (s.installTlb cluster job va e bits entry cores).prefs = s.prefs := by
  unfold State.installTlb
  dsimp only
  split <;> rfl

/-- A path that has waited for its limit. -/
theorem execWaitLimit_of_limit {s : State} {unit slot : Nat} {a : Agent} {p : Path} {w : Wait} (ha : s.agent? unit = some a)
    (hp : a.slot (slot == 1) = some p) (hw : p.wait = some w) (hlim : w.kind.limited = true) (h0 : waitLimit a.waitlim ≠ 0)
    (hle : w.since + waitLimit a.waitlim ≤ s.now a.place.cluster) :
    execWaitLimit unit slot s =
      if a.waitlim.getLsbD 63 = false then .next (s.updAgent unit fun a => { a with waitlim := setBit a.waitlim 62 true })
      else if w.kind = .reg then .next (s.updPath unit (slot == 1) fun p => { p with wait := some ⟨.limit, w.since, w.start⟩ })
      else match ((s.withdraw unit p.parked).agent? unit).bind (·.slot (slot == 1)) with
        | none => .next (s.withdraw unit p.parked)
        | some q =>
          if p.parked &&& ~~~q.done = 0 then .next (s.withdraw unit p.parked)
          else .next (State.raiseFaults (s.withdraw unit p.parked) unit (slot == 1)
            ((Mask.list (p.parked &&& ~~~q.done)).map fun l => ⟨l, 0x41, 0, 0, none⟩) (p.parked &&& ~~~q.done)
            (q.mask &&& ~~~(p.parked &&& ~~~q.done)) 0 q.pc (some w)) := by
  simp only [execWaitLimit, ha, hp, hw, hlim, h0, Nat.not_lt.mpr hle, Bool.not_true, Bool.false_or, decide_false, Bool.false_eq_true,
    if_false] <;> rfl

/-- Settles O44: each event finds its walk, acknowledgement, access or waiting path, and takes the branch of its hypotheses. -/
theorem accessEvents : Obligations.AccessEvents := by
  intro s k unit slot
  refine ⟨fun w u hw hin => ⟨fun ph hst => ?_, fun hpf => ⟨fun c hst => ?_, fun e bits pa hst => ?_⟩⟩, fun a ha => ?_,
    fun r hr hrch hring => ⟨fun hc => ?_, fun a hc ha hk => ⟨fun hlt => ?_, fun hge => ?_⟩⟩, fun r hr u hu => ?_,
    fun r t hr href hle u hu => ⟨fun hd => ?_, fun hd => ?_⟩, fun a p w ha hp hw hlim h0 hle => ⟨fun hen => ?_, fun hen hreg => ?_,
      fun q m hen hreg hq hm hm0 => ?_⟩⟩
  · show execTableWalk k s = _
    simp only [execTableWalk, hw, hin, hst, Bool.not_true, Bool.false_eq_true, if_false]
  · show execTableWalk k s = _
    simp only [execTableWalk, hw, hin, hst, Bool.not_true, Bool.false_eq_true, if_false, filter_prefs_of_none hpf, List.foldl_nil]
  · show execTableWalk k s = _
    simp only [execTableWalk, hw, hin, hst, Bool.not_true, Bool.false_eq_true, if_false]
    refine congrArg Host.Outcome.next ((congrArg (List.foldl _ _) (filter_prefs_of_none ?_)).trans List.foldl_nil)
    rw [installTlb_prefs]
    exact hpf
  · show execAcknowledge k s = _
    simp only [execAcknowledge, ha]
  · show execRemoteAccess k s = _
    simp only [execRemoteAccess, hr, hrch, hring, hc, Bool.not_true, Bool.false_eq_true, if_false, if_true]
  · show execRemoteAccess k s = _
    simp only [execRemoteAccess, hr, hrch, hring, hc, ha, hk, hlt, Bool.not_true, Bool.false_eq_true, if_false, if_true]
  · show execRemoteAccess k s = _
    simp only [execRemoteAccess, hr, hrch, hring, hc, ha, hk, Nat.not_lt.mpr hge, Bool.not_true, Bool.false_eq_true, if_false]
  · subst hu
    show execRemoteReply k s = _
    simp only [execRemoteReply, hr]
    cases r.dest <;> rfl
  · subst hu
    show Host.Outcome.next (s.reissue k false) = _
    simp only [State.reissue, hr, href, hd, Nat.not_lt.mpr hle, decide_false, bne_self_eq_false, Bool.or_self, Bool.false_eq_true, if_false]
  · subst hu
    show Host.Outcome.next (s.reissue k true) = _
    simp only [State.reissue, hr, href, hd, Nat.not_lt.mpr hle, decide_false, bne_self_eq_false, Bool.or_self, Bool.false_eq_true, if_false]
  · exact (execWaitLimit_of_limit ha hp hw hlim h0 hle).trans (if_pos hen)
  · refine (execWaitLimit_of_limit ha hp hw hlim h0 hle).trans ?_
    rw [if_neg (by simp [hen]), if_pos hreg]
  · subst hm
    refine (execWaitLimit_of_limit ha hp hw hlim h0 hle).trans ?_
    rw [if_neg (by rw [hen]; decide), if_neg hreg, hq]
    dsimp only
    rw [if_neg hm0]

end Sys2Proof.Laws
end

section
/-! Events of the engines, the producers and the matrix pipeline (05_engines.md R94-R112, 11_isa_tiles.md R246-R265). -/

namespace Sys2Proof.Laws

open Sys2Proof.Machine Sys2Proof.Terms

/-! ### A command at its turn -/

/-- What an engine's work on a command gives, taken up (R104). -/
def takeWork (s : State) (c : Cmd) : EOut CmdPhase → State
  | .ok u t (.working x) => (u.setPhase c t (.working x)).workOn c x t
  | .ok u t ph => u.setPhase c t ph
  | .fault u t x v => u.setPhase c t (.finished x v)
  | .wait h => s.askHold c h

theorem takeWork_ok_of_not_working {s u : State} {c : Cmd} {t : DWord} {ph : CmdPhase} (h : ∀ x, ph ≠ .working x) :
    takeWork s c (.ok u t ph) = u.setPhase c t ph := by
  cases ph
  case working x => exact absurd rfl (h x)
  all_goals rfl

/-- The event runs its command by `work` when the command is of its kind. -/
def RunsCmd (e : Instr) (k : Nat) (c : Cmd) (work : Cmd → State → DWord → EOut CmdPhase) : Prop :=
  ∃ want : CmdOp → Bool, want c.op = true ∧ ∀ s, exec e s = .next (s.runCmd k want work)

section
variable {e : Instr} {k : Nat} {c : Cmd} {s : State} {work : Cmd → State → DWord → EOut CmdPhase}

theorem runCmd_begin {want : CmdOp → Bool} (hw : want c.op = true) (hf : s.cmds.find? (·.id == k) = some c) (ht : s.cmdTurn c = true)
    (h1 : ∀ x, c.phase ≠ .working x) (h2 : ∀ x v, c.phase ≠ .finished x v) :
    s.runCmd k want work = takeWork s c (work c s (s.cmdTime c)) := by
  unfold State.runCmd
  simp only [hf, hw, ht, Bool.not_true, Bool.or_self, Bool.false_eq_true, if_false]
  rfl

theorem runCmd_working {want : CmdOp → Bool} (hw : want c.op = true) (hf : s.cmds.find? (·.id == k) = some c) (ht : s.cmdTurn c = true)
    {x : EWork} (hx : c.phase = .working x) : s.runCmd k want work = s.workOn c x c.time := by
  unfold State.runCmd
  simp only [hf, hw, ht, hx, Bool.not_true, Bool.or_self, Bool.false_eq_true, if_false]

theorem RunsCmd.exec_begin (h : RunsCmd e k c work) (hf : s.cmds.find? (·.id == k) = some c) (ht : s.cmdTurn c = true)
    (h1 : ∀ x, c.phase ≠ .working x) (h2 : ∀ x v, c.phase ≠ .finished x v) :
    exec e s = .next (takeWork s c (work c s (s.cmdTime c))) := by
  obtain ⟨want, hw, he⟩ := h
  rw [he, runCmd_begin hw hf ht h1 h2]

theorem RunsCmd.exec_working (h : RunsCmd e k c work) (hf : s.cmds.find? (·.id == k) = some c) (ht : s.cmdTurn c = true)
    {x : EWork} (hx : c.phase = .working x) : exec e s = .next (s.workOn c x c.time) := by
  obtain ⟨want, hw, he⟩ := h
  rw [he, runCmd_working hw hf ht hx]

end

theorem runCmd_finished {s : State} {k : Nat} {c : Cmd} {x : BitVec 8} {v : DWord} (hf : s.cmds.find? (·.id == k) = some c)
    (hx : c.phase = .finished x v) (want : CmdOp → Bool) (work : Cmd → State → DWord → EOut CmdPhase) :
    s.runCmd k want work = s := by
  unfold State.runCmd
  simp only [hf, hx, ite_self]

/-- Settles O45: every event of an engine runs its command, and takes up what its work gives. -/
theorem enginesExecute : Obligations.EnginesExecute := by
  intro s k c hf ht
  have hid : c.id = k := by simpa using List.find?_some hf
  refine ⟨fun e w h1 h2 he => ?_, fun e x hx he => ?_, fun x y t t' m u v hm => ⟨fun h => ?_, fun d h => ?_, fun z a h => ?_⟩,
    fun z a e hx he => ?_, fun a q o g b l tg mt st n x v u t u2 t2 h0 h hop hph hwin hans hrd heq hhd htail => ?_,
    fun q u t u2 t2 h0 h hop hph hat hans hrd hok heq hhd hok2 htail => ?_⟩
  · obtain ⟨work, hr, rfl⟩ : ∃ work, RunsCmd e k c work ∧ w = work c s (s.cmdTime c) := by
      obtain ⟨rfl, n, x, y, b, hop, rfl⟩ | ⟨rfl, d, t, i, n, hop, rfl⟩ | ⟨rfl, d, t, i, n, hop, rfl⟩ | ⟨rfl, d, x, hop, rfl⟩ |
        ⟨rfl, a, q, o, g, b, l, tg, mt, hop, ⟨hph, rfl⟩ | ⟨es, hph, rfl⟩⟩ := he
      · exact ⟨_, ⟨_, by rw [hop], fun _ => rfl⟩, by rw [hop]⟩
      · exact ⟨_, ⟨_, by rw [hop], fun _ => rfl⟩, by rw [hop]⟩
      · exact ⟨_, ⟨_, by rw [hop], fun _ => rfl⟩, by rw [hop]⟩
      · exact ⟨_, ⟨_, by rw [hop], fun _ => rfl⟩, by rw [hop]⟩
      · exact ⟨_, ⟨_, by rw [hop], fun _ => rfl⟩, by rw [hop, hph]⟩
      · exact ⟨_, ⟨_, by rw [hop], fun _ => rfl⟩, by rw [hop, hph]⟩
    refine ⟨fun u t x hw => ?_, fun u t ph hw hn => ?_, fun u t x v hw => ?_, fun h hw => ?_⟩
    · rw [hr.exec_begin hf ht h1 h2, hw]
      rfl
    · rw [hr.exec_begin hf ht h1 h2, hw, takeWork_ok_of_not_working hn]
    · rw [hr.exec_begin hf ht h1 h2, hw]
      rfl
    · rw [hr.exec_begin hf ht h1 h2, hw]
      rfl
  · obtain ⟨work, hr⟩ : ∃ work, RunsCmd e k c work := by
      obtain ⟨rfl, n, x, y, b, hop⟩ | ⟨rfl, d, t, i, n, hop⟩ | ⟨rfl, d, t, i, n, hop⟩ | ⟨rfl, d, x, hop⟩ |
        ⟨rfl, a, q, o, g, b, l, tg, mt, hop⟩ := he
      all_goals exact ⟨_, _, by rw [hop], fun _ => rfl⟩
    exact hr.exec_working hf ht hx
  · simp only [State.workOn, hm, h]
  · simp only [State.workOn, hm, h]
  · simp only [State.workOn, hm, h]
  · simp only [List.mem_cons, List.not_mem_nil, or_false] at he
    obtain rfl | rfl | rfl | rfl | rfl | rfl | rfl := he
    all_goals exact congrArg Host.Outcome.next (runCmd_finished hf hx _ _)
  · have htime : s.cmdTime c = c.time := by simp only [State.cmdTime, hph]
    have hr : RunsCmd (.tgenPublish k) k c _ := ⟨_, by rw [hop], fun _ => rfl⟩
    rw [hr.exec_begin hf ht (by simp [hph]) (by simp [hph])]
    simp only [hop, hph, hid, hwin, hans, htime, hrd, EOut.bind, hhd, heq, htail, ne_eq, bne_self_eq_false, Bool.false_eq_true, if_false,
      if_true]
    rfl
  · have hr : RunsCmd (.tgenCloseExecute k) k c _ := ⟨_, by rw [hop], fun _ => rfl⟩
    rw [hr.exec_begin hf ht (by simp [hph]) (by simp [hph])]
    simp only [hop, hph, hid, hat, hans, hrd, EOut.bind, hok, heq, hhd, hok2, htail, bne_self_eq_false, Bool.not_true,
      Bool.true_eq_false, Bool.false_eq_true, if_false, if_true]
    rfl

/-! ### Completions -/

/-- Settles O46: the event finds its command or producer, whose kind says what it fills. -/
theorem commandsAndProducersComplete : Obligations.CommandsAndProducersComplete := by
  refine ⟨fun s k c x v hf hph hwin w hw => ?_, fun s u k p hf hu => ⟨fun v rs hk => ?_, fun drafts rs len m hk => ?_,
    fun ty bot n off key pay rs h hk hfirst hh es out v w hoff hv hw => ?_⟩⟩
  · subst hw
    show execCommandCompletion k s = _
    simp only [execCommandCompletion, hf, hph, hwin, Bool.false_eq_true, if_false]
    rfl
  · subst hu
    show execDivCompletion k s = _
    have hf : s.pendingOf k = some p := hf
    simp only [execDivCompletion, hf, hk]
    rfl
  · subst hu
    show execWmpropCompletion k s = _
    have hf : s.pendingOf k = some p := hf
    simp only [execWmpropCompletion, hf, hk] <;> rfl
  · subst hw hv hh
    have hf : s.pendingOf k = some p := hf
    have hbefore : (s.pendings.any fun q => decide (q.id < k) && q.core == p.core
        && (match q.kind with | .hsift .. => true | _ => false)) = false := by
      refine List.any_eq_false.mpr fun q hq hc => ?_
      simp only [Bool.and_eq_true, decide_eq_true_eq, beq_iff_eq] at hc
      obtain ⟨⟨hlt, hcore⟩, hkind⟩ := hc
      split at hkind
      · exact hfirst q hq hlt hcore _ _ _ _ _ _ _ ‹_›
      · exact Bool.false_ne_true hkind
    show execHsiftCompletion k s = _
    rw [execHsiftCompletion, hf]
    dsimp only
    rw [hk]
    dsimp only
    rw [if_neg (by exact Bool.eq_false_iff.mp hbefore), hoff]
    rfl

/-! ### Tiles -/

/-- A tile command at its turn leaves its matrix instruction's place once it has finished. -/
def RunsTileCmd (e : Instr) (k : Nat) (c : Cmd) (work : Cmd → State → DWord → EOut CmdPhase) : Prop :=
  ∃ want : CmdOp → Bool, want c.op = true ∧ ∀ s, exec e s = .next ((s.runCmd k want work).dropMopOf k)

section
variable {e : Instr} {k : Nat} {c : Cmd} {s : State} {work : Cmd → State → DWord → EOut CmdPhase}

theorem RunsTileCmd.exec_begin (h : RunsTileCmd e k c work) (hf : s.cmds.find? (·.id == k) = some c) (ht : s.cmdTurn c = true)
    (h1 : ∀ x, c.phase ≠ .working x) (h2 : ∀ x v, c.phase ≠ .finished x v) :
    exec e s = .next ((takeWork s c (work c s (s.cmdTime c))).dropMopOf k) := by
  obtain ⟨want, hw, he⟩ := h
  rw [he, runCmd_begin hw hf ht h1 h2]

theorem RunsTileCmd.exec_working (h : RunsTileCmd e k c work) (hf : s.cmds.find? (·.id == k) = some c) (ht : s.cmdTurn c = true)
    {x : EWork} (hx : c.phase = .working x) : exec e s = .next ((s.workOn c x c.time).dropMopOf k) := by
  obtain ⟨want, hw, he⟩ := h
  rw [he, runCmd_working hw hf ht hx]

end

/-- Settles O47: the tile commands run as the engines' do; a matrix instruction's kind picks how it is performed. -/
theorem tilesExecute : Obligations.TilesExecute := by
  intro s k
  refine ⟨fun c tile ea st td cls mop w hf ht hop hph hw => ?_, fun c tile ea st td cls mop m ws x v hf ht hop hph hm hz => ?_,
    fun c tile ea st td cls mop m w hf ht hop hph hm hz hw => ?_, fun c w e hf ht hx he => ?_, fun m hm hz => ⟨fun x f bad hp => ?_,
      fun u t bad hk hr hmem => ?_, fun a ty sat sint rows cols dst doff foff v sent fl u f n t hk hlt hr hb hn htm hs => ?_⟩,
    fun m a ty sat sint rows cols dst doff foff v hm => ⟨fun sent hk hle hrem hroom => ?_, fun sent f hk hrem hrep => ?_⟩⟩
  · subst hw
    have hr : RunsTileCmd (.tileLoadExecute k) k c _ := ⟨_, by rw [hop], fun _ => rfl⟩
    rw [hr.exec_begin hf ht (by simp [hph]) (by simp [hph])]
    simp only [hop, hph]
    rfl
  · have htime : s.cmdTime c = c.time := by simp only [State.cmdTime, hph]
    have hr : RunsTileCmd (.tileLoadExecute k) k c _ := ⟨_, by rw [hop], fun _ => rfl⟩
    rw [hr.exec_begin hf ht (by simp [hph]) (by simp [hph])]
    simp only [hop, hph, hm, hz, htime]
    cases ws.isEmpty <;> rfl
  · subst hw
    have hr : RunsTileCmd (.tileStoreExecute k) k c _ := ⟨_, by rw [hop], fun _ => rfl⟩
    rw [hr.exec_begin hf ht (by simp [hph]) (by simp [hph])]
    simp only [hop, hph, hm, hz]
    rfl
  · obtain ⟨work, hr⟩ : ∃ work, RunsTileCmd e k c work := by
      obtain ⟨rfl, tile, ea, st, td, cls, mop, hop⟩ | ⟨rfl, tile, ea, st, td, cls, mop, hop⟩ := he
      all_goals exact ⟨_, _, by rw [hop], fun _ => rfl⟩
    exact hr.exec_working hf ht hx
  · show execMatrixExecute k s = _
    rw [execMatrixExecute, hm]
    dsimp only
    rw [if_neg (by simp [hz])]
    generalize hkind : m.kind = kind at hp
    cases kind
    case tload | tstore | accld | accst | accsend | tsave => exact nomatch hp
    all_goals
      dsimp only
      rw [hp]
  · show execMatrixExecute k s = _
    rw [execMatrixExecute, hm]
    dsimp only
    rw [if_neg (by simp [hz])]
    obtain ⟨a, r, i, j, p, n, l, hk | hk⟩ | ⟨ps, l, tds, pr, hk⟩ := hk
    all_goals
      rw [hk]
      dsimp only
      rw [if_neg (by simp [hr]), hmem]
  · have hid : m.id = k := by simpa using List.find?_some hm
    subst htm hn
    rw [hk] at hs
    show execMatrixExecute k s = _
    rw [execMatrixExecute, hm]
    dsimp only
    rw [if_neg (by simp [hz]), hk]
    dsimp only
    rw [if_neg (by simp [hr, Nat.sub_ne_zero_of_lt hlt]), hs, if_neg (by simp [hb]), hid]
  · have hany : (s.remotes.any fun r => r.mop == some k) = false := List.any_eq_false.mpr fun r h => by simp [hrem r h]
    show execAccsendFlag k s = _
    rw [execAccsendFlag, hm]
    dsimp only
    rw [hk]
    dsimp only
    rw [if_neg (by simp [hany, hle, hroom])]
  · have hany : (s.remotes.any (·.id == f)) = false := List.any_eq_false.mpr fun r h => by simp [hrem r h]
    have hany' : (s.rreplies.any (·.id == f)) = false := List.any_eq_false.mpr fun r h => by simp [hrep r h]
    show execAccsendFlag k s = _
    rw [execAccsendFlag, hm]
    dsimp only
    rw [hk]
    dsimp only
    rw [if_neg (by simp [hany, hany'])]

end Sys2Proof.Laws
end

section
/-! Events of the Inn, of launches and of cancelling (15_travellers.md R335-R344, 18_scheduling.md R399-R410). -/

namespace Sys2Proof.Laws

open Sys2Proof.Machine Sys2Proof.Terms

/-! ### The Inn -/

/-- Settles O48: each event finds its room, its move or its arrival, and takes the branch of its hypotheses. -/
theorem innEvents : Obligations.InnEvents := by
  intro s cluster room core slot mig
  refine ⟨fun r hr hc hrm => ?_, fun r hd hp hrm => ?_, fun r hd => ?_, fun m a u hm ha hu => ⟨fun hh => ?_, fun p hh hq hp => ?_,
    fun w hh hq hw w' hw' => ?_⟩, fun w a u hw hb ha hu => ⟨fun hsp => ?_, fun x l r hsp => ?_⟩⟩
  · have hany : (s.rooms.any fun r => r.cluster == cluster && r.room == room) = true :=
      List.any_eq_true.mpr ⟨r, hr, by simp [hc, hrm]⟩
    show execRoomLimit cluster room s = _
    simp only [execRoomLimit, hany, if_true]
  · have hd' : sget 0 cluster (s.noteRooms cluster).departs ≠ (s.noteRooms cluster).now cluster + 1 := hd
    show execRoomDepart cluster room core s = _
    simp only [execRoomDepart, if_neg hd', hp, hrm, and_self, if_true]
    rfl
  · have hd' : sget 0 cluster (s.noteRooms cluster).departs = (s.noteRooms cluster).now cluster + 1 := hd
    show execRoomDepart cluster r core s = _
    simp only [execRoomDepart, if_pos hd']
  · subst hu
    show execMigrationArrival mig s = _
    simp only [execMigrationArrival, hm, ha, hh, if_true]
  · subst hu
    show execMigrationArrival mig s = _
    simp only [execMigrationArrival, hm, ha, hh, hq, hp, Bool.false_eq_true, if_false]
  · subst hw'
    have hnone : (if s.arrivals.any (·.cluster == m.cluster) = true then none else s.bestSlot m.cluster) = none := by
      obtain h | h := hq
      · exact if_pos h
      · rw [h, ite_self]
    show execMigrationArrival mig s = _
    simp only [execMigrationArrival, hm, ha, hh, hnone, hw, Bool.false_eq_true, if_false]
  · subst hu
    have hau : State.agent? { s with arrivals := s.arrivals.filter (·.uid != w.uid) } w.uid = some a := ha
    show execArrivalPlacement cluster core slot s = _
    simp only [execArrivalPlacement, hw, hb, hsp, ne_eq, not_true_eq_false, if_false, hau]
  · subst hu
    have hau : State.agent? { s with arrivals := s.arrivals.filter (·.uid != w.uid) } w.uid = some a := ha
    show execArrivalPlacement cluster core slot s = _
    simp only [execArrivalPlacement, hw, hb, hsp, ne_eq, not_true_eq_false, if_false, hau]

/-! ### Launches -/

/-- A graph goes on once the predicates that its node lets it read are read. -/
theorem nodeOver_of_ok {s0 s w : State} {g : Nat} {G : Graph} {t : DWord} (k : State → State)
    (hg : s0.graphs.find? (·.id == g) = some G) (hr : s.readPredicates g G.nodes.length = .ok w t ()) :
    s0.nodeOver s g k = k (w.updQueue G.queue fun q => { q with wins := [] }) := by
  unfold State.nodeOver
  simp only [hg, hr]

theorem pc_ite_trap {b : Prop} [Decidable b] (q : Path) (x : Option (Mask × BitVec 8 × DWord × BitVec 2 × DWord)) :
    (if b then { q with trap := x } else q).pc = q.pc := by
  split <;> rfl

theorem begin_pc (pc : DWord) (mask : Mask) (priv : Priv) : (Path.begin pc mask priv).pc = pc := by
  unfold Path.begin
  dsimp only
  split <;> rfl

/-- Settles O49: each event finds its launch, ring entry, node or warp, and takes the branch of its hypotheses. -/
theorem launchEvents : Obligations.LaunchEvents := by
  intro s n cluster core slot
  refine ⟨fun l hl hc hlt hnc => ⟨fun hw hb => ?_, fun hw hb => ?_⟩, fun e es hring hslot => ?_, fun l u t hl hover hleft ht hu => ⟨fun hg => ?_,
    fun g i G v w t' hg hv hG hr x hx => ?_⟩, fun g i ws x hg hn hx => ⟨fun st w t hst hr => ?_, fun w t hrun hk hr => ?_,
    fun u v t bs hrun hk hrd hop hmal hmask hind hv => ?_⟩, fun g m i ws x hg hx hnext => ⟨fun u t bs hrd => ?_, fun u t c v hrd => ?_⟩,
    fun b hb hlt => ?_, fun a b hb hge ha hidle hacks hprod hn harea => ?_⟩
  · show execUnitDispatch n cluster core slot s = _
    simp only [execUnitDispatch, hl, hc, Nat.not_le.mpr hlt, hnc, hw, hb, decide_false, bne_self_eq_false, Bool.or_self,
      Bool.false_eq_true, if_false, if_true]
  · show execUnitDispatch n cluster core slot s = _
    simp only [execUnitDispatch, hl, hc, Nat.not_le.mpr hlt, hnc, hw, hb, decide_false, bne_self_eq_false, Bool.or_self,
      Bool.false_eq_true, if_false, ne_eq, not_true_eq_false]
  · show ∃ a u, _ = _ ∧ execCodeletStart cluster core slot s = _ ∧ _
    simp only [execCodeletStart, hring, hslot, ne_eq, not_true_eq_false, if_false]
    refine ⟨_, _, rfl, rfl, rfl, rfl, rfl, rfl, ?_, ?_⟩
    · exact congrArg some ((pc_ite_trap _ _).trans (begin_pc ..))
    · intro i
      refine (Vector.getElem_ofFn _).trans ?_
      dsimp only
      rw [if_pos i.isLt, Nat.add_assoc]
  · subst ht hu
    show execLaunchCompletion n s = _
    simp only [execLaunchCompletion, hl, hover, hleft, hg, Bool.not_true, Bool.false_eq_true, if_false]
  · subst ht hu hx hv
    show execLaunchCompletion n s = _
    simp only [execLaunchCompletion, hl, hover, hleft, hg, Bool.not_true, Bool.false_eq_true, if_false]
    rw [nodeOver_of_ok _ hG hr]
  · show execNodeRun n i s = _
    obtain ⟨hrun, rfl⟩ | ⟨hrun, hk, rfl⟩ := hst
    · simp only [execNodeRun, hg, hn, hx, hrun, nodeOver_of_ok _ hg hr]
    · simp only [execNodeRun, hg, hn, hx, hrun, hk, nodeOver_of_ok _ hg hr]
  · show execNodeRun n i s = _
    simp only [execNodeRun, hg, hn, hx, hrun, hk, nodeOver_of_ok _ hg hr]
  · subst hv
    show execNodeRun n i s = _
    simp only [execNodeRun, hg, hn, hx, hrun, hk, hrd, hop, hmal, hmask, hind, State.startLaunch, ne_eq, not_true_eq_false,
      Bool.false_eq_true, or_self, if_false, Bool.not_false, Bool.true_or, if_true]
    rfl
  · simp only [State.readPredicates, hg, hnext, hx, hrd]
  · simp only [State.readPredicates, hg, hnext, hx, hrd]
  · show execWarpSwap cluster core slot n s = _
    simp only [execWarpSwap, hb, if_pos hlt]
    rfl
  · show execWarpSwap cluster core slot n s = _
    have harea' : (s.areaUsed ⟨cluster, core⟩ n && n != b.area) = false := by
      obtain h | h := harea
      · rw [h, Bool.false_and]
      · rw [h, bne_self_eq_false, Bool.and_false]
    simp only [execWarpSwap, hb, Nat.not_lt.mpr hge, Nat.not_lt.mpr hidle, Nat.not_le.mpr hn, hacks, hprod, harea', ha, bne_self_eq_false,
      decide_false, Bool.or_self, Bool.false_eq_true, if_false]

/-! ### Cancelling -/

/-- An interrupt is a report to the host. -/
theorem interrupt_eq (s : State) (q : Nat) : ∃ rs, s.interrupt q = { s with reports := s.reports ++ rs } := by
  unfold State.interrupt
  split
  · exact ⟨_, rfl⟩
  · exact ⟨[], by rw [List.append_nil]⟩

/-- Settles O50: the events take the branch of their hypotheses; a report of quiescence is one more note to the host. -/
theorem cancelEvents : Obligations.CancelEvents := by
  intro s unit slot n cluster
  refine ⟨fun a p w ha hp hw hcan hmode => ⟨fun t q hk hmay hq hdone ht => ?_, fun q hk hact htrap hm hq => ?_⟩, fun l hl => ⟨fun h => ?_,
    fun h hq => ?_, fun t h hq hrep hle hlen => ?_⟩, fun r a p hr ha hp hact hwait htrap hmode => ?_⟩
  · have hkind : (a.kind == .coach) = false := beq_false_of_ne hk
    have hdone' : ¬ (p.parked ≠ 0 ∧ p.mask &&& ~~~q.done = 0) := fun h => hdone.elim h.1 fun h' => h' h.2
    show execCancelPoint unit slot s = _
    simp only [execCancelPoint, ha, hp, hw, hcan, hmode, hkind, hmay, hq, hdone', ht, Option.map_some, Option.getD_some, Bool.not_true,
      bne_self_eq_false, Bool.or_self, Bool.false_eq_true, if_false]
  · have hm' : (s.leavers a p.mask == 0) = false := beq_false_of_ne hm
    show execCancelPoint unit slot s = _
    simp only [execCancelPoint, ha, hp, hw, hcan, hmode, hk, hact, htrap, hm', hq, Option.map_some, Option.getD_some, Bool.not_true,
      bne_self_eq_false, beq_self_eq_true, Option.isSome_none, Bool.or_self, Bool.false_eq_true, if_false, if_true]
  · show execQuiescence n s = _
    simp only [execQuiescence, hl, h, Bool.not_false, if_true]
  · show execQuiescence n s = _
    simp only [execQuiescence, hl, h, hq, Bool.not_true, Bool.false_eq_true, if_false]
  · obtain ⟨rs, hrs⟩ := interrupt_eq (State.updQueue { s.updLaunch n fun l => { l with reported := true } with
      reports := (s.updLaunch n fun l => { l with reported := true }).reports ++ [.quiescent l.queue l.counter] } l.queue
        fun q => { q with quiet := l.counter }) l.queue
    refine ⟨{ State.updQueue (s.updLaunch n fun l => { l with reported := true }) l.queue (fun q => { q with quiet := l.counter }) with
      reports := s.reports ++ [.quiescent l.queue l.counter] ++ rs, quietReports := s.quietReports ++ [(l.lowest, l.counter)] },
      (show execQuiescence n s = _ from ?_), rfl, rfl, rfl, by simp, rfl⟩
    simp only [execQuiescence, hl, h, hq, hrep, Nat.not_lt.mpr hle, Bool.not_true, decide_false, Bool.or_self, Bool.false_eq_true,
      if_false, hrs]
    refine congrArg Host.Outcome.next ((if_pos ?_).trans ?_)
    · exact hlen
    · rfl
  · show execQuiescenceReport cluster 0 s = _
    simp only [execQuiescenceReport, hr, ha, hp, hact, hwait, htrap, hmode, ne_eq, not_true_eq_false, Option.isSome_none,
      Bool.false_eq_true, or_self, if_false]

end Sys2Proof.Laws
end

section
/-! Host queues (18_scheduling.md R395-R398, 23_host_and_links.md R464-R466). -/

namespace Sys2Proof.Laws

open Sys2Proof.Machine Sys2Proof.Terms

/-! ### The command at HEAD -/

/-- A command that starts takes its queue on, and has its effect or, where its level is cancelled, none (R405). -/
theorem command_of_starts {op q : Nat} {s u : State} {x : Queue} {r : CRec} (h : Starts op q s x r u) (k : State → Queue → CRec → State) :
    State.command q op k s = if 4 ≤ op ∧ u.levelGone x.job x.phase none then u.finishNow x r 0 true else k u x r := by
  obtain ⟨hq, hlive, hsome, bs, v, hb, rfl, hmal, hop, hmay, hmask, rfl⟩ := h
  have hst : (x.state != .running && x.state != .waiting) = false := by
    obtain h | h := hlive <;> rw [h] <;> rfl
  unfold State.command
  simp only [hq, hst, beq_false_of_ne hsome, hb, hmal, hop, hmay, hmask, bne_self_eq_false, Bool.or_self, Bool.not_true,
    Bool.false_eq_true, if_false]

theorem command_of_starts_early {op q : Nat} {s u : State} {x : Queue} {r : CRec} (h : Starts op q s x r u) (ho : op < 4)
    (k : State → Queue → CRec → State) : State.command q op k s = k u x r := by
  rw [command_of_starts h, if_neg fun h => absurd h.1 (Nat.not_le.mpr ho)]

theorem command_of_starts_live {op q : Nat} {s u : State} {x : Queue} {r : CRec} (h : Starts op q s x r u)
    (hg : u.levelGone x.job x.phase none = false) (k : State → Queue → CRec → State) : State.command q op k s = k u x r := by
  rw [command_of_starts h, if_neg fun h => Bool.false_ne_true (hg.symm.trans h.2)]

theorem command_of_starts_gone {op q : Nat} {s u : State} {x : Queue} {r : CRec} (h : Starts op q s x r u) (ho : 4 ≤ op)
    (hg : u.levelGone x.job x.phase none = true) (k : State → Queue → CRec → State) :
    State.command q op k s = u.finishNow x r 0 true := by
  rw [command_of_starts h, if_pos ⟨ho, hg⟩]

/-- A launch outside a graph comes after its queue's last completion. -/
theorem afterTime_none (s : State) (x : Queue) : s.afterTime x none = x.time := by
  unfold State.afterTime
  rw [List.filter_eq_nil_iff.mpr fun g _ => by simp]
  rfl

theorem execHostCopy_of_none {s v : State} {q n : Nat} {hs : List HostCmd}
    (hhs : hs = s.hostCmds.filter fun h => h.queue == q && !h.failed)
    (hnv : (n, v) = if hs = [] then (0, s) else s.chooseNat (hs.length + 1)) (hn : hs[n]? = none) :
    execHostCopy q s = .next (State.startCopy q v) := by
  unfold execHostCopy
  cases hs with
  | nil =>
    rw [← hhs]
    cases hnv
    rfl
  | cons h hs =>
    rw [if_neg (List.cons_ne_nil _ _)] at hnv
    rw [← hhs]
    dsimp only
    rw [← hnv]
    dsimp only
    rw [hn]

theorem execHostCopy_of_some {s v : State} {q n : Nat} {hs : List HostCmd} {h : HostCmd}
    (hhs : hs = s.hostCmds.filter fun h => h.queue == q && !h.failed)
    (hnv : (n, v) = if hs = [] then (0, s) else s.chooseNat (hs.length + 1)) (hn : hs[n]? = some h) :
    execHostCopy q s = .next ((v.workCopy h.id).workCopy h.id) := by
  unfold execHostCopy
  cases hs with
  | nil => exact nomatch hn
  | cons h' hs =>
    rw [if_neg (List.cons_ne_nil _ _)] at hnv
    rw [← hhs]
    dsimp only
    rw [← hnv]
    dsimp only
    rw [hn]

/-- A `COPY` that has taken its steps keeps the work that is left, and asks for what holds it. -/
theorem workCopy_of_steps {s v v' u u' : State} {h : HostCmd} {w y : EWork} {t : DWord} {n : Nat}
    (hf : s.hostCmds.find? (·.id == h.id) = some h) (hfail : h.failed = false) (hperf : h.performed = false)
    (hw : (match h.work with | some w => (w, s) | none => s.copyWork h) = (w, v)) (hn : v.chooseNat (2 * w.todo.length + 1) = (n, v'))
    (hend : ((edgeClient h.id h.job (tmax s.edgeTime h.time) h.wins).steps (2 * w.todo.length - n) w v'
          (edgeClient h.id h.job (tmax s.edgeTime h.time) h.wins).time = (u, t, y, .more) ∧
        u' = u.edgeSettle.updHostCmd h.id fun h => { h with work := some y, performed := y.todo.isEmpty, time := t }) ∨
      ∃ x, (edgeClient h.id h.job (tmax s.edgeTime h.time) h.wins).steps (2 * w.todo.length - n) w v'
          (edgeClient h.id h.job (tmax s.edgeTime h.time) h.wins).time = (u, t, y, .held x) ∧
        u' = (u.edgeSettle.updHostCmd h.id fun h => { h with work := some y, performed := y.todo.isEmpty, time := t }).askHold
          (edgeClient h.id h.job (tmax s.edgeTime h.time) h.wins) x) : s.workCopy h.id = u' := by
  unfold State.workCopy
  rw [hf]
  dsimp only
  rw [if_neg (by simp [hfail]), if_neg (by simp [hperf])]
  cases hk : h.work with
  | some w' =>
    rw [hk] at hw
    obtain ⟨rfl, rfl⟩ := Prod.mk.inj hw
    obtain ⟨hst, rfl⟩ | ⟨x, hst, rfl⟩ := hend
    · simp only [hn, hst]
    · simp only [hn, hst]
  | none =>
    rw [hk] at hw
    have hw : s.copyWork h = (w, v) := hw
    obtain ⟨hst, rfl⟩ | ⟨x, hst, rfl⟩ := hend
    · simp only [hw, hn, hst]
    · simp only [hw, hn, hst]

/-- Settles O51: a command that starts is its rule, `command_of_starts`; then the effect of its operation. -/
theorem queueCommands : Obligations.QueueCommands := by
  intro q s u x r
  refine ⟨fun hs h => ?_, fun v t bs hs hi hg hr => ?_, fun v w t t' bs nodes hs hal hr hnodes hok hg hp => ?_,
    fun v hs hv => ⟨fun hph hirq => ?_, fun h => ?_⟩, fun op e hs he hg => ?_,
    fun hg => ⟨fun t hs ht => ?_, fun hs hb => ?_, fun hs hb => ?_, fun hs => ?_, fun hs => ?_⟩,
    fun hs n v hhs hnv => ⟨fun h hh => ?_, fun hn hst => ⟨fun hg => ?_, fun hg => ?_⟩⟩,
    fun h w v v' u y t n c hf hfail hperf hw hn hc => ⟨fun hst => ?_, fun z hst => ?_⟩, fun h hf hfail hperf hwin => ?_⟩
  · show Host.Outcome.next (State.command q 1 _ s) = _
    rw [command_of_starts_early hs (by decide)]
    unfold State.startLaunch
    rw [if_pos (by simpa using h), afterTime_none]
  · show Host.Outcome.next (State.command q 1 _ s) = _
    rw [command_of_starts_early hs (by decide)]
    simp only [State.startLaunch, hi, hg, hr, afterTime_none, Bool.not_true, Bool.or_self, Bool.false_eq_true, if_false]
  · subst hnodes
    show Host.Outcome.next (State.command q 2 _ s) = _
    rw [command_of_starts_early hs (by decide)]
    simp only [hal, hr, hok, hg, hp, ne_eq, not_true_eq_false, Bool.false_eq_true, if_false]
  · subst hv
    show Host.Outcome.next (State.command q 3 _ s) = _
    rw [command_of_starts_early hs (by decide)]
    simp only [hph, hirq, Option.isNone_none, Bool.and_self, if_true]
  · subst hv
    have hcond : (x.phase.isNone && r.irq) = false := by
      obtain h | h := h
      · rw [Option.isNone_eq_false_iff.mpr (Option.isSome_iff_ne_none.mpr h), Bool.false_and]
      · rw [h, Bool.and_false]
    show Host.Outcome.next (State.command q 3 _ s) = _
    rw [command_of_starts_early hs (by decide)]
    simp only [hcond, Bool.false_eq_true, if_false]
  · simp only [List.mem_cons, Prod.mk.injEq, List.not_mem_nil, or_false] at he
    obtain ⟨rfl, rfl⟩ | ⟨rfl, rfl⟩ | ⟨rfl, rfl⟩ | ⟨rfl, rfl⟩ := he
    all_goals exact congrArg Host.Outcome.next (command_of_starts_gone hs (by decide) hg _)
  · subst ht
    exact congrArg Host.Outcome.next (command_of_starts_live hs hg _)
  · refine congrArg Host.Outcome.next ((command_of_starts_live hs hg _).trans ?_)
    simp only [hb, Bool.false_eq_true, if_false]
  · refine congrArg Host.Outcome.next ((command_of_starts_live hs hg _).trans ?_)
    simp only [hb, if_true]
  · exact congrArg Host.Outcome.next (command_of_starts_live hs hg _)
  · exact congrArg Host.Outcome.next (command_of_starts_live hs hg _)
  · exact execHostCopy_of_some hhs hnv hh
  · exact (execHostCopy_of_none hhs hnv hn).trans (congrArg Host.Outcome.next (command_of_starts_gone hst (by decide) hg _))
  · exact (execHostCopy_of_none hhs hnv hn).trans (congrArg Host.Outcome.next (command_of_starts_live hst hg _))
  · subst hc
    exact workCopy_of_steps hf hfail hperf hw hn (.inl ⟨hst, rfl⟩)
  · subst hc
    exact workCopy_of_steps hf hfail hperf hw hn (.inr ⟨z, hst, rfl⟩)
  · have hany : (s.winReqs.any fun w => match w.kind with | .estore k _ _ => k == h.id | _ => false) = false := by
      refine List.any_eq_false.mpr fun w hw hc => ?_
      split at hc
      · exact hwin w hw _ _ (by rw [‹w.kind = _›, beq_iff_eq.mp hc])
      · exact Bool.false_ne_true hc
    unfold State.workCopy
    rw [hf]
    dsimp only
    rw [if_neg (by simp [hfail]), if_pos hperf, if_neg (by exact Bool.eq_false_iff.mp hany)]

theorem queueError_of_queue {s : State} {q : Nat} {x : Queue} (hx : s.queueOf q = some x) (code : BitVec 8) (head : Word) :
    s.queueError q code head = { (s.clearWalkFaults x.id).updQueue q fun x => { x with state := .error, code := code, errHead := head }
      with reports := s.reports ++ [.queueError q code] } := by
  unfold State.queueError
  rw [hx]
  rfl

/-- A register of a queue's page of BAR2, eight bytes of its two registers. -/
theorem hostValue_bar2 {s : State} {q o : Nat} {x : Queue} (hx : s.queueOf q = some x) (hq : q < 16384) (ho : o = 8 ∨ o = 16) :
    s.hostValue (.bar2 (4096 * q + o) 8) = some [ofBytes
      (((toBytes 8 (x.head.setWidth 64).toNat ++ toBytes 8 x.stat.toNat).drop (o - 8)).take 8)] := by
  have hmod : (4096 * q + o) % 4096 = o := by omega
  have hdiv : (4096 * q + o) / 4096 = q := by omega
  simp only [State.hostValue, hmod, hdiv, State.queueRegs, hx]
  refine if_neg ?_
  rintro (h | h | h | h | h)
  · omega
  · omega
  · omega
  · exact h (.inr trivial)
  · omega

/-- Settles O52: the register pages are those of BAR2; each event finds its queue, whose state decides. -/
theorem queuesAnswer : Obligations.QueuesAnswer := by
  intro q s x hx
  refine ⟨fun v hlive => ⟨fun h => ?_, fun h1 h2 h3 => ?_, fun h1 h2 h3 => ?_⟩, fun v h => ?_, fun base size job vector hq hv hst hl hr => ?_,
    fun h => ?_, fun v bs y hlive hne hb hw hy => ?_, fun hq => ⟨?_, ?_⟩, fun c n hn hc => ?_⟩
  · have hst : ¬ (x.state ≠ .running ∧ x.state ≠ .waiting) := fun h' => hlive.elim h'.1 h'.2
    show execDbell q v s = _
    simp only [execDbell, hx, if_neg hst, if_pos h]
  · have hst : ¬ (x.state ≠ .running ∧ x.state ≠ .waiting) := fun h' => hlive.elim h'.1 h'.2
    have hwin : ¬ (v = x.tail ∨ 2 ^ 31 ≤ (v - x.tail).toNat) := fun h => h.elim h1 (Nat.not_le.mpr h2)
    show execDbell q v s = _
    simp only [execDbell, hx, if_neg hst, if_neg hwin, if_pos h3, queueError_of_queue hx]
  · have hst : ¬ (x.state ≠ .running ∧ x.state ≠ .waiting) := fun h' => hlive.elim h'.1 h'.2
    have hwin : ¬ (v = x.tail ∨ 2 ^ 31 ≤ (v - x.tail).toNat) := fun h => h.elim h1 (Nat.not_le.mpr h2)
    show execDbell q v s = _
    simp only [execDbell, hx, if_neg hst, if_neg hwin, if_neg (Nat.not_lt.mpr h3)]
  · have hst : x.state ≠ .running ∧ x.state ≠ .waiting := by
      obtain h | h | h := h <;> rw [h] <;> exact ⟨nofun, nofun⟩
    show execDbell q v s = _
    simp only [execDbell, hx, if_pos hst]
  · have hl' : (s.lifecycle != .decommissioned) = true := bne_iff_ne.mpr hl
    show execQueueEnable q base size job vector s = _
    simp only [execQueueEnable, hx, hst, hl', hr, Nat.not_le.mpr hq, Nat.not_le.mpr hv, beq_self_eq_true, Bool.and_self, Bool.not_true,
      Bool.false_eq_true, or_self, if_false]
  · have hst : ¬ (x.state ≠ .error ∧ x.state ≠ .stopped) := fun h' => h.elim h'.1 h'.2
    show execQueueReset q s = _
    simp only [execQueueReset, hx, if_neg hst]
    rfl
  · have hst : (x.state != .running && x.state != .waiting) = false := by
      obtain h | h := hlive <;> rw [h] <;> rfl
    have hwrong : (v.malformed x.job bs || (v.mayStart x (CRec.of bs) && v.badMask x.job (CRec.of bs))) = true := by
      obtain h | ⟨h1, h2⟩ := hw
      · rw [h, Bool.true_or]
      · rw [h1, h2, Bool.and_self, Bool.or_true]
    show execMalformedRecord q s = _
    simp only [execMalformedRecord, hx, hst, beq_false_of_ne hne, hb, hwrong, Bool.or_self, Bool.not_false, Bool.and_self,
      Bool.false_eq_true, if_false, if_true, queueError_of_queue hy]
  · rw [hostValue_bar2 hx hq (.inl rfl), Nat.sub_self, List.drop_zero, List.take_left' (toBytes_length ..), ofBytes_toBytes, BitVec.toNat_setWidth,
      Nat.mod_eq_of_lt (by omega), Nat.mod_eq_of_lt (by omega)]
  · rw [hostValue_bar2 hx hq (.inr rfl), List.drop_left' (toBytes_length ..), List.take_of_length_le (Nat.le_of_eq (toBytes_length ..)),
      ofBytes_toBytes, Nat.mod_eq_of_lt (by omega)]
    rfl
  · simp only [State.hostValue, Nat.not_le.mpr hn, hc, if_false]
    rfl

end Sys2Proof.Laws
end

section
/-! The spill engine (19_traps.md R424-R428). -/

namespace Sys2Proof.Laws

open Sys2Proof.Machine Sys2Proof.Terms

/-- A traveller in its slot that the engine can take off the device. -/
theorem spillTrav_of_settled {s u : State} {cluster job : Nat} {a b : Agent} (hjob : a.job = job)
    (hrec : recordOk (s.travAddr a.home) 1024 = true) (hh : a.inHandler = false) (hb : (s.unpark a).agent? a.uid = some b)
    (hf : b.finishing = false) (hst : (s.unpark a).settled b = true)
    (hw : (s.unpark a).physWrite cluster ((s.unpark a).travAddr b.home) ((s.unpark a).travRec b) = .ok u) :
    s.spillTrav cluster job a = (u.setSpilled b.uid).spDone cluster := by
  have hrec : s.travInTier a = true := hrec
  simp only [State.spillTrav, hjob, hrec, hh, hb, hf, hst, hw, ne_eq, not_true_eq_false, Bool.not_true, Bool.or_self,
    Bool.false_eq_true, if_false]

/-- The engine's look at a command to spill a slot that has a traveller in it. -/
theorem execSpillSlot_of_inSlot {s : State} {cluster core slot job : Nat} {a : Agent} (hc : Commanded s 0 cluster core slot job)
    (h : (s.spillOf cluster).target.bind s.agent? = some a ∧ a.status ≠ .travelling ∧ a.inSlot = true ∨
      (s.spillOf cluster).target.bind s.agent? = none ∧ s.inSlotOf ⟨cluster, core, slot⟩ = some a) :
    execSpillSlot cluster core slot s = .next (s.spillTrav cluster job a) := by
  have hc : s.spCommand 0 cluster core slot = some job := hc
  obtain ⟨ht, hn, hin⟩ | ⟨ht, hin⟩ := h
  · simp only [execSpillSlot, hc, ht, hn, hin, if_false, if_true]
  · simp only [execSpillSlot, hc, ht, hin]

/-- The engine's look at a command to restore a slot that nothing holds. -/
theorem execRestoreSlot_of_spilled {s u : State} {cluster core slot job : Nat} {a : Agent} {xs : List Chunk}
    (hc : Commanded s 1 cluster core slot job) (hn : s.inSlotOf ⟨cluster, core, slot⟩ = none)
    (hrec : recordOk (s.travAddr ⟨cluster, core, slot⟩) 1024 = true)
    (hothers : ∀ b ∈ s.agents, b.job = job ∨ s.holdsSlot ⟨cluster, core, slot⟩ b = false)
    (hh : s.homedAt ⟨cluster, core, slot⟩ job = some a) (hst : a.status = .spilled)
    (hr : s.physRead cluster (s.travAddr ⟨cluster, core, slot⟩ / 128) 8 = .ok (u, xs)) :
    execRestoreSlot cluster core slot s = .next (if travOk xs = true then
      ((u.claimSlot ⟨cluster, core, slot⟩ job).setAgent (u.restored a ⟨cluster, core, slot⟩ xs)).spDone cluster
      else u.spFail cluster 0x19) := by
  have hc : s.spCommand 1 cluster core slot = some job := hc
  have hother : (s.agents.any fun a => a.job != job && s.holdsSlot ⟨cluster, core, slot⟩ a) = false := by
    refine List.any_eq_false.mpr fun b hb hc => ?_
    simp only [Bool.and_eq_true, bne_iff_ne] at hc
    exact (hothers b hb).elim hc.1 fun h => Bool.false_ne_true (h.symm.trans hc.2)
  simp only [execRestoreSlot, hc, hn, hrec, hother, hh, hst, hr, Option.isSome_none, Bool.not_true, Bool.false_eq_true, if_false,
    reduceCtorEq, ne_eq, not_true_eq_false]
  cases travOk xs
  · rfl
  · rfl

/-- Settles O53: the command is the engine's own (`Commanded`), and each look at it takes the branch of its hypotheses. -/
theorem spillEngine : Obligations.SpillEngine := by
  intro s cluster core slot job p hp
  subst hp
  refine ⟨fun a hc ha => ⟨fun b u hjob hrec hh hb hf hst hw => ?_, fun hjob => ?_, fun hjob hrec => ?_, fun hjob hrec hh => ?_⟩,
    fun hc ht hn => ⟨fun hh => ?_, fun a hh => ⟨fun hj => ?_, fun hj hst => ?_, fun hj hst => ?_⟩⟩,
    fun a u xs hc hn hrec hothers hh hst hr => ⟨fun hx => ?_, fun hx => ?_⟩, fun a hc hn => ?_, fun hc hn hrec => ?_,
    fun b hb hc hn hrec hj hhold => ?_, fun ws vs t u hc hws hne hall ht hvs hvall hw => ?_, fun hc hws => ?_,
    fun ws u hc hws hne hall => ?_⟩
  · exact (execSpillSlot_of_inSlot hc ha).trans (congrArg Host.Outcome.next (spillTrav_of_settled hjob hrec hh hb hf hst hw))
  · exact (execSpillSlot_of_inSlot hc ha).trans (congrArg Host.Outcome.next (if_pos hjob))
  · have hrec : s.travInTier a = false := hrec
    refine (execSpillSlot_of_inSlot hc ha).trans ?_
    simp only [State.spillTrav, hjob, hrec, ne_eq, not_true_eq_false, Bool.not_false, if_false, if_true]
  · have hrec : s.travInTier a = true := hrec
    refine (execSpillSlot_of_inSlot hc ha).trans ?_
    simp only [State.spillTrav, hjob, hrec, hh, ne_eq, not_true_eq_false, Bool.not_true, Bool.false_eq_true, if_false, if_true]
  · have hc : s.spCommand 0 cluster core slot = some job := hc
    show execSpillSlot cluster core slot s = _
    simp only [execSpillSlot, hc, ht, hn, hh]
  · have hc : s.spCommand 0 cluster core slot = some job := hc
    show execSpillSlot cluster core slot s = _
    simp only [execSpillSlot, hc, ht, hn, hh, hj, ne_eq, not_false_eq_true, if_true]
  · have hc : s.spCommand 0 cluster core slot = some job := hc
    show execSpillSlot cluster core slot s = _
    simp only [execSpillSlot, hc, ht, hn, hh, hj, hst, ne_eq, not_true_eq_false, if_false]
  · have hc : s.spCommand 0 cluster core slot = some job := hc
    show execSpillSlot cluster core slot s = _
    simp only [execSpillSlot, hc, ht, hn, hh, hj, hst, ne_eq, not_true_eq_false, if_false, if_true]
  · exact (execRestoreSlot_of_spilled hc hn hrec hothers hh hst hr).trans (congrArg Host.Outcome.next (if_pos hx))
  · exact (execRestoreSlot_of_spilled hc hn hrec hothers hh hst hr).trans
      (congrArg Host.Outcome.next (if_neg (by rw [hx]; exact Bool.false_ne_true)))
  · have hc : s.spCommand 1 cluster core slot = some job := hc
    show execRestoreSlot cluster core slot s = _
    simp only [execRestoreSlot, hc, hn, Option.isSome_some, if_true]
  · have hc : s.spCommand 1 cluster core slot = some job := hc
    show execRestoreSlot cluster core slot s = _
    simp only [execRestoreSlot, hc, hn, hrec, Option.isSome_none, Bool.not_false, Bool.false_eq_true, if_false, if_true]
  · have hc : s.spCommand 1 cluster core slot = some job := hc
    have hother : (s.agents.any fun a => a.job != job && s.holdsSlot ⟨cluster, core, slot⟩ a) = true :=
      List.any_eq_true.mpr ⟨b, hb, by simp [hj, hhold]⟩
    show execRestoreSlot cluster core slot s = _
    simp only [execRestoreSlot, hc, hn, hrec, hother, Option.isSome_none, Bool.not_true, Bool.false_eq_true, if_false, if_true]
  · have hc : s.spCommand 2 cluster core slot = some job := hc
    have hempty : ws.isEmpty = false := List.isEmpty_eq_false_iff.mpr hne
    have hjobs : (ws.any fun a => a.job != job) = false := List.any_eq_false.mpr fun a ha => by simp [(hall a ha).1]
    have hrecs : (ws.any fun a => !recordOk (s.warpAddr a.place) 9728) = false :=
      List.any_eq_false.mpr fun a ha => by simp [(hall a ha).2.1]
    have hhs : (ws.any fun a => a.inHandler || a.lanes.any fun ln => ln.chain.isSome) = false := by
      refine List.any_eq_false.mpr fun a ha => ?_
      obtain ⟨_, _, hh, hln⟩ := hall a ha
      have hlanes : (a.lanes.any fun ln => ln.chain.isSome) = false := List.any_eq_false.mpr fun ln h => by simp [hln ln h]
      rw [hh, hlanes]
      exact Bool.false_ne_true
    have hvs' : (vs.any fun a => a.finishing || !t.settled a) = false :=
      List.any_eq_false.mpr fun a ha => by simp [(hvall a ha).1, (hvall a ha).2]
    subst ht hvs
    show execPreemptWarp cluster core slot s = _
    simp only [execPreemptWarp, hc, ← hws, hempty, hjobs, hrecs, hhs, hvs', hw, Bool.false_eq_true, if_false]
  · have hc : s.spCommand 2 cluster core slot = some job := hc
    show execPreemptWarp cluster core slot s = _
    simp only [execPreemptWarp, hc, hws, List.isEmpty_nil, if_true]
  · have hc : s.spCommand 3 cluster core slot = some job := hc
    have hempty : ws.isEmpty = false := List.isEmpty_eq_false_iff.mpr hne
    have hjobs : (ws.any fun a => a.job != job) = false := List.any_eq_false.mpr fun a ha => by simp [(hall a ha).1]
    have hrecs : (ws.any fun a => !recordOk (s.warpAddr a.place) 9728) = false :=
      List.any_eq_false.mpr fun a ha => by simp [(hall a ha).2.1]
    have htaken : (ws.any fun a => s.agents.any fun b => b.wide && b.admitted && b.place == a.place) = false := by
      refine List.any_eq_false.mpr fun a ha hc => ?_
      obtain ⟨b, hb, hbp⟩ := List.any_eq_true.mp hc
      simp only [Bool.and_eq_true, beq_iff_eq] at hbp
      exact (hall a ha).2.2 b hb hbp.1.1 hbp.1.2 hbp.2
    refine ⟨fun bs hr => ?_, fun hr => ?_⟩
    · show execResumeWarp cluster core slot s = _
      simp only [execResumeWarp, hc, ← hws, hempty, hjobs, hrecs, htaken, hr, Bool.false_eq_true, if_false]
    · show execResumeWarp cluster core slot s = _
      simp only [execResumeWarp, hc, ← hws, hempty, hjobs, hrecs, htaken, hr, Bool.false_eq_true, if_false]

end Sys2Proof.Laws
end

section
/-! Writes of system software, the host, the links (24_security_power_health.md R476, R479; 23_host_and_links.md R461-R469). -/

namespace Sys2Proof.Laws

open Sys2Proof.Machine Sys2Proof.Terms

/-! ### System software -/

theorem agent?_cregLane {s : State} {unit : Nat} {a : Agent} (ha : s.agent? unit = some a) (lane idx : Nat) (v : DWord) :
    ∃ a', (s.cregLane unit lane idx v).agent? unit = some a' := by
  unfold State.cregLane
  rw [ha]
  exact ⟨_, by rw [State.agent?_updLane, if_pos rfl, ha, Option.map_some]⟩

/-- A write of a unit's register by firmware: its lane's part, then the unit's. -/
theorem execRegisterWrite_of_unit {s : State} {unit lane : Nat} {a : Agent} {idx : BitVec 12} (ha : s.agent? unit = some a) (v : DWord)
    (h200 : idx.toNat ≠ 0x200) (hj : jobScope idx.toNat = false) (hc : cregCause idx.toNat v = none) :
    execRegisterWrite unit lane idx v s = .next ((s.cregLane unit lane idx.toNat v).cregOnce unit
      (match a.slotA with | some p => p.act | none => false) .firmware idx.toNat v) := by
  unfold execRegisterWrite
  simp only [h200, hj, ha, hc, if_false, Option.isSome_none, Bool.false_eq_true] <;> rfl

/-- Settles O54: the events are their writes; a register of a unit is written lane part first (`execRegisterWrite_of_unit`). -/
theorem systemWrites : Obligations.SystemWrites := by
  intro s unit lane job cluster k v
  refine ⟨rfl, fun a ha => ?_, rfl, rfl, rfl, rfl, rfl, ?_, ?_, ?_, ?_, fun a ha => ⟨?_, ?_⟩⟩
  · show Host.Outcome.next (s.cregLane unit lane 0x003 v) = _
    unfold State.cregLane
    rw [ha] <;> rfl
  · rfl
  · rfl
  · rfl
  · rfl
  · obtain ⟨a', ha'⟩ := agent?_cregLane ha lane 0x004 v
    refine (execRegisterWrite_of_unit (lane := lane) (idx := 0x004) ha v (by decide) (by decide) ?_).trans (congrArg Host.Outcome.next ?_)
    · simp [cregCause]
    show (s.cregLane unit lane 4 v).cregOnce unit _ .firmware 4 v = _
    unfold State.cregOnce
    rw [ha'] <;> rfl
  · obtain ⟨a', ha'⟩ := agent?_cregLane ha lane 0x101 v
    refine (execRegisterWrite_of_unit (lane := lane) (idx := 0x101) ha v (by decide) (by decide) ?_).trans (congrArg Host.Outcome.next ?_)
    · simp [cregCause]
    show (s.cregLane unit lane 0x101 v).cregOnce unit _ .firmware 0x101 v = _
    unfold State.cregOnce
    rw [ha'] <;> rfl

/-! ### The host -/

/-- The device address behind a host address, decoder by decoder. -/
theorem hostPa_eq (s : State) (a : Nat) :
    s.hostPa a = ((s.hdm[0].bind fun b => if b ≤ a ∧ a < b + 0x6000000000 then some (a - b) else none) <|>
      (s.hdm[1].bind fun b => if b ≤ a ∧ a < b + 0x20000000000 then some (0x10000000000 + (a - b)) else none) <|>
      if a < 2 ^ 46 then some (0x800000000000 + a) else none) := by
  unfold State.hostPa
  simp [hdmTier]

/-- A range within one line is one piece of it. -/
theorem linesOf_one {a n k : Nat} (hn : 0 < n) (h : a % 128 + n ≤ 128) : linesOf (k + 2) a n = [(a / 128, a % 128, n)] := by
  have hmin : min n (128 - a % 128) = n := by omega
  simp only [linesOf, hmin, Nat.sub_self, if_neg (Nat.pos_iff_ne_zero.mp hn), if_true]

/-- A host write within one line, which is recalled first. -/
theorem hostParts_one {s u : State} {pa : Nat} {bs : List Byte} {bad : Bool} (hn : 0 < bs.length) (h : pa % 128 + bs.length ≤ 128)
    (hr : s.hostRecall (pa / 128) = .ok u) :
    s.hostParts pa bs bad = .ok (u.hostStore (pa / 128) (pa % 128) bs (if bad then sectorMask (pa % 128) bs.length else 0)) := by
  have hdrop : 128 * (pa / 128) + pa % 128 - pa = 0 := by omega
  unfold State.hostParts
  simp only [linesOf_one hn h, List.foldl_cons, List.foldl_nil, hr, hdrop, List.drop_zero, List.take_length]

/-- Settles O55. -/
theorem hostAccesses : Obligations.HostAccesses := by
  intro s line addr pa data
  refine ⟨fun b hb => ⟨fun o ho => ?_, fun h1 a ha ha2 => ?_⟩, fun b hb h0 o ho => ?_, fun u a hp hr => ?_, fun u hp hq hr => ?_,
    fun u off hl hoff hpos hle hr => ?_, fun u hp hr => ?_, fun n u hn hu => ⟨?_, fun d => ?_⟩, fun u ho hr => ?_, fun u a ho hr => ?_,
    fun h => ⟨?_, ?_⟩, fun h => ?_⟩
  · rw [hostPa_eq, hb, Option.bind_some, if_pos (by omega), Nat.add_sub_cancel_left]
    rfl
  · rw [hostPa_eq, hb, h1, Option.bind_some, if_neg (by omega), if_pos ha2]
    rfl
  · rw [hostPa_eq, hb, h0, Option.bind_some, if_pos (by omega), Nat.add_sub_cancel_left]
    rfl
  · show execHostRead line s = _
    simp only [execHostRead, hp, hr]
  · show execHostWrite addr data s = _
    simp only [execHostWrite, hp, hq, hr, ne_eq, not_true_eq_false, if_false]
  · subst hl hoff
    refine ⟨_, hostParts_one hpos hle hr, ?_, fun w hw => ⟨?_, ?_⟩⟩
    · show Memory.writeBytes u.mem (128 * (pa / 128) + pa % 128) data.bytes = _
      rw [Nat.div_add_mod]
    · subst hw
      rfl
    · subst hw
      rfl
  · show execHostOwnershipRequest line s = _
    simp only [execHostOwnershipRequest, hp, hr]
  · subst hu
    show execBackInvalidateReply n none s = _
    simp only [execBackInvalidateReply, hn]
    rfl
  · subst hu
    show execBackInvalidateReply n (some d) s = _
    simp only [execBackInvalidateReply, hn]
    rfl
  · show execSnoopInvalidate line s = _
    simp only [execSnoopInvalidate, State.snooped, ho, hr, Bool.not_true, Bool.false_eq_true, if_false]
  · show execSnoopData line s = _
    simp only [execSnoopData, State.snooped, ho, hr, Bool.not_true, Bool.false_eq_true, if_false]
    rfl
  · show execHostRead line s = _
    simp only [execHostRead, h]
  · show execHostOwnershipRequest line s = _
    simp only [execHostOwnershipRequest, h]
  · show execHostWrite addr data s = _
    simp only [execHostWrite, h]

end Sys2Proof.Laws
end

section
/-! Flits and the scale-up window (23_host_and_links.md R467-R469). -/

namespace Sys2Proof.Laws

open Sys2Proof.Machine Sys2Proof.Terms

/-! ### Flits -/

theorem flitBody_length (f : Flit) : f.body.length = 244 := by
  simp [Flit.body]

theorem flitPayload_toList (p : Vector Byte 240) : flitPayload p.toList = p := by
  unfold flitPayload
  ext i hi
  simp [hi]

/-- A flit comes back from its 256 bytes. -/
theorem flitOf_raw {f : Flit} (hty : f.ty < 16) (hseq : f.seq < 4096) (hack : f.ack < 4096)
    (hbad : f.bad = Config.flitPoisoned f.payload.toList) : flitOf f.raw = some f := by
  have htake : f.raw.take 244 = f.body := List.take_left' (flitBody_length f)
  have hdrop : f.raw.drop 244 = (Config.flitCrc f.body).toList := List.drop_left' (flitBody_length f)
  have hlen : f.raw.length = 256 := by simp [Flit.raw, flitBody_length]
  have hw : ofBytes (f.body.take 2) = f.ty * 4096 + f.seq := by
    rw [Flit.body, List.append_assoc, List.take_left' (toBytes_length ..), ofBytes_toBytes]
    omega
  have hrest : f.body.drop 2 = toBytes 2 (f.ack % 4096) ++ f.payload.toList := by
    rw [Flit.body, List.append_assoc, List.drop_left' (toBytes_length ..)]
  have ha : ofBytes ((f.body.drop 2).take 2) % 4096 = f.ack := by
    rw [hrest, List.take_left' (toBytes_length ..), ofBytes_toBytes]
    omega
  have hp : f.body.drop 4 = f.payload.toList := by
    rw [show f.body.drop 4 = (f.body.drop 2).drop 2 by rw [List.drop_drop], hrest, List.drop_left' (toBytes_length ..)]
  have h1 : (f.ty * 4096 + f.seq) / 4096 = f.ty := by omega
  have h2 : (f.ty * 4096 + f.seq) % 4096 = f.seq := by omega
  unfold flitOf
  simp only [htake, hdrop, hlen, hw, ha, hp, h1, h2, flitPayload_toList, ← hbad, ne_eq, not_true_eq_false, or_self, if_false]

theorem accept_of_seq {s : State} {link seq ack : Nat} {x : Link} (hx : s.linkNo link = some x)
    (h : seq % 4096 = (x.inSeq + 1) % 4096) :
    s.accept link seq ack = some (s.updLink link fun x => { x.acknowledge ack with inSeq := seq % 4096 }) := by
  unfold State.accept
  simp only [hx, if_pos h]

theorem accept_of_not_seq {s : State} {link seq ack : Nat} {x : Link} (hx : s.linkNo link = some x)
    (h : seq % 4096 ≠ (x.inSeq + 1) % 4096) : s.accept link seq ack = none := by
  unfold State.accept
  simp only [hx, if_neg h]

/-- Settles O56: a flit is accepted in SEQ order (`accept_of_seq`); its kind and its payload say the rest. -/
theorem linkFlits : Obligations.LinkFlits := by
  intro s u link seq ack bytes pay x hx hpay
  refine ⟨?_, ?_, ?_, ?_, ?_, ?_, ?_⟩
  · intro f h1 h2 h3 h4
    exact flitOf_raw h1 h2 h3 h4
  · intro h
    have hacc := accept_of_not_seq (ack := ack) hx h
    refine ⟨?_, ?_, ?_, ?_, ?_⟩
    · show execCreditFlit link seq ack bytes s = _
      simp only [execCreditFlit, hacc, Option.getD_none]
    · show execIdleFlit link seq ack bytes s = _
      simp only [execIdleFlit, hacc, Option.getD_none]
    · show execRequestFlit link seq ack bytes s = _
      simp only [execRequestFlit, hacc]
    · show execResponseFlit link seq ack bytes s = _
      simp only [execResponseFlit, hacc]
    · show execDataFlit link seq ack bytes s = _
      simp only [execDataFlit, hacc]
  · intro h hu
    have hacc := accept_of_seq (ack := ack) hx h
    rw [← hu] at hacc
    refine ⟨?_, ?_, fun q v ty bs bad hq h1 h2 hsv => ?_, fun n r hn hr hl => ⟨?_, fun bs bad hk => ?_, fun e d acq sys hk => ?_⟩⟩
    · show execCreditFlit link seq ack bytes s = _
      simp only [execCreditFlit, hacc, Option.getD_some]
    · show execIdleFlit link seq ack bytes s = _
      simp only [execIdleFlit, hacc, Option.getD_some]
    · show execRequestFlit link seq ack bytes s = _
      simp only [execRequestFlit, hacc, ← hpay, hq, h1, h2, hsv, Bool.and_self, Bool.not_true, Bool.false_eq_true, if_false]
    · show execDataFlit link seq ack bytes s = _
      simp only [execDataFlit, hacc, ← hpay, hn, Option.bind_some, hr, hl, if_true]
    · show execResponseFlit link seq ack bytes s = _
      simp only [execResponseFlit, hacc, ← hpay, hn, Option.bind_some, hr, hl, hk, ne_eq, not_true_eq_false, if_false, State.winDone]
      rfl
    · show execResponseFlit link seq ack bytes s = _
      simp only [execResponseFlit, hacc, ← hpay, hn, Option.bind_some, hr, hl, hk, ne_eq, not_true_eq_false, if_false]
  · exact rfl
  · intro hs hr
    show execFlitReplay link s = _
    simp only [execFlitReplay, hx, List.isEmpty_eq_false_iff.mpr hs, hr, Bool.false_eq_true, if_false]
  · intro hs hr hu
    subst hu
    show execFlitReplay link s = _
    simp only [execFlitReplay, hx, List.isEmpty_eq_false_iff.mpr hs, hr, Bool.false_eq_true, if_false, if_true]
  · intro n r c hn hf hle
    show execWindowRequestTimeout n s = _
    simp only [execWindowRequestTimeout, hn, hf, if_neg (Nat.not_lt.mpr hle)]

end Sys2Proof.Laws
end

section
/-! Attestation, power, reset and lifecycle (24_security_power_health.md R470-R475). -/

namespace Sys2Proof.Laws

open Sys2Proof.Machine Sys2Proof.Terms

/-! ### Attestation -/

theorem attested_of_accepted {s : State} {slot : Nat} (hl : s.lifecycle ≠ .decommissioned) (ha : accepted (.certificate slot) = true)
    (f : State → State) : s.attested slot f = f s :=
  if_neg fun h => h.elim hl fun h => Bool.false_ne_true (h.symm.trans ha)

/-- Settles O57. -/
theorem attestation : Obligations.Attestation := by
  intro s slot off len nonce index offered
  refine ⟨rfl, rfl, rfl, fun hl => ⟨fun ha => ⟨?_, fun body hb => ?_⟩, fun ha => ⟨?_, fun body hb => ?_⟩⟩, fun h t ht => ⟨?_, ?_⟩,
    fun h t ht => ⟨?_, ?_⟩, fun all d hall hd => ⟨?_, ?_⟩⟩
  · exact congrArg Host.Outcome.next (attested_of_accepted hl ha _)
  · subst hb
    exact congrArg Host.Outcome.next (attested_of_accepted hl ha _)
  · exact congrArg Host.Outcome.next (attested_of_accepted hl ha _)
  · subst hb
    exact congrArg Host.Outcome.next (attested_of_accepted hl ha _)
  · subst ht
    exact congrArg Host.Outcome.next (if_pos h)
  · subst ht
    exact congrArg Host.Outcome.next (if_pos h)
  · subst ht
    exact congrArg Host.Outcome.next (if_pos h)
  · subst ht
    exact congrArg Host.Outcome.next (if_pos h)
  · subst hd hall
    rfl
  · subst hd hall
    rfl

/-! ### Power -/

/-- The state changed in memory, its copies, homes, requests, stamps and counters of events only. -/
def TouchesLines (s t : State) : Prop :=
  ∃ mem copies homes evc htime reqs nextId, t = { s with
    mem := mem, copies := copies, homes := homes, evc := evc, htime := htime, reqs := reqs, nextId := nextId }

theorem TouchesLines.refl (s : State) : TouchesLines s s := ⟨_, _, _, _, _, _, _, rfl⟩

theorem TouchesLines.trans {s t u : State} (h : TouchesLines s t) (h' : TouchesLines t u) : TouchesLines s u := by
  obtain ⟨_, _, _, _, _, _, _, rfl⟩ := h
  obtain ⟨_, _, _, _, _, _, _, rfl⟩ := h'
  exact ⟨_, _, _, _, _, _, _, rfl⟩

theorem touchesLines_foldl {α : Type} {f : State → α → State} (hf : ∀ s x, TouchesLines s (f s x)) (l : List α) (s : State) :
    TouchesLines s (l.foldl f s) := by
  induction l generalizing s with
  | nil => exact .refl s
  | cons x l ih => exact (hf s x).trans (ih _)

theorem touchesLines_setMem (s : State) (m : List Host.Cell) : TouchesLines s { s with mem := m } := ⟨_, _, _, _, _, _, _, rfl⟩

theorem touchesLines_dropCopy (s : State) (cluster line : Nat) : TouchesLines s (s.dropCopy cluster line) :=
  ⟨_, _, _, _, _, _, _, rfl⟩

theorem touchesLines_setHome (s : State) (line : Nat) (h : Home) : TouchesLines s (s.setHome line h) := ⟨_, _, _, _, _, _, _, rfl⟩

theorem touchesLines_noteStamp (s : State) (line : Nat) (x : Stamp) : TouchesLines s (s.noteStamp line x) :=
  ⟨_, _, _, _, _, _, _, rfl⟩

theorem touchesLines_tally (s : State) (cluster src n : Nat) : TouchesLines s (s.tally cluster src n) := ⟨_, _, _, _, _, _, _, rfl⟩

theorem touchesLines_recallU1 (s : State) (line k : Nat) (t : Option DWord) : TouchesLines s (s.recallU1 line k t).1 := by
  unfold State.recallU1
  split
  · split
    · exact (((touchesLines_setMem s _).trans (touchesLines_dropCopy _ k line)).trans (touchesLines_setHome _ line _)).trans
        (touchesLines_tally _ k 0x0C 1)
    · exact .refl s
  · exact .refl s

theorem touchesLines_recallU (s : State) (line : Nat) : TouchesLines s (s.recallU line) := by
  have hfold (l : List Nat) (r : State × Option DWord) :
      TouchesLines r.1 (l.foldl (fun (r : State × Option DWord) k => r.1.recallU1 line k r.2) r).1 := by
    induction l generalizing r with
    | nil => exact .refl _
    | cons k l ih => exact (touchesLines_recallU1 r.1 line k r.2).trans (ih _)
  unfold State.recallU
  dsimp only
  split
  · exact .refl s
  · generalize hr : List.foldl _ (s, none) _ = r
    have hr : TouchesLines s r.1 := hr ▸ hfold _ (s, none)
    refine hr.trans ?_
    split
    · exact touchesLines_setHome _ line _
    · exact (touchesLines_setHome _ line _).trans (touchesLines_noteStamp _ line _)

theorem touchesLines_evict (s : State) (cluster line : Nat) : TouchesLines s (s.evict cluster line) := by
  unfold State.evict
  split
  · exact .refl s
  · split
    · exact ⟨_, _, _, _, _, _, _, rfl⟩
    · exact .refl s
    · exact ⟨_, _, _, _, _, _, _, rfl⟩

/-- The state of the device after a cluster's copies have gone home. -/
theorem touchesLines_flush (s : State) (cluster : Nat) (cs : List Copy) :
    TouchesLines s (cs.foldl (fun s c => if c.isU then s.recallU c.line else s.evict cluster c.line) s) := by
  refine touchesLines_foldl (fun s c => ?_) cs s
  split
  · exact touchesLines_recallU s c.line
  · exact touchesLines_evict s cluster c.line

theorem TouchesLines.gated {s t : State} (h : TouchesLines s t) : t.gated = s.gated := by
  obtain ⟨_, _, _, _, _, _, _, rfl⟩ := h
  rfl

theorem TouchesLines.wm {s t : State} (h : TouchesLines s t) : t.wm = s.wm := by
  obtain ⟨_, _, _, _, _, _, _, rfl⟩ := h
  rfl

theorem ne_of_mem_filter {α : Type} {l : List α} {f : α → Nat} {n : Nat} {x : α} (hx : x ∈ l.filter fun x => f x != n) : f x ≠ n :=
  bne_iff_ne.mp (List.mem_filter.mp hx).2

theorem not_mine_of_mem_filter {α : Type} {l : List α} {f : α → Nat} {n : Nat} {x : α} (hx : x ∈ l.filter fun x => !(f x == n)) :
    f x ≠ n := by
  simpa using (List.mem_filter.mp hx).2

/-- A cluster whose copies have gone home, gated (R473). -/
def gate (s : State) (cluster : Nat) : State :=
  let s := s.clearCluster cluster
  { s with tlb := s.tlb.filter (·.1 != cluster), utlb := s.utlb.filter (·.1.cluster != cluster),
           wcache := s.wcache.filter (·.cluster != cluster), evc := s.evc.filter (·.cluster != cluster),
           spills := s.spills.filter (·.cluster != cluster), rings := s.rings.filter (·.core.cluster != cluster),
           lrt := s.lrt.filter (fun x => x.1 / 64 != cluster), routeCnt := s.routeCnt.filter (fun x => x.1 / 1024 != cluster),
           ctime := s.ctime.set (cluster % 64) 0 (Nat.mod_lt _ (by decide)),
           cores := s.cores.filter (fun x => x.core.cluster != cluster),
           departs := s.departs.filter (fun x => x.1 != cluster), gated := setBit s.gated cluster true }

/-- A cluster is gated where nothing holds it up. -/
theorem execClusterGate_of_idle {s : State} {cluster : Nat} (hc : cluster < 64) (hj : ∀ j ∈ s.jobs, j.clmask.getLsbD cluster = false)
    (ha : ∀ a ∈ s.agents, a.place.cluster = cluster → a.admitted = false) (hu : s.unanswered cluster = false)
    (hl : s.lifecycle ≠ .productionDebug ∨ s.debug ≠ 2) (hp : s.power = .active ∨ s.power = .throttled) :
    execClusterGate cluster s = .next (gate ((s.copies.filter (·.cluster == cluster)).foldl
      (fun s c => if c.isU then s.recallU c.line else s.evict cluster c.line) s) cluster) := by
  have hjobs : s.jobs.any (fun j => j.clmask.getLsbD cluster) = false :=
    List.any_eq_false.mpr fun j h => by rw [hj j h]; exact Bool.false_ne_true
  have hunits : s.agents.any (fun a => a.place.cluster == cluster && a.admitted) = false := by
    refine List.any_eq_false.mpr fun a h hc => ?_
    simp only [Bool.and_eq_true, beq_iff_eq] at hc
    exact Bool.false_ne_true ((ha a h hc.1).symm.trans hc.2)
  have hgate : noGating s.lifecycle s.debug = false := by
    unfold noGating
    obtain h | h := hl
    · rw [beq_false_of_ne h, Bool.false_and]
    · rw [beq_false_of_ne h, Bool.and_false]
  have hpower : (s.power == .active || s.power == .throttled) = true := by
    obtain h | h := hp <;> rw [h] <;> rfl
  refine if_neg ?_
  rw [hjobs, hunits, hgate, hu, hpower, decide_eq_false (Nat.not_le.mpr hc)]
  exact Bool.false_ne_true

/-- Settles O58. -/
theorem powerStates : Obligations.PowerStates := by
  intro s cluster die k
  refine ⟨fun h => ?_, fun h => ?_, fun h hq => ?_, fun h hl => ?_, ⟨s.turnOff, rfl, rfl, rfl, rfl, rfl, rfl, rfl, rfl, rfl, rfl⟩,
    fun hc hj ha hu hl hp => ?_, fun hl hd => ?_, fun hc hg => ?_, fun hd hk => ?_, rfl, fun f h0 h1 => ?_⟩
  · exact congrArg Host.Outcome.next (if_pos h)
  · exact congrArg Host.Outcome.next (if_pos h)
  · exact congrArg Host.Outcome.next (if_pos ⟨h, List.all_eq_true.mpr fun x hx => beq_iff_eq.mpr (hq x hx)⟩)
  · exact congrArg Host.Outcome.next (if_pos ⟨h, hl⟩)
  · have hflush := touchesLines_flush s cluster (s.copies.filter (·.cluster == cluster))
    refine ⟨_, execClusterGate_of_idle hc hj ha hu hl hp, congrArg (setBit · cluster true) hflush.gated,
      fun x hx => not_mine_of_mem_filter (f := fun x : Nat × LWord => x.1 / (64 * 2 ^ 18)) hx,
      fun x hx => ne_of_mem_filter (f := fun x : Tiles => x.core.cluster) hx, fun x hx => ne_of_mem_filter (f := fun x : Nat × Tlb => x.1) hx,
      fun x hx => ne_of_mem_filter (f := fun x : CoreId × Tlb => x.1.cluster) hx, hflush.wm,
      fun x hx => ne_of_mem_filter (f := fun x : EvCounters => x.cluster) hx, fun x hx => ne_of_mem_filter (f := fun x : Spill => x.cluster) hx,
      fun x hx => ne_of_mem_filter (f := fun x : IssueRec => x.core.cluster) hx, ?_⟩
    · unfold State.ctimeOf
      rw [if_neg (Nat.not_le.mpr hc)]
      exact Vector.getElem_set_self _
  · refine if_pos ?_
    simp [noGating, hl, hd]
  · exact if_neg (by simp [hg, Nat.not_le.mpr hc])
  · exact if_neg (by omega)
  · refine congrArg Host.Outcome.next (congrArg (fun l : List Sag => { s with sag := l.filter (·.k != 0) }) ?_)
    refine List.map_congr_left fun x _ => ?_
    by_cases hd : x.die = die
    · rw [if_pos hd]
      dsimp only
      cases hs : x.since with
      | none => exact (h0 x (.inr hs)).symm
      | some t => rw [h1 x t hd hs, hd]
    · rw [if_neg hd, h0 x (.inl hd)]

/-! ### Reset and lifecycle -/

theorem noGating_eq_false {l : Lifecycle} {level : Nat} (h : l ≠ .productionDebug ∨ level ≠ 2) : noGating l level = false := by
  unfold noGating
  obtain h | h := h
  · rw [beq_false_of_ne h, Bool.false_and]
  · rw [beq_false_of_ne h, Bool.and_false]

/-- The last of a list is among its last `k`. -/
theorem mem_drop_append_singleton {α : Type} (l : List α) (e : α) {k : Nat} (hk : 0 < k) : e ∈ (l ++ [e]).drop (l.length + 1 - k) := by
  rw [List.drop_append_of_le_length (by omega)]
  exact List.mem_append_right _ (List.mem_singleton_self _)

/-- An entry that is written is in the log. -/
theorem mem_logError (s : State) (place : LogPlace) (tier : Tier) (addr job : Nat) :
    (⟨place, tier, addr, job, s.timebase⟩ : LogEntry) ∈ (s.logError place tier addr job).life.log := by
  unfold State.logError
  dsimp only
  exact mem_drop_append_singleton (k := 4096) s.life.log _ (by decide)

theorem logError_lifecycle (s : State) (place : LogPlace) (tier : Tier) (addr job : Nat) :
    (s.logError place tier addr job).lifecycle = s.lifecycle := by
  rw [State.logError]

theorem logError_reports (s : State) (place : LogPlace) (tier : Tier) (addr job : Nat) :
    (s.logError place tier addr job).reports = s.reports := by
  rw [State.logError]

theorem loadBank_lifecycle (s : State) (bank image : Nat) : (s.loadBank bank image).lifecycle = s.lifecycle := by
  unfold State.loadBank
  split
  · rfl
  · exact logError_lifecycle ..

theorem loadBank_reports (s : State) (bank image : Nat) : (s.loadBank bank image).reports = s.reports := by
  unfold State.loadBank
  split
  · rfl
  · exact logError_reports ..

/-- A reset whose first image is accepted. -/
theorem execDeviceReset_of_ok {s : State} {imageA imageB : Nat} (h : imageOk imageA = true) :
    execDeviceReset imageA imageB s = .next (if s.nextLifecycle.getD s.lifecycle = .decommissioned then
        { s.cleared.takeLifecycle with image := (imageA, s.image.2) }.loadBank 1 imageB
      else { { s.cleared.takeLifecycle with image := (imageA, s.image.2) }.loadBank 1 imageB with
        power := .active, reports := s.reports ++ [.ready] }) := by
  have hbank : s.cleared.takeLifecycle.loadBank 0 imageA = { s.cleared.takeLifecycle with image := (imageA, s.image.2) } := if_pos h
  unfold execDeviceReset
  simp only [hbank, h, loadBank_lifecycle, loadBank_reports, Bool.true_eq_false, if_false]
  rfl

/-- Settles O59. -/
theorem resetAndLifecycle : Obligations.ResetAndLifecycle := by
  intro s level imageA imageB l
  refine ⟨fun h1 h2 => ?_, fun h1 h2 => ?_, fun hp hl => ⟨fun h => ?_, fun h1 h2 => ⟨?_, rfl⟩⟩, fun au h => ?_, fun au h1 h2 => ?_,
    fun h1 h2 => ?_, fun h1 h2 => ?_, fun h => ?_⟩
  · show execLifecycleChange level s = _
    simp only [execLifecycleChange, h1, h2, if_true]
  · show execLifecycleChange level s = _
    simp only [execLifecycleChange, h1, h2, Bool.false_eq_true, if_false]
  · show execDebugLevelChange level true s = _
    simp only [execDebugLevelChange, hp, hl, noGating_eq_false h, Bool.not_true, bne_self_eq_false, Bool.or_self, Bool.true_eq_false,
      Bool.false_eq_true, if_false]
  · have hg : noGating s.lifecycle level = true := by rw [h1, h2]; rfl
    show execDebugLevelChange level true s = _
    simp only [execDebugLevelChange, hp, hl, hg, Bool.not_true, bne_self_eq_false, Bool.or_self, Bool.true_eq_false,
      Bool.false_eq_true, if_false, if_true]
  · exact if_pos h
  · have hno : (!au || s.power != .standby) = true := by
      obtain h | h := h2
      · rw [h]; rfl
      · rw [bne_iff_ne.mpr h, Bool.or_true]
    show execDebugLevelChange level au s = _
    simp only [execDebugLevelChange, h1, hno, Bool.true_eq_false, if_false, if_true]
  · refine ⟨_, (execDeviceReset_of_ok h2).trans (congrArg Host.Outcome.next (if_neg h1)), rfl, ?_⟩
    unfold State.loadBank
    split
    · refine ⟨rfl, rfl, rfl, rfl, rfl, rfl, rfl, rfl, rfl, rfl, rfl, rfl, rfl, rfl, rfl, ?_⟩
      exact List.mem_append_right _ (List.mem_singleton_self _)
    · refine ⟨rfl, rfl, rfl, rfl, rfl, rfl, rfl, rfl, rfl, rfl, rfl, rfl, rfl, rfl, rfl, ?_⟩
      exact List.mem_append_right _ (List.mem_singleton_self _)
  · refine ⟨_, (execDeviceReset_of_ok h2).trans (congrArg Host.Outcome.next (if_pos h1)), ?_⟩
    unfold State.loadBank
    split
    · exact ⟨rfl, rfl, h1, rfl, rfl, rfl, rfl⟩
    · exact ⟨rfl, rfl, h1, rfl, rfl, rfl, rfl⟩
  · have hbank : s.cleared.takeLifecycle.loadBank 0 imageA = s.cleared.takeLifecycle.logError (.badImage 0) .sram 0 0 :=
      if_neg (by rw [h]; exact Bool.false_ne_true)
    refine ⟨_, if_pos h, ?_⟩
    rw [hbank]
    exact ⟨rfl, rfl, rfl, _, mem_logError _ _ _ _ _, rfl⟩

end Sys2Proof.Laws
end

section
/-! Firmware's actions at a context, soft errors and the records (19_traps.md R411, R418, R429-R431, R477). -/

namespace Sys2Proof.Laws

open Sys2Proof.Machine Sys2Proof.Terms

/-- A path of a context that firmware lets go on, where the paths that waited for the handler are freed too. -/
def resumed (q : Path) : Path :=
  { q with
    mode := if q.mode = .halted ∨ (q.mode = .held ∧ q.hold = none) then .run else q.mode
    priv := if q.priv = .firmware then .super else q.priv }

theorem handBack_eq (q : Path) :
    q.handBack = { q with
      mode := if q.mode = .halted then .run else q.mode
      priv := if q.priv = .firmware then .super else q.priv } := by
  unfold Path.handBack Path.restart
  split <;> rfl

theorem free_handBack (q : Path) :
    (if q.handBack.mode = .held ∧ q.handBack.hold = none then { q.handBack with mode := .run } else q.handBack) = resumed q := by
  by_cases h : q.mode = .halted
  · simp [Path.handBack, Path.restart, resumed, h]
  · by_cases h' : q.mode = .held ∧ q.hold = none
    · simp [Path.handBack, Path.restart, resumed, h']
    · simp [Path.handBack, Path.restart, resumed, h, h']

theorem Agent.mapPaths_mapPaths (a : Agent) (f g : Path → Path) : (a.mapPaths f).mapPaths g = a.mapPaths (g ∘ f) := by
  simp [Agent.mapPaths]

theorem Agent.slot_mapPaths (a : Agent) (f : Path → Path) (b : Bool) : (a.mapPaths f).slot b = (a.slot b).map f := by
  cases b <;> rfl

theorem Agent.isHalted_eq_true {a : Agent} (h : a.status = .halted ∨ a.status = .haltedOut) : a.isHalted = true := by
  rcases h with h | h <;> simp [Agent.isHalted, h]

theorem Agent.isHalted_eq_false {a : Agent} (h : a.status ≠ .halted) (h' : a.status ≠ .haltedOut) : a.isHalted = false := by
  simp [Agent.isHalted, h, h']

theorem begin_priv_act (pc : DWord) (mask : Mask) (priv : Priv) :
    ((Path.begin pc mask priv).priv, (Path.begin pc mask priv).act) = (priv, false) := by
  unfold Path.begin
  dsimp only
  split <;> rfl

/-- What an entry of the error log says of a register: its unit's job. -/
theorem errOwner_reg {s : State} {unit : Nat} {a : Agent} (h : s.agent? unit = some a) (l r : Nat) :
    s.errOwner (.reg unit l r) = ((s.chooseNat (2 ^ 48)).2, (s.chooseNat (2 ^ 48)).1, a.job) := by
  simp only [State.errOwner, h, Option.map_some]

/-- Settles O60: each action finds its unit and takes the branch of its hypotheses; of the paths of a resumed context, what
`Path.handBack` and the freeing do is one map. -/
theorem firmwareActs : Obligations.FirmwareActs := by
  intro s unit slot job cluster core pc
  refine ⟨fun a p b ha hst hp hb => ?_, fun a ha hst => ?_, fun a p ha hst hst' hp hm => ?_, fun hc hk hs => ?_,
    fun addr j v haddr hv => ?_, fun l r a x v hr ha hv => ?_, fun place => ⟨_, rfl, rfl, rfl, rfl, rfl, rfl, ?_⟩, rfl, rfl⟩
  · subst hb
    show execFirmwareResume unit slot pc s = _
    have hf : (fun q : Path => if q.mode = .held ∧ q.hold = none then { q with mode := .run } else q) ∘ Path.handBack = resumed :=
      funext free_handBack
    simp only [execFirmwareResume, ha, Agent.isHalted_eq_true hst, hp, Agent.slot_mapPaths, Agent.mapPaths_mapPaths, hf,
      handBack_eq p, Option.isNone_some, Option.map_some, Bool.true_eq_false, Bool.false_eq_true, or_self, if_false]
    rfl
  · show execFirmwareJobCancel unit slot s = _
    simp only [execFirmwareJobCancel, ha, Agent.isHalted_eq_true hst, Bool.true_eq_false, if_false]
  · show execHaltRestart unit slot s = _
    simp only [execHaltRestart, ha, Agent.isHalted_eq_false hst hst', hp, hm, Bool.false_or, beq_self_eq_true, Bool.not_true,
      Bool.false_eq_true, if_false]
    rfl
  · refine ⟨?unit, _, rfl, ?placed, ?start⟩
    case placed =>
      show execSupervisorStart job cluster core pc s = _
      have hc' : ¬ 64 ≤ cluster := by omega
      have hk' : ¬ 32 ≤ core := by omega
      simp only [execSupervisorStart, hs, hc', hk', decide_false, Option.isSome_none, Bool.or_self, Bool.false_eq_true, if_false]
      rfl
    case start =>
      refine ⟨rfl, rfl, rfl, ?_⟩
      exact congrArg some (Prod.ext (begin_pc ..) (begin_priv_act ..))
  · show execSoftError (.home addr) false s = _
    simp only [execSoftError, State.errOwner, State.poisonPlace, haddr, hv, Bool.false_eq_true, if_false, if_true]
  · show execSoftError (.reg unit l r) false s = _
    have htier : tierOf (.reg unit l r) = .sram := rfl
    simp only [execSoftError, errOwner_reg ha, State.poisonPlace, htier, hv, Bool.false_eq_true, if_false]
  · exact Vector.getElem_set_self _

end Sys2Proof.Laws
end

section
/-! What reset leaves, and the zeroing of a region of a local store (04_cluster_store.md R77). -/

namespace Sys2Proof.Laws

open Sys2Proof.Machine Sys2Proof.Terms

/-- A sparse list kept at some of its keys. -/
theorem sget_filter_keys {α : Type} [DecidableEq α] (d : α) (p : Nat → Bool) (k : Nat) (l : List (Nat × α)) (h : swf d l = true) :
    sget d k (l.filter fun x => p x.1) = if p k then sget d k l else d := by
  induction l with
  | nil => simp [sget]
  | cons x l ih =>
    obtain ⟨j, v⟩ := x
    obtain ⟨hlt, hne⟩ := (swf_iff d _).1 h
    obtain ⟨hj, hl⟩ := List.pairwise_cons.1 hlt
    have ih := ih ((swf_iff d _).2 ⟨hl, fun x hx => hne x (List.mem_cons_of_mem _ hx)⟩)
    cases hp : p j with
    | true =>
      rw [List.filter_cons_of_pos (by simpa using hp)]
      by_cases hk : k = j
      · subst hk
        simp [sget, hp]
      · by_cases hk' : k < j
        · simp [sget, hk, hk']
        · simp only [sget, hk, hk', if_false, ih]
    | false =>
      rw [List.filter_cons_of_neg (by simp [hp]), ih]
      by_cases hk : k = j
      · subst hk
        simp [hp]
      · by_cases hk' : k < j
        · rw [sget_of_lt d fun x hx => Nat.lt_trans hk' (hj x hx)]
          simp [sget, hk, hk']
        · simp only [sget, hk, hk', if_false]

/-- Which words of the local stores lie in a region of one of them. -/
theorem lkey_region {k c : CoreId} {off n w : Nat} (hk : k.core < 64) (hc : c.core < 64) (hw : w < 2 ^ 18) (hoff : off % 4 = 0)
    (hn : n % 4 = 0) (hend : off + n ≤ 2 ^ 20) :
    (lkey k (off / 4) ≤ lkey c w ∧ lkey c w < lkey k ((off + n) / 4)) ↔ c = k ∧ off ≤ 4 * w ∧ 4 * w < off + n := by
  obtain ⟨kc, kk⟩ := k
  obtain ⟨cc, ck⟩ := c
  simp only [lkey, CoreId.mk.injEq] at *
  omega

theorem lword_zeroLocal {s : State} {k c : CoreId} {off n w : Nat} (hs : swf LWord.fresh s.lwords = true) (hk : k.core < 64)
    (hc : c.core < 64) (hw : w < 2 ^ 18) (hoff : off % 4 = 0) (hn : n % 4 = 0) (hend : off + n ≤ 2 ^ 20) :
    (s.zeroLocal k off n).lword c w = if c = k ∧ off ≤ 4 * w ∧ 4 * w < off + n then ⟨0, false, false⟩ else s.lword c w := by
  have h := lkey_region hk hc hw hoff hn hend
  unfold State.lword State.zeroLocal
  refine (sget_filter_keys _ (fun j => !(decide (lkey k (off / 4) ≤ j) && decide (j < lkey k ((off + n) / 4)))) _ _ hs).trans ?_
  by_cases hin : c = k ∧ off ≤ 4 * w ∧ 4 * w < off + n
  · obtain ⟨h1, h2⟩ := h.2 hin
    rw [if_pos hin, if_neg (by simp [h1, h2])]
    rfl
  · rw [if_neg hin, if_pos]
    exact Decidable.byContradiction fun hcon => hin (h.1 (by simpa using hcon))

theorem foldl_tmax_zero (n : Nat) : (Vector.replicate n (0 : DWord)).toList.foldl tmax 0 = 0 := by
  rw [Vector.toList_replicate]
  induction n with
  | zero => rfl
  | succ n ih => rw [List.replicate_succ, List.foldl_cons, show tmax 0 0 = (0 : DWord) from rfl, ih]

/-- The job entry that is made where reset has left none has the lease lengths of R463. -/
theorem job_needJob_reset (j : Nat) :
    (State.reset.needJob j).job j = ⟨j, 0, 0, 0, 0, 0, 0, leases0Reset, leases1Reset, false, false⟩ := by
  simp [State.needJob, State.job, State.reset]

/-- Settles O4: reset's lists are empty, so what they answer is computed; zeroing keeps the keys outside the region. -/
theorem resetValues : Obligations.ResetValues := by
  refine ⟨rfl, rfl, rfl, rfl, rfl, fun _ => rfl, rfl, rfl, fun k => ?_, fun i => Vector.getElem_replicate .., fun i => Vector.getElem_replicate ..,
    rfl, fun _ _ => rfl, fun _ => rfl, fun j => ?_, fun s k c off n w hs hk hc hw hoff hn hend => lword_zeroLocal hs hk hc hw hoff hn hend,
    ?_, ?_, rfl, rfl, rfl⟩
  · unfold State.ctimeOf
    split
    · exact foldl_tmax_zero 64
    · exact Vector.getElem_replicate ..
  · show (List.range 8).map (fun cls => (State.reset.needJob j).leaseLen j cls) = _
    simp only [State.leaseLen, job_needJob_reset]
    decide
  · exact ⟨List.nodup_nil, fun a ha => (List.not_mem_nil ha).elim, fun a ha => (List.not_mem_nil ha).elim⟩
  · exact fun a ha => (List.not_mem_nil ha).elim

end Sys2Proof.Laws
end

section
/-! Issue selection (18_scheduling.md R406, R407): the element of a list whose key is least, the ready paths, the selected one. -/

namespace Sys2Proof.Laws

open Sys2Proof.Machine Sys2Proof.Terms

/-! ### The least element -/

theorem leastBy_eq_none_iff {α : Type} {key : α → Nat} {l : List α} : leastBy key l = none ↔ l = [] := by
  cases l with
  | nil => simp [leastBy]
  | cons x l =>
    unfold leastBy
    split
    · simp
    · split <;> simp

/-- The least element comes before every other one with its key. -/
theorem leastBy_split {α : Type} {key : α → Nat} {l : List α} {x : α} (h : leastBy key l = some x) :
    ∃ pre post, l = pre ++ x :: post ∧ (∀ z ∈ pre, key x < key z) ∧ ∀ z ∈ post, key x ≤ key z := by
  induction l generalizing x with
  | nil => cases h
  | cons y l ih =>
    unfold leastBy at h
    cases hl : leastBy key l with
    | none =>
      rw [hl] at h
      cases h
      rw [leastBy_eq_none_iff.1 hl]
      exact ⟨[], [], rfl, by simp, by simp⟩
    | some z =>
      rw [hl] at h
      obtain ⟨pre, post, rfl, hpre, hpost⟩ := ih hl
      by_cases hzy : key z < key y
      · cases (if_pos hzy).symm.trans h
        exact ⟨y :: pre, post, rfl, List.forall_mem_cons.2 ⟨hzy, hpre⟩, hpost⟩
      · cases (if_neg hzy).symm.trans h
        refine ⟨[], pre ++ z :: post, rfl, by simp, fun w hw => ?_⟩
        rcases List.mem_append.1 hw with hw | hw
        · exact Nat.le_trans (Nat.not_lt.1 hzy) (Nat.le_of_lt (hpre w hw))
        · rcases List.mem_cons.1 hw with rfl | hw
          · exact Nat.not_lt.1 hzy
          · exact Nat.le_trans (Nat.not_lt.1 hzy) (hpost w hw)

theorem leastBy_mem {α : Type} {key : α → Nat} {l : List α} {x : α} (h : leastBy key l = some x) : x ∈ l := by
  obtain ⟨pre, post, rfl, -⟩ := leastBy_split h
  simp

theorem leastBy_le {α : Type} {key : α → Nat} {l : List α} {x y : α} (h : leastBy key l = some x) (hy : y ∈ l) : key x ≤ key y := by
  obtain ⟨pre, post, rfl, hpre, hpost⟩ := leastBy_split h
  rcases List.mem_append.1 hy with hy | hy
  · exact Nat.le_of_lt (hpre y hy)
  · rcases List.mem_cons.1 hy with rfl | hy
    · exact Nat.le_refl _
    · exact hpost y hy

/-! ### The ready paths -/

theorem canIssue_eq_some {s : State} {x : Nat × Bool} {a : Agent} {p : Path} (h : s.canIssue x = some (a, p)) :
    s.agent? x.1 = some a ∧ a.status = .issuing ∧ a.slot x.2 = some p ∧ p.mode = .run ∧ p.wait = none ∧ p.trap = none ∧
      s.yields a p = false := by
  unfold State.canIssue at h
  dsimp only at h
  split at h
  · cases h
  · next a' p' b' hf =>
    split at h
    · next hw =>
      cases h
      obtain ⟨hfocus, hagent, hslot, hst, hmode, htrap, hy⟩ := State.focused_eq_some_iff.1 hf
      cases hfocus
      rw [Bool.and_eq_true, Bool.and_eq_true, Option.isNone_iff_eq_none] at hw
      exact ⟨hagent, hst, hslot, hmode, hw.1.1, htrap, hy⟩
    · cases h

theorem mem_readyPaths {s : State} {c : CoreId} {x : Nat × Bool} {a : Agent} (h : (x, a) ∈ s.readyPaths c) :
    (∃ p, s.canIssue x = some (a, p)) ∧ a.place.coreId = c ∧ (isWideCore c.core = false → s.justIssued c a.place.ctx = false) := by
  obtain ⟨y, -, hy⟩ := List.mem_filterMap.1 h
  split at hy
  · cases hy
  · next b p hcan =>
    split at hy
    · cases hy
    · next hno =>
      cases hy
      simp only [Bool.or_eq_true, bne_iff_ne, Bool.and_eq_true, Bool.not_eq_true', not_or, not_and, ne_eq,
        Decidable.not_not, Bool.not_eq_true] at hno
      exact ⟨⟨p, hcan⟩, hno⟩

/-- A ready path names its unit. -/
theorem readyPaths_unique {s : State} {c : CoreId} {x : Nat × Bool} {a b : Agent} (ha : (x, a) ∈ s.readyPaths c)
    (hb : (x, b) ∈ s.readyPaths c) : a = b := by
  obtain ⟨⟨p, hp⟩, -⟩ := mem_readyPaths ha
  obtain ⟨⟨q, hq⟩, -⟩ := mem_readyPaths hb
  cases hp.symm.trans hq
  rfl

/-- Choosing among the elements of a list keeps their order. -/
theorem map_fst_filterMap_sublist {α β : Type} {f : α → Option (α × β)} (hf : ∀ x y, f x = some y → y.1 = x) (l : List α) :
    ((l.filterMap f).map (·.1)).Sublist l := by
  induction l with
  | nil => exact .slnil
  | cons x l ih =>
    cases h : f x with
    | none => rw [List.filterMap_cons_none h]; exact ih.cons x
    | some y =>
      rw [List.filterMap_cons_some h, List.map_cons, hf x y h]
      exact ih.cons_cons x

theorem readyPaths_sublist (s : State) (c : CoreId) : ((s.readyPaths c).map (·.1)).Sublist (s.corePaths c) := by
  refine map_fst_filterMap_sublist (fun x y h => ?_) _
  split at h
  · cases h
  · split at h
    · cases h
    · cases h
      rfl

/-! ### The selected path -/

theorem issueRec_core (s : State) (c : CoreId) : (s.issueRec c).core = c := by
  unfold State.issueRec
  cases h : s.cores.find? (·.core == c) with
  | none => rfl
  | some r => exact eq_of_beq (List.find?_some h :)

theorem issueRec_of_replaced {cores : List IssueRec} {t : State} {c : CoreId} {r : IssueRec}
    (ht : t.cores = cores.filter (·.core != r.core) ++ [r]) (hr : r.core = c) : t.issueRec c = r := by
  subst hr
  have hnone : (cores.filter (·.core != r.core)).find? (·.core == r.core) = none :=
    List.find?_eq_none.2 fun x hx => by simpa using (List.mem_filter.1 hx).2
  simp [State.issueRec, ht, List.find?_append, hnone]

theorem hasIssued_noteSelected (s : State) (c : CoreId) (x : Nat × Bool) : (s.noteSelected c x).hasIssued c = true := by
  have hlast : ∃ ctx, ((s.noteSelected c x).issueRec c).last = some (s.now c.cluster, ctx) :=
    ⟨_, congrArg IssueRec.last (issueRec_of_replaced (cores := s.cores) (t := s.noteSelected c x) rfl (by exact issueRec_core s c))⟩
  obtain ⟨ctx, hlast⟩ := hlast
  unfold State.hasIssued
  rw [hlast]
  exact beq_self_eq_true _

/-- Since when a path of a core has been ready and not issued. -/
def readySince (s : State) (c : CoreId) (x : Nat × Bool) : Nat :=
  (((s.issueRec c).ready.find? (·.1 == x)).map (·.2)).getD (s.now c.cluster)

/-- The order of the paths of a wide core none of which has waited for 64 cycles. -/
def classOrder (x : (Nat × Bool) × Agent) : Nat := 2 * x.2.roleClass + x.2.behind.toNat

theorem selected_of_hasIssued {s : State} {c : CoreId} (h : s.hasIssued c = true) : s.selected c = none := if_pos h

theorem hasIssued_of_selected {s : State} {c : CoreId} {x : Nat × Bool} (h : s.selected c = some x) : s.hasIssued c = false := by
  cases hi : s.hasIssued c with
  | false => rfl
  | true =>
    rw [selected_of_hasIssued hi] at h
    cases h

/-- On a barrel core slot 15 where it is ready, else the slot whose turn comes next. -/
theorem selected_barrel {s : State} {c : CoreId} (h : s.hasIssued c = false) (hw : isWideCore c.core = false) :
    s.selected c = match (s.readyPaths c).find? fun x => x.2.place.ctx == 15 with
      | some x => some x.1
      | none => (leastBy (fun x => slotDistance (s.issueRec c).last x.2.place.ctx) (s.readyPaths c)).map (·.1) := by
  unfold State.selected
  simp only [h, hw, Bool.not_false, Bool.false_eq_true, if_false, if_true] <;> rfl

/-- On a wide core the path that has been ready for 64 cycles and longest, else the first of its class. -/
theorem selected_wide {s : State} {c : CoreId} (h : s.hasIssued c = false) (hw : isWideCore c.core = true) :
    s.selected c =
      match leastBy (fun x => readySince s c x.1) ((s.readyPaths c).filter fun x => decide (readySince s c x.1 + 64 ≤ s.now c.cluster)) with
      | some x => some x.1
      | none => (leastBy classOrder (s.readyPaths c)).map (·.1) := by
  unfold State.selected
  simp only [h, hw, Bool.not_true, Bool.false_eq_true, if_false] <;> rfl

theorem selected_barrel_cases {s : State} {c : CoreId} {x : Nat × Bool} (hw : isWideCore c.core = false) (h : s.selected c = some x) :
    ∃ a, (x, a) ∈ s.readyPaths c ∧ (a.place.ctx = 15 ∨ ((∀ y ∈ s.readyPaths c, y.2.place.ctx ≠ 15) ∧
      ∀ y ∈ s.readyPaths c, slotDistance (s.issueRec c).last a.place.ctx ≤ slotDistance (s.issueRec c).last y.2.place.ctx)) := by
  rw [selected_barrel (hasIssued_of_selected h) hw] at h
  split at h
  · next y hy =>
    cases h
    exact ⟨y.2, List.mem_of_find?_eq_some hy, .inl (by simpa using List.find?_some hy)⟩
  · next hnone =>
    obtain ⟨y, hy, rfl⟩ := Option.map_eq_some_iff.1 h
    refine ⟨y.2, leastBy_mem hy, .inr ⟨fun z hz => ?_, fun z hz => ?_⟩⟩
    · simpa using List.find?_eq_none.1 hnone z hz
    · exact leastBy_le (key := fun x => slotDistance (s.issueRec c).last x.2.place.ctx) hy hz

theorem selected_wide_cases {s : State} {c : CoreId} {x : Nat × Bool} (hw : isWideCore c.core = true) (h : s.selected c = some x) :
    (readySince s c x + 64 ≤ s.now c.cluster ∧ (∃ a, (x, a) ∈ s.readyPaths c) ∧
      ∀ y ∈ s.readyPaths c, readySince s c y.1 + 64 ≤ s.now c.cluster → readySince s c x ≤ readySince s c y.1) ∨
    ((∀ y ∈ s.readyPaths c, s.now c.cluster < readySince s c y.1 + 64) ∧ ∃ a, leastBy classOrder (s.readyPaths c) = some (x, a)) := by
  rw [selected_wide (hasIssued_of_selected h) hw] at h
  split at h
  · next y hy =>
    cases h
    obtain ⟨hmem, hold⟩ := List.mem_filter.1 (leastBy_mem hy)
    refine .inl ⟨by simpa using hold, ⟨y.2, hmem⟩, fun z hz hz' => ?_⟩
    exact leastBy_le (key := fun x => readySince s c x.1) hy (List.mem_filter.2 ⟨hz, by simpa using hz'⟩)
  · next hnone =>
    obtain ⟨y, hy, rfl⟩ := Option.map_eq_some_iff.1 h
    refine .inr ⟨fun z hz => ?_, y.2, hy⟩
    simpa using List.filter_eq_nil_iff.1 (leastBy_eq_none_iff.1 hnone) z hz

theorem selected_isSome {s : State} {c : CoreId} (h : s.hasIssued c = false) (hne : s.readyPaths c ≠ []) :
    (s.selected c).isSome = true := by
  have hleast (key : (Nat × Bool) × Agent → Nat) : ((leastBy key (s.readyPaths c)).map (·.1)).isSome = true := by
    rw [Option.isSome_map, Option.isSome_iff_ne_none]
    exact fun h => hne (leastBy_eq_none_iff.1 h)
  cases hw : isWideCore c.core with
  | false =>
    rw [selected_barrel h hw]
    split
    · rfl
    · exact hleast _
  | true =>
    rw [selected_wide h hw]
    split
    · rfl
    · exact hleast _

theorem selected_mem {s : State} {c : CoreId} {x : Nat × Bool} (h : s.selected c = some x) : ∃ a, (x, a) ∈ s.readyPaths c := by
  cases hw : isWideCore c.core with
  | false =>
    obtain ⟨a, ha, -⟩ := selected_barrel_cases hw h
    exact ⟨a, ha⟩
  | true =>
    rcases selected_wide_cases hw h with ⟨-, ha, -⟩ | ⟨-, a, ha⟩
    · exact ha
    · exact ⟨a, leastBy_mem ha⟩

theorem isWideCore_eq_false {k : Nat} (h : k < 32) : isWideCore k = false := by simpa [isWideCore] using h

theorem isWideCore_eq_true {k : Nat} (h : 32 ≤ k) : isWideCore k = true := by simpa [isWideCore] using h

theorem justIssued_eq_false_iff {s : State} {c : CoreId} {ctx : Nat} :
    s.justIssued c ctx = false ↔ ∀ y ∈ (s.issueRec c).slots, y.1 = ctx → y.2 + 3 < s.now c.cluster := by
  simp [State.justIssued, List.any_eq_false]

/-- Settles O9: the two cases of `State.selected` for each kind of core, from which its properties are read. -/
theorem issueSelection : Obligations.IssueSelection := by
  intro s c
  refine ⟨fun rest t hag hretry => ?_, fun x a hx => ?_, selected_of_hasIssued, selected_isSome, fun x => selected_mem,
    fun x a y b hsel hx hy hk => ?_, fun since x hsince hsel hk => ?_, readyPaths_sublist s c, hasIssued_noteSelected s c,
    fun t l k hl hk => ?_⟩
  · have hstep : step s = mirrored s (coreStep c { s with agenda := rest }) := by
      unfold step
      rw [hag]
      rfl
    constructor
    · intro x hx
      rw [hstep, coreStep, hretry]
      dsimp only
      rw [hx]
    · intro hx
      rw [hstep, coreStep, hretry]
      dsimp only
      rw [hx]
  · obtain ⟨⟨p, hcan⟩, hplace, hjust⟩ := mem_readyPaths hx
    obtain ⟨hagent, hst, hslot, hmode, hwait, htrap, hy⟩ := canIssue_eq_some hcan
    exact ⟨hagent, hplace, hst, ⟨p, hslot, hmode, hwait, htrap, hy⟩,
      fun hk => justIssued_eq_false_iff.1 (hjust (isWideCore_eq_false hk))⟩
  · obtain ⟨a', ha', hcase⟩ := selected_barrel_cases (isWideCore_eq_false hk) hsel
    cases readyPaths_unique ha' hx
    rcases hcase with h15 | ⟨hno, hleast⟩
    · exact ⟨fun _ => h15, fun h => (h h15).elim⟩
    · exact ⟨fun hb => (hno _ hy hb).elim, fun _ => hleast _ hy⟩
  · obtain rfl : since = readySince s c := hsince
    rcases selected_wide_cases (isWideCore_eq_true hk) hsel with ⟨hold, ⟨a, ha⟩, hleast⟩ | ⟨hyoung, a, ha⟩
    · refine ⟨fun y hy hy' => ⟨hold, hleast y hy hy'⟩, fun hall => ?_⟩
      exact absurd (hall _ ha) (Nat.not_lt.2 hold)
    · refine ⟨fun y hy hy' => absurd (hyoung y hy) (Nat.not_lt.2 hy'), fun _ => ?_⟩
      obtain ⟨pre, post, hl, hpre, hpost⟩ := leastBy_split ha
      exact ⟨pre, a, post, hl, hpre, hpost⟩
  · simp only [slotDistance]
    split <;> omega

end Sys2Proof.Laws
end

section
/-! The frame of the stores: bytes of a word and of a line, of a local store, and of a line's copy (02_lines_and_homes.md R44,
04_cluster_store.md R78, 13_isa_return.md R293). -/

namespace Sys2Proof.Laws

open Sys2Proof.Machine Sys2Proof.Terms

/-! ### One byte of a word or a line -/

/-- A byte of a vector after byte `i` was written. -/
theorem extract_setByte {n : Nat} (d : BitVec n) (b : Byte) {i j : Nat} (hi : 8 * i + 8 ≤ n) (hj : 8 * j + 8 ≤ n) :
    ((d &&& ~~~((255 : BitVec n) <<< (8 * i))) ||| (b.setWidth n <<< (8 * i))).extractLsb' (8 * j) 8 =
      if j = i then b else d.extractLsb' (8 * j) 8 := by
  have h255 (k : Nat) : (255 : BitVec n).getLsbD k = (decide (k < n) && decide (k < 8)) := by
    refine (BitVec.getLsbD_ofNat ..).trans ?_
    exact congrArg _ (Nat.testBit_two_pow_sub_one 8 k)
  ext k hk
  have hkn : 8 * j + k < n := by omega
  simp only [BitVec.getElem_extractLsb', BitVec.getLsbD_or, BitVec.getLsbD_and, BitVec.getLsbD_not, BitVec.getLsbD_shiftLeft, h255,
    BitVec.getLsbD_setWidth]
  by_cases h : j = i
  · subst h
    have hkn' : k < n := by omega
    have hsame : ¬ 8 * j + k < 8 * j := by omega
    simp [hkn, hkn', hk, hsame]
  · rcases Nat.lt_or_gt_of_ne h with hlt | hgt
    · have hbefore : 8 * j + k < 8 * i := by omega
      simp [hkn, hbefore, h]
    · have hnot : ¬ 8 * j + k < 8 * i := by omega
      have hafter : 8 ≤ 8 * j + k - 8 * i := by omega
      have hafter' : ¬ 8 * j + k - 8 * i < 8 := by omega
      simp [hkn, hnot, hafter', h, BitVec.getLsbD_of_ge b _ hafter]

theorem extract_setLineBytes (bs : List Byte) (d : LineData) (off : Nat) {j : Nat} (hoff : off + bs.length ≤ 128) (hj : j < 128) :
    (setLineBytes d off bs).extractLsb' (8 * j) 8 =
      if off ≤ j ∧ j < off + bs.length then bs.getD (j - off) 0 else d.extractLsb' (8 * j) 8 := by
  induction bs generalizing d off with
  | nil => rw [if_neg (by simp)]; rfl
  | cons b bs ih =>
    rw [List.length_cons] at hoff ⊢
    rw [setLineBytes, ih _ _ (by omega), extract_setByte d b (by omega) (by omega)]
    by_cases h : j = off
    · subst h
      rw [if_neg (by omega), if_pos rfl, if_pos (by omega), Nat.sub_self, List.getD_cons_zero]
    · by_cases h' : off + 1 ≤ j ∧ j < off + 1 + bs.length
      · rw [if_pos h', if_pos (by omega), show j - off = j - (off + 1) + 1 by omega, List.getD_cons_succ]
      · rw [if_neg h', if_neg h, if_neg (by omega)]

theorem lineBytes_one (d : LineData) (i : Nat) : lineBytes d i 1 = [d.extractLsb' (8 * i) 8] := rfl

/-! ### Bytes of a local store -/

/-- The state changed in the words of the local stores only. -/
def TouchesLwords (s t : State) : Prop := ∃ lwords, t = { s with lwords := lwords }

theorem TouchesLwords.refl (s : State) : TouchesLwords s s := ⟨_, rfl⟩

theorem TouchesLwords.trans {s t u : State} (h : TouchesLwords s t) (h' : TouchesLwords t u) : TouchesLwords s u := by
  obtain ⟨_, rfl⟩ := h
  obtain ⟨_, rfl⟩ := h'
  exact ⟨_, rfl⟩

theorem touchesLwords_setLword (s : State) (c : CoreId) (w : Nat) (x : LWord) : TouchesLwords s (s.setLword c w x) := ⟨_, rfl⟩

/-- What a write of bytes to a local store does: the bytes of `f` at the core `c`, every full bit as before. -/
structure WritesBytes (c : CoreId) (f : Nat → Option Byte) (s t : State) : Prop where
  frame : TouchesLwords s t
  wf : swf LWord.fresh t.lwords = true
  byte : ∀ (k : CoreId) (o : Nat), k.core < 64 → o < 2 ^ 20 →
    t.lbyte k o = if k = c then (f o).getD (s.lbyte k o) else s.lbyte k o
  full : ∀ (k : CoreId) (w : Nat), k.core < 64 → w < 2 ^ 18 → (t.lword k w).full = (s.lword k w).full

theorem writesBytes_setBad {s : State} {c : CoreId} {w : Nat} (hs : swf LWord.fresh s.lwords = true) (hc : c.core < 64)
    (hw : w < 2 ^ 18) (bad : Bool) : WritesBytes c (fun _ => none) s (s.setLword c w { s.lword c w with bad := bad }) := by
  have hword (k : CoreId) (v : Nat) (hk : k.core < 64) (hv : v < 2 ^ 18) :
      (s.setLword c w { s.lword c w with bad := bad }).lword k v =
        { s.lword k v with bad := if k = c ∧ v = w then bad else (s.lword k v).bad } := by
    rw [State.lword_setLword s c k w v _ hs]
    by_cases h : k = c ∧ v = w
    · obtain ⟨rfl, rfl⟩ := h
      simp
    · rw [if_neg fun he => h (lkey_inj hc hk hw hv he), if_neg h]
  refine ⟨touchesLwords_setLword .., State.lwords_setLword _ _ _ _ hs, fun k o hk ho => ?_, fun k v hk hv => ?_⟩
  · simp [State.lbyte, hword k (o / 4) hk (by omega)]
  · rw [hword k v hk hv]

theorem writesBytes_putLbyte {s : State} {c : CoreId} {off : Nat} (hs : swf LWord.fresh s.lwords = true) (hc : c.core < 64)
    (hoff : off < 2 ^ 20) (b : Byte) (bad : Bool) :
    WritesBytes c (fun o => if o = off then some b else none) s (s.putLbyte c off b bad) := by
  refine ⟨touchesLwords_setLword .., State.lwords_setLword _ _ _ _ hs, fun k o hk ho => ?_, fun k v hk hv => ?_⟩
  · unfold State.putLbyte State.lbyte
    rw [State.lword_setLword s c k _ _ _ hs]
    by_cases h : k = c ∧ o / 4 = off / 4
    · obtain ⟨rfl, ho4⟩ := h
      rw [if_pos (by rw [ho4]), if_pos rfl]
      dsimp only
      rw [extract_setByte _ b (by omega) (by omega)]
      by_cases hoo : o = off
      · subst hoo
        simp
      · rw [if_neg (by omega), if_neg hoo, ho4]
        rfl
    · rw [if_neg fun he => h (lkey_inj hc hk (by omega) (by omega) he)]
      by_cases hkc : k = c
      · rw [if_pos hkc, if_neg fun he => h ⟨hkc, by rw [he]⟩]
        rfl
      · rw [if_neg hkc]
  · unfold State.putLbyte
    rw [State.lword_setLword s c k _ _ _ hs]
    by_cases h : k = c ∧ v = off / 4
    · obtain ⟨rfl, rfl⟩ := h
      rw [if_pos rfl]
    · rw [if_neg fun he => h (lkey_inj hc hk (by omega) hv he)]

theorem writesBytes_refl {s : State} (hs : swf LWord.fresh s.lwords = true) (c : CoreId) : WritesBytes c (fun _ => none) s s :=
  ⟨.refl s, hs, fun _ _ _ _ => by simp, fun _ _ _ _ => rfl⟩

theorem WritesBytes.trans {c : CoreId} {f g : Nat → Option Byte} {s t u : State} (h : WritesBytes c f s t) (h' : WritesBytes c g t u) :
    WritesBytes c (fun o => (g o).or (f o)) s u := by
  refine ⟨h.frame.trans h'.frame, h'.wf, fun k o hk ho => ?_, fun k w hk hw => (h'.full k w hk hw).trans (h.full k w hk hw)⟩
  rw [h'.byte k o hk ho, h.byte k o hk ho]
  by_cases hkc : k = c
  · simp only [if_pos hkc]
    cases g o <;> rfl
  · simp only [if_neg hkc]

/-- Which bytes of `bs` the first `n` writes of them at `off` have put. -/
def bytesPut (off n : Nat) (bs : List Byte) (o : Nat) : Option Byte := if off ≤ o ∧ o < off + n then some (bs.getD (o - off) 0) else none

theorem writesBytes_clear {s : State} {c : CoreId} (hs : swf LWord.fresh s.lwords = true) (hc : c.core < 64) (first n : Nat)
    (hn : n = 0 ∨ first + n ≤ 2 ^ 18) :
    WritesBytes c (fun _ => none) s ((List.range n).foldl (fun s i =>
      s.setLword c (first + i) { s.lword c (first + i) with bad := false }) s) := by
  induction n with
  | zero => exact writesBytes_refl hs c
  | succ n ih =>
    have ih := ih (by omega)
    rw [List.range_succ, List.foldl_append]
    exact ih.trans (writesBytes_setBad ih.wf hc (by omega) false)

theorem writesBytes_fold {s : State} {c : CoreId} (hs : swf LWord.fresh s.lwords = true) (hc : c.core < 64) (off : Nat) (bs : List Byte)
    (bad : Bool) (n : Nat) (hn : off + n ≤ 2 ^ 20) :
    WritesBytes c (bytesPut off n bs) s ((List.range n).foldl (fun s i => s.putLbyte c (off + i) (bs.getD i 0) bad) s) := by
  induction n with
  | zero =>
    rw [show bytesPut off 0 bs = fun _ => none from funext fun o => if_neg (by omega)]
    exact writesBytes_refl hs c
  | succ n ih =>
    have ih := ih (by omega)
    rw [List.range_succ, List.foldl_append]
    have h := ih.trans (writesBytes_putLbyte ih.wf hc (by omega : off + n < 2 ^ 20) (bs.getD n 0) bad)
    refine (funext fun o => ?_ : _ = bytesPut off (n + 1) bs) ▸ h
    unfold bytesPut
    by_cases ho : o = off + n
    · subst ho
      simp
    · rw [if_neg ho]
      simp only [Option.none_or]
      by_cases hin : off ≤ o ∧ o < off + n
      · rw [if_pos hin, if_pos (by omega)]
      · rw [if_neg hin, if_neg (by omega)]

theorem writesBytes_putLbytes {s : State} {c : CoreId} {off : Nat} {bs : List Byte} (hs : swf LWord.fresh s.lwords = true)
    (hc : c.core < 64) (hend : off + bs.length ≤ 2 ^ 20) (bad : Bool) :
    WritesBytes c (bytesPut off bs.length bs) s (s.putLbytes c off bs bad) := by
  have hclear := writesBytes_clear hs hc ((off + 3) / 4) ((off + bs.length) / 4 - (off + 3) / 4) (by omega)
  have h := hclear.trans (writesBytes_fold hclear.wf hc off bs bad bs.length hend)
  simp only [Option.or_none] at h
  exact h

theorem floorLane_frame (s : State) (uid l : Nat) : ∃ agents, s.floorLane uid l = { s with agents := agents } := by
  unfold State.floorLane
  split
  · exact ⟨_, rfl⟩
  · exact ⟨_, rfl⟩

/-- A store of a lane to its own store: its bytes are put after the lane's time has its floor and a release its time. -/
theorem sendStore_own (s : State) (c : Ctx) (l off n : Nat) (bytes : List Byte) (cls : Option Nat) (rel bad : Bool) (va : DWord) :
    ∃ lrt, s.sendStore c l [.own off n] bytes cls rel bad va =
      State.putLbytes { s.floorLane c.uid l with lrt := lrt } c.a.place.coreId off bytes bad := by
  unfold State.sendStore State.localNow
  simp only [Bool.false_eq_true, if_false, show (LAcc.store bytes).changes = true from rfl, if_true, State.lperform, State.scan,
    List.isEmpty_nil]
  split
  · exact ⟨_, rfl⟩
  · exact ⟨_, rfl⟩

/-! ### Stores to translated memory -/

/-- The state changed in the units, in requests, writes and links, and in the times of the clusters. -/
def PostsWrites (s t : State) : Prop :=
  ∃ agents ctime nextId reqs writes links winReqs, t = { s with
    agents := agents, ctime := ctime, nextId := nextId, reqs := reqs, writes := writes, links := links, winReqs := winReqs }

theorem PostsWrites.refl (s : State) : PostsWrites s s := ⟨_, _, _, _, _, _, _, rfl⟩

theorem PostsWrites.trans {s t u : State} (h : PostsWrites s t) (h' : PostsWrites t u) : PostsWrites s u := by
  obtain ⟨_, _, _, _, _, _, _, rfl⟩ := h
  obtain ⟨_, _, _, _, _, _, _, rfl⟩ := h'
  exact ⟨_, _, _, _, _, _, _, rfl⟩

theorem PostsWrites.ite {s t u : State} {c : Prop} [Decidable c] (ht : PostsWrites s t) (hu : PostsWrites s u) :
    PostsWrites s (if c then t else u) := by
  split
  · exact ht
  · exact hu

theorem postsWrites_updAgent (s : State) (u : Nat) (f : Agent → Agent) : PostsWrites s (s.updAgent u f) := ⟨_, _, _, _, _, _, _, rfl⟩

theorem postsWrites_updLane (s : State) (u l : Nat) (f : Lane → Lane) : PostsWrites s (s.updLane u l f) := ⟨_, _, _, _, _, _, _, rfl⟩

theorem postsWrites_raiseCtime (s : State) (k : Nat) (t : DWord) : PostsWrites s (s.raiseCtime k t) := by
  unfold State.raiseCtime
  split
  · exact .refl s
  · exact ⟨_, _, _, _, _, _, _, rfl⟩

theorem postsWrites_touch (s : State) (u l : Nat) : PostsWrites s (s.touch u l).1 := by
  unfold State.touch
  split
  · exact .refl s
  · exact (postsWrites_updLane ..).trans (postsWrites_raiseCtime ..)

theorem postsWrites_sendWin (s : State) (u l addr len : Nat) (kind : WinKind) (va : DWord) :
    PostsWrites s (s.sendWin u l addr len kind va) := ⟨_, _, _, _, _, _, _, rfl⟩

theorem postsWrites_askPiece (s : State) (w : Write) (p : WPiece) : PostsWrites s (s.askPiece w p) := by
  unfold State.askPiece
  dsimp only
  exact .ite (.refl s) ⟨_, _, _, _, _, _, _, rfl⟩

theorem postsWrites_foldl {α : Type} {f : State → α → State} (hf : ∀ s x, PostsWrites s (f s x)) (l : List α) (s : State) :
    PostsWrites s (l.foldl f s) := by
  induction l generalizing s with
  | nil => exact .refl s
  | cons x l ih => exact (hf s x).trans (ih _)

theorem sendStore_mem (s : State) (c : Ctx) (l pa n : Nat) (leaf : DWord) (bytes : List Byte) (cls : Option Nat) (rel bad : Bool)
    (va : DWord) (hd : Seg.dev (.mem pa n leaf) = false) : PostsWrites s (s.sendStore c l [.mem pa n leaf] bytes cls rel bad va) := by
  unfold State.sendStore
  simp only [List.any_cons, List.any_nil, hd, Bool.or_false, Bool.false_eq_true, if_false, List.map_cons, List.map_nil,
    List.zip_cons_cons, List.zip_nil_right, List.foldl_cons, List.foldl_nil, List.nil_append]
  have hsent : PostsWrites s (if regionOf pa = some .window then
      ((s.touch c.uid l).1.sendWin c.uid l pa n (.store (bytes.take n) bad) va).count c.uid
    else (s.touch c.uid l).1) :=
    .ite (((postsWrites_touch ..).trans (postsWrites_sendWin ..)).trans (postsWrites_updAgent ..)) (postsWrites_touch ..)
  generalize (if regionOf pa = some Region.window then _ else _ : State) = r at hsent ⊢
  refine .ite hsent (hsent.trans ?_)
  split
  · exact .trans (t := State.count { r with writes := _, nextId := _ } c.uid) ⟨_, _, _, _, _, _, _, rfl⟩
      (postsWrites_foldl (fun s p => postsWrites_askPiece s _ p) _ _)
  · exact ⟨_, _, _, _, _, _, _, rfl⟩

/-! ### A piece of a write is performed in the cluster's copy -/

/-- The state changed in the units, the writes, what lanes have seen, acknowledgements and the times of the clusters. -/
def NotesWrite (s t : State) : Prop :=
  ∃ agents ctime nextId seen writes acks, t = { s with
    agents := agents, ctime := ctime, nextId := nextId, seen := seen, writes := writes, acks := acks }

theorem NotesWrite.refl (s : State) : NotesWrite s s := ⟨_, _, _, _, _, _, rfl⟩

theorem NotesWrite.trans {s t u : State} (h : NotesWrite s t) (h' : NotesWrite t u) : NotesWrite s u := by
  obtain ⟨_, _, _, _, _, _, rfl⟩ := h
  obtain ⟨_, _, _, _, _, _, rfl⟩ := h'
  exact ⟨_, _, _, _, _, _, rfl⟩

theorem NotesWrite.ite {s t u : State} {c : Prop} [Decidable c] (ht : NotesWrite s t) (hu : NotesWrite s u) :
    NotesWrite s (if c then t else u) := by
  split
  · exact ht
  · exact hu

theorem notesWrite_noteSeen (s : State) (b : SeenBy) (line : Nat) (t : DWord) (m : BitVec 128) : NotesWrite s (s.noteSeen b line t m) :=
  .ite (.refl s) ⟨_, _, _, _, _, _, rfl⟩

theorem notesWrite_raiseCtime (s : State) (k : Nat) (t : DWord) : NotesWrite s (s.raiseCtime k t) :=
  .ite (.refl s) ⟨_, _, _, _, _, _, rfl⟩

theorem notesWrite_noteWrite (s : State) (core : CoreId) (u l id line : Nat) (t : DWord) (own : BitVec 128) :
    NotesWrite s (s.noteWrite core u l id line t own) := by
  unfold State.noteWrite
  have hsettle : NotesWrite s (s.settleAccess u id l t false) := ⟨_, _, _, _, _, _, rfl⟩
  have hown : NotesWrite s (if own = 0 then s.settleAccess u id l t false
      else (s.settleAccess u id l t false).noteSeen (.own u l) line t own) :=
    .ite hsettle (hsettle.trans (notesWrite_noteSeen ..))
  dsimp only
  generalize (if own = 0 then _ else _ : State) = r at hown ⊢
  have hunit : NotesWrite s (if isWideCore core.core then r.noteSeen (.unit u) line t else r) :=
    .ite (hown.trans (notesWrite_noteSeen ..)) hown
  generalize (if isWideCore core.core then _ else _ : State) = q at hunit ⊢
  exact .ite (hunit.trans (notesWrite_noteSeen ..)) hunit

theorem notesWrite_finishWrite (s : State) (id : Nat) : NotesWrite s (s.finishWrite id) := by
  unfold State.finishWrite
  split
  · exact .refl s
  · exact .ite ⟨_, _, _, _, _, _, rfl⟩ (.refl s)

theorem copyOf_of_copies {s t : State} (h : t.copies = s.copies) (cluster line : Nat) : t.copyOf cluster line = s.copyOf cluster line := by
  unfold State.copyOf
  rw [h]

/-- A copy after a change of one copy's contents. -/
theorem copyOf_updCopy (s : State) (k n cluster line : Nat) (f : Copy → Copy) (hf : ∀ x, (f x).cluster = x.cluster ∧ (f x).line = x.line) :
    (s.updCopy k n f).copyOf cluster line = if (cluster, line) = (k, n) then (s.copyOf cluster line).map f else s.copyOf cluster line := by
  unfold State.copyOf State.updCopy
  dsimp only
  induction s.copies with
  | nil => simp
  | cons x l ih =>
    obtain ⟨hcl, hli⟩ := hf x
    rw [List.map_cons, List.find?_cons, List.find?_cons, ih]
    by_cases hx : x.cluster = k ∧ x.line = n
    · rw [if_pos hx, hcl, hli]
      obtain ⟨rfl, rfl⟩ := hx
      by_cases h : (cluster, line) = (x.cluster, x.line)
      · obtain ⟨rfl, rfl⟩ := Prod.mk.inj h
        simp
      · have : (x.cluster == cluster && x.line == line) = false := by
          simp only [Prod.mk.injEq, not_and] at h
          simp only [Bool.and_eq_false_iff, beq_eq_false_iff_ne]
          by_cases hc : x.cluster = cluster
          · exact .inr fun hl => h hc.symm hl.symm
          · exact .inl hc
        simp [this, h]
    · rw [if_neg hx]
      cases hm : (x.cluster == cluster && x.line == line) with
      | true =>
        simp only [Bool.and_eq_true, beq_iff_eq] at hm
        obtain ⟨rfl, rfl⟩ := hm
        exact (if_neg fun h => hx ⟨(Prod.mk.inj h).1, (Prod.mk.inj h).2⟩).symm
      | false => rfl

theorem read_writeBytes (bs : List Byte) (m : List Host.Cell) (a x : Nat) (hm : Memory.wf m = true) :
    Memory.read (Memory.writeBytes m a bs) x = if a ≤ x ∧ x < a + bs.length then bs.getD (x - a) 0 else Memory.read m x := by
  induction bs generalizing m a with
  | nil => rw [if_neg (by simp)]; rfl
  | cons b bs ih =>
    rw [Memory.writeBytes, ih _ _ (Memory.wf_write m a b hm), Memory.read_write m a x b hm, List.length_cons]
    by_cases h : x = a
    · subst h
      rw [if_neg (by omega), if_pos rfl, if_pos (by omega), Nat.sub_self, List.getD_cons_zero]
    · by_cases h' : a + 1 ≤ x ∧ x < a + 1 + bs.length
      · rw [if_pos h', if_pos (by omega), show x - a = x - (a + 1) + 1 by omega, List.getD_cons_succ]
      · rw [if_neg h', if_neg h, if_neg (by omega)]

/-- A piece of a store is performed in the copy of its line that its cluster owns. -/
theorem performPiece_store {s : State} {w : Write} {k : Nat} {q : WPiece} {x : Copy} (hw : s.writes.find? (·.id == w.id) = some w)
    (hk : w.kind = .store) (hq : w.pieces[k]? = some q) (hp : q.performed = false) (hmay : s.mayWrite w q.line = true)
    (hx : s.copyOf w.core.cluster q.line = some x) (hO : x.isO = true) :
    ∃ f : Copy → Copy, (∀ y, (f y).cluster = y.cluster ∧ (f y).line = y.line ∧ (f y).data = setLineBytes y.data q.off q.bytes) ∧
      NotesWrite (s.updCopy w.core.cluster q.line f) (s.performPiece w.id k) := by
  unfold State.performPiece
  simp only [hw, hk, hq, hp, hmay, hx, hO, State.writeO, Bool.not_true, Bool.or_self, Bool.false_eq_true, if_false, if_true]
  refine ⟨_, ?_, ((((notesWrite_raiseCtime ..).trans ⟨_, _, _, _, _, _, rfl⟩).trans ((notesWrite_raiseCtime ..).trans
    ((notesWrite_noteWrite ..).trans ⟨_, _, _, _, _, _, rfl⟩))).trans (notesWrite_finishWrite ..))⟩
  exact fun y => ⟨rfl, rfl, rfl⟩

/-- Settles O12: bytes go through `Memory.writeBytes`, `setLineBytes` and `putLbytes`, each of which puts its bytes and no other;
what else a store does touches neither memory nor copies. -/
theorem storeFrames : Obligations.StoreFrames := by
  refine ⟨fun m a x bs hm => ⟨Memory.wf_writeBytes bs m a hm, ?_⟩, fun d off i bs hoff hi => ?_,
    fun s t c l off n bytes cls rel bad va hs hc hend ht => ?_, fun s t c l pa n leaf bytes cls rel bad va hd ht => ?_,
    fun s t w k q x hw hk hq hp hmay hx hO ht => ?_⟩
  · exact read_writeBytes bs m a x hm
  · rw [lineBytes_one, lineBytes_one, extract_setLineBytes bs d off hoff hi]
    split <;> rfl
  · obtain ⟨lrt, h⟩ := sendStore_own s c l off n bytes cls rel bad va
    obtain ⟨agents, hfloor⟩ := floorLane_frame s c.uid l
    have hwrites := writesBytes_putLbytes (s := { s.floorLane c.uid l with lrt := lrt }) (by rw [hfloor]; exact hs) hc hend bad
    rw [← h, ← ht] at hwrites
    obtain ⟨⟨lwords, hframe⟩, hwf, hbyte, hfull⟩ := hwrites
    rw [hfloor] at hframe
    subst hframe
    refine ⟨rfl, rfl, by rw [hfloor], hwf, fun k o hk ho => ⟨?_, ?_⟩⟩
    · rw [hbyte k o hk ho]
      have hs' : State.lbyte { s.floorLane c.uid l with lrt := lrt } k o = s.lbyte k o := by rw [hfloor]; rfl
      rw [hs']
      unfold bytesPut
      by_cases hk' : k = c.a.place.coreId
      · by_cases ho' : off ≤ o ∧ o < off + bytes.length
        · rw [if_pos hk', if_pos ho', if_pos ⟨hk', ho'⟩]
          rfl
        · rw [if_pos hk', if_neg ho', if_neg fun h => ho' h.2]
          rfl
      · rw [if_neg hk', if_neg fun h => hk' h.1]
    · rw [hfull k (o / 4) hk (by omega), hfloor]
      rfl
  · obtain ⟨_, _, _, _, _, _, _, h⟩ := sendStore_mem s c l pa n leaf bytes cls rel bad va hd
    rw [h] at ht
    subst ht
    exact ⟨rfl, rfl, rfl, rfl⟩
  · obtain ⟨f, hf, _, _, _, _, _, _, h⟩ := performPiece_store hw hk hq hp hmay hx hO
    have hcopies : t.copies = (s.updCopy w.core.cluster q.line f).copies := by rw [ht, h]
    have hcopy (cluster line : Nat) := (copyOf_of_copies hcopies cluster line).trans
      (copyOf_updCopy s w.core.cluster q.line cluster line f fun y => ⟨(hf y).1, (hf y).2.1⟩)
    refine ⟨by rw [ht, h]; rfl, by rw [ht, h]; rfl, ?_, fun cl line hne => ?_⟩
    · rw [hcopy, if_pos rfl, hx]
      exact congrArg some (hf x).2.2
    · rw [hcopy, if_neg hne]

end Sys2Proof.Laws
end

section
/-! The frame of the register instructions (06_registers.md R119, R145): what the joins of a warp, the back edge and the writes of
the lanes leave of a unit (15_travellers.md R346, R347, 16_loops.md R351). -/

namespace Sys2Proof.Laws

open Sys2Proof.Machine Sys2Proof.Terms

/-! ### A unit whose paths move -/

/-- Paths, loop levels and times of lanes have changed in a unit; no register has, nor, where there is no loop, a predicate. -/
structure PathsMoved (a x : Agent) : Prop where
  frame : ∃ slotA slotB stack rrb loops hrrb hloops flight lanes, x = { a with
    slotA := slotA, slotB := slotB, stack := stack, rrb := rrb, loops := loops, hrrb := hrrb, hloops := hloops, flight := flight,
    lanes := lanes }
  lanes : x.lanes.length = a.lanes.length
  regs : ∀ l, (x.lane l).g = (a.lane l).g
  preds : a.loops = [] → a.hloops = [] → x.loops = [] ∧ x.hloops = [] ∧ ∀ l, (x.lane l).p = (a.lane l).p

theorem PathsMoved.refl (a : Agent) : PathsMoved a a :=
  ⟨⟨_, _, _, _, _, _, _, _, _, rfl⟩, rfl, fun _ => rfl, fun h h' => ⟨h, h', fun _ => rfl⟩⟩

theorem PathsMoved.trans {a b c : Agent} (h : PathsMoved a b) (h' : PathsMoved b c) : PathsMoved a c := by
  refine ⟨?_, h'.lanes.trans h.lanes, fun l => (h'.regs l).trans (h.regs l), fun hl hh => ?_⟩
  · obtain ⟨_, _, _, _, _, _, _, _, _, rfl⟩ := h.frame
    obtain ⟨_, _, _, _, _, _, _, _, _, rfl⟩ := h'.frame
    exact ⟨_, _, _, _, _, _, _, _, _, rfl⟩
  · obtain ⟨hbl, hbh, hbp⟩ := h.preds hl hh
    obtain ⟨hcl, hch, hcp⟩ := h'.preds hbl hbh
    exact ⟨hcl, hch, fun l => (hcp l).trans (hbp l)⟩

theorem PathsMoved.ite {a x y : Agent} {c : Prop} [Decidable c] (hx : PathsMoved a x) (hy : PathsMoved a y) :
    PathsMoved a (if c then x else y) := by
  split
  · exact hx
  · exact hy

theorem PathsMoved.uid {a x : Agent} (h : PathsMoved a x) : x.uid = a.uid := by
  obtain ⟨_, _, _, _, _, _, _, _, _, rfl⟩ := h.frame
  rfl

theorem pathsMoved_paths (a : Agent) (slotA slotB : Option Path) (stack : List Path) :
    PathsMoved a { a with slotA := slotA, slotB := slotB, stack := stack } :=
  ⟨⟨_, _, _, _, _, _, _, _, _, rfl⟩, rfl, fun _ => rfl, fun h h' => ⟨h, h', fun _ => rfl⟩⟩

theorem pathsMoved_setSlot (a : Agent) (b : Bool) (p : Option Path) : PathsMoved a (a.setSlot b p) :=
  .ite (pathsMoved_paths ..) (pathsMoved_paths ..)

/-- What a change of every lane keeps of each. -/
theorem getD_mapIdx_keeps {α β : Type} {φ : α → β} {f : Nat → α → α} (hf : ∀ i x, φ (f i x) = φ x) (l : List α) (k : Nat) (d : α) :
    φ ((l.mapIdx f).getD k d) = φ (l.getD k d) := by
  rw [List.getD_eq_getElem?_getD, List.getD_eq_getElem?_getD, List.getElem?_mapIdx]
  cases l[k]? with
  | none => rfl
  | some x => exact hf k x

theorem pathsMoved_level (a : Agent) (m : Mask) : PathsMoved a (a.level m) := by
  have hkeep {β : Type} {φ : Lane → β} (hφ : ∀ (ln : Lane) t acq rel lrt past,
      φ { ln with ltime := t, fenceAcq := acq, fenceRel := rel, lrtSeen := lrt, past := past } = φ ln) (l : Nat) :
      φ ((a.level m).lane l) = φ (a.lane l) := by
    unfold Agent.level Agent.lane
    refine getD_mapIdx_keeps (fun i ln => ?_) _ _ _
    split
    · exact hφ ..
    · rfl
  exact ⟨⟨_, _, _, _, _, _, _, _, _, rfl⟩, List.length_mapIdx, hkeep fun _ _ _ _ _ _ => rfl,
    fun h h' => ⟨h, h', hkeep fun _ _ _ _ _ _ => rfl⟩⟩

/-! ### Loop levels -/

theorem pathsMoved_replaceCur (a : Agent) (act : Bool) (rrb : BitVec 4) (x : Option Loop) :
    PathsMoved a (a.setLoops act rrb (replaceCur (a.loopsOf act) x)) := by
  cases act with
  | false =>
    refine ⟨⟨_, _, _, _, _, _, _, _, _, rfl⟩, rfl, fun _ => rfl, fun h h' => ⟨?_, h', fun _ => rfl⟩⟩
    show replaceCur a.loops x = []
    rw [h, replaceCur]
  | true =>
    refine ⟨⟨_, _, _, _, _, _, _, _, _, rfl⟩, rfl, fun _ => rfl, fun h h' => ⟨h, ?_, fun _ => rfl⟩⟩
    show replaceCur a.hloops x = []
    rw [h', replaceCur]

theorem setPred_g (ln : Lane) (rrb : BitVec 4) (p : PReg) (b : Bool) : (ln.setPred rrb p b).g = ln.g := by
  unfold Lane.setPred
  split <;> rfl

theorem lane_setP8_g (a : Agent) (rrb : BitVec 4) (b : Bool) (l : Nat) : ((a.setP8 rrb b).lane l).g = (a.lane l).g := by
  unfold Agent.setP8 Agent.lane
  rw [List.getD_eq_getElem?_getD, List.getD_eq_getElem?_getD, List.getElem?_map]
  cases a.lanes[l]? with
  | none => rfl
  | some ln => exact setPred_g ln rrb 8 b

theorem ne_nil_of_curLoop {a : Agent} {act : Bool} {lp : Loop} (h : a.curLoop act = some lp) : ¬ (a.loops = [] ∧ a.hloops = []) := by
  rintro ⟨hl, hh⟩
  have hpos := loopsOf_length_pos h
  cases act with
  | false => rw [show a.loopsOf false = a.loops from rfl, hl] at hpos; exact Nat.lt_irrefl _ hpos
  | true => rw [show a.loopsOf true = a.hloops from rfl, hh] at hpos; exact Nat.lt_irrefl _ hpos

theorem pathsMoved_backEdge (act : Bool) (n : Nat) (a : Agent) (pc : DWord) : PathsMoved a (backEdge act n a pc).1 := by
  induction n generalizing a pc with
  | zero => exact .refl a
  | succ n ih =>
    unfold backEdge
    split
    · exact .refl a
    · next lp hcur =>
      split
      · exact .refl a
      · split
        · dsimp only
          split
          · exact pathsMoved_replaceCur ..
          · obtain ⟨h, hlen, hregs, -⟩ := pathsMoved_replaceCur a act (a.rrbOf act - 1) (some { lp with remain := lp.remain - 1 })
            refine ⟨?_, ?_, fun l => (lane_setP8_g ..).trans (hregs l), fun hl hh => (ne_nil_of_curLoop hcur ⟨hl, hh⟩).elim⟩
            · obtain ⟨_, _, _, _, _, _, _, _, _, h⟩ := h
              rw [h]
              exact ⟨_, _, _, _, _, _, _, _, _, rfl⟩
            · exact (List.length_map _).trans hlen
        · exact (pathsMoved_replaceCur ..).trans (ih _ _)

/-! ### A state in which a unit's paths move -/

/-- A unit's paths have moved, with the records of its divergence stack in its local store. -/
structure Moved (u : Nat) (s t : State) : Prop where
  frame : ∃ agents lwords, t = { s with agents := agents, lwords := lwords }
  other : ∀ v, v ≠ u → t.agent? v = s.agent? v
  unit : ∀ a, s.agent? u = some a → ∃ x, t.agent? u = some x ∧ PathsMoved a x

theorem Moved.refl (u : Nat) (s : State) : Moved u s s := ⟨⟨_, _, rfl⟩, fun _ _ => rfl, fun a h => ⟨a, h, .refl a⟩⟩

theorem Moved.trans {u : Nat} {s t r : State} (h : Moved u s t) (h' : Moved u t r) : Moved u s r := by
  refine ⟨?_, fun v hv => (h'.other v hv).trans (h.other v hv), fun a ha => ?_⟩
  · obtain ⟨_, _, rfl⟩ := h.frame
    obtain ⟨_, _, rfl⟩ := h'.frame
    exact ⟨_, _, rfl⟩
  · obtain ⟨x, hx, hax⟩ := h.unit a ha
    obtain ⟨y, hy, hxy⟩ := h'.unit x hx
    exact ⟨y, hy, hax.trans hxy⟩

theorem moved_setAgent {s : State} {a b : Agent} {u : Nat} (ha : s.agent? u = some a) (hb : PathsMoved a b) : Moved u s (s.setAgent b) := by
  obtain rfl : a.uid = u := (State.agent?_mem ha).2
  have hagent (v : Nat) := s.agent?_setAgent b a v (by rw [hb.uid]; exact ha)
  refine ⟨⟨_, _, rfl⟩, fun v hv => ?_, fun x hx => ⟨b, ?_, ?_⟩⟩
  · rw [hagent, if_neg (by rw [hb.uid]; exact hv)]
  · rw [hagent, if_pos hb.uid.symm]
  · cases ha.symm.trans hx
    exact hb

theorem moved_updAgent {s : State} {u : Nat} {f : Agent → Agent} (hf : ∀ a, PathsMoved a (f a)) : Moved u s (s.updAgent u f) := by
  have hagent (v : Nat) := s.agent?_updAgent u v f fun a => (hf a).uid
  refine ⟨⟨_, _, rfl⟩, fun v hv => ?_, fun a ha => ⟨f a, ?_, hf a⟩⟩
  · rw [hagent, if_neg hv]
  · rw [hagent, if_pos rfl, ha]
    rfl

theorem putRec_frame (s : State) (a : Agent) (k : Nat) (p : Path) : ∃ lwords, s.putRec a k p = { s with lwords := lwords } := by
  unfold State.putRec State.putLword State.setLword
  exact ⟨_, rfl⟩

theorem moved_putRec (u : Nat) (s : State) (a : Agent) (k : Nat) (p : Path) : Moved u s (s.putRec a k p) := by
  obtain ⟨lwords, h⟩ := putRec_frame s a k p
  rw [h]
  exact ⟨⟨_, _, rfl⟩, fun _ _ => rfl, fun x hx => ⟨x, hx, .refl x⟩⟩

theorem moved_pushPath (s : State) (u : Nat) (p : Path) : Moved u s (s.pushPath u p) := by
  unfold State.pushPath
  split
  · exact .refl u s
  · next a ha =>
    refine (moved_putRec u s a a.stack.length p).trans (moved_setAgent (a := a) ?_ (pathsMoved_paths ..))
    obtain ⟨lwords, h⟩ := putRec_frame s a a.stack.length p
    rw [h]
    exact ha

theorem moved_popPath (s : State) (u : Nat) (b : Bool) : Moved u s (s.popPath u b) := by
  unfold State.popPath
  split
  · exact .refl u s
  · next a ha =>
    split
    · exact .refl u s
    · exact moved_setAgent ha ((pathsMoved_paths a _ _ _).trans (pathsMoved_setSlot ..))

/-- What a step of R347 gives, where it gives a state, is that of one of its branches. -/
theorem moved_of_some_eq {u : Nat} {s t r : State} (h : some r = some t) (hr : Moved u s r) : Moved u s t := Option.some.inj h ▸ hr

theorem moved_settle1_alone {s t : State} {a : Agent} {u : Nat} {b : Bool} {p : Path} (ha : s.agent? u = some a)
    (h : State.settle1.alone s a b p = some t) : Moved u s t := by
  have hset (q : Option Path) : Moved u s (s.setAgent (a.setSlot b q)) := moved_setAgent ha (pathsMoved_setSlot ..)
  unfold State.settle1.alone at h
  dsimp only at h
  split at h
  · split at h
    · split at h
      · exact moved_of_some_eq h (hset _)
      · exact moved_of_some_eq h (moved_setAgent ha ((pathsMoved_backEdge ..).trans (pathsMoved_setSlot ..)))
    · split at h
      · exact moved_of_some_eq h (moved_setAgent ha ((pathsMoved_replaceCur ..).trans (pathsMoved_setSlot ..)))
      · exact moved_of_some_eq h (hset _)
  · split at h
    · exact moved_of_some_eq h (hset _)
    · cases h

theorem moved_settle1_row {s t : State} {a : Agent} {u : Nat} {b : Bool} {p : Path} (ha : s.agent? u = some a)
    (h : State.settle1.row s a b p = some t) : Moved u s t := by
  obtain rfl : a.uid = u := (State.agent?_mem ha).2
  unfold State.settle1.row at h
  split at h
  · split at h
    · split at h
      · exact moved_of_some_eq h (moved_setAgent ha (((pathsMoved_paths a _ _ _).trans (pathsMoved_setSlot ..)).trans (pathsMoved_level ..)))
      · split at h
        · exact moved_of_some_eq h ((moved_setAgent ha ((pathsMoved_paths a _ _ _).trans (pathsMoved_setSlot ..))).trans (moved_pushPath ..))
        · exact moved_settle1_alone ha h
    · exact moved_settle1_alone ha h
  · cases h

theorem moved_settle1 {s t : State} {a : Agent} {u : Nat} (ha : s.agent? u = some a) (h : s.settle1 a = some t) : Moved u s t := by
  obtain rfl : a.uid = u := (State.agent?_mem ha).2
  unfold State.settle1 at h
  dsimp only at h
  obtain h | h := some_eq_or_of_ite_eq_some h
  · exact moved_of_some_eq h (moved_setAgent ha (pathsMoved_paths ..))
  obtain h | h := some_eq_or_of_ite_eq_some h
  · exact moved_of_some_eq h (moved_setAgent ha (pathsMoved_paths ..))
  obtain h | h := some_eq_or_of_ite_eq_some h
  · exact moved_of_some_eq h (moved_popPath ..)
  obtain h | h := some_eq_or_of_ite_eq_some h
  · exact moved_of_some_eq h (moved_popPath ..)
  obtain h | h := some_eq_or_of_ite_eq_some h
  · exact moved_of_some_eq h (moved_setAgent ha (pathsMoved_paths ..))
  split at h
  · obtain h | h := some_eq_or_of_ite_eq_some h
    · exact moved_of_some_eq h (moved_setAgent ha
        (.trans (.ite (pathsMoved_paths ..) (pathsMoved_paths ..)) (pathsMoved_level ..)))
    · obtain h | ⟨-, h⟩ := Option.or_eq_some_iff.1 h
      · exact moved_settle1_row ha h
      · exact moved_settle1_row ha h
  · exact moved_settle1_row ha h
  · exact moved_settle1_row ha h
  · cases h

theorem moved_settleN (u n : Nat) (s : State) : Moved u s (State.settleN u n s) := by
  induction n generalizing s with
  | zero => exact .refl u s
  | succ n ih =>
    unfold State.settleN
    split
    · exact .refl u s
    · next a ha =>
      split
      · exact .refl u s
      · next t h => exact (moved_settle1 ha h).trans (ih t)

theorem moved_settle (s : State) (u : Nat) : Moved u s (s.settle u) := by
  unfold State.settle
  split
  · exact .refl u s
  · split
    · exact moved_settleN u 400 s
    · exact .refl u s

theorem moved_jump (s : State) (c : Ctx) (pc : DWord) : Moved c.uid s (s.jump c pc) :=
  (moved_updAgent fun a => pathsMoved_setSlot a c.b _).trans (moved_settle ..)

theorem moved_complete (s : State) (c : Ctx) : Moved c.uid s (s.complete c) := by
  unfold State.complete
  split
  · exact .refl c.uid s
  · next a ha => exact (moved_setAgent ha (pathsMoved_backEdge ..)).trans (moved_jump ..)

theorem settle_of_barrel {s : State} {u : Nat} {a : Agent} (ha : s.agent? u = some a) (hw : a.wide = false) : s.settle u = s := by
  unfold State.settle
  rw [ha]
  exact if_neg (by rw [hw]; exact Bool.false_ne_true)

theorem PathsMoved.wide {a x : Agent} (h : PathsMoved a x) : x.wide = a.wide := by
  obtain ⟨_, _, _, _, _, _, _, _, _, rfl⟩ := h.frame
  rfl

theorem moved_updPath (s : State) (u : Nat) (b : Bool) (f : Path → Path) : Moved u s (s.updPath u b f) :=
  moved_updAgent fun a => pathsMoved_setSlot a b _

/-- A barrel unit has no divergence stack in its local store. -/
theorem jump_lwords_of_barrel {s : State} {c : Ctx} {a : Agent} (ha : s.agent? c.uid = some a) (hw : a.wide = false) (pc : DWord) :
    (s.jump c pc).lwords = s.lwords := by
  unfold State.jump
  obtain ⟨x, hx, hax⟩ :=
    (moved_updPath s c.uid c.b fun p => { p.goto pc with wait := none, done := 0, parked := 0 }).unit a ha
  exact (congrArg State.lwords (settle_of_barrel hx (hax.wide.trans hw))).trans rfl

theorem complete_lwords_of_barrel {s : State} {c : Ctx} {a : Agent} (ha : s.agent? c.uid = some a) (hw : a.wide = false) :
    (s.complete c).lwords = s.lwords := by
  unfold State.complete
  rw [ha]
  obtain ⟨x, hx, hax⟩ := (moved_setAgent ha (pathsMoved_backEdge c.p.act (a.loopsOf c.p.act).length a c.npc)).unit a ha
  exact jump_lwords_of_barrel hx (hax.wide.trans hw) _

/-! ### The writes of a lane -/

theorem tokenTimes_frame (ln : Lane) (rrb : BitVec 4) (os : List Opnd) : ∃ t, ln.tokenTimes rrb os = { ln with ltime := t } := by
  unfold Lane.tokenTimes
  split
  · exact ⟨_, rfl⟩
  · exact ⟨_, rfl⟩

theorem consume_frame (ln : Lane) (rrb : BitVec 4) (os : List Opnd) :
    ∃ t full toks, ln.consume rrb os = { ln with ltime := t, full := full, toks := toks } := by
  unfold Lane.consume
  generalize os.flatMap Opnd.regs = l
  obtain ⟨t, h⟩ := tokenTimes_frame ln rrb os
  rw [h]
  have hfold (m : Lane) (hm : ∃ t full toks, m = { ln with ltime := t, full := full, toks := toks }) :
      ∃ t full toks, l.foldl (fun ln x => if x.2 = .consume then ln.setEmpty (physG rrb x.1) else ln) m =
        { ln with ltime := t, full := full, toks := toks } := by
    induction l generalizing m with
    | nil => exact hm
    | cons x l ih =>
      refine ih _ ?_
      obtain ⟨t, full, toks, rfl⟩ := hm
      dsimp only
      split
      · exact ⟨_, _, _, rfl⟩
      · exact ⟨_, _, _, rfl⟩
  exact hfold _ ⟨_, _, _, rfl⟩

theorem foldl_setReg_reg {l : List (GReg × Word)} {rrb : BitVec 4} {r : Fin 64} (hr : ∀ d ∈ l, physG rrb d.1 ≠ r) (ln : Lane) :
    (l.foldl (fun ln x => ln.setReg (physG rrb x.1) x.2) ln).reg r = ln.reg r := by
  induction l generalizing ln with
  | nil => rfl
  | cons x l ih =>
    obtain ⟨hx, hl⟩ := List.forall_mem_cons.1 hr
    rw [List.foldl_cons, ih hl, Lane.reg_setReg, if_neg (Ne.symm hx)]

theorem foldl_setReg_p (l : List (GReg × Word)) (rrb : BitVec 4) (ln : Lane) :
    (l.foldl (fun ln x => ln.setReg (physG rrb x.1) x.2) ln).p = ln.p := by
  induction l generalizing ln with
  | nil => rfl
  | cons x l ih => exact ih _

theorem foldl_setPred_g (l : List (PReg × Bool)) (rrb : BitVec 4) (ln : Lane) :
    (l.foldl (fun ln x => ln.setPred rrb x.1 x.2) ln).g = ln.g := by
  induction l generalizing ln with
  | nil => rfl
  | cons x l ih => exact (ih _).trans (setPred_g ..)

theorem setPred_getLsbD {rrb : BitVec 4} {p : PReg} {k : Nat} (hk : k < 16) (hp : physP rrb p ≠ k) (ln : Lane) (v : Bool) :
    (ln.setPred rrb p v).p.getLsbD k = ln.p.getLsbD k := by
  unfold Lane.setPred
  split
  · rfl
  · exact (setBit_getLsbD _ _ _ _ hk).trans (if_neg (Ne.symm hp))

theorem foldl_setPred_p {l : List (PReg × Bool)} {rrb : BitVec 4} {k : Nat} (hlt : k < 16) (hk : ∀ d ∈ l, physP rrb d.1 ≠ k) (ln : Lane) :
    (l.foldl (fun ln x => ln.setPred rrb x.1 x.2) ln).p.getLsbD k = ln.p.getLsbD k := by
  induction l generalizing ln with
  | nil => rfl
  | cons x l ih =>
    obtain ⟨hx, hl⟩ := List.forall_mem_cons.1 hk
    rw [List.foldl_cons, ih hl, setPred_getLsbD hlt hx]

theorem write_reg {o : LaneOut} {rrb : BitVec 4} {r : Fin 64} (hr : ∀ d ∈ o.regs, physG rrb d.1 ≠ r) (ln : Lane) (os : List Opnd) :
    (ln.write rrb os o).reg r = ln.reg r := by
  obtain ⟨t, full, toks, h⟩ := consume_frame ln rrb os
  unfold Lane.write
  rw [h]
  refine (congrArg (·[r]) (foldl_setPred_g ..)).trans ?_
  exact (foldl_setReg_reg hr _).trans rfl

theorem write_pred {o : LaneOut} {rrb : BitVec 4} {k : Nat} (hlt : k < 16) (hk : ∀ d ∈ o.preds, physP rrb d.1 ≠ k) (ln : Lane) (os : List Opnd) :
    (ln.write rrb os o).p.getLsbD k = ln.p.getLsbD k := by
  obtain ⟨t, full, toks, h⟩ := consume_frame ln rrb os
  unfold Lane.write
  rw [h]
  refine (foldl_setPred_p hlt hk _).trans ?_
  rw [foldl_setReg_p]

/-! ### The unit after its lanes' writes -/

/-- What the lanes `ls` have written of a unit: their destinations, and the flags. -/
structure LanesWrote (rrb : BitVec 4) (out : Nat → LaneOut) (ls : List Nat) (a x : Agent) : Prop where
  frame : ∃ fpflags lanes, x = { a with fpflags := fpflags, lanes := lanes }
  flags : x.fpflags = ls.foldl (fun f l => f ||| (out l).flags.setWidth 64) a.fpflags
  lanes : x.lanes.length = a.lanes.length
  regs : ∀ l < a.lanes.length, ∀ r : Fin 64, (l ∈ ls → ∀ d ∈ (out l).regs, physG rrb d.1 ≠ r) → (x.lane l).reg r = (a.lane l).reg r
  preds : ∀ l < a.lanes.length, ∀ k < 16, (l ∈ ls → ∀ d ∈ (out l).preds, physP rrb d.1 ≠ k) →
    (x.lane l).p.getLsbD k = (a.lane l).p.getLsbD k

theorem acquireTokens_frame (a : Agent) (c : Ctx) (l : Nat) (os : List Opnd) :
    ∃ lanes, a.acquireTokens c l os = { a with lanes := lanes } ∧ lanes.length = a.lanes.length ∧
      ∀ k, (lanes.getD k Lane.fresh).g = (a.lane k).g ∧ (lanes.getD k Lane.fresh).p = (a.lane k).p := by
  unfold Agent.acquireTokens
  split
  · exact ⟨_, rfl, rfl, fun _ => ⟨rfl, rfl⟩⟩
  · refine ⟨_, rfl, List.length_mapIdx, fun k => ⟨getD_mapIdx_keeps (fun i ln => ?_) _ _ _, getD_mapIdx_keeps (fun i ln => ?_) _ _ _⟩⟩
    · split <;> rfl
    · split <;> rfl

theorem LanesWrote.trans {rrb : BitVec 4} {out : Nat → LaneOut} {ls ls' : List Nat} {a b c : Agent} (h : LanesWrote rrb out ls a b)
    (h' : LanesWrote rrb out ls' b c) : LanesWrote rrb out (ls ++ ls') a c := by
  refine ⟨?_, ?_, h'.lanes.trans h.lanes, fun l hl r hr => ?_, fun l hl k hk hd => ?_⟩
  · obtain ⟨_, _, rfl⟩ := h.frame
    obtain ⟨_, _, rfl⟩ := h'.frame
    exact ⟨_, _, rfl⟩
  · rw [List.foldl_append, ← h.flags, h'.flags]
  · exact (h'.regs l (h.lanes ▸ hl) r fun hm => hr (List.mem_append_right _ hm)).trans
      (h.regs l hl r fun hm => hr (List.mem_append_left _ hm))
  · exact (h'.preds l (h.lanes ▸ hl) k hk fun hm => hd (List.mem_append_right _ hm)).trans
      (h.preds l hl k hk fun hm => hd (List.mem_append_left _ hm))

theorem lane_updLane_ne (a : Agent) {l k : Nat} (f : Lane → Lane) (h : k ≠ l) : (a.updLane l f).lane k = a.lane k := by
  unfold Agent.updLane Agent.lane
  rw [List.getD_eq_getElem?_getD, List.getD_eq_getElem?_getD, List.getElem?_modify, Option.map_eq_map]
  cases a.lanes[k]? with
  | none => rfl
  | some ln => exact congrArg (fun o => Option.getD (some o) Lane.fresh) (if_neg (Ne.symm h))

theorem lanesWrote_one (c : Ctx) (os : List Opnd) (out : Nat → LaneOut) (a : Agent) (l : Nat) (hu : (out l).uni = none) :
    LanesWrote c.rrb out [l] a
      ((((a.acquireTokens c l os).updLane l fun ln => ln.write c.rrb os (out l)).orFlags (out l).flags).writeUni c.p.act (out l).uni) := by
  obtain ⟨lanes, hacq, hlen, hkeep⟩ := acquireTokens_frame a c l os
  rw [hu, hacq]
  have hsame (k : Nat) (hk : k < a.lanes.length) (h : k = l) :
      (({ a with lanes := lanes } : Agent).updLane l fun ln => ln.write c.rrb os (out l)).lane k =
        (lanes.getD k Lane.fresh).write c.rrb os (out l) := by
    subst h
    exact (Agent.lane_updLane { a with lanes := lanes } k k _ (hlen ▸ hk)).trans (if_pos rfl)
  refine ⟨⟨_, _, rfl⟩, rfl, (List.length_modify ..).trans hlen, fun k hk r hr => ?_, fun k hk j hj hd => ?_⟩
  · have hg : (lanes.getD k Lane.fresh).reg r = (a.lane k).reg r := congrArg (·[r]) (hkeep k).1
    by_cases h : k = l
    · exact (congrArg (·.reg r) (hsame k hk h)).trans ((write_reg (h ▸ hr (by simp [h])) _ os).trans hg)
    · exact (congrArg (·.reg r) (lane_updLane_ne { a with lanes := lanes } _ h)).trans hg
  · have hp : (lanes.getD k Lane.fresh).p.getLsbD j = (a.lane k).p.getLsbD j := congrArg (·.getLsbD j) (hkeep k).2
    by_cases h : k = l
    · exact (congrArg (·.p.getLsbD j) (hsame k hk h)).trans ((write_pred hj (h ▸ hd (by simp [h])) _ os).trans hp)
    · exact (congrArg (·.p.getLsbD j) (lane_updLane_ne { a with lanes := lanes } _ h)).trans hp

theorem lanesWrote_ranUnit (c : Ctx) (os : List Opnd) (out : Nat → LaneOut) (a : Agent) (hu : ∀ l ∈ Mask.list c.act, (out l).uni = none) :
    LanesWrote c.rrb out (Mask.list c.act) a (ranUnit c os out a) := by
  unfold ranUnit
  generalize Mask.list c.act = ls at hu ⊢
  induction ls generalizing a with
  | nil => exact ⟨⟨_, _, rfl⟩, rfl, rfl, fun _ _ _ _ => rfl, fun _ _ _ _ _ => rfl⟩
  | cons l ls ih =>
    obtain ⟨hl, hls⟩ := List.forall_mem_cons.1 hu
    exact (lanesWrote_one c os out a l hl).trans (ih _ hls)

theorem LanesWrote.uid {rrb : BitVec 4} {out : Nat → LaneOut} {ls : List Nat} {a x : Agent} (h : LanesWrote rrb out ls a x) :
    x.uid = a.uid := by
  obtain ⟨_, _, rfl⟩ := h.frame
  rfl

theorem LanesWrote.wide {rrb : BitVec 4} {out : Nat → LaneOut} {ls : List Nat} {a x : Agent} (h : LanesWrote rrb out ls a x) :
    x.wide = a.wide := by
  obtain ⟨_, _, rfl⟩ := h.frame
  rfl

/-- What the issue of an instruction notes: its launch is not quiet, its unit has not been idle. -/
theorem atIssue_unit (s : State) {c : Ctx} (hu : c.a.uid = c.uid) :
    ∃ (launches : List Launch) (idleSince : Agent → Nat), atIssue s c =
      State.updAgent { s with launches := launches } c.uid fun a => { a with idleSince := idleSince a } := by
  unfold atIssue State.noteIssue
  rw [hu]
  dsimp only
  split
  · refine ⟨s.launches, fun a => a.idleSince, ?_⟩
    unfold State.updAgent
    dsimp only
    simp only [ite_self, List.map_id']
  · refine ⟨s.launches.map fun l =>
      if (s.agent? c.uid).bind Agent.unitOf = some l.id then { l with quietSince := none, reported := false } else l,
      fun _ => s.now c.a.place.cluster, ?_⟩
    rfl

/-- Settles O11: the lanes' writes change their destinations and the flags, completing moves the unit's path, and neither touches
another unit or memory. -/
theorem registerFrame : Obligations.RegisterFrame := by
  intro s t c os out a ha hca ht huni
  obtain ⟨launches, idleSince, hissue⟩ := atIssue_unit s hca
  have hwrote (b : Agent) := lanesWrote_ranUnit c os out b huni
  have hran : ran s c os out = State.updAgent (State.updAgent { s with launches := launches } c.uid fun a =>
      { a with idleSince := idleSince a }) c.uid (ranUnit c os out) := by
    unfold ran
    rw [hissue]
  have hagent (v : Nat) : (ran s c os out).agent? v =
      if v = c.uid then (s.agent? v).map fun a => ranUnit c os out { a with idleSince := idleSince a } else s.agent? v := by
    rw [hran, State.agent?_updAgent _ _ _ _ fun b => (hwrote b).uid, State.agent?_updAgent]
    · split
      · exact Option.map_map ..
      · rfl
    · exact fun _ => rfl
  have hunit : (ran s c os out).agent? c.uid = some (ranUnit c os out { a with idleSince := idleSince a }) := by
    rw [hagent, if_pos rfl, ha]
    rfl
  have hmoved := moved_complete (ran s c os out) c
  rw [← ht] at hmoved
  obtain ⟨x, hx, hpaths⟩ := hmoved.unit _ hunit
  have hlanes := hwrote { a with idleSince := idleSince a }
  refine ⟨?_, fun u y hu hy => ?_, x, hx, ?_⟩
  · obtain ⟨agents, lwords, hframe⟩ := hmoved.frame
    have hlwords (hw : a.wide = false) : t.lwords = s.lwords := by
      rw [ht, complete_lwords_of_barrel hunit (hlanes.wide.trans hw), hran]
      rfl
    rw [hframe, hran] at hlwords ⊢
    exact ⟨rfl, rfl, rfl, rfl, rfl, rfl, rfl, rfl, rfl, rfl, rfl, hlwords⟩
  · rw [hmoved.other u hu, hagent, if_neg hu]
    exact hy
  · have hx' : ∃ fpflags lanes idle slotA slotB stack rrb loops hrrb hloops flight, x = { a with
        fpflags := fpflags, lanes := lanes, idleSince := idle, slotA := slotA, slotB := slotB, stack := stack, rrb := rrb,
        loops := loops, hrrb := hrrb, hloops := hloops, flight := flight } := by
      obtain ⟨_, _, h⟩ := hlanes.frame
      obtain ⟨_, _, _, _, _, _, _, _, _, h'⟩ := hpaths.frame
      rw [h', h]
      exact ⟨_, _, _, _, _, _, _, _, _, _, _, rfl⟩
    have hflags : x.fpflags = (ranUnit c os out { a with idleSince := idleSince a }).fpflags := by
      obtain ⟨_, _, _, _, _, _, _, _, _, h'⟩ := hpaths.frame
      rw [h']
    have hloops : (ranUnit c os out { a with idleSince := idleSince a }).loops = a.loops ∧
        (ranUnit c os out { a with idleSince := idleSince a }).hloops = a.hloops := by
      obtain ⟨_, _, h⟩ := hlanes.frame
      rw [h]
      exact ⟨rfl, rfl⟩
    have hlen := hpaths.lanes.trans hlanes.lanes
    have hfl := hflags.trans hlanes.flags
    obtain ⟨_, _, _, _, _, _, _, _, _, _, _, hx'⟩ := hx'
    refine ⟨by rw [hx'], by rw [hx'], by rw [hx'], by rw [hx'], by rw [hx'], by rw [hx'], by rw [hx'], by rw [hx'], by rw [hx'],
      by rw [hx'], by rw [hx'], hfl, hlen, fun l hl => ⟨fun r hr => ?_, fun k hk h0 h0' hd => ?_⟩⟩
    · exact (congrArg (·[r]) (hpaths.regs l)).trans (hlanes.regs l hl r hr)
    · obtain ⟨-, -, hp⟩ := hpaths.preds (hloops.1.trans h0) (hloops.2.trans h0')
      exact (congrArg (·.getLsbD k) (hp l)).trans (hlanes.preds l hl k hk hd)

end Sys2Proof.Laws
end

section
/-! Taking a trap and returning from it (19_traps.md R416-R421). -/

namespace Sys2Proof.Laws

open Sys2Proof.Machine Sys2Proof.Terms

/-! ### Faults of every lane of a path with one cause -/

theorem foldl_min_const {α : Type} {f : α → Nat} {k : Nat} {l : List α} (hl : ∀ x ∈ l, f x = k) (m : Nat) :
    l.foldl (fun m x => if f x < m then f x else m) m = if l = [] then m else min k m := by
  induction l generalizing m with
  | nil => rfl
  | cons x l ih =>
    obtain ⟨hx, hl⟩ := List.forall_mem_cons.1 hl
    rw [List.foldl_cons, ih hl, hx, if_neg (List.cons_ne_nil x l)]
    split <;> split <;> omega

theorem faultMask_lanes (m : Mask) (f : Nat → LFault) (hf : ∀ l, (f l).lane = l) : faultMask ((Mask.list m).map f) = m := by
  unfold faultMask
  rw [List.map_map, show (fun x => x.lane) ∘ f = id from funext hf, List.map_id]
  exact ofList_list m

/-- Faults with one cause are all lowest. -/
theorem lowestFaults_same {fs : List LFault} {cause : BitVec 8} (hc : ∀ f ∈ fs, f.cause = cause) (hd : ∀ f ∈ fs, f.due = none) :
    lowestFaults fs = fs := by
  have hdrop : dropLaterDue fs = fs := by
    refine List.filter_eq_self.2 fun f hf => ?_
    rw [hd f hf]
    rfl
  unfold lowestFaults
  dsimp only
  have hmin := foldl_min_const (f := fun f : LFault => f.cause.toNat) (k := cause.toNat) (fun f hf => by rw [hc f hf]) 256
  rw [hdrop]
  refine List.filter_eq_self.2 fun f hf => ?_
  rw [hmin, if_neg (List.ne_nil_of_mem hf), hc f hf, Nat.min_eq_left (by have := cause.isLt; omega)]
  exact beq_self_eq_true _

theorem tookDue_of_none {fs : List LFault} (hd : ∀ f ∈ fs, f.due = none) (s : State) (u : Nat) : s.tookDue u fs = s :=
  if_pos (List.all_eq_true.2 fun f hf => by rw [hd f hf]; rfl)

/-! ### The trap is taken -/

theorem takeTrap_of_outside {s : State} {u : Nat} {b : Bool} {a : Agent} {p : Path} (ha : s.agent? u = some a) (hp : a.slot b = some p)
    (hact : p.act = false) (hw : s.watchesHeld u p.mask = false) (hprop : s.propHeld u p.mask = false) (hst : a.status = .issuing)
    (cause : BitVec 8) (tval : DWord) (ue : BitVec 2) (epc : DWord) :
    s.takeTrap u b cause tval ue epc = s.enterTrap u b cause tval ue epc := by
  unfold State.takeTrap
  simp only [ha, hp, hact, hw, hprop, hst, Bool.false_eq_true, if_false, Bool.or_self, bne_self_eq_false]

theorem takeTrap_of_held {s : State} {u : Nat} {b : Bool} {a : Agent} {p : Path} (ha : s.agent? u = some a) (hp : a.slot b = some p)
    (hact : p.act = false) (hw : s.watchesHeld u p.mask = true) (cause : BitVec 8) (tval : DWord) (ue : BitVec 2) (epc : DWord) :
    s.takeTrap u b cause tval ue epc = s.updPath u b fun p =>
      { p with trap := some (p.mask, cause, tval, ue, epc), wait := none, done := 0, parked := 0, mode := .run } := by
  unfold State.takeTrap
  simp only [ha, hp, hact, hw, Bool.false_eq_true, if_false, Bool.true_or, if_true]

theorem takeTrap_of_inside {s : State} {u : Nat} {b : Bool} {a : Agent} {p : Path} (ha : s.agent? u = some a) (hp : a.slot b = some p)
    (hact : p.act = true) (cause : BitVec 8) (tval : DWord) (ue : BitVec 2) (epc : DWord) :
    s.takeTrap u b cause tval ue epc = s.doubleTrap u (Mask.lowest p.mask) cause p.pc := by
  unfold State.takeTrap
  simp only [ha, hp, hact, if_true]

/-- The path that enters the handler. -/
def trapPath (s : State) (a : Agent) (p : Path) (cause : BitVec 8) : Path :=
  { p with pc := (s.job a.job).trapvec + 64 * cause.setWidth 64, act := true, priv := .super, mode := .run, wait := none, done := 0,
           parked := 0, trap := none, buf := [], hold := none, base := p.joins.length, spoilt := false }

/-- The unit with what the trap saves (R417). -/
def trapUnit (s : State) (a : Agent) (b : Bool) (p : Path) (cause : BitVec 8) (tval : DWord) (ue : BitVec 2) (epc : DWord) : Agent :=
  Agent.setSlot
    { a with
      frame := { a.frame with
        epc := epc, cause := cause, tval := tval, gmask := p.mask, srrb := a.rrb, sdepth := BitVec.ofNat 3 a.loops.length
        uesrc := ue, coach := a.kind == .coach || a.kind == .shadow, ppriv := p.priv }
      lanes := a.lanes.mapIdx fun l ln =>
        if p.mask.getLsbD l then { ln with spred := ln.p8to15, swatch := ln.struck, struck := false } else ln
      hrrb := 0, hloops := [], sloops := a.loops }
    b (some (trapPath s a p cause))

theorem enterTrap_eq {s : State} {u : Nat} {b : Bool} {a : Agent} {p : Path} (ha : s.agent? u = some a) (hp : a.slot b = some p)
    (cause : BitVec 8) (tval : DWord) (ue : BitVec 2) (epc : DWord) :
    ∃ walkFaults loads, s.enterTrap u b cause tval ue epc =
      State.setAgent { s with walkFaults := walkFaults, loads := loads } (trapUnit s a b p cause tval ue epc) := by
  unfold State.enterTrap
  simp only [ha, hp]
  exact ⟨_, _, rfl⟩

theorem getD_mapIdx_lane {ls : List Lane} {l : Nat} (hl : l < ls.length) (f : Nat → Lane → Lane) :
    (ls.mapIdx f).getD l Lane.fresh = f l (ls.getD l Lane.fresh) := by
  simp [List.getD_eq_getElem?_getD, hl]

theorem setAgent_agent?_self {s : State} {u : Nat} {a x : Agent} (ha : s.agent? u = some a) (hx : x.uid = a.uid) :
    (s.setAgent x).agent? u = some x := by
  have hu := (State.agent?_mem ha).2
  rw [State.agent?_setAgent s x a u (by rw [hx, hu]; exact ha), if_pos (by rw [hx, hu])]

theorem faultAll_barrel {s : State} {c : Ctx} {a : Agent} {p : Path} {b : Bool} (hb : c.b = b) (ha : s.agent? c.uid = some a) (hp : a.slot b = some p)
    (hact : p.act = false) (hw : a.wide = false) (hne : c.act ≠ 0) (cause : BitVec 8) (tval : DWord) :
    s.faultAll c cause tval = s.takeTrap c.uid b cause tval 0 p.pc := by
  subst hb
  obtain ⟨ls, hls⟩ := Mask.list_eq_lowest_cons hne
  unfold State.faultAll State.raiseFaults
  simp only [hls, List.map_cons, ha, hp, hact, hw, Bool.not_false, Bool.false_eq_true, if_false, if_true]
  rw [tookDue_of_none (by simp)]

/-- Where another path of the warp is in a handler, a path that faults in all its lanes with one cause is held whole. -/
theorem splitTrap_beside {s : State} {u : Nat} {b : Bool} {a : Agent} {p : Path} {fs : List LFault} (ha : s.agent? u = some a)
    (hp : a.slot b = some p) (hlow : lowestFaults fs = fs) (hmask : faultMask fs = p.mask) (hne : p.mask ≠ 0)
    (hother : a.otherAct b = true) (active : Mask) (npc : DWord) :
    s.splitTrap u b fs active 0 0 npc none =
      (s.updAgent u fun a => a.setSlot b (some (p.part p.mask p.pc .held none))).settle u := by
  have hnone : p.mask &&& ~~~p.mask = 0 := BitVec.and_not_self _
  have hheld : (p.mask &&& ~~~p.mask ||| 0 ||| p.mask) = p.mask := by rw [hnone]; simp
  have hneeds : splitNeeds fs 0 0 true = 0 := by
    unfold splitNeeds
    simp only [hlow, hmask, hheld, hne, if_true, if_false]
  unfold State.splitTrap
  simp only [ha, hp, hother, hlow, hmask, hneeds, hheld, hne, Nat.not_lt_zero, if_false, if_true]
  rfl

/-- Beside a path of the warp that is in a handler the path is held (R420). -/
theorem faultAll_beside_handler {s : State} {c : Ctx} {a : Agent} {p : Path} {b : Bool} (hb : c.b = b) (hcp : c.p = p)
    (ha : s.agent? c.uid = some a) (hp : a.slot b = some p) (hall : c.act = p.mask) (hne : p.mask ≠ 0) (hact : p.act = false)
    (hw : a.wide = true) (hcoach : a.kind ≠ .coach) (hshadow : a.kind ≠ .shadow) (hother : a.otherAct b = true) (cause : BitVec 8)
    (tval : DWord) :
    s.faultAll c cause tval = (s.updAgent c.uid fun a => a.setSlot b (some (p.part p.mask p.pc .held none))).settle c.uid := by
  subst hb hcp
  obtain ⟨ls, hls⟩ := Mask.list_eq_lowest_cons hne
  have hrest : c.p.mask &&& ~~~c.p.mask = 0 := BitVec.and_not_self _
  have hlow := lowestFaults_same (fs := (Mask.list c.p.mask).map fun l => (⟨l, cause, tval, 0, none⟩ : LFault)) (cause := cause)
    (by simp) (by simp)
  have hmask := faultMask_lanes c.p.mask (fun l => ⟨l, cause, tval, 0, none⟩) fun _ => rfl
  rw [← splitTrap_beside ha hp hlow hmask hne hother c.p.mask c.npc]
  unfold State.faultAll State.raiseFaults
  simp only [hall, hrest, ite_self, hls, List.map_cons, ha, hp, hact, hw, hcoach, hshadow, Bool.not_true, Bool.false_eq_true, if_false,
    beq_iff_eq, Bool.and_eq_true, false_and]

/-! ### Inside a handler -/

/-- A path of a context that a cause inside a handler has stopped. -/
def stoppedPath (p : Path) : Path :=
  { p with mode := .halted, priv := if p.act then .firmware else p.priv, trap := none, parked := 0 }

/-- The unit of such a context. -/
def stoppedUnit (a : Agent) : Agent :=
  { a with status := .halted, slotA := a.slotA.map stoppedPath, slotB := a.slotB.map stoppedPath,
           stack := a.stack.map fun p => { p with parked := 0 } }

theorem stoppedUnit_slot (a : Agent) (b : Bool) : (stoppedUnit a).slot b = (a.slot b).map stoppedPath := by
  cases b <;> rfl

theorem doubleTrap_eq {s : State} {u : Nat} {a : Agent} (ha : s.agent? u = some a) (lane : Nat) (cause : BitVec 8) (pc : DWord) :
    s.doubleTrap u lane cause pc =
      { s.setAgent (stoppedUnit a) with reports := s.reports ++ [.doubleTrap u (a.selfId lane) cause pc] } := by
  unfold State.doubleTrap
  rw [ha]
  rfl

/-! ### The return -/

theorem setSlot_sloops (a : Agent) (b : Bool) (p : Option Path) : (a.setSlot b p).sloops = a.sloops := by cases b <;> rfl

/-- A path that waited for the handler goes on. -/
def freePath (q : Path) : Path := if q.mode = .held ∧ q.hold = none then { q with mode := .run } else q

/-- The path that leaves the handler. -/
def returnPath (a : Agent) (p : Path) : Path :=
  { p with pc := a.frame.epc, act := false, priv := a.frame.ppriv, mode := .run, wait := none, buf := [],
           joins := p.joins.drop (p.joins.length - p.base), base := 0 }

/-- A path that waited for the handler at the PC of the return, and merges with the path that returns. -/
def meetsReturn (p' q : Path) : Bool := q.mode == .held && q.hold.isNone && q.pc == p'.pc && (freePath q).mergeable p'

/-- The paths that merge with the path that returns. -/
def metPaths (s : State) (a : Agent) (b : Bool) (p : Path) : List Path :=
  ((a.slot (!b)).toList ++ s.records a).filter (meetsReturn (returnPath a p))

/-- The path that leaves the handler, merged with those. -/
def mergedReturn (s : State) (a : Agent) (b : Bool) (p : Path) : Path :=
  (metPaths s a b p).foldl (fun p q => p.merge (freePath q)) (returnPath a p)

/-- The lanes with what the trap had saved. -/
def returnLanes (a : Agent) (p : Path) : List Lane :=
  a.lanes.mapIdx fun l ln =>
    if (a.frame.gmask &&& a.live).getLsbD l then
      { ln with p := ln.spred ++ ln.p.extractLsb' 0 8, struck := ln.swatch || (p.wait.isSome && ln.struck) }
    else ln

/-- The unit with what the trap had saved, its slots put. -/
def returnUnit (s : State) (a : Agent) (b : Bool) (p : Path) : Agent :=
  Agent.setSlot (Agent.setSlot
      { a with loops := a.sloops, hrrb := 0, hloops := [], sloops := [], lanes := returnLanes a p, rrb := a.frame.srrb }
      b (some (mergedReturn s a b p)))
    (!b) (((a.slot (!b)).filter fun q => !meetsReturn (returnPath a p) q).map freePath)

/-- The same where paths have merged: their lanes' times are made one. -/
def levelReturn (s : State) (a : Agent) (b : Bool) (p : Path) : Agent :=
  if (metPaths s a b p).isEmpty then returnUnit s a b p else (returnUnit s a b p).level (mergedReturn s a b p).mask

theorem returnTrap_eq {s : State} {u : Nat} {b : Bool} {a : Agent} {p : Path} (ha : s.agent? u = some a) (hp : a.slot b = some p)
    (hact : p.act = true) (hm : p.mask = a.frame.gmask &&& a.live) (hok : targetOk a.frame.epc = true)
    (hw : s.watchesHeld u p.mask = false) :
    s.returnTrap u b =
      (if (s.records a).any (meetsReturn (returnPath a p)) then
        s.setStack (levelReturn s a b p) (((s.records a).filter fun q => !meetsReturn (returnPath a p) q).map freePath)
      else s.setAgent { levelReturn s a b p with stack := (levelReturn s a b p).stack.map freePath }).settle u := by
  have hno : ¬ (p.mask ≠ a.frame.gmask &&& a.live ∨ targetOk a.frame.epc = false) := by simp [hm, hok]
  unfold State.returnTrap
  simp only [ha, hp, hact, if_true, if_neg hno, hw, Bool.false_eq_true, if_false]
  rfl

theorem mergedReturn_fields (s : State) (a : Agent) (b : Bool) (p : Path) :
    (mergedReturn s a b p).pc = a.frame.epc ∧ (mergedReturn s a b p).act = false ∧ (mergedReturn s a b p).priv = a.frame.ppriv := by
  unfold mergedReturn
  have hfold (l : List Path) (q : Path) (hq : q.pc = a.frame.epc ∧ q.act = false ∧ q.priv = a.frame.ppriv) :
      (l.foldl (fun p q => p.merge (freePath q)) q).pc = a.frame.epc ∧
        (l.foldl (fun p q => p.merge (freePath q)) q).act = false ∧
        (l.foldl (fun p q => p.merge (freePath q)) q).priv = a.frame.ppriv := by
    induction l generalizing q with
    | nil => exact hq
    | cons r l ih => exact ih _ hq
  exact hfold _ _ ⟨rfl, rfl, rfl⟩

theorem returnUnit_slot (s : State) (a : Agent) (b : Bool) (p : Path) : (returnUnit s a b p).slot b = some (mergedReturn s a b p) :=
  (Agent.slot_setSlot_not ..).trans (Agent.slot_setSlot ..)

theorem returnUnit_lane {s : State} {a : Agent} {b : Bool} {p : Path} {l : Nat} (hl : l < a.lanes.length)
    (hm : p.mask = a.frame.gmask &&& a.live) (hin : p.mask.getLsbD l = true) :
    (returnUnit s a b p).lane l = { a.lane l with
      p := (a.lane l).spred ++ (a.lane l).p.extractLsb' 0 8
      struck := (a.lane l).swatch || (p.wait.isSome && (a.lane l).struck) } := by
  have hlanes : (returnUnit s a b p).lanes = returnLanes a p := (Agent.setSlot_lanes ..).trans (Agent.setSlot_lanes ..)
  refine (congrArg (fun ls => List.getD ls l Lane.fresh) hlanes).trans ((getD_mapIdx_lane hl _).trans ?_)
  rw [← hm, if_pos hin]
  rfl

theorem level_lane (a : Agent) (m : Mask) (l : Nat) :
    ((a.level m).lane l).p = (a.lane l).p ∧ ((a.level m).lane l).struck = (a.lane l).struck := by
  unfold Agent.level Agent.lane
  refine ⟨getD_mapIdx_keeps (fun i ln => ?_) _ _ _, getD_mapIdx_keeps (fun i ln => ?_) _ _ _⟩
  · split <;> rfl
  · split <;> rfl

/-- The unit that has returned differs from the one that the return puts in its lanes' times only. -/
theorem levelReturn_frame (s : State) (a : Agent) (b : Bool) (p : Path) :
    (∃ lanes flight, levelReturn s a b p = { returnUnit s a b p with lanes := lanes, flight := flight }) ∧
      ∀ l, ((levelReturn s a b p).lane l).p = ((returnUnit s a b p).lane l).p ∧
        ((levelReturn s a b p).lane l).struck = ((returnUnit s a b p).lane l).struck := by
  unfold levelReturn
  split
  · exact ⟨⟨_, _, rfl⟩, fun _ => ⟨rfl, rfl⟩⟩
  · exact ⟨⟨_, _, rfl⟩, level_lane _ _⟩

/-- What the unit has of what the trap had saved, whatever its records become. -/
structure Restored (a : Agent) (b : Bool) (p q : Path) (x : Agent) : Prop where
  uid : x.uid = a.uid
  place : x.place = a.place
  slot : x.slot b = some q
  rrb : x.rrb = a.frame.srrb
  loops : x.loops = a.sloops
  hloops : x.hloops = []
  frame : x.frame = a.frame
  lanes : ∀ l < a.lanes.length, p.mask.getLsbD l = true →
    (x.lane l).p = (a.lane l).spred ++ (a.lane l).p.extractLsb' 0 8 ∧
    (x.lane l).struck = ((a.lane l).swatch || (p.wait.isSome && (a.lane l).struck))

theorem restored_levelReturn {s : State} {a : Agent} {b : Bool} {p : Path} (hm : p.mask = a.frame.gmask &&& a.live) (stack : List Path) :
    Restored a b p (mergedReturn s a b p) { levelReturn s a b p with stack := stack } := by
  obtain ⟨⟨lanes, flight, hframe⟩, hlane⟩ := levelReturn_frame s a b p
  have hlanes : ∀ l < a.lanes.length, p.mask.getLsbD l = true →
      ((levelReturn s a b p).lane l).p = (a.lane l).spred ++ (a.lane l).p.extractLsb' 0 8 ∧
      ((levelReturn s a b p).lane l).struck = ((a.lane l).swatch || (p.wait.isSome && (a.lane l).struck)) := by
    intro l hl hin
    rw [(hlane l).1, (hlane l).2, returnUnit_lane hl hm hin]
    exact ⟨rfl, rfl⟩
  refine ⟨?_, ?_, ?_, ?_, ?_, ?_, ?_, hlanes⟩
  all_goals rw [hframe]
  · exact (Agent.setSlot_uid ..).trans (Agent.setSlot_uid ..)
  · exact (Agent.setSlot_place ..).trans (Agent.setSlot_place ..)
  · exact (by cases b <;> rfl : _ = (returnUnit s a b p).slot b).trans (returnUnit_slot s a b p)
  · exact (Agent.setSlot_rrb ..).trans (Agent.setSlot_rrb ..)
  · exact (Agent.setSlot_loops ..).trans (Agent.setSlot_loops ..)
  · exact (Agent.setSlot_hloops ..).trans (Agent.setSlot_hloops ..)
  · exact (Agent.setSlot_frame ..).trans (Agent.setSlot_frame ..)

/-- The records of a unit are written to its local store, and the unit is put with them. -/
theorem setStack_agent? {s : State} {u : Nat} {a x : Agent} (ha : s.agent? u = some a) (hx : x.uid = a.uid) (ps : List Path) :
    (s.setStack x ps).agent? u = some { x with stack := ps } := by
  have hfold (l : List (Path × Nat)) (t : State) (ht : t.agent? u = some a) :
      (l.foldl (fun s y => s.putRec x (ps.length - 1 - y.2) y.1) t).agent? u = some a := by
    induction l generalizing t with
    | nil => exact ht
    | cons y l ih =>
      refine ih _ ?_
      obtain ⟨lwords, h⟩ := putRec_frame t x (ps.length - 1 - y.2) y.1
      exact (congrArg (·.agent? u) h).trans ht
  exact setAgent_agent?_self (x := { x with stack := ps }) (hfold _ s ha) hx

/-- A barrel unit stands where its return has put it: no other path waits for its joins. -/
theorem returnTrap_barrel {s : State} {u : Nat} {b : Bool} {a : Agent} {p : Path} (ha : s.agent? u = some a) (hp : a.slot b = some p)
    (hwide : a.wide = false) (hact : p.act = true) (hm : p.mask = a.frame.gmask &&& a.live) (hok : targetOk a.frame.epc = true)
    (hw : s.watchesHeld u p.mask = false) :
    ∃ stack, (s.returnTrap u b).agent? u = some { levelReturn s a b p with stack := stack } := by
  obtain ⟨huid, hplace, -⟩ := restored_levelReturn (s := s) (b := b) hm (levelReturn s a b p).stack
  have hbarrel (stack : List Path) : ({ levelReturn s a b p with stack := stack } : Agent).wide = false := by
    rw [← hwide]
    exact congrArg (fun k => isWideCore k.core) hplace
  rw [returnTrap_eq ha hp hact hm hok hw]
  split
  · have hagent := setStack_agent? ha huid (((s.records a).filter fun q => !meetsReturn (returnPath a p) q).map freePath)
    rw [settle_of_barrel hagent (hbarrel _)]
    exact ⟨_, hagent⟩
  · have hagent := setAgent_agent?_self (x := { levelReturn s a b p with stack := (levelReturn s a b p).stack.map freePath }) ha huid
    rw [settle_of_barrel hagent (hbarrel _)]
    exact ⟨_, hagent⟩

/-- No path waits for the handler at the PC of the return. -/
theorem not_meetsReturn {a : Agent} {p q : Path} (h : q.pc ≠ a.frame.epc) : meetsReturn (returnPath a p) q = false := by
  have hpc : (q.pc == (returnPath a p).pc) = false := beq_eq_false_iff_ne.2 h
  simp [meetsReturn, hpc]

/-- Settles O10: outside a handler the trap is entered or put off, inside one the unit stops; a return puts `levelReturn`, whose
paths and lanes are those of the statement. -/
theorem trapsTaken : Obligations.TrapsTaken := by
  intro s uid b cause tval epc ue a p ha hp
  refine ⟨fun hact hother hw hprop hst => ?_, fun hact hw => takeTrap_of_held ha hp hact hw cause tval ue epc,
    fun c hcu hcb hcp hne hact hw => ?_, fun c hcu hcb hcp hall hne hact hw hco hsh hother => ?_, fun hact => ?_,
    fun hw hact hm hok hwatch => ?_, fun hact hm hok hwatch hslot hrec => ?_⟩
  · rw [takeTrap_of_outside ha hp hact hw hprop hst]
    obtain ⟨walkFaults, loads, h⟩ := enterTrap_eq ha hp cause tval ue epc
    rw [h]
    have hagent := setAgent_agent?_self (s := { s with walkFaults := walkFaults, loads := loads })
      (x := trapUnit s a b p cause tval ue epc) ha (Agent.setSlot_uid ..)
    refine ⟨trapUnit s a b p cause tval ue epc, trapPath s a p cause, hagent, Agent.slot_setSlot .., rfl, rfl, rfl, rfl,
      (Agent.setSlot_status ..).trans hst, Agent.setSlot_place .., rfl, Agent.setSlot_frame .., Agent.setSlot_loops ..,
      setSlot_sloops .., Agent.setSlot_hloops .., Agent.setSlot_hrrb .., Agent.setSlot_s .., Agent.setSlot_fpctl ..,
      Agent.setSlot_fpflags .., Agent.setSlot_waitlim .., Agent.setSlot_tl .., ?_, fun l hl => ?_, rfl, rfl⟩
    · exact (congrArg List.length (Agent.setSlot_lanes ..)).trans List.length_mapIdx
    · have hlane : (trapUnit s a b p cause tval ue epc).lane l =
          if p.mask.getLsbD l then
            { a.lane l with spred := (a.lane l).p8to15, swatch := (a.lane l).struck, struck := false }
          else a.lane l :=
        (congrArg (fun ls => ls.getD l Lane.fresh) (Agent.setSlot_lanes ..)).trans (getD_mapIdx_lane hl _)
      rw [hlane]
      cases hm : p.mask.getLsbD l with
      | false => exact ⟨rfl, rfl, rfl, fun h => Bool.noConfusion h⟩
      | true => exact ⟨rfl, rfl, rfl, fun _ => ⟨rfl, rfl, rfl⟩⟩
  · subst hcu
    exact faultAll_barrel hcb ha hp hact hw hne cause tval
  · subst hcu
    exact faultAll_beside_handler hcb hcp ha hp hall hne hact hw hco hsh hother cause tval
  · rw [takeTrap_of_inside ha hp hact, doubleTrap_eq ha]
    refine ⟨rfl, stoppedUnit a, ?_, rfl, rfl, rfl, stoppedPath p, ?_, rfl, if_pos hact⟩
    · exact setAgent_agent?_self (x := stoppedUnit a) ha rfl
    · exact (stoppedUnit_slot a b).trans (congrArg (Option.map stoppedPath) hp)
  · obtain ⟨stack, h⟩ := returnTrap_barrel ha hp hw hact hm hok hwatch
    obtain ⟨hpc, hact', hpriv⟩ := mergedReturn_fields s a b p
    obtain ⟨-, -, hslot, hrrb, hloops, hhloops, -, hlanes⟩ := restored_levelReturn (s := s) (b := b) hm stack
    exact ⟨_, _, h, hslot, hpc, hact', hpriv, hrrb, hloops, hhloops, hlanes⟩
  · have hnot (q : Path) (hq : q ∈ (a.slot (!b)).toList ++ s.records a) : meetsReturn (returnPath a p) q = false :=
      not_meetsReturn ((List.mem_append.1 hq).elim (fun h => hslot q (Option.mem_toList.1 h)) (hrec q))
    have hmet : metPaths s a b p = [] := List.filter_eq_nil_iff.2 fun q hq => by simp [hnot q hq]
    have hmerged : mergedReturn s a b p = returnPath a p := by rw [mergedReturn, hmet]; rfl
    have hlevel : levelReturn s a b p = returnUnit s a b p := by rw [levelReturn, hmet]; rfl
    have hany : (s.records a).any (meetsReturn (returnPath a p)) = false :=
      List.any_eq_false.2 fun q hq => by simp [hnot q (List.mem_append_right _ hq)]
    obtain ⟨huid, -, hslot', hrrb, hloops, hhloops, hframe, hlanes⟩ :=
      restored_levelReturn (s := s) (b := b) hm ((levelReturn s a b p).stack.map freePath)
    have hother : (a.slot (!b)).filter (fun q => !meetsReturn (returnPath a p) q) = a.slot (!b) := by
      cases h : a.slot (!b) with
      | none => rfl
      | some q => exact if_pos (by simp [hnot q (by simp [h])])
    refine ⟨{ levelReturn s a b p with stack := (levelReturn s a b p).stack.map freePath }, mergedReturn s a b p, ?_,
      huid.trans (State.agent?_mem ha).2, hslot', ?_, ?_, ?_, ?_, ?_, hrrb, hloops, hhloops, hframe, hlanes, ?_, ?_⟩
    · rw [returnTrap_eq ha hp hact hm hok hwatch, hany]
      rfl
    · rw [hmerged]; rfl
    · rw [hmerged]; rfl
    · rw [hmerged]; rfl
    · rw [hmerged]; rfl
    · rw [hmerged]; rfl
    · rw [hlevel, ← hother]
      exact (by cases b <;> rfl)
    · rw [hlevel]
      exact (by cases b <;> rfl)

end Sys2Proof.Laws
end

section
/-! What every step keeps: the relation of a state to one that comes from it, and the operations of the state
(02_lines_and_homes.md, 04_cluster_store.md, 18_scheduling.md R408). -/

namespace Sys2Proof.Machine

open Sys2Proof.Terms

/-! ### The relation -/

/-- What the pairing needs of a unit: its number and its partner, and of a coach or shadow wave that has one which it is and its
lanes. -/
def Agent.tag (a : Agent) : Nat × Option Nat × Option (UKind × Nat) :=
  (a.uid, a.partner, if a.barrel || a.kind == .warp || a.partner.isNone then none else some (a.kind, a.lanes.length))

/-- A unit with the 32 lanes that its warp record gives it back (19_traps.md R426). -/
def Agent.widened (a : Agent) : Agent := { a with lanes := List.replicate 32 Lane.fresh }

/-- A state that others come from, and whether units with no partner may be added. -/
structure Origin where
  state : State
  grows : Bool

/-- A unit stands for one of `o`, or is new and has no partner. -/
def Stands (o : Origin) (a : Agent) : Prop :=
  (∃ b ∈ o.state.agents, a.tag = b.tag ∨ a.tag = b.widened.tag) ∨ (o.grows = true ∧ o.state.nextId ≤ a.uid ∧ a.partner = none)

/-- The units `as` come from those of `o`: no number is there twice, and each stands for one of `o`. -/
structure UnitsFrom (o : Origin) (next : Nat) (as : List Agent) : Prop where
  nodup : (as.map (·.uid)).Nodup
  below : ∀ a ∈ as, a.uid < next
  stand : ∀ a ∈ as, Stands o a

/-- The parts of a state that the invariants speak of come from those of `o`. -/
structure FromParts (o : Origin) (as : List Agent) (next : Nat) (m : List Host.Cell) (lw : Sparse LWord) (hs : Sparse Home) : Prop where
  units : Paired o.state → UnitsFrom o next as
  next : o.state.nextId ≤ next
  mem : Memory.wf o.state.mem = true → Memory.wf m = true
  lwords : swf LWord.fresh o.state.lwords = true → swf LWord.fresh lw = true
  homes : swf Home.fresh o.state.homes = true → swf Home.fresh hs = true

/-- `s` comes from `o` by changes that keep the invariants, and adds no unit but where `o` says so. -/
def From (o : Origin) (s : State) : Prop := FromParts o s.agents s.nextId s.mem s.lwords s.homes

theorem From.refl (s : State) (g : Bool) : From ⟨s, g⟩ s :=
  ⟨fun h => ⟨h.1, fun a ha => (h.2.1 a ha).1, fun a ha => .inl ⟨a, ha, .inl rfl⟩⟩, Nat.le_refl _, id, id, id⟩

variable {o : Origin} {s t : State}

/-! ### Operations of the state -/

theorem UnitsFrom.mono {n m : Nat} {as : List Agent} (h : UnitsFrom o n as) (hn : n ≤ m) : UnitsFrom o m as :=
  ⟨h.nodup, fun a ha => Nat.lt_of_lt_of_le (h.below a ha) hn, h.stand⟩

theorem From.bump (h : From o s) (k : Nat) : From o { s with nextId := s.nextId + k } :=
  ⟨fun hp => (h.units hp).mono (Nat.le_add_right ..), Nat.le_trans h.next (Nat.le_add_right ..), h.mem, h.lwords, h.homes⟩

theorem uid_of_tag {a b : Agent} (h : a.tag = b.tag) : a.uid = b.uid := congrArg Prod.fst h

theorem partner_of_tag {a b : Agent} (h : a.tag = b.tag) : a.partner = b.partner := congrArg (·.2.1) h

theorem Stands.of_tag {a b : Agent} (h : Stands o a) (hb : b.tag = a.tag) : Stands o b := by
  unfold Stands
  rw [hb, uid_of_tag hb, partner_of_tag hb]
  exact h

theorem UnitsFrom.map {n : Nat} {as : List Agent} (h : UnitsFrom o n as) {f : Agent → Agent} (hf : ∀ a, (f a).tag = a.tag) :
    UnitsFrom o n (as.map f) := by
  refine ⟨?_, fun a ha => ?_, fun a ha => ?_⟩
  · rw [List.map_map, show ((fun a : Agent => a.uid) ∘ f) = fun a => a.uid from funext fun a => uid_of_tag (hf a)]
    exact h.nodup
  · obtain ⟨b, hb, rfl⟩ := List.mem_map.1 ha
    exact uid_of_tag (hf b) ▸ h.below b hb
  · obtain ⟨b, hb, rfl⟩ := List.mem_map.1 ha
    exact (h.stand b hb).of_tag (hf b)

theorem From.mapUnits (h : From o s) {f : Agent → Agent} (hf : ∀ a, (f a).tag = a.tag) :
    From o { s with agents := s.agents.map f } :=
  ⟨fun hp => (h.units hp).map hf, h.next, h.mem, h.lwords, h.homes⟩

theorem From.updAgent (h : From o s) {f : Agent → Agent} (hf : ∀ a, (f a).tag = a.tag) (u : Nat) : From o (s.updAgent u f) :=
  h.mapUnits fun a => by
    split
    · exact hf a
    · rfl

theorem tag_lanes (a : Agent) {ls : List Lane} (h : ls.length = a.lanes.length) : ({ a with lanes := ls } : Agent).tag = a.tag := by
  unfold Agent.tag Agent.barrel
  rw [h]

theorem From.updLane (h : From o s) (u l : Nat) (f : Lane → Lane) : From o (s.updLane u l f) :=
  h.updAgent (fun a => tag_lanes a (List.length_modify ..)) u

theorem tag_setSlot (a : Agent) (b : Bool) (p : Option Path) : (a.setSlot b p).tag = a.tag := by
  cases b <;> rfl

theorem From.updPath (h : From o s) (u : Nat) (b : Bool) (f : Path → Path) : From o (s.updPath u b f) :=
  h.updAgent (fun a => tag_setSlot a b _) u

theorem From.setLword (h : From o s) (c : CoreId) (w : Nat) (x : LWord) : From o (s.setLword c w x) :=
  ⟨h.units, h.next, h.mem, fun hp => State.lwords_setLword _ _ _ _ (h.lwords hp), h.homes⟩

theorem From.setHome (h : From o s) (n : Nat) (x : Home) : From o (s.setHome n x) :=
  ⟨h.units, h.next, h.mem, h.lwords, fun hp => swf_sput _ _ _ _ (h.homes hp)⟩

theorem From.withMem (h : From o s) {m : List Host.Cell} (hm : Memory.wf s.mem = true → Memory.wf m = true) :
    From o { s with mem := m } :=
  ⟨h.units, h.next, fun hp => hm (h.mem hp), h.lwords, h.homes⟩

theorem From.filterUnits (h : From o s) (p : Agent → Bool) : From o { s with agents := s.agents.filter p } :=
  ⟨fun hp => ⟨(h.units hp).nodup.sublist (List.filter_sublist.map _), fun a ha => (h.units hp).below a (List.mem_filter.1 ha).1,
    fun a ha => (h.units hp).stand a (List.mem_filter.1 ha).1⟩, h.next, h.mem, h.lwords, h.homes⟩

/-- A unit that stands for one of `o`. -/
structure Known (o : Origin) (a : Agent) : Prop where
  stands : Paired o.state → Stands o a

theorem From.known (h : From o s) {u : Nat} {a : Agent} (ha : s.agent? u = some a) : Known o a :=
  ⟨fun hp => (h.units hp).stand a (State.agent?_mem ha).1⟩

theorem Known.of_tag {a b : Agent} (h : Known o a) (hb : b.tag = a.tag) : Known o b := ⟨fun hp => (h.stands hp).of_tag hb⟩

theorem From.setAgent (h : From o s) {a : Agent} (ha : Known o a) : From o (s.setAgent a) := by
  have huid (b : Agent) : (if b.uid = a.uid then a else b).uid = b.uid := by
    split
    · next hu => exact hu.symm
    · rfl
  refine ⟨fun hp => ?_, h.next, h.mem, h.lwords, h.homes⟩
  have hu := h.units hp
  refine ⟨?_, fun b hb => ?_, fun b hb => ?_⟩
  · show ((s.agents.map fun b => if b.uid = a.uid then a else b).map (·.uid)).Nodup
    rw [List.map_map, show ((fun b : Agent => b.uid) ∘ fun b => if b.uid = a.uid then a else b) = fun b => b.uid from funext huid]
    exact hu.nodup
  · obtain ⟨c, hc, rfl⟩ := List.mem_map.1 hb
    exact (huid c).symm ▸ hu.below c hc
  · obtain ⟨c, hc, rfl⟩ := List.mem_map.1 hb
    split
    · exact ha.stands hp
    · exact hu.stand c hc

theorem nodup_singleton {α : Type} (x : α) : [x].Nodup := List.nodup_cons.2 ⟨List.not_mem_nil, List.nodup_nil⟩

/-- A new unit with no partner, where `o` allows one. -/
theorem From.addUnit (h : From o s) (hg : o.grows = true) {a : Agent} (ha : a.uid = s.nextId) (hn : a.partner = none) :
    From o { s with agents := s.agents ++ [a], nextId := s.nextId + 1 } := by
  refine ⟨fun hp => ?_, Nat.le_succ_of_le h.next, h.mem, h.lwords, h.homes⟩
  have hu := h.units hp
  refine ⟨?_, fun b hb => ?_, fun b hb => ?_⟩
  · refine List.map_append ▸ List.nodup_append.2 ⟨hu.nodup, nodup_singleton _, fun x hx y hy => ?_⟩
    obtain ⟨b, hb, rfl⟩ := List.mem_map.1 hx
    rw [show y = s.nextId by simpa [ha] using hy]
    exact Nat.ne_of_lt (hu.below b hb)
  · rcases List.mem_append.1 hb with hb | hb
    · exact Nat.lt_succ_of_lt (hu.below b hb)
    · rw [List.mem_singleton.1 hb, ha]
      exact Nat.lt_succ_self _
  · rcases List.mem_append.1 hb with hb | hb
    · exact hu.stand b hb
    · rw [List.mem_singleton.1 hb]
      exact .inr ⟨hg, ha ▸ h.next, hn⟩

end Sys2Proof.Machine
end

section
/-! What every step keeps: faults, traps, loops and the completion of an instruction
(16_loops.md, 18_scheduling.md, 19_traps.md). -/

namespace Sys2Proof.Machine

open Sys2Proof.Terms

variable {o : Origin} {s t : State}

theorem From.ite {c : Prop} [Decidable c] (hs : From o s) (ht : From o t) : From o (if c then s else t) := by
  split
  · exact hs
  · exact ht

/-- What an outcome goes to comes from `o`. -/
structure FromOut (o : Origin) (r : Host.Outcome State Fault Refusal) : Prop where
  out : ∀ t, r = .next t → From o t

theorem FromOut.next (h : From o s) : FromOut o (.next s) := ⟨fun _ ht => by cases ht; exact h⟩

theorem FromOut.ite {c : Prop} [Decidable c] {x y : Host.Outcome State Fault Refusal} (hx : FromOut o x) (hy : FromOut o y) :
    FromOut o (if c then x else y) := by
  split
  · exact hx
  · exact hy

/-- What a home's answer gives comes from `o`. -/
structure FromAt (o : Origin) (r : AtHome State) : Prop where
  out : ∀ t, r = .ok t → From o t

theorem FromAt.ok (h : From o s) : FromAt o (.ok s) := ⟨fun _ ht => by cases ht; exact h⟩

theorem FromAt.error (k : Nat) : FromAt o (.error k) := ⟨fun _ ht => by cases ht⟩

theorem FromAt.ite {c : Prop} [Decidable c] {x y : AtHome State} (hx : FromAt o x) (hy : FromAt o y) :
    FromAt o (if c then x else y) := by
  split
  · exact hx
  · exact hy

/-- What there may be comes from `o`. -/
structure FromOpt (o : Origin) (r : Option State) : Prop where
  out : ∀ t, r = some t → From o t

theorem FromOpt.some (h : From o s) : FromOpt o (.some s) := ⟨fun _ ht => by cases ht; exact h⟩

theorem FromOpt.none : FromOpt o .none := ⟨fun _ ht => by cases ht⟩

theorem FromOpt.ite {c : Prop} [Decidable c] {x y : Option State} (hx : FromOpt o x) (hy : FromOpt o y) :
    FromOpt o (if c then x else y) := by
  split
  · exact hx
  · exact hy

theorem FromOpt.or {x y : Option State} (hx : FromOpt o x) (hy : FromOpt o y) : FromOpt o (x.or y) := by
  cases x with
  | none => exact hy
  | some t => exact hx

theorem tag_of_pathsMoved {a x : Agent} (h : Laws.PathsMoved a x) : x.tag = a.tag := by
  have hlen := h.lanes
  obtain ⟨_, _, _, _, _, _, _, _, lanes, rfl⟩ := h.frame
  exact tag_lanes a hlen

theorem Known.ite {c : Prop} [Decidable c] {a b : Agent} (ha : Known o a) (hb : Known o b) : Known o (if c then a else b) := by
  split
  · exact ha
  · exact hb

theorem Known.withStack {a : Agent} (h : Known o a) (stack : List Path) : Known o { a with stack := stack } := h.of_tag rfl

theorem From.foldl {α : Type} {f : State → α → State} (h : From o s) (hf : ∀ s x, From o s → From o (f s x)) (l : List α) :
    From o (l.foldl f s) := by
  induction l generalizing s with
  | nil => exact h
  | cons x l ih => exact ih (hf s x h)

theorem From.liftPath (h : From o s) (uid l : Nat) (t : DWord) : From o (State.liftPath s uid l t) := by
  unfold State.liftPath
  apply_rules [From.updAgent, (fun a => tag_lanes a (List.length_mapIdx ..))]

theorem From.noteFlight (h : From o s) (uid n : Nat) (m : Mask) : From o (State.noteFlight s uid n m) := by
  unfold State.noteFlight
  repeat' split
  all_goals apply_rules [From.updAgent]

theorem From.takeOwed (h : From o s) (uid : Nat) : From o (State.takeOwed s uid) := by
  unfold State.takeOwed
  repeat' split
  all_goals apply_rules [From.ite, From.updAgent]

theorem From.settleAccess (h : From o s) (uid id l : Nat) (t : DWord) (acq : Bool) :
    From o (State.settleAccess s uid id l t acq) := by
  unfold State.settleAccess
  apply_rules [From.ite, From.updAgent, From.takeOwed, (fun a => tag_lanes a (List.length_mapIdx ..))]

theorem From.fresh (h : From o s) : From o (State.fresh s).2 := by
  unfold State.fresh
  apply_rules [(From.bump _ 1)]

theorem From.choose (h : From o s) : From o (State.choose s).2 :=
  h

theorem From.chooseNat (h : From o s) (n : Nat) : From o (State.chooseNat s n).2 :=
  h

theorem From.shuffle (h : From o s) {α : Type} (n : Nat) (xs : List α) : From o (State.shuffle n xs s).2 := by
  induction n generalizing xs s with
  | zero => exact h
  | succ n ih =>
    unfold State.shuffle
    split
    · exact h
    · dsimp only
      split
      · exact h
      · exact ih (s := (s.chooseNat xs.length).2) h _

theorem From.updJob (h : From o s) (j : Nat) (f : Job → Job) : From o (State.updJob s j f) :=
  h

theorem From.raiseCtime (h : From o s) (cluster : Nat) (t : DWord) : From o (State.raiseCtime s cluster t) := by
  unfold State.raiseCtime
  apply_rules [From.ite]

theorem From.putRec (h : From o s) (a : Agent) (k : Nat) (p : Path) : From o (State.putRec s a k p) :=
  (((h.setLword ..).setLword ..).setLword ..).setLword ..

theorem From.pushPath (h : From o s) (uid : Nat) (p : Path) : From o (State.pushPath s uid p) := by
  unfold State.pushPath
  split
  · exact h
  · next a ha => exact (h.putRec ..).setAgent ((h.known ha).of_tag rfl)

theorem From.setStack (h : From o s) {a : Agent} (ha : Known o a) (ps : List Path) : From o (State.setStack s a ps) :=
  (h.foldl (fun _ _ h => h.putRec ..) _).setAgent (ha.of_tag rfl)

theorem From.popPath (h : From o s) (uid : Nat) (b : Bool) : From o (State.popPath s uid b) := by
  unfold State.popPath
  split
  · exact h
  · next a ha =>
    split
    · exact h
    · exact h.setAgent ((h.known ha).of_tag (tag_setSlot ..))

theorem From.settle1_alone (h : From o s) {a : Agent} (ha : Known o a) (b : Bool) (p : Path) :
    FromOpt o (State.settle1.alone s a b p) := by
  have hslot (q : Option Path) : From o (s.setAgent (a.setSlot b q)) := h.setAgent (ha.of_tag (tag_setSlot ..))
  unfold State.settle1.alone
  dsimp only
  split
  · split
    · split
      · exact .some (hslot _)
      · exact .some (h.setAgent (ha.of_tag ((tag_setSlot ..).trans (tag_of_pathsMoved (Laws.pathsMoved_backEdge ..)))))
    · split
      · exact .some (h.setAgent (ha.of_tag ((tag_setSlot ..).trans (tag_of_pathsMoved (Laws.pathsMoved_replaceCur ..)))))
      · exact .some (hslot _)
  · split
    · exact .some (hslot _)
    · exact .none

theorem From.settle1_row (h : From o s) {a : Agent} (ha : Known o a) (b : Bool) (p : Path) :
    FromOpt o (State.settle1.row s a b p) := by
  unfold State.settle1.row
  split
  · split
    · split
      · exact .some (h.setAgent (ha.of_tag ((tag_of_pathsMoved (Laws.pathsMoved_level ..)).trans (tag_setSlot ..))))
      · split
        · refine .some (From.pushPath (h.setAgent (ha.of_tag ?_)) ..)
          exact tag_setSlot ..
        · exact h.settle1_alone ha b p
    · exact h.settle1_alone ha b p
  · exact .none

theorem From.settle1 (h : From o s) {a : Agent} (ha : Known o a) : FromOpt o (State.settle1 s a) := by
  have hput (slotA slotB : Option Path) (stack : List Path) :
      FromOpt o (some (s.setAgent { a with slotA := slotA, slotB := slotB, stack := stack })) := .some (h.setAgent (ha.of_tag rfl))
  unfold State.settle1
  refine .ite (hput _ _ _) (.ite (hput _ _ _) (.ite (.some (h.popPath ..)) (.ite (.some (h.popPath ..)) (.ite (hput _ _ _) ?_))))
  split
  · refine .ite (.some (h.setAgent (ha.of_tag ((tag_of_pathsMoved (Laws.pathsMoved_level ..)).trans ?_)))) ?_
    · split <;> rfl
    · exact (h.settle1_row ha ..).or (h.settle1_row ha ..)
  · exact h.settle1_row ha ..
  · exact h.settle1_row ha ..
  · exact .none

theorem From.settleN (h : From o s) (uid n : Nat) : From o (State.settleN uid n s) := by
  induction n generalizing s with
  | zero => exact h
  | succ n ih =>
    unfold State.settleN
    split
    · exact h
    · next a ha =>
      split
      · exact h
      · next t ht => exact ih ((h.settle1 (h.known ha)).out t ht)

theorem From.settle (h : From o s) (uid : Nat) : From o (State.settle s uid) := by
  unfold State.settle
  repeat' split
  all_goals apply_rules [From.settleN]

theorem From.placePath (h : From o s) (uid : Nat) (b : Bool) (p : Path) : From o (State.placePath s uid b p) := by
  unfold State.placePath
  split
  · exact h
  · next a ha => exact .ite (h.setAgent ((h.known ha).of_tag (tag_setSlot ..))) (h.pushPath ..)

theorem From.doubleTrap (h : From o s) (uid : Nat) (lane : Nat) (cause : BitVec 8) (pc : DWord) :
    From o (State.doubleTrap s uid lane cause pc) := by
  unfold State.doubleTrap
  split
  · exact h
  · next a ha => exact h.setAgent ((h.known ha).of_tag rfl)

theorem From.enterTrap (h : From o s) (uid : Nat) (b : Bool) (cause : BitVec 8) (tval : DWord) (ue : BitVec 2) (epc : DWord) :
    From o (State.enterTrap s uid b cause tval ue epc) := by
  unfold State.enterTrap
  split
  · exact h
  · next a ha =>
    split
    · exact h
    · refine From.setAgent h ((h.known ha).of_tag ((tag_setSlot ..).trans ?_))
      exact tag_lanes a List.length_mapIdx

theorem From.takeTrap (h : From o s) (uid : Nat) (b : Bool) (cause : BitVec 8) (tval : DWord) (ue : BitVec 2) (epc : DWord) :
    From o (State.takeTrap s uid b cause tval ue epc) := by
  unfold State.takeTrap
  repeat' split
  all_goals apply_rules [From.doubleTrap, From.updPath, From.enterTrap]

theorem From.tookDue (h : From o s) (uid : Nat) (fs : List LFault) : From o (State.tookDue s uid fs) := by
  unfold State.tookDue
  apply_rules [From.ite, From.updAgent]

theorem From.splitTrap (h : From o s) (uid : Nat) (b : Bool) (fs : List LFault) (active : Mask) (rest held : Mask) (npc : DWord)
    (w : Option Wait) :
    From o (State.splitTrap s uid b fs active rest held npc w) := by
  unfold State.splitTrap
  dsimp only
  repeat' split
  all_goals apply_rules [From.ite, From.settle, From.takeTrap, From.placePath, From.updAgent, (fun a => tag_setSlot a _ _)]

theorem From.dropLanes (h : From o s) (uid : Nat) (m : Mask) : From o (State.dropLanes s uid m) := by
  unfold State.dropLanes
  apply_rules [From.updAgent, From.settle]

theorem From.updLaunch (h : From o s) (n : Nat) (f : Launch → Launch) : From o (State.updLaunch s n f) :=
  h

theorem From.retire (h : From o s) {a : Agent} (ha : Known o a) : From o (State.retire s a) := by
  unfold State.retire
  dsimp only
  split
  · exact h.filterUnits _
  · exact .ite (From.setAgent h (ha.of_tag rfl)) (h.filterUnits _)

theorem From.retireIfEmpty (h : From o s) (uid : Nat) : From o (State.retireIfEmpty s uid) := by
  unfold State.retireIfEmpty
  split
  · exact h
  · next a ha =>
    have hretire := h.retire (h.known ha)
    refine .ite h (.ite ?_ ?_)
    · split
      · exact h
      · exact .ite hretire h
    · dsimp only
      split
      · exact hretire
      · next b hb =>
        have hknown : Known o b := by
          split at hb
          · obtain ⟨u, -, hu⟩ := Option.bind_eq_some_iff.1 hb
            exact hretire.known hu
          · cases hb
        exact .ite ((hretire.dropLanes ..).retire hknown) (hretire.dropLanes ..)

theorem From.asyncFault (h : From o s) (uid l : Nat) (cause : BitVec 8) (tval : DWord) :
    From o (State.asyncFault s uid l cause tval) := by
  unfold State.asyncFault
  split
  · exact h
  · next a ha =>
    have hslot (b : Bool) (p : Option Path) : From o (s.setAgent (a.setSlot b p)) := h.setAgent ((h.known ha).of_tag (tag_setSlot ..))
    have hput (k : Nat) (q : Path) (stack : List Path) : From o ((s.putRec a k q).setAgent { a with stack := stack }) :=
      (h.putRec ..).setAgent ((h.known ha).of_tag rfl)
    dsimp only
    split
    · split
      · exact h
      · exact .ite (h.doubleTrap ..) (.ite (hslot ..) (.ite (hslot ..) ((hslot ..).placePath ..)))
    · split
      · exact h
      · split
        · exact h
        · exact .ite (h.doubleTrap ..) (.ite (hput _ _ _) (.ite (hput _ _ _) ((hput _ _ _).pushPath ..)))

theorem From.deliver (h : From o s) (n cu cl : Nat) (cause : BitVec 8) (pc addr : DWord) :
    From o (State.deliver n s cu cl cause pc addr) := by
  induction n generalizing s cu cl cause pc addr with
  | zero => exact h
  | succ n ih =>
    unfold State.deliver
    split
    · exact h
    · next c hc =>
      have hlane (f : Lane → Lane) := h.updLane cu cl f
      dsimp only
      split
      · split
        · exact hlane _
        · refine From.takeTrap (From.updAgent ?_ ?_ cu) ..
          · exact hlane _
          · exact fun _ => rfl
      · split
        · split
          · exact hlane _
          · have hgone := fun f => ((hlane f).dropLanes cu (laneBit cl)).retireIfEmpty cu
            exact .ite (hgone _) (.ite (ih ((hgone _).updLane ..) ..) (ih ((hgone _).updLane ..) ..))
        · exact ((hlane _).asyncFault ..).settle ..

theorem From.leaveCoach (h : From o s) (a : Agent) (l : Nat) (cause : BitVec 8) (pc addr : DWord) :
    From o (State.leaveCoach s a l cause pc addr) := by
  unfold State.leaveCoach
  repeat' split
  all_goals apply_rules [From.deliver, From.updLane]

theorem From.raiseFaults (h : From o s) (uid : Nat) (b : Bool) (fs : List LFault) (active rest held : Mask) (npc : DWord)
    (w : Option Wait) :
    From o (State.raiseFaults s uid b fs active rest held npc w) := by
  unfold State.raiseFaults
  split
  · exact h
  · exact h
  · next a f l ha =>
    split
    · exact h
    · next p hp =>
      refine .ite (h.doubleTrap ..) (.ite ((h.tookDue ..).takeTrap ..) (.ite ?_ (.ite ?_ (h.splitTrap ..))))
      · have hleave := (h.updPath uid b fun q => q.stay (rest ||| held ||| faultMask (f :: l)) (if held = 0 then npc else q.pc) w).tookDue uid (f :: l)
        exact ((hleave.foldl (fun _ _ h => h.leaveCoach ..) _).dropLanes ..).retireIfEmpty ..
      · have hdrop := (((h.updPath uid b fun q => q.stay (rest ||| held ||| faultMask (f :: l)) (if held = 0 then npc else q.pc) w).tookDue uid
          (f :: l)).dropLanes uid (faultMask (f :: l))).retireIfEmpty uid
        dsimp only
        split
        · exact hdrop
        · refine hdrop.foldl (fun t f ht => ?_) _
          exact .ite ht (.ite (((ht.leaveCoach ..).dropLanes ..).retireIfEmpty ..) ((ht.asyncFault ..).settle ..))

theorem From.faultAll (h : From o s) (c : Ctx) (cause : BitVec 8) (tval : DWord) (ue : BitVec 2) (due : Option (Nat × DWord)) :
    From o (s.faultAll c cause tval ue due) := h.raiseFaults ..

theorem From.returnTrap (h : From o s) (uid : Nat) (b : Bool) : From o (State.returnTrap s uid b) := by
  unfold State.returnTrap
  split
  · exact h
  · next a ha =>
    split
    · exact h
    · next p hp =>
      dsimp only
      refine .ite (h.doubleTrap ..) (.ite ?_ ?_)
      · exact From.updPath (.ite h (h.updAgent (fun a => tag_lanes a List.length_mapIdx) _)) ..
      · have hput (ls : List Lane) (hls : ls.length = a.lanes.length) (x y : Option Path) :
            Known o ((Agent.setSlot { (if p.act then { a with loops := a.sloops, hrrb := 0, hloops := [], sloops := [] }
              else { a with loops := [] } : Agent) with lanes := ls, rrb := a.frame.srrb } b x).setSlot (!b) y) := by
          refine (h.known ha).of_tag ((tag_setSlot ..).trans ((tag_setSlot ..).trans ?_))
          split
          · exact tag_lanes a hls
          · exact tag_lanes a hls
        have hlevel {m : Mask} {x : Agent} (hx : Known o x) : Known o (x.level m) :=
          hx.of_tag (tag_of_pathsMoved (Laws.pathsMoved_level ..))
        refine From.settle (.ite (From.setStack h ?_ _) (From.setAgent h (Known.withStack ?_ _))) _
        · exact .ite (hput _ List.length_mapIdx _ _) (hlevel (hput _ List.length_mapIdx _ _))
        · exact .ite (hput _ List.length_mapIdx _ _) (hlevel (hput _ List.length_mapIdx _ _))

theorem From.waitFor (h : From o s) (c : Ctx) (k : WaitKind) : From o (State.waitFor s c k) := by
  unfold State.waitFor
  apply_rules [From.updPath]

theorem From.jump (h : From o s) (c : Ctx) (pc : DWord) : From o (State.jump s c pc) := by
  unfold State.jump
  apply_rules [From.updPath, From.settle]

theorem From.complete (h : From o s) (c : Ctx) : From o (State.complete s c) := by
  unfold State.complete
  split
  · exact h
  · next a ha => exact (h.setAgent ((h.known ha).of_tag (tag_of_pathsMoved (Laws.pathsMoved_backEdge ..)))).jump ..

theorem From.faultSome (h : From o s) (c : Ctx) (fs : List LFault) (w : Option WaitKind) : From o (State.faultSome s c fs w) := by
  unfold State.faultSome
  dsimp only
  split
  · exact h.raiseFaults ..
  · exact h.raiseFaults ..

theorem From.clashFault (h : From o s) (c : Ctx) : From o (State.clashFault s c) := h.raiseFaults ..

theorem From.completeWith (h : From o s) (c : Ctx) {f : State → State} (hf : From o (f s)) : From o (State.completeWith s c f) :=
  .ite (h.clashFault c) (hf.complete c)

end Sys2Proof.Machine
end

section
/-! What every step keeps: the shapes of an instruction: lanes that write registers, lanes that check and
perform, a part that is done once (08_encoding.md R158, R171). -/

namespace Sys2Proof.Machine

open Sys2Proof.Terms

variable {o : Origin} {s t : State}

theorem tag_acquireTokens (a : Agent) (c : Ctx) (l : Nat) (os : List Opnd) : (a.acquireTokens c l os).tag = a.tag := by
  unfold Agent.acquireTokens
  split
  · rfl
  · exact tag_lanes a List.length_mapIdx

theorem tag_updLane (a : Agent) (l : Nat) (f : Lane → Lane) : (a.updLane l f).tag = a.tag := tag_lanes a (List.length_modify ..)

theorem tag_setSreg (a : Agent) (act : Bool) (r : SReg) (v : DWord) : (a.setSreg act r v).tag = a.tag := by
  unfold Agent.setSreg
  dsimp only
  generalize (if (act && r == 31) = true then 32 else r.toNat) = n
  split <;> rfl

theorem tag_writeUni (a : Agent) (act : Bool) (u : Option (SReg × DWord)) : (a.writeUni act u).tag = a.tag := by
  cases u with
  | none => rfl
  | some x => exact tag_setSreg ..

theorem From.noteIssue (h : From o s) (uid cluster : Nat) (p : Path) : From o (State.noteIssue s uid cluster p) := by
  unfold State.noteIssue
  refine .ite h (From.mapUnits (s := { s with launches := _ }) h fun a => ?_)
  split <;> rfl

theorem From.faultPart (h : From o s) (c : Ctx) (fs : List LFault) : From o (State.faultPart s c fs) := by
  unfold State.faultPart
  apply_rules [From.raiseFaults]

theorem FromOut.issue (h : From o s) {k : Ctx → State → State} (hk : ∀ c t, From o t → From o (k c t)) (i : Instr) (g : Guard) :
    FromOut o (issue i g s k) := by
  unfold Machine.issue
  split
  · exact .next h
  · dsimp only
    split
    · exact .next (h.faultAll ..)
    · have hi := h.noteIssue
      exact .ite (.next ((hi ..).faultPart ..)) (.ite (.next (From.completeWith (hi ..) _ (hi ..))) (.next (hk _ _ (hi ..))))

theorem FromOut.issueBranch (h : From o s) {k : Ctx → State → State} (hk : ∀ c t, From o t → From o (k c t)) (i : Instr) (g : Guard) :
    FromOut o (issueBranch i g s k) := by
  unfold Machine.issueBranch
  split
  · exact .next h
  · dsimp only
    split
    · exact .next (h.faultAll ..)
    · have hi := h.noteIssue
      exact .next (.ite (hk _ _ (hi ..)) ((hi ..).faultPart ..))

theorem From.acquireTokens (h : From o s) (c : Ctx) (l : Nat) (os : List Opnd) : From o (State.acquireTokens s c l os) :=
  h.updAgent (fun a => tag_acquireTokens a c l os) _

theorem From.consumeOps (h : From o s) (c : Ctx) (l : Nat) (os : List Opnd) : From o (State.consumeOps s c l os) := by
  unfold State.consumeOps
  apply_rules [From.acquireTokens, From.updLane]

theorem From.putOut (h : From o s) (c : Ctx) (os : List Opnd) (l : Nat) (out : LaneOut) : From o (State.putOut s c os l out) := by
  unfold State.putOut
  split
  · exact h
  · refine h.updAgent (fun a => ?_) _
    rw [tag_writeUni]
    exact (tag_updLane ..).trans (tag_acquireTokens ..)

theorem From.laneExec (h : From o s) (os : List Opnd) (ps : List PReg) (ds : List GReg)
    (f : Ctx → List (Nat × LaneIn) → Nat → LaneIn → LaneOut) (c : Ctx) : From o (laneExec os ps ds f c s) := by
  have hput (l : List (Nat × LaneOut)) : From o (l.foldl (fun s x => s.putOut c os x.1 x.2) s) := h.foldl (fun _ _ h => h.putOut ..) l
  unfold Machine.laneExec
  dsimp only
  split
  · exact h.waitFor ..
  · exact h.faultSome ..
  · exact .ite (h.completeWith c (hput _)) (From.faultSome (.ite h (hput _)) ..)

theorem From.busyExec (h : From o s) {k : Ctx → State → State} (hk : ∀ c t, From o t → From o (k c t)) (busy : Ctx → State → Bool)
    (os : List Opnd) (once : Bool) (c : Ctx) : From o (busyExec busy os once k c s) := by
  unfold Machine.busyExec
  refine .ite (hk _ _ h) ?_
  dsimp only
  split
  · exact h.waitFor ..
  · exact .ite (h.faultAll ..) (h.faultSome ..)

theorem From.moveWalks (h : From o s) (uid : Nat) (m : Mask) (fs : List LFault) : From o (State.moveWalks s uid m fs) :=
  h

theorem From.foldlFst {α β : Type} {f : State × β → α → State × β} {r : State × β} (h : From o r.1)
    (hf : ∀ r x, From o r.1 → From o (f r x).1) (l : List α) : From o (l.foldl f r).1 := by
  induction l generalizing r with
  | nil => exact h
  | cons x l ih => exact ih (hf r x h)

theorem From.clearWalkFaults (h : From o s) (uid : Nat) (lanes : Mask) : From o (s.clearWalkFaults uid lanes) := h

theorem From.checkLanes (h : From o s) {β : Type} {check : State → Nat → State × Chk β}
    (hcheck : ∀ t l, From o t → From o (check t l).1) (ls : List Nat) : From o (checkLanes check ls s).1 := by
  unfold Machine.checkLanes
  refine From.foldlFst h (fun r l hr => ?_) ls
  have hl := hcheck r.1 l hr
  split <;> next heq => rw [heq] at hl; exact hl

theorem From.memExec (h : From o s) {β : Type} {check : Ctx → State → Nat → LaneIn → State × Chk β}
    {perform : Ctx → State → Nat → β → State} (hcheck : ∀ c t l x, From o t → From o (check c t l x).1)
    (hperform : ∀ c t l b, From o t → From o (perform c t l b)) (os : List Opnd) (ps : List PReg) (ds : List GReg) (c : Ctx) :
    From o (memExec os ps ds check perform c s) := by
  unfold Machine.memExec
  dsimp only
  split
  · exact h.waitFor ..
  · exact h.faultSome ..
  · have hc := h.checkLanes (check := fun s l => check c s l (c.inputs l os ps)) (fun t l ht => hcheck c t l _ ht)
    have hput {t : State} (ht : From o t) (l : List (Nat × β)) :
        From o ((l.foldl (fun s x => perform c (s.consumeOps c x.1 os) x.1 x.2) t).clearWalkFaults c.uid c.p.mask) :=
      From.clearWalkFaults (ht.foldl (fun _ _ h => hperform _ _ _ _ (h.consumeOps ..)) l) ..
    split
    · exact .ite ((hc _).waitFor ..) (((hc _).moveWalks ..).faultSome ..)
    · refine .ite ((hc _).completeWith c ((hput (hc _) _).noteFlight ..)) (From.faultSome (.ite ?_ ((hput (hc _) _).noteFlight ..)) ..)
      exact (hc _).clearWalkFaults ..

theorem From.onceExec (h : From o s) {β : Type} {check : Ctx → State → Nat → LaneIn → State × Chk β}
    {perform : Ctx → State → Nat → β → State} (hcheck : ∀ c t l x, From o t → From o (check c t l x).1)
    (hperform : ∀ c t l b, From o t → From o (perform c t l b)) (os : List Opnd) (ds : List GReg) (c : Ctx) :
    From o (onceExec os ds check perform c s) := by
  have hc := hcheck c s (Mask.lowest c.act) (c.inputs (Mask.lowest c.act) os []) h
  unfold Machine.onceExec
  dsimp only
  split
  · exact h.waitFor ..
  · exact h.faultAll ..
  · exact h.faultAll ..
  · split
    · next t k heq => rw [heq] at hc; exact From.waitFor hc ..
    · next t x v u heq => rw [heq] at hc; exact From.faultAll (From.clearWalkFaults hc ..) ..
    · next t d heq => rw [heq] at hc; exact From.faultAll hc ..
    · next t b heq =>
      rw [heq] at hc
      have hclear : From o (t.clearWalkFaults c.uid c.p.mask) := From.clearWalkFaults hc ..
      exact hclear.completeWith c (hperform _ _ _ _ (hclear.consumeOps ..))

end Sys2Proof.Machine
end

section
/-! What every step keeps: homes and copies, time, translation and the local stores (01_main_memory.md,
02_lines_and_homes.md, 04_cluster_store.md). -/

namespace Sys2Proof.Machine

open Sys2Proof.Terms

variable {o : Origin} {s t : State}

theorem From.putLword (h : From o s) (c : CoreId) (w : Nat) (v : Word) (bad : Bool) : From o (s.putLword c w v bad) := h.setLword ..

theorem From.withLine (h : From o s) (line : Nat) (x : LineData) : From o { s with mem := putLine s.mem line x } :=
  h.withMem (Memory.wf_putLine _ _ _)

/-- The state that a home's answer gives beside its other parts comes from `o`. -/
structure FromAtFst {β : Type} (o : Origin) (r : AtHome (State × β)) : Prop where
  out : ∀ t b, r = .ok (t, b) → From o t

theorem FromAtFst.ok {β : Type} {b : β} (h : From o s) : FromAtFst o (.ok (s, b)) := ⟨fun _ _ ht => by cases ht; exact h⟩

theorem FromAtFst.error {β : Type} (k : Nat) : FromAtFst (β := β) o (.error k) := ⟨fun _ _ ht => by cases ht⟩

theorem FromAtFst.ite {β : Type} {c : Prop} [Decidable c] {x y : AtHome (State × β)} (hx : FromAtFst o x) (hy : FromAtFst o y) :
    FromAtFst o (if c then x else y) := by
  split
  · exact hx
  · exact hy

/-- The state that there may be beside other parts comes from `o`. -/
structure FromOptFst {β : Type} (o : Origin) (r : Option (State × β)) : Prop where
  out : ∀ t b, r = some (t, b) → From o t

theorem FromOptFst.some {β : Type} {b : β} (h : From o s) : FromOptFst o (.some (s, b)) := ⟨fun _ _ ht => by cases ht; exact h⟩

theorem FromOptFst.none {β : Type} : FromOptFst (β := β) o .none := ⟨fun _ _ ht => by cases ht⟩

theorem From.tally (h : From o s) (cluster src n : Nat) : From o (State.tally s cluster src n) :=
  h

theorem From.noteStamp (h : From o s) (line : Nat) (x : Stamp) : From o (State.noteStamp s line x) :=
  h

theorem From.gotStamp (h : From o s) (cluster : Nat) (x : Stamp) : From o (State.gotStamp s cluster x) := by
  unfold State.gotStamp
  apply_rules [From.raiseCtime]

theorem From.dropCopy (h : From o s) (cluster line : Nat) : From o (State.dropCopy s cluster line) :=
  h

theorem From.evict (h : From o s) (cluster line : Nat) : From o (State.evict s cluster line) := by
  unfold State.evict
  repeat' split
  all_goals apply_rules [(From.bump _ 1)]

theorem From.makeRoom (h : From o s) (cluster line : Nat) : From o (State.makeRoom s cluster line) := by
  unfold State.makeRoom
  refine .ite h ?_
  dsimp only
  split
  · exact From.evict (h.chooseNat ..) ..
  · exact h.chooseNat ..

theorem From.setCopy (h : From o s) (c : Copy) : From o (State.setCopy s c) := by
  unfold State.setCopy
  apply_rules [From.makeRoom]

theorem From.updCopy (h : From o s) (cluster line : Nat) (f : Copy → Copy) : From o (State.updCopy s cluster line f) :=
  h

theorem From.surrender (h : From o s) (c : Copy) : From o (State.surrender s c) := by
  have hc : From o (if c.bad = 0 then s.updCopy c.cluster c.line fun c => { c with st := .L false } else s.dropCopy c.cluster c.line) :=
    .ite (h.updCopy ..) (h.dropCopy ..)
  exact (((hc.withLine ..).setHome ..).noteStamp ..).noteStamp ..

theorem From.recallOwner (h : From o s) (line : Nat) : FromAt o (State.recallOwner s line) := by
  unfold State.recallOwner
  split
  · exact .ok h
  · split
    · exact .ite (.ok (h.surrender ..)) (.error _)
    · exact .error _

theorem From.recallU1 (h : From o s) (line k : Nat) (t : Option DWord) : From o (State.recallU1 s line k t).1 := by
  unfold State.recallU1
  split
  · split
    · exact (((h.withLine ..).dropCopy ..).setHome ..).tally ..
    · exact h
  · exact h

theorem From.recallU (h : From o s) (line : Nat) : From o (State.recallU s line) := by
  unfold State.recallU
  refine .ite h ?_
  have hr := From.foldlFst (r := (s, (none : Option DWord))) h (f := fun r k => r.1.recallU1 line k r.2)
    (fun _ _ h => h.recallU1 ..) ((List.range 64).filter fun k => (s.homeOf line).holders.getLsbD k)
  dsimp only
  split
  · exact hr.setHome ..
  · exact (hr.setHome ..).noteStamp ..

theorem From.recallAll (h : From o s) (line : Nat) : FromAt o (State.recallAll s line) := by
  unfold State.recallAll
  split
  · exact .error _
  · next t ht => exact .ok (((h.recallOwner line).out t ht).recallU ..)

theorem From.homeReadAt (h : From o s) (line : Nat) (t : DWord) (n : Nat) (me : Option Nat) :
    FromAtFst o (State.homeReadAt s line t n me) := by
  unfold State.homeReadAt
  have hr : FromAt o (if s.lineHeld line me then .error line else s.recallAll line) := .ite (.error _) (h.recallAll _)
  split
  · exact .error _
  · next t ht => exact .ok (((hr.out t ht).setHome ..).noteStamp ..)

theorem From.snoopHost (h : From o s) (line : Nat) : From o (State.snoopHost s line) := by
  unfold State.snoopHost
  apply_rules [From.ite, (From.bump _ 1)]

theorem From.homeOwnAt (h : From o s) (line cluster : Nat) (me : Option Nat) : FromAtFst o (State.homeOwnAt s line cluster me) := by
  unfold State.homeOwnAt
  refine .ite (.error _) ?_
  split
  · exact .error _
  · next t ht => exact .ok ((((h.recallAll line).out t ht).setHome ..).tally ..)

theorem From.homeWritebackAt (h : From o s) (line cluster : Nat) (data : LineData) (bad : BitVec 8) (wts rts : Stamp) :
    FromOpt o (State.homeWritebackAt s line cluster data bad wts rts) :=
  .ite (.some ((((h.withLine ..).setHome ..).noteStamp ..).noteStamp ..)) .none

theorem From.homeActAt (h : From o s) (line off n : Nat) (t : DWord) (f : List Byte → List Byte) (me : Option Nat) :
    FromAtFst o (State.homeActAt s line off n t f me) := by
  unfold State.homeActAt
  refine .ite (.error _) ?_
  split
  · exact .error _
  · next t ht =>
    have hr := (h.recallAll line).out t ht
    exact .ite (.ok hr) (.ok (((hr.withLine ..).setHome ..).noteStamp ..))

theorem From.homeJoinAt (h : From o s) (line cluster : Nat) (me : Option Nat) : FromAt o (State.homeJoinAt s line cluster me) := by
  unfold State.homeJoinAt
  refine .ite (.error _) ?_
  split
  · exact .error _
  · next t ht =>
    have hr := (h.recallOwner line).out t ht
    dsimp only
    refine .ok (From.setCopy (From.gotStamp (From.setHome (.ite ?_ ?_) ..) ..) ..)
    · split
      · exact From.recallU (.ite (hr.recallU _) hr) _
      · exact .ite (hr.recallU _) hr
    · exact .ite (hr.recallU _) hr

theorem From.updateU (h : From o s) (cluster line : Nat) (t : DWord) (a : EAct) (bad : Bool) :
    FromOptFst o (State.updateU s cluster line t a bad) := by
  unfold State.updateU
  repeat' split
  all_goals apply_rules [FromOptFst.some, FromOptFst.none]

theorem From.floorLane (h : From o s) (uid l : Nat) : From o (State.floorLane s uid l) := by
  unfold State.floorLane
  repeat' split
  all_goals apply_rules [From.updLane]

theorem From.touch (h : From o s) (uid l : Nat) : From o (State.touch s uid l).1 := by
  unfold State.touch
  repeat' split
  all_goals apply_rules [From.updLane, From.raiseCtime]

theorem From.raiseLane (h : From o s) (uid l : Nat) (x : Stamp) : From o (State.raiseLane s uid l x) := by
  unfold State.raiseLane
  repeat' split
  all_goals apply_rules [From.updLane, From.raiseCtime]

theorem From.liftLane (h : From o s) (uid l : Nat) (t : DWord) : From o (State.liftLane s uid l t) := by
  unfold State.liftLane
  apply_rules [From.updLane]

theorem From.levelLane (h : From o s) (uid l : Nat) : From o (State.levelLane s uid l) := by
  unfold State.levelLane
  repeat' split
  all_goals apply_rules [From.liftLane]

theorem From.levelAll (h : From o s) (uid l : Nat) : From o (State.levelAll s uid l) := by
  unfold State.levelAll
  repeat' split
  all_goals apply_rules [From.liftLane]

theorem From.noteSeen (h : From o s) (b : SeenBy) (line : Nat) (t : DWord) (m : BitVec 128) :
    From o (State.noteSeen s b line t m) := by
  unfold State.noteSeen
  apply_rules [From.ite]

theorem From.noteWrite (h : From o s) (core : CoreId) (uid l id line : Nat) (t : DWord) (own : BitVec 128) :
    From o (State.noteWrite s core uid l id line t own) := by
  have h1 : From o (if own = 0 then s.settleAccess uid id l t false else (s.settleAccess uid id l t false).noteSeen (.own uid l) line t own) :=
    .ite (h.settleAccess ..) ((h.settleAccess ..).noteSeen ..)
  have h2 := From.ite (c := isWideCore core.core = true) (h1.noteSeen (.unit uid) line t lineMask) h1
  exact .ite (h2.noteSeen ..) h2

theorem From.noteLoad (h : From o s) (uid l line : Nat) (wts : Stamp) : From o (State.noteLoad s uid l line wts) := by
  unfold State.noteLoad
  repeat' split
  all_goals apply_rules [From.ite]

theorem From.liftLanes (h : From o s) (uid : Nat) (m : Mask) (t : DWord) : From o (State.liftLanes s uid m t) :=
  h.foldl (fun _ _ h => h.liftLane ..) _

theorem From.hitAt (h : From o s) (cluster line : Nat) (t : DWord) : FromOptFst o (State.hitAt s cluster line t) := by
  unfold State.hitAt
  repeat' split
  all_goals apply_rules [FromOptFst.some, FromOptFst.none]

theorem From.loadNow (h : From o s) (cluster job line : Nat) (t : DWord) (cls : Nat) :
    FromAtFst o (State.loadNow s cluster job line t cls) := by
  unfold State.loadNow
  dsimp only
  split
  · next r hr => exact .ok (((h.hitAt ..).out r.1 r.2 hr).raiseCtime ..)
  · have hread : FromAtFst o (if s.missFull cluster then .error line
        else s.homeReadAt line (s.floorT cluster t) (s.leaseLen job cls)) := .ite (.error _) (h.homeReadAt ..)
    split
    · exact .error _
    · next u r hr =>
      have hu := ((hread.out u r hr).tally cluster 0x05 1).gotStamp cluster r.e
      exact .ok (From.raiseCtime (.ite hu (hu.setCopy _)) ..)

theorem From.writeO (h : From o s) (cluster line : Nat) (t : DWord) (off : Nat) (bytes : List Byte) (bad : Bool) (whole : Bool) :
    From o (State.writeO s cluster line t off bytes bad whole).1 := by
  unfold State.writeO
  repeat' split
  all_goals apply_rules [From.ite]

theorem From.storeNow (h : From o s) (cluster line : Nat) (t : DWord) (off : Nat) (bytes : List Byte) (bad whole : Bool) :
    FromAtFst o (State.storeNow s cluster line t off bytes bad whole) := by
  have hown : FromAt o ((s.homeOwnAt line cluster).map fun r => r.1.setCopy ⟨cluster, line, .O, r.2.data, r.2.bad, r.2.wts, r.2.e⟩) := by
    rcases hr : s.homeOwnAt line cluster with l | r
    · exact .error l
    · exact .ok (((h.homeOwnAt ..).out r.1 r.2 hr).setCopy _)
  have hall : FromAt o (match s.copyOf cluster line with
      | some c => if c.isO then .ok s else
        (s.homeOwnAt line cluster).map fun r => r.1.setCopy ⟨cluster, line, .O, r.2.data, r.2.bad, r.2.wts, r.2.e⟩
      | none => (s.homeOwnAt line cluster).map fun r => r.1.setCopy ⟨cluster, line, .O, r.2.data, r.2.bad, r.2.wts, r.2.e⟩) := by
    split
    · exact .ite (.ok h) hown
    · exact hown
  unfold State.storeNow
  dsimp only
  split
  · exact .error _
  · next u hu => exact .ok ((hall.out u hu).writeO ..)

theorem From.writeBackNow (h : From o s) (cluster line : Nat) : From o (State.writeBackNow s cluster line) := by
  unfold State.writeBackNow
  split
  · exact h
  · next c _ =>
    split
    · refine From.dropCopy ?_ ..
      rcases hr : s.homeWritebackAt line cluster c.data c.bad c.wts c.rts with _ | t
      · exact h
      · exact (h.homeWritebackAt ..).out t hr
    · exact h.evict ..

theorem From.readEntry (h : From o s) (cluster pa : Nat) : FromAtFst o (State.readEntry s cluster pa) := by
  unfold State.readEntry
  split
  · exact .error _
  · next t r hr => exact .ok ((h.homeReadAt ..).out t r hr)

theorem From.swapEntry (h : From o s) (cluster pa : Nat) (old v : DWord) : FromAtFst o (State.swapEntry s cluster pa old v) := by
  unfold State.swapEntry
  split
  · exact .error _
  · next t _ _ _ hr => exact .ok ((h.homeActAt ..).out t _ hr)

theorem From.throughCache (h : From o s) (cluster job level : Nat) (va : DWord) (e : Entry) :
    From o (State.throughCache s cluster job level va e).1 := by
  unfold State.throughCache
  dsimp only
  repeat' split
  all_goals exact h

theorem From.walkStep (h : From o s) (w : Walk) : FromAtFst o (State.walkStep s w) := by
  have hread {s : State} (h : From o s) (level tbl : Nat) (va : DWord) : FromAtFst o
      (match s.readEntry w.cluster (tbl + 8 * (va.toNat / 2 ^ levelBits level % 1024)) with
      | .error l => .error l
      | .ok (s, _, true) => .ok (s, .ok (.fault 0x26))
      | .ok (s, e, false) =>
        match s.throughCache w.cluster w.job level va (checkEntry level e) with
        | (s, .fault c) => .ok (s, .ok (.fault c))
        | (s, .table t) => .ok (s, .error (.reading (level + 1) t))
        | (s, .leaf) =>
          if (e.getLsbD 8 && (e.getLsbD 9 || !(w.dirty && e.getLsbD 4))) then
            .ok (s, .ok (.leaf e (levelBits level) (tbl + 8 * (va.toNat / 2 ^ levelBits level % 1024))))
          else .ok (s, .error (.swapping e (levelBits level) (tbl + 8 * (va.toNat / 2 ^ levelBits level % 1024))))
        : AtHome (State × Except WalkPhase WRes)) := by
    split
    · exact .error _
    · next t _ hr => exact .ok ((h.readEntry ..).out t _ hr)
    · next t e hr =>
      have ht := ((h.readEntry ..).out t _ hr).throughCache w.cluster w.job level va (checkEntry level e)
      split
      · next hc => rw [hc] at ht; exact .ok ht
      · next hc => rw [hc] at ht; exact .ok ht
      · next hc => rw [hc] at ht; exact .ite (.ok ht) (.ok ht)
  unfold State.walkStep
  dsimp only
  split
  · exact .ite (.ok h) (hread (h.tally ..) ..)
  · exact hread h ..
  · split
    · exact .error _
    · next t hr => exact .ok ((h.swapEntry ..).out t _ hr)
    · next t hr => exact .ok ((h.swapEntry ..).out t _ hr)

theorem From.fillUtlb (h : From o s) (c : CoreId) (t : Tlb) : From o (State.fillUtlb s c t) := by
  unfold State.fillUtlb
  apply_rules [From.ite]

theorem From.installTlb (h : From o s) (cluster job : Nat) (va leaf : DWord) (bits entry : Nat) (cores : List CoreId) :
    From o (State.installTlb s cluster job va leaf bits entry cores) := by
  unfold State.installTlb
  apply_rules [From.ite]

theorem From.findTlb (h : From o s) (c : CoreId) (job : Nat) (va : DWord) : From o (State.findTlb s c job va).1 := by
  unfold State.findTlb
  repeat' split
  all_goals apply_rules [From.fillUtlb]

theorem From.dropTlbs (h : From o s) (cluster : Option Nat) (job : Nat) (va : DWord) : From o (State.dropTlbs s cluster job va) :=
  h

theorem From.askWalk (h : From o s) (w : Who) (va : DWord) (dirty : Bool) : From o (State.askWalk s w va dirty) := by
  unfold State.askWalk
  apply_rules [From.ite, (From.bump _ 1)]

theorem From.checkBlock (h : From o s) (w : Who) (h' : How) (va : DWord) (n : Nat) : From o (State.checkBlock s w h' va n).1 := by
  unfold State.checkBlock
  split
  · exact h
  · split
    · exact h
    · exact h
    · exact h
    · have ht := h.findTlb w.core w.job va
      dsimp only
      have hwalk (dirty : Bool) : From o (match (s.findTlb w.core w.job va).1.walkFault? w va with
          | some c => ((s.findTlb w.core w.job va).1, Chk.fault c va 0)
          | none => ((s.findTlb w.core w.job va).1.askWalk w va dirty, (.wait .order : Chk Seg))).1 := by
        split
        · exact ht
        · exact ht.askWalk ..
      split
      · exact hwalk false
      · split
        · exact ht
        · split
          · exact hwalk true
          · exact ht

theorem From.checkBlocks (h : From o s) (w : Who) (h' : How) (bs : List (DWord × Nat)) :
    From o (State.checkBlocks w h' s bs).1 := by
  induction bs generalizing s with
  | nil => exact h
  | cons x bs ih =>
    have hx := h.checkBlock w h' x.1 x.2
    unfold State.checkBlocks
    split
    · next hc => rw [hc] at hx; exact hx
    · next hc => rw [hc] at hx; exact hx
    · next hc => rw [hc] at hx; exact ih hx
    · next hc =>
      rw [hc] at hx
      have hrest := ih hx
      split <;> next hr => rw [hr] at hrest; exact hrest

theorem From.checkAccess (h : From o s) (w : Who) (h' : How) (va : DWord) (n : Nat) : From o (State.checkAccess s w h' va n).1 := by
  have hb := h.checkBlocks w h' (blocks (n / 65536 + 2) va n)
  unfold State.checkAccess
  split
  · exact h
  · split
    · exact h
    · split
      · next hc => rw [hc] at hb; exact hb
      · exact hb

theorem From.putLbyte (h : From o s) (c : CoreId) (off : Nat) (b : Byte) (bad : Bool) : From o (State.putLbyte s c off b bad) := by
  unfold State.putLbyte
  apply_rules [From.setLword]

theorem From.putLbytes (h : From o s) (c : CoreId) (off : Nat) (bs : List Byte) (bad : Bool) :
    From o (State.putLbytes s c off bs bad) :=
  From.foldl (h.foldl (fun _ _ h => h.setLword ..) _) (fun _ _ h => h.putLbyte ..) _

theorem From.mark (h : From o s) (c : CoreId) (w : Nat) (w64 b : Bool) : From o (State.mark s c w w64 b) :=
  h.foldl (fun _ _ h => h.setLword ..) _

theorem From.putLval (h : From o s) (c : CoreId) (w : Nat) (w64 : Bool) (v : DWord) (bad : Bool) :
    From o (State.putLval s c w w64 v bad) :=
  .ite ((h.putLword ..).putLword ..) (h.putLword ..)

theorem From.raiseLrt (h : From o s) (c : CoreId) (t : DWord) : From o (State.raiseLrt s c t) :=
  h

theorem From.putBar (h : From o s) (c : CoreId) (off : Nat) (b : Bar) : From o (State.putBar s c off b) :=
  (((h.putLword ..).putLword ..).putLword ..).putLword ..

theorem From.noteLrt (h : From o s) (uid id l : Nat) (t : DWord) : From o (State.noteLrt s uid id l t) := by
  unfold State.noteLrt
  apply_rules [From.updAgent, (fun a => tag_lanes a (List.length_mapIdx ..))]

theorem From.lperform (h : From o s) (c : CoreId) (off : Nat) (bad : Bool) (acc : LAcc) :
    From o (State.lperform s c off bad acc).1 := by
  cases acc with
  | load | ldf | barwait => exact h
  | store bs => exact h.putLbytes ..
  | take w => exact h.mark ..
  | fill w v => exact (h.putLval ..).mark ..
  | setf w v => exact (h.putLval ..).mark ..
  | clrf w => exact h.mark ..
  | rmw a => exact .ite h (h.putLbytes ..)
  | bar op => exact .ite h (h.putBar ..)
  | depdec job launch sys =>
    unfold State.lperform
    dsimp only
    split
    · exact h
    · split
      · exact h.putLword ..
      · split
        · exact .ite ((h.putLword ..).putLword ..) ((h.putLword ..).putLword ..)
        · exact h.putLword ..

theorem From.writeDest (h : From o s) (uid l : Nat) (d : Dest) (val hi : DWord) (bad : Bool) :
    From o (State.writeDest s uid l d val hi bad) := by
  unfold State.writeDest
  repeat' split
  all_goals apply_rules [From.updLane, From.updAgent]

theorem tag_mapPaths (a : Agent) (f : Path → Path) : (a.mapPaths f).tag = a.tag := rfl

theorem From.delivered (h : From o s) (r : RReply) : From o (State.delivered s r) := by
  have h1 := (h.updLane r.uid r.lane fun ln => r.takes.foldl (fun ln x => ln.setEmpty (Fin.ofNat 64 x)) ln).writeDest r.uid r.lane r.dest
    r.val r.hi r.bad
  unfold State.delivered
  dsimp only
  have h2 : From o (if r.acq then State.settleAccess _ r.uid r.id r.lane r.lrt true
    else if r.dest = .none then _ else State.noteLrt _ r.uid r.id r.lane r.lrt) := .ite (h1.settleAccess ..) (.ite h1 (h1.noteLrt ..))
  have h3 := From.ite (c := r.counted = true) (h2.updAgent (f := fun a => { a with acks := a.acks - 1 }) (fun _ => rfl) r.uid) h2
  exact .ite (h3.updAgent (fun a => tag_mapPaths a _) _) h3

theorem From.performRemote (h : From o s) (r : Remote) : From o (State.performRemote s r).1 := by
  have hl : From o (if r.rel then s.raiseLrt r.dst r.time else s) := .ite (h.raiseLrt ..) h
  have hp := hl.lperform r.dst r.off r.bad r.acc
  exact .ite (hp.delivered _) hp

theorem From.scanN (h : From o s) (c : CoreId) (n : Nat) (ws : List Nat) : From o (State.scanN c n s ws) := by
  induction n generalizing s ws with
  | zero => exact h
  | succ n ih =>
    unfold State.scanN
    split
    · exact h
    · next r _ =>
      have hp : From o ({ s with parked := s.parked.filter (·.id != r.id) }.performRemote r).1 :=
        From.performRemote (s := { s with parked := s.parked.filter (·.id != r.id) }) h r
      exact ih hp _

theorem From.scan (h : From o s) (c : CoreId) (ws : List Nat) : From o (State.scan s c ws) := by
  unfold State.scan
  apply_rules [From.ite, From.scanN]

theorem From.barCount (h : From o s) (c : CoreId) (off : Nat) (inb outb : Bool) (n : Int) (fault : Bool) :
    From o (State.barCount s c off inb outb n fault) :=
  .ite h ((h.putBar ..).scan ..)

theorem From.localNow (h : From o s) (c : CoreId) (uid l off : Nat) (acc : LAcc) (rel acq sys bad : Bool) :
    From o (State.localNow s c uid l off acc rel acq sys bad).1 := by
  have hf := h.floorLane uid l
  have hl : From o (if rel || ((s.floorLane uid l).laneOf uid l).fenced acc then
      (s.floorLane uid l).raiseLrt c (((s.floorLane uid l).laneOf uid l).sendTime acc) else s.floorLane uid l) := .ite (hf.raiseLrt ..) hf
  have hp := hl.lperform c off bad acc
  exact From.scan (.ite (hp.settleAccess ..) (.ite hp (hp.noteLrt ..))) ..

theorem From.zeroLocal (h : From o s) (c : CoreId) (off n : Nat) : From o (State.zeroLocal s c off n) :=
  ⟨h.units, h.next, h.mem, fun hp => swf_filter _ _ _ (h.lwords hp), h.homes⟩

end Sys2Proof.Machine
end

section
/-! What every step keeps: device registers, loads, stores and what they wait for (09_isa_arrival.md,
13_isa_return.md, 14_memory_model.md). -/

namespace Sys2Proof.Machine

open Sys2Proof.Terms

variable {o : Origin} {s t : State}

theorem From.setSpill (h : From o s) (x : Spill) : From o (State.setSpill s x) :=
  h

theorem From.evselWrite (h : From o s) (cluster k : Nat) (v : DWord) : From o (State.evselWrite s cluster k v) :=
  h

theorem From.spWrite (h : From o s) (cluster : Nat) (v : DWord) (job : Nat) : From o (State.spWrite s cluster v job) := by
  unfold State.spWrite
  dsimp only
  repeat' split
  all_goals exact h

/-- The kernel cannot compare two uses of `devReg` of an unknown address by reducing them (the address space is too large),
so the definition is rewritten before it is applied. -/
theorem From.reg8 (h : From o s) (pa : Nat) : From o (State.reg8 s pa).1 := by
  have hchoose (n : Nat) := h.chooseNat n
  generalize hr : State.reg8 s pa = r
  generalize hf : State.reg8 = f at hr
  delta State.reg8 at hf
  subst hf
  dsimp -zeta only at hr
  generalize 2 ^ 64 = n at hr
  generalize devReg pa = d at hr
  cases d with
  | spstat | evsel | evcnt => subst hr; exact h
  | spcmd | unassigned => subst hr; exact hchoose n

theorem From.regRead (h : From o s) (pa n : Nat) : From o (State.regRead s pa n).1 := by
  have hr := h.reg8 (pa / 8 * 8)
  generalize hq : s.regRead pa n = q
  unfold State.regRead at hq
  generalize s.reg8 (pa / 8 * 8) = r at hq hr
  obtain ⟨t, v⟩ := r
  dsimp only at hq hr
  subst hq
  exact hr

theorem From.regWrite (h : From o s) (pa : Nat) (bs : List Byte) (job : Nat) : From o (State.regWrite s pa bs job) := by
  have hr := h.reg8 (pa / 8 * 8)
  generalize hq : State.regWrite s pa bs job = q
  generalize hf : State.regWrite = f at hq
  delta State.regWrite at hf
  subst hf
  dsimp only at hq
  generalize s.reg8 (pa / 8 * 8) = r at hq hr
  have hor : From o (if bs.length = 8 then (s, (0 : DWord)) else r).1 := by
    split
    · exact h
    · exact hr
  generalize (if bs.length = 8 then (s, (0 : DWord)) else r) = u at hq hor
  obtain ⟨t, v⟩ := u
  generalize hd : devReg (pa / 8 * 8) = d at hq
  cases d with
  | spstat | evcnt | unassigned => subst hq; exact h
  | spcmd c => subst hq; exact hor.spWrite ..
  | evsel c k => subst hq; exact hor.evselWrite ..

theorem From.regLoaded (h : From o s) (uid l pa : Nat) (acq sys : Bool) : From o (State.regLoaded s uid l pa acq sys) :=
  .ite (h.settleAccess ..) (h.noteLrt ..)

theorem From.regStored (h : From o s) (uid l pa : Nat) (rel : Bool) : From o (State.regStored s uid l pa rel) := by
  unfold State.regStored
  apply_rules [From.ite]

theorem From.updLoad (h : From o s) (id : Nat) (f : Load → Load) : From o (State.updLoad s id f) :=
  h

theorem From.bindPiece (h : From o s) (l : Load) (k : Nat) (d : LineData) (bad : BitVec 8) :
    From o (State.bindPiece s l k d bad) := by
  unfold State.bindPiece
  apply_rules [From.ite, From.liftLane]

theorem From.updMiss (h : From o s) (cluster line : Nat) (f : Miss → Miss) : From o (State.updMiss s cluster line f) :=
  h

theorem From.updLink (h : From o s) (n : Nat) (f : Link → Link) : From o (State.updLink s n f) :=
  h

theorem From.sendFlit (h : From o s) (link ty : Nat) (bytes : List Byte) (bad : Bool) :
    From o (State.sendFlit s link ty bytes bad) :=
  h

theorem From.sendWin (h : From o s) (uid lane addr len : Nat) (kind : WinKind) (va : DWord) :
    From o (State.sendWin s uid lane addr len kind va) := by
  unfold State.sendWin
  apply_rules [(From.bump _ 1)]

theorem From.postRead (h : From o s) (l : Load) (cluster line job cls : Nat) (t : DWord) :
    From o (State.postRead s l cluster line job cls t) := by
  unfold State.postRead
  apply_rules [(From.bump _ 1)]

theorem From.leaveQueue (h : From o s) (id k : Nat) : From o (State.leaveQueue s id k) :=
  h

theorem From.present (h : From o s) (id k : Nat) : From o (State.present s id k) := by
  unfold State.present
  split
  · exact h
  · next l _ =>
    split
    · next p a _ _ =>
      dsimp only
      refine .ite h (.ite ((h.leaveQueue ..).sendWin ..) ?_)
      have ht := (h.liftLane l.uid l.lane (s.loadTime a l.lane p.line)).raiseCtime a.place.coreId.cluster (s.loadTime a l.lane p.line)
      split
      · next u d bad t' hu =>
        have hhit : From o u := by
          split at hu
          · cases hu
          · exact (ht.hitAt ..).out u _ hu
        exact ((((((hhit.leaveQueue ..).noteLoad ..).liftLane ..).raiseCtime ..).settleAccess ..).bindPiece ..)
      · split
        · exact From.leaveQueue (ht.updMiss ..) ..
        · exact .ite (.ite ht ht) ((ht.postRead ..).leaveQueue ..)
    · exact h

theorem From.presentAll (h : From o s) (id : Nat) : From o (State.presentAll s id) := by
  unfold State.presentAll
  split
  · exact h
  · exact h.foldl (fun _ _ h => h.present ..) _

theorem From.loseDest (h : From o s) (uid l : Nat) (d : Dest) (va : DWord) : From o (State.loseDest s uid l d va) := by
  unfold State.loseDest
  repeat' split
  all_goals apply_rules [From.updLane, From.updAgent]

theorem From.finishLoad (h : From o s) (id : Nat) : From o (State.finishLoad s id) := by
  unfold State.finishLoad
  split
  · exact h
  · next l _ =>
    split
    · exact h
    · next bs bad _ =>
      have hl : From o { s with loads := s.loads.filter (·.id != id) } := h
      dsimp only
      split
      · have hacq {s : State} (hs : From o s) :
            From o (if l.acq then s.settleAccess l.uid l.id l.lane (s.laneOf l.uid l.lane).ltime true else s) :=
          .ite (hs.settleAccess ..) hs
        exact .ite ((hacq (hl.writeDest ..)).loseDest ..) (hacq (hl.writeDest ..))
      · exact .ite ((hl.writeDest ..).loseDest ..) (hl.writeDest ..)
      · exact hl

theorem From.updWrite (h : From o s) (id : Nat) (f : Write → Write) : From o (State.updWrite s id f) :=
  h

theorem From.finishWrite (h : From o s) (id : Nat) : From o (State.finishWrite s id) := by
  unfold State.finishWrite
  repeat' split
  all_goals apply_rules [(From.bump _ 1)]

theorem From.performPiece (h : From o s) (id k : Nat) : From o (State.performPiece s id k) := by
  unfold State.performPiece
  split
  · exact h
  · next w _ =>
    split
    · exact h
    · dsimp only
      refine .ite h ?_
      split
      · split
        · split
          · exact ((((((h.writeO ..).liftLane ..).raiseCtime ..).noteWrite ..).updWrite ..).finishWrite ..)
          · exact h
        · exact h
      · split
        · next r hr => exact (((((((h.updateU ..).out r.1 r.2 hr).liftLane ..).raiseCtime ..).noteWrite ..).updWrite ..).finishWrite ..)
        · exact h

theorem From.performLine (h : From o s) (cluster line : Nat) : From o (State.performLine s cluster line) := by
  unfold State.performLine
  dsimp only
  refine From.foldl ?_ (fun _ _ h => h.foldl (fun _ _ h => .ite (h.performPiece ..) h) _) _
  split
  · exact h.shuffle ..
  · exact h

theorem From.askPiece (h : From o s) (w : Write) (p : WPiece) : From o (State.askPiece s w p) := by
  unfold State.askPiece
  apply_rules [From.ite, (From.bump _ 1)]

theorem From.tryWrite (h : From o s) (id : Nat) : From o (State.tryWrite s id) := by
  unfold State.tryWrite
  split
  · exact h
  · exact From.foldl (h.foldl (fun _ _ h => h.askPiece ..) _) (fun _ _ h => h.performPiece ..) _

theorem From.pendDest (h : From o s) (uid l : Nat) (d : Dest) : From o (State.pendDest s uid l d) := by
  unfold State.pendDest
  repeat' split
  all_goals apply_rules [From.updLane]

theorem From.pendDestNext (h : From o s) (uid l : Nat) (d : Dest) : From o { s.pendDest uid l d with nextId := s.nextId + 1 } := by
  cases d with
  | regs rs _ _ => exact (h.updLane uid l fun ln => rs.foldl (fun ln r => ln.setPending (Fin.ofNat 64 r)) ln).bump 1
  | _ => exact h.bump 1

theorem From.sendLoad (h : From o s) (c : Ctx) (l : Nat) (segs : List Seg) (dst : Dest) (cls : Option Nat) (acq sys : Bool)
    (va : DWord) :
    From o (State.sendLoad s c l segs dst cls acq sys va) := by
  have hown (off n : Nat) : From o ((s.localNow c.a.place.coreId c.uid l off (.load n) false acq sys false).1.writeDest c.uid l dst
      (s.localNow c.a.place.coreId c.uid l off (.load n) false acq sys false).2.1
      (s.localNow c.a.place.coreId c.uid l off (.load n) false acq sys false).2.2 false) := (h.localNow ..).writeDest ..
  have hread (pa n : Nat) := h.regRead pa n
  unfold State.sendLoad
  generalize State.regRead s = read at hread
  extract_lets core pended touched
  split
  · exact hown ..
  · refine .ite (hown ..) ?_
    exact h.pendDestNext ..
  · split
    · split
      · next pa n _ _ _ _ _ =>
        have hr := hread pa n
        generalize read pa n = r at hr
        obtain ⟨u, bytes⟩ := r
        exact (From.regLoaded hr ..).writeDest ..
      · exact h
    · extract_lets noted
      have htouched : From o touched := h.touch ..
      have hnoted : From o noted := .ite (htouched.noteLrt ..) htouched
      refine From.presentAll ?_ _
      exact hnoted.pendDestNext ..

theorem From.count (h : From o s) (uid : Nat) : From o (State.count s uid) := by
  unfold State.count
  apply_rules [From.updAgent]

theorem From.sendRemote (h : From o s) (c : Ctx) (l : Nat) (rc : CoreId) (off : Nat) (acc : LAcc) (dst : Dest)
    (rel acq sys bad holds counted : Bool) (va : DWord) :
    From o (State.sendRemote s c l rc off acc dst rel acq sys bad holds counted va) := by
  have hr := h.pendDestNext c.uid l dst
  exact .ite (From.count hr _) hr

theorem From.sendStore (h : From o s) (c : Ctx) (l : Nat) (segs : List Seg) (bytes : List Byte) (cls : Option Nat)
    (rel bad : Bool) (va : DWord) :
    From o (State.sendStore s c l segs bytes cls rel bad va) := by
  unfold State.sendStore
  dsimp only
  split
  · exact h.localNow ..
  · exact .ite (h.localNow ..) (h.sendRemote ..)
  · split
    · split
      · exact (h.regStored ..).regWrite ..
      · exact h
    · have hparts (xs : List (Seg × List Byte)) := From.foldl (h.touch c.uid l) (f := fun s x => match x.1 with
        | .own off _ => (s.localNow c.a.place.coreId c.uid l off (.store x.2) rel false false bad).1
        | .mem pa n _ =>
          if regionOf pa = some .window then (s.sendWin c.uid l pa n (.store x.2 bad) va).count c.uid else s
        | .remote .. => s) (fun s x h => by
          split
          · exact h.localNow ..
          · exact .ite ((h.sendWin ..).count _) h
          · exact h) xs
      split
      · exact hparts _
      · split
        · refine From.foldl (From.count ?_ _) (fun _ _ h => h.askPiece ..) _
          exact From.bump (hparts _) 1
        · exact From.count (From.bump (hparts _) 1) _

theorem From.sendAtomic (h : From o s) (c : Ctx) (l : Nat) (segs : List Seg) (a : EAct) (dst : Dest) (rel acq sys : Bool)
    (va : DWord) :
    From o (State.sendAtomic s c l segs a dst rel acq sys va) := by
  have hown (off : Nat) : From o ((s.localNow c.a.place.coreId c.uid l off (.rmw a) rel acq sys false).1.writeDest c.uid l dst
      (s.localNow c.a.place.coreId c.uid l off (.rmw a) rel acq sys false).2.1
      (s.localNow c.a.place.coreId c.uid l off (.rmw a) rel acq sys false).2.2 false) := (h.localNow ..).writeDest ..
  unfold State.sendAtomic
  dsimp only
  split
  · exact hown _
  · exact .ite (hown _) (h.sendRemote ..)
  · refine .ite (From.sendWin ((h.touch ..).pendDest ..) ..) ?_
    exact From.bump ((h.touch ..).pendDest ..) 1
  · exact h

theorem From.sendRed (h : From o s) (c : Ctx) (l : Nat) (segs : List Seg) (a : EAct) (rel bad : Bool) (va : DWord) (grp : Nat) :
    From o (State.sendRed s c l segs a rel bad va grp) := by
  unfold State.sendRed
  dsimp only
  split
  · exact h.localNow ..
  · exact .ite (h.localNow ..) (h.sendRemote ..)
  · refine .ite (From.count ((h.touch ..).sendWin ..) _) (From.askPiece (From.count ?_ _) ..)
    exact From.bump (h.touch c.uid l) 1
  · exact h

theorem From.flushHost (h : From o s) (uid cluster : Nat) : From o (State.flushHost s uid cluster) :=
  h.foldl (fun _ _ h => h.evict ..) _

theorem From.portAll (h : From o s) (uid : Nat) : From o (State.portAll s uid) :=
  h

theorem From.releaseWaits (h : From o s) (c : Ctx) (scope : Scope) : From o (State.releaseWaits s c scope).1 := by
  unfold State.releaseWaits
  dsimp only
  repeat' split
  all_goals apply_rules [From.flushHost]

theorem From.clearLost (h : From o s) (uid : Nat) : From o (State.clearLost s uid) := by
  unfold State.clearLost
  apply_rules [From.updAgent]

theorem From.watchLost (h : From o s) (c : Ctx) (l : Nat) : From o (State.watchLost s c l).1 := by
  unfold State.watchLost
  repeat' split
  all_goals apply_rules [From.clearLost]

theorem From.chkThen {α β : Type} {r : State × Chk α} {f : State → α → State × Chk β} (hr : From o r.1)
    (hf : ∀ t a, From o t → From o (f t a).1) : From o (chkThen r f).1 := by
  obtain ⟨t, _ | _ | _ | _⟩ := r
  · exact hf _ _ hr
  · exact hr
  · exact hr
  · exact hr

theorem From.releaseCheck (h : From o s) (c : Ctx) (l : Nat) (scope : Scope) : From o (State.releaseCheck s c l scope).1 := by
  unfold State.releaseCheck
  refine From.chkThen (h.watchLost ..) fun t _ ht => ?_
  dsimp only
  split
  · exact ht.releaseWaits ..
  · exact .ite (((ht.releaseWaits ..).levelLane ..).portAll _) ((ht.releaseWaits ..).levelLane ..)

theorem From.ackedCheck (h : From o s) (c : Ctx) (rel : Bool) : From o (State.ackedCheck s c rel).1 :=
  h

theorem From.acqCheck (h : From o s) (uid : Nat) : From o (State.acqCheck s uid).1 :=
  h

end Sys2Proof.Machine
end

section
/-! What every step keeps: the checks and the effects of the memory instructions, waits in a local store,
branches, calls and returns (04_cluster_store.md, 13_isa_return.md, 17_isa_control.md). -/

namespace Sys2Proof.Machine

open Sys2Proof.Terms

variable {o : Origin} {s t : State}

/-- An instruction whose lanes only read and write registers. -/
theorem From.lanes (h : From o s) (i : Instr) (g : Guard) (os : List Opnd) (ps : List PReg) (ds : List GReg)
    (f : Ctx → List (Nat × LaneIn) → Nat → LaneIn → LaneOut) : FromOut o (issue i g s (Machine.laneExec os ps ds f)) :=
  FromOut.issue h (fun _ _ ht => ht.laneExec ..) ..

/-- An instruction whose lanes check their part, and then all perform it. -/
theorem From.memLanes (h : From o s) {β : Type} {check : Ctx → State → Nat → LaneIn → State × Chk β}
    {perform : Ctx → State → Nat → β → State} (hcheck : ∀ c t l x, From o t → From o (check c t l x).1)
    (hperform : ∀ c t l b, From o t → From o (perform c t l b)) (i : Instr) (g : Guard) (os : List Opnd) (ps : List PReg)
    (ds : List GReg) : FromOut o (issue i g s (Machine.memExec os ps ds check perform)) :=
  FromOut.issue h (fun _ _ ht => ht.memExec hcheck hperform ..) ..

theorem From.iteFst {β : Type} {c : Prop} [Decidable c] {x y : State × β} (hx : From o x.1) (hy : From o y.1) :
    From o (if c then x else y).1 := by
  split
  · exact hx
  · exact hy

theorem From.int2 (h : From o s) (i : Instr) (g : Guard) (op : IOp) (t : ITy) (sat : Bool) (d : GReg) (a b : Src) :
    FromOut o (int2 i g op t sat d a b s) :=
  h.lanes ..

theorem From.intImm (h : From o s) (i : Instr) (op : IOp) (d a : GReg) (imm : DWord) :
    FromOut o (intImm i op d a imm s) := h.lanes ..

theorem From.int1 (h : From o s) (i : Instr) (g : Guard) (op : UOp) (t : ITy) (sat : Bool) (d : GReg) (a : Src) :
    FromOut o (int1 i g op t sat d a s) :=
  h.lanes ..

theorem From.flt2 (h : From o s) (i : Instr) (g : Guard) (f : RM → Bool → Nat → Nat → FRes) (r : Rnd) (sat : Bool) (d : GReg)
    (a : Src) (ma : FMod) (b : Src) (mb : FMod) :
    FromOut o (flt2 i g f r sat d a ma b mb s) :=
  h.lanes ..

theorem From.flt1 (h : From o s) (i : Instr) (g : Guard) (f : RM → Bool → Nat → FRes) (r : Rnd) (sat : Bool) (d : GReg)
    (a : Src) (ma : FMod) :
    FromOut o (flt1 i g f r sat d a ma s) :=
  h.lanes ..

theorem From.prd2 (h : From o s) (i : Instr) (f : Bool → Bool → Bool) (d a b : PReg) : FromOut o (prd2 i f d a b s) := h.lanes ..

theorem From.produce (h : From o s) (c : Ctx) (l : Nat) (rs : List Nat) (k : PendKind) : From o (State.produce s c l rs k) :=
  (h.updLane ..).bump 1

theorem From.divide (h : From o s) (i : Instr) (g : Guard) (rem : Bool) (t : ITy) (d : GReg) (a b : Src) :
    FromOut o (divide i g rem t d a b s) :=
  h.memLanes (check := fun _ s _ x => (s, .ok (divR rem t (x.v 0) (x.v 1)))) (fun _ _ _ _ ht => ht) (fun _ _ _ _ ht => ht.produce ..) ..

theorem From.fillRegs (h : From o s) (uid l : Nat) (ws : List (Nat × Word)) : From o (State.fillRegs s uid l ws) := by
  unfold State.fillRegs
  apply_rules [From.updLane]

theorem From.placeCheck (h : From o s) (c : Ctx) (h' : How) (va : DWord) (n : Nat) : From o (State.placeCheck s c h' va n).1 :=
  (h.acqCheck _).chkThen fun _ _ ht => ht.checkAccess ..

theorem From.poisonCheck (h : From o s) (c : Ctx) (segs : List Seg) (va : DWord) (lane : Option Nat) :
    From o (State.poisonCheck s c segs va lane).1 := by
  unfold State.poisonCheck
  dsimp only
  repeat' split
  all_goals exact h

theorem From.ownWriteCheck (h : From o s) (c : Ctx) (segs : List Seg) : From o (State.ownWriteCheck s c segs).1 :=
  h

theorem From.writeCheck (h : From o s) (c : Ctx) (l : Nat) (rel : Bool) (scope : Scope) (segs : List Seg) (atom : Bool) :
    From o (State.writeCheck s c l rel scope segs atom).1 := by
  refine (h.ownWriteCheck ..).chkThen fun t _ ht => From.chkThen (?_ : From o (if rel then t.releaseCheck c l scope else (t, .ok ())).1) fun _ _ hu => hu
  split
  · exact ht.releaseCheck ..
  · exact ht

theorem From.loadCheck (h : From o s) (c : Ctx) (l : Nat) (va : DWord) (n : Nat) : From o (State.loadCheck s c l va n).1 :=
  (h.placeCheck ..).chkThen fun _ _ ht => ht.poisonCheck ..

theorem From.storeCheck (h : From o s) (c : Ctx) (l : Nat) (va : DWord) (n : Nat) (rel : Bool) (scope : Scope) :
    From o (State.storeCheck s c l va n rel scope).1 :=
  (h.placeCheck ..).chkThen fun _ _ ht => ht.writeCheck ..

theorem From.loadExec (h : From o s) (a : Opnd) (off : BitVec 16) (z : Size) (sx acq sys : Bool) (cls : Option Nat) (d : GReg)
    (c : Ctx) :
    From o (loadExec a off z sx acq sys cls d c s) :=
  h.memExec (fun _ _ _ _ ht => (ht.loadCheck ..).chkThen fun _ _ hu => hu) (fun _ _ _ _ ht => ht.sendLoad ..) ..

theorem From.watchedCheck (h : From o s) (c : Ctx) (l : Nat) (va : DWord) (n : Nat) : From o (State.watchedCheck s c l va n).1 := by
  refine (h.placeCheck ..).chkThen fun t segs ht => From.chkThen ?_ fun u segs hu => ?_
  · exact .iteFst ht (ht.poisonCheck ..)
  · dsimp only
    split
    · exact hu
    · exact hu

theorem From.sendWatched (h : From o s) (c : Ctx) (l : Nat) (segs : List Seg) (n : Nat) (sx : Bool) (d : GReg)
    (lease : BitVec 3) (va : DWord) :
    From o (State.sendWatched s c l segs n sx d lease va) := by
  unfold State.sendWatched
  dsimp only
  split
  · have ht := h.touch c.uid l
    split
    · exact ht.sendLoad ..
    · refine .ite (From.writeDest ?_ ..) (((ht.updLane ..).tally ..).sendLoad ..)
      exact ((ht.updLane ..).raiseCtime ..).bump 2
  · exact (h.floorLane ..).sendLoad ..

theorem From.storeExec (h : From o s) (a : Opnd) (off : BitVec 16) (z : Size) (rel : Bool) (scope : Scope) (cls : Option Nat)
    (d : Src) (c : Ctx) :
    From o (storeExec a off z rel scope cls d c s) :=
  h.memExec (fun _ _ _ _ ht => (ht.storeCheck ..).chkThen fun _ _ hu => hu) (fun _ _ _ _ ht => ht.sendStore ..) ..

theorem From.atomCheck (h : From o s) (c : Ctx) (l : Nat) (va : DWord) (n : Nat) (rel : Bool) (scope : Scope) (reads : Bool) :
    From o (State.atomCheck s c l va n rel scope reads).1 := by
  refine (h.placeCheck ..).chkThen fun t segs ht => From.chkThen ?_ fun _ _ hu => hu.writeCheck ..
  split
  · exact ht.poisonCheck ..
  · exact ht

theorem From.localCheck (h : From o s) (c : Ctx) (va : DWord) (n : Nat) : From o (State.localCheck s c va n).1 := by
  unfold State.localCheck
  apply_rules [From.placeCheck]

theorem From.sendLocal (h : From o s) (c : Ctx) (l : Nat) (segs : List Seg) (acc : LAcc) (dst : Dest) (rel bad : Bool)
    (va : DWord) :
    From o (State.sendLocal s c l segs acc dst rel bad va) := by
  unfold State.sendLocal
  dsimp only
  split
  · exact (h.localNow ..).writeDest ..
  · exact .ite ((h.localNow ..).writeDest ..) (h.sendRemote ..)
  · exact h

theorem From.barCheck (h : From o s) (c : Ctx) (l : Nat) (va : DWord) (rel : Bool) (scope : Scope) :
    From o (State.barCheck s c l va rel scope).1 :=
  (h.localCheck ..).chkThen fun _ _ ht => (ht.poisonCheck ..).chkThen fun _ _ hu => hu.writeCheck ..

theorem From.recordCheck (h : From o s) (c : Ctx) (va : DWord) : From o (State.recordCheck s c va).1 :=
  (h.localCheck ..).chkThen fun _ _ ht => ht

theorem From.sendDec (h : From o s) (c : Ctx) (l : Nat) (segs : List Seg) (rel sys : Bool) (va : DWord) :
    From o (State.sendDec s c l segs rel sys va) := by
  have hown (off : Nat) : From o (if s.ringFull c.a.place.coreId off then
      { s.sendRemote c l c.a.place.coreId off (.depdec (s.launchOf c.uid l).1 (s.launchOf c.uid l).2 sys) .none rel false false false false true va with
        remotes := (s.sendRemote c l c.a.place.coreId off (.depdec (s.launchOf c.uid l).1 (s.launchOf c.uid l).2 sys) .none rel false false false
          false true va).remotes.map fun r => if r.id = s.nextId then { r with
            refused := some ((s.sendRemote c l c.a.place.coreId off (.depdec (s.launchOf c.uid l).1 (s.launchOf c.uid l).2 sys) .none rel false
              false false false true va).now c.cluster) } else r }
      else (s.localNow c.a.place.coreId c.uid l off (.depdec (s.launchOf c.uid l).1 (s.launchOf c.uid l).2 sys) rel false false false).1) := by
    split
    · exact h.sendRemote ..
    · exact h.localNow ..
  unfold State.sendDec
  dsimp only
  split
  · exact hown _
  · exact .ite (hown _) (h.sendRemote ..)
  · exact h

theorem From.fenceWaits (h : From o s) (c : Ctx) (kind : FenceKind) (scope : Scope) :
    From o (State.fenceWaits s c kind scope).1 := by
  unfold State.fenceWaits
  dsimp only
  repeat' split
  all_goals apply_rules [From.flushHost]

theorem tag_fence (a : Agent) (m : Mask) (ord : Ord4) (hws : DWord) : (a.fence m ord hws).tag = a.tag := tag_lanes a List.length_mapIdx

theorem From.fenced (h : From o s) (c : Ctx) (ord : Ord4) (scope : Scope) : From o (State.fenced s c ord scope) := by
  unfold State.fenced
  refine .ite h (From.updAgent (.ite (From.takeOwed (.ite ?_ h) _) (.ite ?_ h)) (fun a => tag_fence ..) _) <;> exact h.portAll _

theorem From.lostCheck (h : From o s) (c : Ctx) (on : Bool) : From o (State.lostCheck s c on).1 := by
  unfold State.lostCheck
  repeat' split
  all_goals apply_rules [From.clearLost]

theorem From.blockNow (h : From o s) (w : Who) (how : How) (va : DWord) (n : Nat) : ∀ t r, s.blockNow w how va n = .ok (t, r) → From o t := by
  have hf := h.findTlb w.core w.job va
  have hok {x : Except (BitVec 8) Seg} {u : State} (hu : From o u) (t : State) (r : Except (BitVec 8) Seg)
      (he : (.ok (u, x) : Now) = .ok (t, r)) : From o t := by
    cases he
    exact hu
  unfold State.blockNow
  dsimp only
  split
  · exact hok h
  · split
    · exact hok h
    · exact hok h
    · exact hok h
    · have hwalk (dirty : Bool) (t : State) (r : Except (BitVec 8) Seg) (he : (match (s.findTlb w.core w.job va).1.walkFault? w va with
          | some c => .ok ((s.findTlb w.core w.job va).1, .error c)
          | none => .error (.walk va dirty) : Now) = .ok (t, r)) : From o t := by
        split at he
        · exact hok hf t r he
        · cases he
      split
      · exact hwalk false
      · split
        · exact hok hf
        · split
          · exact hwalk true
          · exact hok hf

theorem From.prefetch (h : From o s) (p : Pref) : From o (State.prefetch s p) := by
  unfold State.prefetch
  dsimp only
  split
  · exact h.askWalk ..
  · exact h
  · next t pa _ _ ht => 
    have htfrom : From o t := by
      split at ht
      · cases ht
      · exact h.blockNow _ _ _ _ t _ ht
    refine .ite htfrom (.ite htfrom ?_)
    split
    · exact htfrom.updMiss ..
    · refine .ite htfrom ?_
      exact (htfrom.tally ..).bump 1
  · next t _ _ ht => 
    have htfrom : From o t := by
      split at ht
      · cases ht
        exact h
      · exact h.blockNow _ _ _ _ t _ ht
    exact htfrom

theorem From.probe (h : From o s) (c : Ctx) (kind : ProbeKind) (va : DWord) : From o (State.probe s c kind va).1 := by
  have ht := h.findTlb c.who.core c.who.job va
  unfold State.probe
  dsimp only
  split
  · exact h
  · split
    · exact h
    · split
      · exact h
      · split
        · exact h
        · exact h
        · exact h
        · split
          · exact ht
          · split
            · exact ht
            · exact ht.askWalk ..

theorem From.elemPieces (h : From o s) (c : Ctx) (l : Nat) (id k0 : Nat) (segs : List Seg) (cls : Option Nat) (va : DWord) :
    From o (State.elemPieces s c l id k0 segs cls va).1 := by
  unfold State.elemPieces
  refine From.foldlFst (r := (s, ([] : List Piece))) h (fun r g hr => ?_) _
  cases g with
  | own off n => exact hr.noteLrt ..
  | remote rc off n =>
    dsimp only
    split
    · exact hr.noteLrt ..
    · exact hr.sendRemote ..
  | mem pa n leaf =>
    have hread := hr.regRead pa n
    dsimp only
    generalize r.1.regRead pa n = q at hread
    split
    · exact hread.regLoaded ..
    · exact hr

theorem From.elemCheck (h : From o s) (c : Ctx) (l : Nat) (va : DWord) (n : Nat) : From o (State.elemCheck s c l va n).1 :=
  (h.placeCheck ..).chkThen fun _ _ ht => ht.poisonCheck ..

theorem From.binsCheck (h : From o s) (c : Ctx) (l : Nat) (n : Nat) (va : DWord) : From o (State.binsCheck c l n s va).1 := by
  induction n generalizing s va with
  | zero => exact h
  | succ n ih => exact (h.elemCheck ..).chkThen fun _ _ ht => (ih ht _).chkThen fun _ _ hu => hu

theorem From.walkCheck (h : From o s) (c : Ctx) (l : Nat) (a b : DWord) (n cls : Nat) (k : Nat) :
    From o (State.walkCheck c l a b n cls k s).1 := by
  induction k generalizing s with
  | zero => exact h
  | succ k ih =>
    unfold State.walkCheck
    split
    · exact h
    · next r _ =>
      dsimp only
      split
      · exact h
      · exact h
      · exact h.presentAll _
      · next va len _ =>
        have he := h.elemCheck c l va len
        split
        · next hc => rw [hc] at he; exact he
        · next hc => rw [hc] at he; exact he
        · next hc => rw [hc] at he; exact he
        · next hc =>
          rw [hc] at he
          exact ih (From.presentAll (From.updLoad (he.elemPieces ..) ..) _)

theorem From.openWalk (h : From o s) (c : Ctx) (l : Nat) : From o (State.openWalk s c l) := by
  unfold State.openWalk
  repeat' split
  all_goals apply_rules [From.touch, (From.bump _ 1)]

theorem From.dropHeld (h : From o s) (uid : Nat) (m : Mask) : From o (State.dropHeld s uid m) :=
  h

theorem From.heldPeek (h : From o s) (c : Ctx) (l : Nat) (align : Nat) (va : DWord) (n : Nat) (cls : Option Nat) :
    From o (State.heldPeek s c l align va n cls).1 := by
  unfold State.heldPeek
  refine From.chkThen ?_ fun t _ ht => ?_
  · split
    · exact h
    · refine (h.placeCheck ..).chkThen fun t segs ht => (ht.poisonCheck ..).chkThen fun u segs hu => ?_
      have hw := hu.openWalk c l
      dsimp only
      split
      · exact hw
      · exact From.updLoad (hw.elemPieces ..) ..
  · split
    · exact ht
    · dsimp only
      split
      · exact ht.presentAll _
      · split
        · exact ht.presentAll _
        · exact ht.presentAll _

theorem From.heldRead (h : From o s) (c : Ctx) (l : Nat) (align : Nat) (va : DWord) (n : Nat) (cls : Option Nat) :
    From o (State.heldRead s c l align va n cls).1 :=
  (h.heldPeek ..).chkThen fun _ _ ht => ht.dropHeld ..

theorem From.attempt (h : From o s) (c : Ctx) (os : List Opnd) (l : Nat) (x : SyncAcc) (d : Dest) (rel acq sys : Bool) :
    From o (State.attempt s c os l x d rel acq sys) := by
  unfold State.attempt
  extract_lets core used olds read ln rec_ emptied performed pended own changes
  have hread : From o read := (h.acquireTokens ..).floorLane ..
  have hown (off : Nat) : From o (own off) := by
    unfold own
    refine .ite (From.writeDest (From.localNow ((hread.updLane ..).updPath ..) ..) ..) (From.updPath ?_ ..)
    exact hread.pendDestNext ..
  split
  · exact hown _
  · refine .ite (hown _) ?_
    extract_lets sent
    have hsent : From o sent := hread.pendDestNext ..
    exact From.updPath (.ite (hsent.count _) hsent) ..
  · exact hread

theorem From.parkExec (h : From o s) {β : Type} (kind : State → WaitKind) (os : List Opnd) (ds : List GReg)
    {check : Ctx → State → Nat → LaneIn → State × Chk β} {attempt : Ctx → State → Nat → β → State}
    (hcheck : ∀ c t l x, From o t → From o (check c t l x).1) (hattempt : ∀ c t l b, From o t → From o (attempt c t l b)) (c : Ctx) :
    From o (parkExec kind os ds check attempt c s) := by
  unfold Machine.parkExec
  extract_lets todo fin c' st
  refine .ite (.ite (h.completeWith c h) (h.waitFor ..)) ?_
  split
  · exact h.waitFor ..
  · exact h.faultSome ..
  · extract_lets good r all none_ tried dropped left open_
    have hr : From o r.1 := h.checkLanes (fun t l ht => hcheck c' t l _ ht) _
    split
    · exact .ite (hr.waitFor ..) ((hr.dropHeld ..).faultSome ..)
    · refine .ite ((hr.dropHeld ..).clashFault _) ?_
      have htried : From o tried := .ite hr ((hr.foldl (fun _ _ h => hattempt _ _ _ _ h) _).noteFlight ..)
      have hdropped : From o dropped := htried.dropHeld ..
      exact .ite (.ite (hr.completeWith c hdropped) (hdropped.waitFor ..)) (hdropped.faultSome ..)

theorem From.syncExec (h : From o s) (kind : WaitKind) (os : List Opnd) (ds : List GReg) (d : Ctx → Dest) (rel acq sys : Bool)
    {check : Ctx → State → Nat → LaneIn → State × Chk SyncAcc} (hcheck : ∀ c t l x, From o t → From o (check c t l x).1) (c : Ctx) :
    From o (syncExec kind os ds d rel acq sys check c s) :=
  h.parkExec _ _ _ hcheck (fun _ _ _ _ ht => ht.attempt ..) _

theorem From.syncCheck (h : From o s) (c : Ctx) (l : Nat) (va : DWord) (n : Nat) (acc : LAcc) (bad rel : Bool) (scope : Scope) :
    From o (State.syncCheck s c l va n acc bad rel scope).1 := by
  refine (h.localCheck ..).chkThen fun t _ ht => (ht.poisonCheck ..).chkThen fun u _ hu =>
    From.chkThen ?_ fun v _ hv => (hv.ackedCheck ..).chkThen fun w _ hw => ?_
  · split
    · exact hu.writeCheck ..
    · exact hu
  · split
    · exact hw
    · exact hw

theorem From.undo (h : From o s) (r : Remote) : From o (State.undo s r) := by
  unfold State.undo
  apply_rules [From.ite, From.updLane, From.updAgent]

theorem From.withdraw (h : From o s) (uid : Nat) (m : Mask) : From o (State.withdraw s uid m) := by
  unfold State.withdraw
  dsimp only
  have hdone (rs : List RReply) (xs : List RReply) : From o (xs.foldl (fun s r => s.delivered r) { s with rreplies := rs }) :=
    From.foldl (s := { s with rreplies := rs }) h (fun _ _ h => h.delivered _) _
  refine From.foldl ?_ (fun _ _ h => h.undo _) _
  have hpend {t : State} (ht : From o t) (ps : List Pending) : From o { t with pendings := ps } := ht
  refine From.foldl (hpend (hdone ..) _) (fun t p ht => ?_) _
  split
  · exact ht.updLane ..
  · exact ht

theorem From.dropOrphans (h : From o s) : From o (State.dropOrphans s) := by
  unfold State.dropOrphans
  refine From.foldl (From.foldl ?_ (fun _ _ h => h.delivered _) _) (fun _ _ h => h.undo _) _
  exact h

theorem From.reissue (h : From o s) (rid : Nat) (dec : Bool) : From o (State.reissue s rid dec) := by
  unfold State.reissue
  repeat' split
  all_goals exact h

theorem From.fallThrough (h : From o s) (c : Ctx) : From o (State.fallThrough s c) := by
  unfold State.fallThrough
  apply_rules [From.completeWith]

theorem From.branch (h : From o s) (c : Ctx) (t : DWord) : From o (State.branch s c t) := by
  unfold State.branch
  apply_rules [From.ite, From.faultAll, From.jump]

theorem From.diverge (h : From o s) (c : Ctx) (tk : Mask) (t : DWord) (j : List (DWord × Bool)) {pre : State → State}
    (hpre : From o (pre s)) : From o (State.diverge s c tk t j pre) :=
  .ite (h.fallThrough _) (.ite (h.faultSome ..) (.ite (hpre.jump ..) (.ite (h.faultAll ..) (.ite (h.faultAll ..)
    (((hpre.updPath ..).placePath ..).settle ..)))))

theorem tag_setLoops (a : Agent) (act : Bool) (rrb : BitVec 4) (ls : List Loop) : (a.setLoops act rrb ls).tag = a.tag := by
  cases act <;> rfl

theorem From.call (h : From o s) (c : Ctx) (lanes : Mask) (t : DWord) (mark : Bool) : From o (State.call s c lanes t mark) := by
  unfold State.call
  dsimp only
  have hfold := h.foldl (f := fun s l => s.updLane c.uid l fun ln =>
    (ln.setReg 62 (lo32 (callLink c.a c.p.act c.npc))).setReg 63 (hi32 (callLink c.a c.p.act c.npc))) (fun _ _ h => h.updLane ..) (Mask.list lanes)
  have hloops := hfold.updAgent (f := fun a => a.setLoops c.p.act 0 ((a.loopsOf c.p.act).map fun l => { l with frz := true }))
    (fun a => tag_setLoops ..) c.uid
  exact From.jump (.ite (hloops.updPath ..) hloops) ..

theorem From.callExec (h : From o s) (t : Ctx → DWord) (c : Ctx) : From o (callExec t c s) := by
  unfold Machine.callExec
  split
  · exact h.waitFor ..
  · exact h.call ..

theorem From.readTargets (h : From o s) (c : Ctx) (a : GReg) (m : Mask) : From o (State.readTargets s c a m) :=
  h.foldl (fun _ _ h => h.consumeOps ..) _

theorem From.ret (h : From o s) (c : Ctx) (links : List (Nat × DWord)) : From o (State.ret s c links) := by
  unfold State.ret
  extract_lets l0 ts addrs act a1 ends js owes others clash popped restored t0 moved placed
  have hpopped : From o popped := h.foldl (fun _ _ h => h.consumeOps ..) _
  have hrestored : From o restored := hpopped.updAgent (fun a => tag_setLoops ..) _
  have hplaced : From o placed := (hrestored.updPath ..).foldl (fun _ _ h => h.placePath ..) _
  refine .ite (h.faultAll ..) (.ite (h.faultAll ..) (.ite ?_ (hplaced.settle _)))
  split
  · exact hplaced
  · next a ha =>
    have hback := (hplaced.known ha).of_tag (tag_of_pathsMoved (Laws.pathsMoved_backEdge act (a.loopsOf act).length a t0))
    exact (hplaced.setAgent hback).jump ..

end Sys2Proof.Machine
end

section
/-! What every step keeps: control instructions, events of accesses, homes and time (02_lines_and_homes.md,
03_watch_table.md, 17_isa_control.md). -/

namespace Sys2Proof.Machine

open Sys2Proof.Terms

variable {o : Origin} {s t : State}

theorem From.execWaitLimit (h : From o s) (unit slot : Nat) : FromOut o (execWaitLimit unit slot s) := by
  unfold Machine.execWaitLimit
  dsimp only
  repeat' split
  all_goals apply_rules [FromOut.next, From.updAgent, From.withdraw, From.raiseFaults, (fun a => tag_setSlot a _ _)]

theorem From.execRemoteAccess (h : From o s) (rid : Nat) : FromOut o (execRemoteAccess rid s) := by
  unfold Machine.execRemoteAccess
  repeat' split
  all_goals apply_rules [FromOut.next, From.performRemote, From.scan, From.undo, From.takeTrap]

theorem From.execRemoteReply (h : From o s) (rid : Nat) : FromOut o (execRemoteReply rid s) := by
  unfold Machine.execRemoteReply
  repeat' split
  all_goals apply_rules [FromOut.next, From.delivered, From.finishLoad]

theorem From.execRemoteReissue (h : From o s) (rid : Nat) : FromOut o (execRemoteReissue rid s) := by
  unfold Machine.execRemoteReissue
  apply_rules [FromOut.next, From.reissue]

theorem From.execDepdecResend (h : From o s) (rid : Nat) : FromOut o (execDepdecResend rid s) := by
  unfold Machine.execDepdecResend
  apply_rules [FromOut.next, From.reissue]

theorem From.execBrJ32 (h : From o s) (disp : BitVec 22) : FromOut o (execBrJ32 disp s) :=
  FromOut.issueBranch h (fun _ _ ht => ht.branch ..) ..

theorem From.execBrX96 (h : From o s) (imm : Word) :
    FromOut o (execBrX96 imm s) := FromOut.issueBranch h (fun _ _ ht => ht.branch ..) ..

theorem From.execBrc (h : From o s) (g : Guard) (disp : BitVec 22) (join : BitVec 16) : FromOut o (execBrc g disp join s) :=
  FromOut.issueBranch h (fun _ _ ht => ht.diverge _ _ _ _ ht) ..

theorem From.execBru (h : From o s) (g : Guard) (disp : BitVec 22) : FromOut o (execBru g disp s) := by
  refine FromOut.issueBranch h (fun c t ht => ?_) ..
  have hseen := ht.updAgent (f := fun a => { a with thctl := a.thctl ||| 2 }) (fun _ => rfl) c.uid
  exact .ite (ht.branch ..) (.ite (ht.fallThrough _) (.ite (ht.faultAll ..) (.ite (ht.completeWith c hseen)
    (.ite (ht.faultAll ..) (hseen.jump ..)))))

theorem From.execChk (h : From o s) (disp : BitVec 22) : FromOut o (execChk disp s) :=
  FromOut.issueBranch h (fun _ _ ht => .ite (ht.waitFor ..) (ht.diverge _ _ _ _ (ht.foldl (fun _ _ h => h.updLane ..) _))) ..

theorem From.execCallJ32 (h : From o s) (disp : BitVec 22) : FromOut o (execCallJ32 disp s) :=
  FromOut.issueBranch h (fun _ _ ht => ht.callExec ..) ..

theorem From.execCallX96 (h : From o s) (imm : Word) :
    FromOut o (execCallX96 imm s) := FromOut.issueBranch h (fun _ _ ht => ht.callExec ..) ..

theorem From.execCalli (h : From o s) (a : GReg) : FromOut o (execCalli a s) := by
  refine FromOut.issueBranch h (fun c t ht => ?_) ..
  dsimp only
  split
  · exact ht.waitFor ..
  · have hread (m : Mask) : From o (t.readTargets c a m) := ht.readTargets ..
    exact .ite (ht.faultPart ..) (.ite ((hread _).call ..) (.ite (ht.faultAll ..) ((((hread _).updPath ..).placePath ..).call ..)))
  · exact ht.faultPart ..

theorem From.execCalliTail (h : From o s) (a : GReg) : FromOut o (execCalliTail a s) := by
  refine FromOut.issueBranch h (fun c t ht => ?_) ..
  dsimp only
  split
  · exact ht.waitFor ..
  · exact .ite (ht.faultAll ..) (.ite (ht.faultAll ..) (.ite (ht.faultAll ..)
      (((ht.readTargets ..).updAgent (fun a => tag_setLoops ..) _).jump ..)))
  · exact ht.faultPart ..

theorem From.execRet (h : From o s) : FromOut o (execRet s) := by
  refine FromOut.issueBranch h (fun c t ht => ?_) ..
  dsimp only
  split
  · exact ht.waitFor ..
  · exact .ite (ht.ret ..) (ht.faultPart ..)
  · exact ht.faultPart ..

theorem tag_startStages (a : Agent) (rrb : BitVec 4) : (a.startStages rrb).tag = a.tag := tag_lanes a (List.length_map ..)

theorem From.loopExec (h : From o s) (n : Src) (off : BitVec 16) (stages : Nat) (c : Ctx) : From o (loopExec n off stages c s) := by
  unfold Machine.loopExec
  dsimp only
  split
  · exact h.waitFor ..
  · exact h.faultAll ..
  · exact h.faultAll ..
  · have hread := h.consumeOps c (Mask.lowest c.act) [n.w1]
    refine .ite (h.faultAll ..) (.ite (h.faultAll ..) (.ite (h.faultAll ..) (.ite (hread.jump ..)
      (From.jump (hread.updAgent (fun a => ?_) _) ..))))
    split
    · exact tag_setLoops ..
    · exact (tag_startStages ..).trans (tag_setLoops ..)

theorem From.execLoop (h : From o s) (a : Src) (off : BitVec 16) : FromOut o (execLoop a off s) :=
  FromOut.issueBranch h (fun _ _ ht => ht.loopExec ..) ..

theorem From.execLoopr (h : From o s) (stages1 : BitVec 3) (a : Src) (off : BitVec 16) : FromOut o (execLoopr stages1 a off s) :=
  FromOut.issueBranch h (fun _ _ ht => ht.loopExec ..) ..

theorem From.oweEnd (h : From o s) (uid : Nat) (act : Bool) (lp : Loop) : From o (State.oweEnd s uid act lp) := by
  unfold State.oweEnd
  dsimp only
  split
  · exact h
  · next a ha => exact h.setStack ((h.known ha).of_tag (tag_mapPaths ..)) _

theorem From.leaveLoop (h : From o s) (c : Ctx) (lp : Loop) (tk : Mask) : From o (State.leaveLoop s c lp tk) :=
  .ite (h.fallThrough _) (.ite ((h.updAgent (fun a => tag_setLoops ..) _).jump ..) (.ite (((h.oweEnd ..).updPath ..).settle _)
    (.ite (h.faultAll ..) (.ite (h.faultAll ..) ((((h.oweEnd ..).updPath ..).placePath ..).complete _)))))

theorem From.execBrk (h : From o s) : FromOut o (execBrk s) := by
  refine FromOut.issueBranch h (fun c t ht => ?_) ..
  split
  · exact ht.faultAll ..
  · exact ht.leaveLoop ..

theorem From.execBrkd (h : From o s) (g : Guard) (off : BitVec 16) : FromOut o (execBrkd g off s) := by
  refine FromOut.issueBranch h (fun c t ht => ?_) ..
  split
  · exact ht.faultAll ..
  · exact .ite (ht.leaveLoop ..) (ht.faultAll ..)

/-- An instruction that the lowest lane performs for all. -/
theorem From.onceLanes (h : From o s) {β : Type} {check : Ctx → State → Nat → LaneIn → State × Chk β}
    {perform : Ctx → State → Nat → β → State} (hcheck : ∀ c t l x, From o t → From o (check c t l x).1)
    (hperform : ∀ c t l b, From o t → From o (perform c t l b)) (i : Instr) (g : Guard) (os : List Opnd) (ds : List GReg) :
    FromOut o (issue i g s (Machine.onceExec os ds check perform)) :=
  FromOut.issue h (fun _ _ ht => ht.onceExec hcheck hperform ..) ..

theorem From.execLsave (h : From o s) (g : Guard) (lease : BitVec 3) (m : MemArg) : FromOut o (execLsave g lease m s) := by
  refine h.onceLanes (fun c t l x ht => ?_) (fun c t l b ht => (ht.sendStore ..).updAgent (fun a => tag_setLoops ..) _) ..
  exact .iteFst ht ((ht.placeCheck ..).chkThen fun u _ hu => .iteFst hu ((hu.writeCheck ..).chkThen fun _ _ hv => hv))

theorem From.execLrest (h : From o s) (g : Guard) (lease : BitVec 3) (m : MemArg) : FromOut o (execLrest g lease m s) := by
  refine h.onceLanes (fun c t l x ht => ?_) (fun c t l b ht => ht.updAgent (fun a => ?_) _) ..
  · refine From.chkThen (.iteFst ht (.iteFst ht ((ht.placeCheck ..).chkThen fun _ _ hu => hu))) fun u _ hu =>
      (hu.heldRead ..).chkThen fun v _ hv => ?_
    split
    · exact hv
    · exact hv
  · exact (tag_lanes _ (List.length_map ..)).trans (tag_setLoops ..)

theorem From.execTrap (h : From o s) (code : BitVec 8) (a : GReg) : FromOut o (execTrap code a s) := by
  refine FromOut.issue h (fun c t ht => ?_) ..
  dsimp only
  split
  · exact ht.waitFor ..
  · refine .ite (ht.updPath ..) (.ite (ht.clashFault _) ?_)
    have hread := ht.foldl (f := fun s l => s.consumeOps c l [(rd a).w1]) (fun _ _ h => h.consumeOps ..) (Mask.list c.p.mask)
    split
    · exact hread
    · next x hx =>
      have hback := (hread.known hx).of_tag (tag_of_pathsMoved (Laws.pathsMoved_backEdge c.p.act (x.loopsOf c.p.act).length x c.npc))
      exact ((hread.setAgent hback).updPath ..).raiseFaults ..
  · exact ht.faultPart ..

theorem From.execEret (h : From o s) : FromOut o (execEret s) := FromOut.issueBranch h (fun _ _ ht => ht.returnTrap ..) ..

theorem From.execHalt (h : From o s) : FromOut o (execHalt s) :=
  FromOut.issue h (fun _ _ ht => .ite (ht.clashFault _) ((ht.complete _).updAgent (fun a => tag_mapPaths ..) _)) ..

theorem From.execNop (h : From o s) : FromOut o (execNop s) := FromOut.issue h (fun _ _ ht => ht.completeWith _ ht) ..

theorem From.execIsync (h : From o s) : FromOut o (execIsync s) :=
  FromOut.issue h (fun c _ ht => .ite (ht.waitFor ..) (ht.completeWith c (ht.updAgent (fun a => tag_mapPaths ..) _))) ..

theorem From.fetchCause (h : From o s) (cause : BitVec 8) (tval : DWord) : From o (State.fetchCause s cause tval) := by
  unfold State.fetchCause
  split
  · exact h
  · exact From.faultAll (h.clearWalkFaults ..) ..

theorem From.execIllegalInstruction (h : From o s) (w0 w1 : Word) : FromOut o (execIllegalInstruction w0 w1 s) := by
  unfold Machine.execIllegalInstruction
  apply_rules [FromOut.next, From.fetchCause]

theorem From.execFetchFault (h : From o s) (cause : BitVec 8) (addr : DWord) : FromOut o (execFetchFault cause addr s) := by
  unfold Machine.execFetchFault
  apply_rules [FromOut.next, From.fetchCause]

theorem From.dropReq (h : From o s) (id : Nat) : From o (State.dropReq s id) :=
  h

theorem From.dropRep (h : From o s) (id : Nat) : From o (State.dropRep s id) :=
  h

theorem From.nudge (h : From o s) (line : Nat) : From o (State.nudge s line) := by
  unfold State.nudge
  apply_rules [From.snoopHost, From.ite]

theorem From.holdAt (h : From o s) (r : Req) (line : Nat) : From o (State.holdAt s r line) := by
  unfold State.holdAt
  apply_rules [From.nudge, From.ite]

theorem From.reply (h : From o s) (r : Req) (k : RepKind) (wts rts : Stamp) (bad : BitVec 8) (t : DWord) :
    From o (State.reply s r k wts rts bad t) := by
  unfold State.reply
  apply_rules [(From.bump _ 1)]

theorem From.execHomeRead (h : From o s) (req : Nat) : FromOut o (execHomeRead req s) := by
  unfold Machine.execHomeRead
  split
  · next r _ =>
    split
    · split
      · exact .next (h.holdAt ..)
      · next t a ht => exact .next (((h.homeReadAt ..).out t a ht).reply ..)
    · exact .next h
  · exact .next h

theorem From.execHomeRenewal (h : From o s) (req : Nat) : FromOut o (execHomeRenewal req s) := by
  unfold Machine.execHomeRenewal
  split
  · split
    · split
      · exact .next (h.holdAt ..)
      · next t a ht => exact .next (((h.homeReadAt ..).out t a ht).reply ..)
    · exact .next h
  · exact .next h

theorem From.execHomeOwnership (h : From o s) (req : Nat) : FromOut o (execHomeOwnership req s) := by
  unfold Machine.execHomeOwnership
  split
  · split
    · split
      · exact .next (h.holdAt ..)
      · next t a ht => exact .next (((h.homeOwnAt ..).out t a ht).reply ..)
    · exact .next h
  · exact .next h

theorem From.execHomeWriteback (h : From o s) (req : Nat) : FromOut o (execHomeWriteback req s) := by
  unfold Machine.execHomeWriteback
  split
  · split
    · split
      · next t ht => exact .next (((h.homeWritebackAt ..).out t ht).dropReq _)
      · exact .next (h.dropReq _)
    · exact .next h
  · exact .next h

theorem From.execHomeAtomic (h : From o s) (req : Nat) : FromOut o (execHomeAtomic req s) := by
  unfold Machine.execHomeAtomic
  split
  · split
    · dsimp only
      refine .ite (.next h) ?_
      split
      · exact .next (h.holdAt ..)
      · next t old t' bad ht =>
        exact .next (From.reply (((((h.homeActAt ..).out t _ ht).liftLane ..).raiseCtime ..).noteWrite ..) ..)
    · exact .next h
  · exact .next h

theorem From.execHomeUpdateJoin (h : From o s) (req : Nat) : FromOut o (execHomeUpdateJoin req s) := by
  unfold Machine.execHomeUpdateJoin
  split
  · split
    · split
      · exact .next (h.holdAt ..)
      · next t ht => exact .next ((((h.homeJoinAt ..).out t ht).dropReq _).performLine ..)
    · exact .next h
  · exact .next (h.tryWrite _)

theorem From.execWatchRenewal (h : From o s) (req : Nat) : FromOut o (execWatchRenewal req s) := by
  unfold Machine.execWatchRenewal
  split
  · split
    · split
      · exact .next (h.holdAt ..)
      · next t a ht => exact .next (((h.homeReadAt ..).out t a ht).reply ..)
    · exact .next h
  · exact .next h

theorem From.installL (h : From o s) (cluster line : Nat) (d : LineData) (wts rts : Stamp) (expired : Bool) :
    From o (State.installL s cluster line d wts rts expired) := by
  unfold State.installL
  repeat' split
  all_goals apply_rules [From.setCopy]

theorem From.bindWaiting (h : From o s) (id line : Nat) (d : LineData) (bad : BitVec 8) (wts : Stamp) :
    From o (State.bindWaiting s id line d bad wts) := by
  unfold State.bindWaiting
  split
  · exact h
  · refine From.finishLoad (h.foldl (fun t k ht => ?_) _) _
    split
    · exact .ite ((((ht.noteLoad ..).raiseLane ..).settleAccess ..).bindPiece ..) ht
    · exact ht

theorem From.presentAgain (h : From o s) (id line : Nat) : From o (State.presentAgain s id line) := (h.updLoad ..).presentAll _

theorem From.fillArrives (h : From o s) (r : Rep) (d : Option LineData) : From o (State.fillArrives s r d) := by
  unfold State.fillArrives
  dsimp only
  split
  · exact h.dropRep _
  · have hgot (ms : List Miss) : From o { ((s.dropRep r.id).gotStamp r.cluster r.wts).gotStamp r.cluster r.rts with misses := ms } :=
      ((h.dropRep _).gotStamp ..).gotStamp ..
    split
    · exact (hgot _).foldl (fun _ _ h => h.presentAgain ..) _
    · exact From.foldl (From.foldl (.ite ((hgot _).installL ..) (hgot _)) (fun _ _ h => h.bindWaiting ..) _) (fun _ _ h => h.presentAgain ..) _

theorem From.execFillReply (h : From o s) (rep : Nat) : FromOut o (execFillReply rep s) := by
  unfold Machine.execFillReply
  split
  · split
    · exact .next (h.fillArrives ..)
    · exact .next (From.writeDest (From.dropRep (.ite (h.settleAccess ..) h) _) ..)
    · exact .next h
  · exact .next ((h.presentAll _).finishLoad _)

theorem From.execOwnershipGrant (h : From o s) (rep : Nat) : FromOut o (execOwnershipGrant rep s) := by
  unfold Machine.execOwnershipGrant
  split
  · split
    · exact .next (((((h.dropRep _).gotStamp ..).gotStamp ..).setCopy _).performLine ..)
    · exact .next h
  · exact .next (h.tryWrite _)

theorem From.dropWatch (h : From o s) (e : Nat) : From o (State.dropWatch s e) :=
  h

theorem From.struckBy (h : From o s) (w : Watch) (d : Option LineData) : From o (State.struckBy s w d) := by
  unfold State.struckBy
  apply_rules [From.updLane, From.ite]

theorem From.execConfirm (h : From o s) (rep : Nat) : FromOut o (execConfirm rep s) := by
  unfold Machine.execConfirm
  split
  · split
    · exact .next (((((h.dropRep _).gotStamp ..).gotStamp ..).dropWatch _).updCopy ..)
    · exact .next h
  · exact .next h

theorem From.execStrike (h : From o s) (rep : Nat) : FromOut o (execStrike rep s) := by
  unfold Machine.execStrike
  split
  · split
    · have hstruck (l : List Watch) (d : LineData) {r : Rep} := From.foldl (((h.dropRep rep).gotStamp r.cluster r.wts).gotStamp r.cluster r.rts)
        (f := fun s w => s.struckBy w (some d)) (fun _ _ h => h.struckBy ..) l
      exact .next (.ite (((hstruck ..).updMiss ..).installL ..) ((hstruck ..).updMiss ..))
    · exact .next h
  · exact .next h

theorem From.execSweep (h : From o s) (line : Nat) : FromOut o (execSweep line s) := by
  unfold Machine.execSweep
  refine .ite (.next h) (.ite (.next (h.snoopHost _)) ?_)
  split
  · exact .next h
  · next t ht => exact .next ((((h.recallAll line).out t ht).setHome ..).bump 64)

theorem From.execSweepNotice (h : From o s) (note : Nat) : FromOut o (execSweepNotice note s) := by
  unfold Machine.execSweepNotice
  split
  · exact .next h
  · have hnotes : From o { s with notes := s.notes.filter (·.id != note) } := h
    have hstruck (l : List Watch) := hnotes.foldl (f := fun s w => s.struckBy w none) (fun _ _ h => h.struckBy ..) l
    dsimp only
    split
    · split
      · exact .next (hstruck _)
      · exact .next (hstruck _)
    · exact .next (hstruck _)

theorem From.execTimeExchange (h : From o s) (cluster slice : Nat) : FromOut o (execTimeExchange cluster slice s) := by
  unfold Machine.execTimeExchange
  apply_rules [FromOut.next, From.raiseCtime]

theorem From.execCreep (h : From o s) (unit lane : Nat) : FromOut o (execCreep unit lane s) := by
  unfold Machine.execCreep
  repeat' split
  all_goals apply_rules [FromOut.next, From.updLane, FromOut.ite]

theorem From.execClusterEviction (h : From o s) (cluster line : Nat) : FromOut o (execClusterEviction cluster line s) := by
  unfold Machine.execClusterEviction
  apply_rules [FromOut.next, From.evict]

theorem From.execTableWalk (h : From o s) (walk : Nat) : FromOut o (execTableWalk walk s) := by
  unfold Machine.execTableWalk
  split
  · exact .next h
  · refine .ite (.next h) ?_
    split
    · exact .next (h.nudge _)
    · next t ph ht => exact .next ((h.walkStep _).out t _ ht)
    · next t r ht =>
      have hwalks : From o { t with walks := t.walks.filter (·.id != walk) } := (h.walkStep _).out t _ ht
      refine .next (From.foldl ?_ (fun u p hu => From.prefetch (s := { u with prefs := u.prefs.filter (·.id != p.id) }) hu p) _)
      split
      · exact hwalks
      · exact hwalks.installTlb ..

theorem From.execAcknowledge (h : From o s) (ack : Nat) : FromOut o (execAcknowledge ack s) := by
  unfold Machine.execAcknowledge
  split
  · exact .next h
  · next a _ =>
    have hacks := From.updAgent (s := { s with acks := s.acks.filter (·.id != ack) }) h
      (f := fun x => { x with acks := x.acks - 1 }) (fun _ => rfl) a.uid
    exact .next (hacks.foldl (fun _ _ h => h.evict ..) _)

end Sys2Proof.Machine
end

section
/-! What every step keeps: the engines (05_engines.md). -/

namespace Sys2Proof.Machine

open Sys2Proof.Terms

variable {o : Origin} {s t : State}

/-! ### Pieces of an engine's work -/

/-- The state that a piece of an engine's work comes to comes from `o`. -/
structure FromE {α : Type} (o : Origin) (r : EOut α) : Prop where
  ok : ∀ t u a, r = .ok t u a → From o t
  fault : ∀ t u c v, r = .fault t u c v → From o t

section
variable {α β : Type}

theorem FromE.of_ok {a : α} (h : From o s) (u : DWord) :
    FromE o (.ok s u a) := ⟨fun _ _ _ ht => by cases ht; exact h, fun _ _ _ _ ht => nomatch ht⟩

theorem FromE.of_fault (h : From o s) (u : DWord) (c : BitVec 8) (v : DWord) : FromE (α := α) o (.fault s u c v) :=
  ⟨fun _ _ _ ht => (nomatch ht), fun _ _ _ _ ht => by cases ht; exact h⟩

theorem FromE.wait (k : EHold) : FromE (α := α) o (.wait k) := ⟨fun _ _ _ ht => (nomatch ht), fun _ _ _ _ ht => nomatch ht⟩

theorem FromE.ite {c : Prop} [Decidable c] {x y : EOut α} (hx : FromE o x) (hy : FromE o y) : FromE o (if c then x else y) := by
  split
  · exact hx
  · exact hy

theorem FromE.bind {x : EOut α} (hx : FromE o x) {f : State → DWord → α → EOut β} (hf : ∀ t u a, From o t → FromE o (f t u a)) :
    FromE o (x.bind f) := by
  cases x with
  | ok t u a => exact hf t u a (hx.ok t u a rfl)
  | fault t u c v => exact .of_fault (hx.fault t u c v rfl) ..
  | wait k => exact .wait k

theorem FromE.caught {x : EOut α} (hx : FromE o x) : FromE o x.caught := by
  cases x with
  | ok t u a => exact .of_ok (hx.ok t u a rfl) _
  | fault t u c v => exact .of_ok (hx.fault t u c v rfl) _
  | wait k => exact .wait k

theorem From.eList (h : From o s) {f : State → DWord → β → EOut α} (hf : ∀ t u x, From o t → FromE o (f t u x)) (xs : List β)
    (u : DWord) : FromE o (eList f xs s u) := by
  induction xs generalizing s u with
  | nil => exact .of_ok h _
  | cons x xs ih => exact (hf s u x h).bind fun _ _ _ ht => (ih ht _).bind fun _ _ _ hu => .of_ok hu _

theorem From.anyOrder (h : From o s) {f : State → DWord → β → EOut Unit} (hf : ∀ t u x, From o t → FromE o (f t u x)) (xs : List β)
    (u : DWord) : FromE o (anyOrder f xs s u) :=
  (From.eList (h.shuffle ..) hf _ _).bind fun _ _ _ ht => .of_ok ht _

theorem From.place (h : From o s) (c : Cmd) (need : Need) (va : DWord) (n : Nat) (u : DWord) {f : Seg → State → EOut α}
    (hf : ∀ g t, From o t → FromE o (f g t)) : FromE o (c.place need va n s u f) := by
  unfold Cmd.place
  split
  · exact .wait _
  · next t x ht => exact .of_fault (h.blockNow _ _ _ _ t _ ht) ..
  · next t g ht => exact hf g t (h.blockNow _ _ _ _ t _ ht)

end

/-! ### Reading and writing -/

theorem From.eLocal (h : From o s) (u : DWord) (core : CoreId) (off n : Nat) (va : DWord) : FromE o (eLocal s u core off n va) := by
  unfold Machine.eLocal
  split
  · exact .of_fault h ..
  · exact .of_ok h _

theorem From.regBytes (h : From o s) (pa n : Nat) : From o (s.regBytes pa n).1 := by
  have hread (t : State) (ht : From o t) (pa n : Nat) := ht.regRead pa n
  generalize hq : s.regBytes pa n = q
  unfold State.regBytes at hq
  generalize State.regRead = read at hread hq
  subst hq
  refine From.foldlFst (r := (s, ([] : List Byte))) h (fun r i hr => ?_) _
  have hu := hread r.1 hr (pa + 4 * i) 4
  generalize read r.1 (pa + 4 * i) 4 = u at hu
  obtain ⟨u, bs⟩ := u
  exact hu

theorem From.putRegs (h : From o s) (pa : Nat) (bs : List Byte) (job : Nat) : From o (s.putRegs pa bs job) :=
  h.foldl (fun _ _ h => h.regWrite ..) _

theorem From.eReadLine (h : From o s) (c : Cmd) (cls : Nat) (va : DWord) (pa : Nat) (u : DWord) (x : Nat × Nat × Nat) :
    FromE o (eReadLine c cls va pa s u x) := by
  unfold Machine.eReadLine
  extract_lets a v
  split
  · split
    · exact .of_ok h _
    · exact .of_fault h ..
    · exact .wait _
  · split
    · exact .of_ok (h.regBytes ..) _
    · split
      · exact .wait _
      · next t d bad t' ht =>
        have hload := (h.loadNow ..).out t _ ht
        exact .ite (.of_fault hload ..) (.of_ok hload _)

theorem From.eReadSeg (h : From o s) (c : Cmd) (cls : Nat) (va : DWord) (g : Seg) (u : DWord) :
    FromE o (eReadSeg c cls va g s u) := by
  cases g with
  | own off n => exact h.eLocal ..
  | remote rc off n => exact h.eLocal ..
  | mem pa n leaf => exact (h.eList (fun _ _ _ ht => ht.eReadLine ..) ..).bind fun _ _ _ ht => .of_ok ht _

theorem From.eReadBlock (h : From o s) (c : Cmd) (cls : Nat) (u : DWord) (b : DWord × Nat) : FromE o (eReadBlock c cls s u b) :=
  h.place _ _ _ _ _ fun _ _ ht => ht.eReadSeg ..

theorem From.eRead (h : From o s) (c : Cmd) (cls : Nat) (va : DWord) (n : Nat) (u : DWord) : FromE o (eRead c cls va n s u) :=
  (h.eList (fun _ _ _ ht => ht.eReadBlock ..) ..).bind fun _ _ _ ht => .of_ok ht _

theorem From.eWriteLine (h : From o s) (c : Cmd) (cls : Nat) (va : DWord) (pa : Nat) (bytes : List Byte) (bad whole : Bool) (u : DWord)
    (x : Nat × Nat × Nat) : FromE o (eWriteLine c cls va pa bytes bad whole s u x) := by
  unfold Machine.eWriteLine
  extract_lets a bs
  refine .ite (.of_ok (h.sendWin ..) _) (.ite (.of_ok (h.putRegs ..) _) ?_)
  split
  · exact .wait _
  · next t t' ht =>
    have hstore := (h.storeNow ..).out t _ ht
    exact .of_ok (.ite (hstore.writeBackNow ..) hstore) _

theorem From.eWriteSeg (h : From o s) (c : Cmd) (cls : Nat) (va : DWord) (g : Seg) (bytes : List Byte) (bad whole : Bool) (u : DWord) :
    FromE o (eWriteSeg c cls va g bytes bad whole s u) := by
  cases g with
  | own off n => exact .of_ok (h.putLbytes ..) _
  | remote rc off n => exact .of_ok (h.putLbytes ..) _
  | mem pa n leaf => exact (h.eList (fun _ _ _ ht => ht.eWriteLine ..) ..).bind fun _ _ _ ht => .of_ok ht _

theorem From.eWriteBlock (h : From o s) (c : Cmd) (cls : Nat) (bad whole : Bool) (u : DWord) (b : (DWord × Nat) × List Byte) :
    FromE o (eWriteBlock c cls bad whole s u b) := h.place _ _ _ _ _ fun _ _ ht => ht.eWriteSeg ..

theorem From.eWrite (h : From o s) (c : Cmd) (cls : Nat) (va : DWord) (bytes : List Byte) (u : DWord) (bad whole : Bool) :
    FromE o (eWrite c cls va bytes s u bad whole) :=
  (h.eList (fun _ _ _ ht => ht.eWriteBlock ..) ..).bind fun _ _ _ ht => .of_ok ht _

theorem From.eReduce (h : From o s) (c : Cmd) (va : DWord) (a : EAct) (u : DWord) : FromE o (eReduce c va a s u) := by
  refine .ite (.of_fault h ..) (.ite (.of_fault h ..) (h.place _ _ _ _ _ fun g t ht => ?_))
  cases g with
  | own off n => exact .of_ok (ht.lperform ..) _
  | remote rc off n => exact .of_ok (ht.lperform ..) _
  | mem pa n leaf =>
    refine .ite (.of_ok (ht.sendWin ..) _) ?_
    have hdone {w : State} (hw : From o w) {line : Nat} {x : DWord} {b : EAct} {r : State × DWord}
        (hr : w.updateU c.core.cluster line x b false = some r) : FromE (α := Unit) o (.ok (r.1.raiseCtime c.core.cluster r.2) r.2 ()) :=
      .of_ok (((hw.updateU ..).out r.1 r.2 hr).raiseCtime ..) _
    dsimp only
    split
    · next r hr => exact hdone ht hr
    · split
      · exact .wait _
      · next v hv =>
        have hjoin := (ht.homeJoinAt ..).out v hv
        split
        · next r hr => exact hdone hjoin hr
        · exact .of_ok hjoin _

theorem From.eArray (h : From o s) (c : Cmd) (va : DWord) (n : Nat) (u : DWord) : FromE o (eArray c va n s u) := by
  unfold Machine.eArray
  split
  · exact (h.anyOrder (fun _ _ _ ht => (ht.eRead ..).bind fun _ _ _ hv => .of_ok hv _) ..).bind fun _ _ _ ht => .of_ok ht _
  · exact h.eRead ..

theorem From.eRecBytes (h : From o s) (c : Cmd) (va : DWord) (u : DWord) : FromE o (eRecBytes c va s u) :=
  .ite (.of_ok h _) (h.eRead ..).caught

/-! ### Commands and their parts -/

theorem From.updCmd (h : From o s) (id : Nat) (f : Cmd → Cmd) : From o (s.updCmd id f) := h

theorem From.issueCmd (h : From o s) (c : Ctx) (l cls : Nat) (q : Bool) (d : GReg) (op : CmdOp) :
    From o (s.issueCmd c l cls q d op) := by
  unfold State.issueCmd
  have ht := h.touch c.uid l
  extract_lets r t
  split
  · exact ht
  · next a ha =>
    refine From.bump (From.updLane (ht.setAgent ((ht.known ha).of_tag ?_)) ..) 1
    rfl

theorem From.cmdExec (h : From o s) (cls : Nat) (q : Bool) (d : GReg) (os : List Opnd) (op : Ctx → LaneIn → CmdOp) (c : Ctx) :
    From o (cmdExec cls q d os op c s) :=
  h.memExec (fun _ _ _ _ ht => (ht.acqCheck _).chkThen fun _ _ hu => hu) (fun _ _ _ _ ht => ht.issueCmd ..) ..

theorem From.countDown (h : From o s) (bar : Option (CoreId × Nat)) (core : CoreId) (inb : Bool) (va : DWord) (n : Nat) :
    From o (s.countDown bar core inb va n) := by
  cases bar with
  | none => exact h
  | some x => exact .ite h (h.barCount ..)

theorem From.countFault (h : From o s) (bar : Option (CoreId × Nat)) (core : CoreId) (due : List (Bool × DWord × Nat)) :
    From o (s.countFault bar core due) := by
  cases bar with
  | none => exact h
  | some x => exact h.foldl (fun _ _ h => h.barCount ..) _

theorem From.perform (h : From o s) (c : Cmd) (cls : Nat) (whole : Bool) (p : EPut) (bs : List Byte) (u : DWord) :
    FromE o (p.perform c cls whole bs s u) := by
  refine FromE.bind ?_ fun _ _ _ ht => .of_ok ht _
  cases p with
  | copy d => exact h.eWrite ..
  | data d bytes bad => exact h.eWrite ..
  | add d ty => exact h.eReduce ..
  | scale d ty src k => exact h.eWrite ..
  | codes d ty src off len k => exact h.eWrite ..
  | tile i j => exact .of_ok h _

theorem From.eElement (h : From o s) (c : Cmd) (cls : Nat) (seen : List (DWord × List Byte)) (va : DWord) (n : Nat) (u : DWord) :
    FromE o (eElement c cls seen va n s u) := by
  unfold Machine.eElement
  extract_lets k e cut
  split
  · exact .of_ok h _
  · have hread := h.eRead c cls e 4 u
    split
    · next t u' bs ht => exact .of_ok (hread.ok t u' bs ht) _
    · next t u' x v ht => exact .of_fault (hread.fault t u' x v ht) ..
    · exact .wait _

theorem From.eSource (h : From o s) (c : Cmd) (cls : Nat) (seen : List (DWord × List Byte)) (va : DWord) (n : Nat) (u : DWord) :
    FromE o (eSource c cls seen va n s u) := by
  have hpart {t : State} (ht : From o t) (seen : List (DWord × List Byte)) (k len : Nat) (u : DWord) :
      FromE o (if len = 0 then .ok t u (([] : List Byte), seen) else Machine.eElement c cls seen (va + BitVec.ofNat 64 k) len t u) :=
    .ite (.of_ok ht _) (ht.eElement ..)
  exact (hpart h ..).bind fun _ _ _ ht => (FromE.ite (.of_ok ht _) (ht.eRead ..)).bind fun _ _ _ hv => (hpart hv ..).bind fun _ _ _ hw =>
    .of_ok hw _

theorem From.eCount (h : From o s) (c : Cmd) (bar : Option (CoreId × Nat)) (inb : Bool) (va : DWord) (n : Nat) (u : DWord) :
    FromE o (eCount c bar inb va n s u) := by
  unfold Machine.eCount
  split
  · split
    · exact .of_fault h ..
    · exact .of_ok (h.countDown ..) _
  · exact .of_ok h _

theorem From.readPart (h : From o s) (c : Cmd) (w : EWork) (p : EPart) (u : DWord) : FromE o (p.read c w s u) := by
  unfold EPart.read
  split
  · exact .of_ok h _
  · exact (h.eSource ..).bind fun _ _ _ ht => (ht.eCount ..).bind fun _ _ _ hv => .of_ok hv _
  · exact .of_ok h _

theorem From.writePart (h : From o s) (c : Cmd) (w : EWork) (whole : Bool) (p : EPart) (bs : List Byte) (u : DWord) :
    FromE o (p.write c w whole bs s u) := by
  refine (h.perform ..).bind fun t u ws ht => ?_
  split
  · exact (ht.eCount ..).bind fun _ _ _ hv => .of_ok hv _
  · exact .of_ok ht _

theorem From.steps (h : From o s) (c : Cmd) (k : Nat) (w : EWork) (u : DWord) : From o (c.steps k w s u).1 := by
  induction k generalizing s w u with
  | zero => exact h
  | succ k ih =>
    unfold Cmd.steps
    extract_lets n
    split
    · exact h
    · next i _ =>
      split
      · exact h
      · next p _ =>
        have hread := From.readPart (s := n.2) (h.chooseNat _) c w p u
        split
        · exact h
        · next t u' x v ht => exact hread.fault t u' x v ht
        · next t u' r ht =>
          have hr := hread.ok t u' r ht
          extract_lets bytes kept b later
          have hlater : From o later.2 := by
            unfold later
            split
            · exact hr
            · split
              · exact hr
              · exact hr.chooseNat 2
          refine .iteFst (ih hlater ..) ?_
          have hwrite := From.writePart hlater c w (w.whole i) p bytes u'
          split
          · exact hlater
          · next v v' x tv hv => exact .iteFst (ih (hwrite.fault v v' x tv hv) ..) (hwrite.fault v v' x tv hv)
          · next v v' ws hv => exact ih (hwrite.ok v v' ws hv) ..

theorem From.askHold (h : From o s) (c : Cmd) (k : EHold) : From o (s.askHold c k) := by
  unfold State.askHold
  split
  · exact h.nudge _
  · exact h.askWalk ..
  · exact .ite h (h.sendWin ..)

theorem From.setPhase (h : From o s) (c : Cmd) (u : DWord) (ph : CmdPhase) : From o (s.setPhase c u ph) := h

theorem From.workOn (h : From o s) (c : Cmd) (w : EWork) (u : DWord) : From o (s.workOn c w u) := by
  have hsteps (n : Nat) (k : Nat) := From.steps (h.chooseNat n) c k w u
  unfold State.workOn
  dsimp only
  split
  · next hr =>
    have ht := hsteps (2 * w.todo.length + 1) (2 * w.todo.length - (s.chooseNat (2 * w.todo.length + 1)).1)
    rw [hr] at ht
    exact ht.setPhase ..
  · next hr =>
    have ht := hsteps (2 * w.todo.length + 1) (2 * w.todo.length - (s.chooseNat (2 * w.todo.length + 1)).1)
    rw [hr] at ht
    exact From.askHold (ht.setPhase ..) ..
  · next hr =>
    have ht := hsteps (2 * w.todo.length + 1) (2 * w.todo.length - (s.chooseNat (2 * w.todo.length + 1)).1)
    rw [hr] at ht
    exact From.setPhase (From.countFault ht ..) ..

theorem From.runCmd (h : From o s) (id : Nat) (want : CmdOp → Bool) {work : Cmd → State → DWord → EOut CmdPhase}
    (hwork : ∀ c u, FromE o (work c s u)) : From o (s.runCmd id want work) := by
  unfold State.runCmd
  split
  · exact h
  · next c _ =>
    refine .ite h ?_
    split
    · exact h
    · exact h.workOn ..
    · have hw := hwork c (s.cmdTime c)
      split
      · next t u w ht => exact From.workOn (From.setPhase (hw.ok t u _ ht) ..) ..
      · next t u ph _ ht => exact hw.ok t u _ ht
      · next t u x v ht => exact hw.fault t u x v ht
      · exact h.askHold ..

end Sys2Proof.Machine
end

section
/-! What every step keeps: the commands of the engines, and the tiles (05_engines.md, 11_isa_tiles.md). -/

namespace Sys2Proof.Machine

open Sys2Proof.Terms

variable {o : Origin} {s t : State}

/-! ### The commands of the engines -/

theorem From.grain (h : From o s) : From o s.grain.2 := h.chooseNat 2

theorem From.copyRun (h : From o s) (c : Cmd) (shape : Nat) (dst src : DWord) (bar : Option DWord) (u : DWord) :
    FromE o (copyRun c shape dst src bar s u) := by
  refine (h.eRecBytes ..).bind fun t _ d ht => (ht.eRecBytes ..).bind fun v _ e hv => ?_
  dsimp only
  split
  · exact .of_ok (hv.grain.chooseNat 2) _
  · exact .of_fault (hv.countFault ..) ..

theorem From.gatherRun (h : From o s) (c : Cmd) (scadd : Bool) (loc table idx : DWord) (n : Nat)
    (parts : Bool → LRec → List Word → List EPart) (u : DWord) : FromE o (gatherRun c scadd loc table idx n parts s u) := by
  refine (h.eRecBytes ..).bind fun t _ r ht => ?_
  dsimp only
  split
  · exact .of_fault ht ..
  · refine (ht.eArray ..).caught.bind fun v _ xs hv => ?_
    split
    · exact .of_ok hv.grain _
    · exact .of_fault hv ..

theorem From.quantRun (h : From o s) (c : Cmd) (dst src : DWord) (u : DWord) : FromE o (quantRun c dst src s u) := by
  refine (h.eRecBytes ..).bind fun t _ d ht => (ht.eRecBytes ..).bind fun v _ e hv => ?_
  dsimp only
  split
  · exact .of_ok hv _
  · exact .of_fault hv ..

theorem From.eHeader (h : From o s) (c : Cmd) (va : DWord) (k : HeadOp) (u : DWord) : FromE o (eHeader c va k s u) := by
  refine h.place _ _ _ _ _ fun g t ht => ?_
  split
  · split
    · split
      · exact .of_ok ht _
      · exact .of_fault ht ..
      · exact .wait _
    · split
      · exact .wait _
      · next v old t' hv => exact .of_fault ((ht.homeActAt ..).out v _ hv) ..
      · next v old t' hv => exact .of_ok (((ht.homeActAt ..).out v _ hv).raiseCtime ..) _
  · exact .of_fault ht ..

theorem From.eHeadRead (h : From o s) (c : Cmd) (va : DWord) (u : DWord) : FromE o (eHeadRead c va s u) := by
  refine h.place _ _ _ _ _ fun g t ht => ?_
  split
  · split
    · exact (ht.eRead ..).bind fun _ _ _ hv => .of_ok hv _
    · dsimp only
      split
      · exact .wait _
      · next v r hv =>
        have hread := (((ht.homeReadAt ..).out v r hv).gotStamp c.core.cluster r.e).raiseCtime c.core.cluster
          (raise (t.floorT c.core.cluster u) r.wts)
        exact .ite (.of_fault hread ..) (.of_ok hread _)
  · exact .of_fault ht ..

theorem From.tgenRun (h : From o s) (c : Cmd) (queue offs : DWord) (g gbase limit tag : Word) (mt : Nat) (u : DWord) :
    FromE o (tgenRun c queue offs g gbase limit tag mt s u) := by
  refine .ite (.of_fault h ..) (.ite (.of_fault h ..) ((h.eHeadRead ..).caught.bind fun t _ r ht => ?_))
  refine .ite (.of_fault ht ..) ((ht.eArray ..).bind fun v _ bs hv => ?_)
  split
  · exact .of_fault hv ..
  · exact .of_ok hv _

theorem From.tgenReserve (h : From o s) (c : Cmd) (app : Bool) (queue : DWord) (es : List (List Byte)) (u : DWord) :
    FromE o (tgenReserve c app queue es s u) :=
  (h.eHeader ..).bind fun _ _ _ ht => .ite (.of_fault ht ..) (.ite (.of_fault ht ..) (.ite (.of_fault ht ..) (.ite (.of_ok ht _) (.of_ok ht _))))

theorem From.execCopyExecute (h : From o s) (cmd : Nat) : FromOut o (execCopyExecute cmd s) :=
  .next (h.runCmd _ _ fun c u => by
    split
    · exact h.copyRun ..
    · exact .of_ok h _)

theorem From.execGatherExecute (h : From o s) (cmd : Nat) : FromOut o (execGatherExecute cmd s) :=
  .next (h.runCmd _ _ fun c u => by
    split
    · exact h.gatherRun ..
    · exact .of_ok h _)

theorem From.execScaddExecute (h : From o s) (cmd : Nat) : FromOut o (execScaddExecute cmd s) :=
  .next (h.runCmd _ _ fun c u => by
    split
    · exact h.gatherRun ..
    · exact .of_ok h _)

theorem From.execQuantExecute (h : From o s) (cmd : Nat) : FromOut o (execQuantExecute cmd s) :=
  .next (h.runCmd _ _ fun c u => by
    split
    · exact h.quantRun ..
    · exact .of_ok h _)

theorem From.execTgenExecute (h : From o s) (cmd : Nat) : FromOut o (execTgenExecute cmd s) :=
  .next (h.runCmd _ _ fun c u => by
    split
    · exact h.tgenRun ..
    · exact h.tgenReserve ..
    · exact .of_ok h _)

theorem From.forgetWins (h : From o s) (id : Nat) : From o (s.forgetWins id) := h

/-- The header, where it has not been answered already. -/
theorem From.headOnce (h : From o s) (c : Cmd) (q u : DWord) (answered : Bool) :
    FromE o (if answered then EOut.ok s u none else (Machine.eHeadRead c q s u).bind fun s t h => EOut.ok s t (some h)) :=
  .ite (.of_ok h _) ((h.eHeadRead ..).bind fun _ _ _ ht => .of_ok ht _)

theorem From.execTgenPublish (h : From o s) (cmd : Nat) : FromOut o (execTgenPublish cmd s) := by
  refine .next (h.runCmd _ _ fun c u => ?_)
  split
  · next q _ _ _ _ _ _ st k x v _ _ =>
    refine .ite (.of_ok h _) ?_
    have hhead := h.headOnce c q u (c.wins.any fun w => decide (2 ^ 60 ≤ w.1))
    split
    · exact .wait _
    · next t u' y w ht => exact .of_fault (hhead.fault t u' y w ht) ..
    · next t u' r ht =>
      refine .ite (.of_ok (h.forgetWins _) _) ?_
      have hput := (hhead.ok t u' r ht).eHeader c q (.publish st k (x != 0)) u'
      split
      · exact .wait _
      · next v u'' y w hv => exact .of_fault (hput.fault v u'' y w hv) ..
      · next v u'' r' hv => exact .of_ok (From.forgetWins (hput.ok v u'' r' hv) _) _
  · exact .of_ok h _

theorem From.execTgenCloseExecute (h : From o s) (cmd : Nat) : FromOut o (execTgenCloseExecute cmd s) := by
  refine .next (h.runCmd _ _ fun c u => ?_)
  split
  · refine .ite (.of_fault h ..) ((h.headOnce ..).bind fun t u' r ht => .ite (.of_fault ht ..) (.ite (.of_ok (h.forgetWins _) _) ?_))
    exact (ht.eHeader ..).bind fun v _ _ hv => .ite (.of_fault hv ..) (.of_ok (hv.forgetWins _) _)
  · exact .of_ok h _

theorem From.completeCmd (h : From o s) (c : Cmd) (cause : BitVec 8) (tval : DWord) : From o (s.completeCmd c cause tval) := by
  unfold State.completeCmd
  extract_lets v filled k counted
  have hfilled : From o filled := h.updLane ..
  have hcounted : From o counted := by
    refine hfilled.updAgent (fun a => ?_) _
    dsimp only
    split
    · rfl
    · split <;> rfl
  refine From.retireIfEmpty ?_ _
  exact hcounted

theorem From.execCommandCompletion (h : From o s) (cmd : Nat) : FromOut o (execCommandCompletion cmd s) := by
  unfold Machine.execCommandCompletion
  split
  · exact .next h
  · split
    · exact .next (.ite h (h.completeCmd ..))
    · exact .next h

theorem From.execWaitt (h : From o s) (g : Guard) (cls : BitVec 2) (n : WaitN) : FromOut o (execWaitt g cls n s) := by
  unfold Machine.execWaitt
  extract_lets
  refine FromOut.issue h (fun c t ht => ?_) ..
  dsimp only
  split
  · exact ht.waitFor ..
  · exact ht.faultAll ..
  · exact ht.faultAll ..
  · refine .ite (ht.faultAll ..) (.ite (.ite (ht.faultAll ..) (ht.waitFor ..)) ?_)
    split
    · exact ht.completeWith c ((ht.consumeOps ..).liftPath ..)
    · exact ht.faultAll ..

/-! ### Tile instructions -/

theorem From.setTiles (h : From o s) (x : Tiles) : From o (s.setTiles x) := h

theorem From.queueMop (h : From o s) (c : Ctx) (l : Nat) (k : MKind) : From o (s.queueMop c l k) := (h.touch ..).bump 1

theorem From.tileExec (h : From o s) (os : List Opnd) (check : Tiles → LaneIn → Except (BitVec 8) MKind) (c : Ctx) :
    From o (tileExec os check c s) :=
  h.onceExec (fun _ _ _ _ ht => by split <;> exact ht) (fun _ _ _ _ ht => ht.queueMop ..) ..

theorem From.writeTd (h : From o s) (core : CoreId) (k : Nat) (v : DWord) : From o ((s.writeTd core k v).toOption.getD s) := by
  unfold State.writeTd
  dsimp only
  split
  · exact h.setTiles _
  · exact h

theorem From.writeProg (h : From o s) (core : CoreId) (v : DWord) : From o ((s.writeProg core v).toOption.getD s) := by
  unfold State.writeProg
  split
  · exact h.setTiles _
  · exact h

theorem From.execTcfg (h : From o s) (g : Guard) (t : TReg) (fmt : BitVec 4) (rows1 rb : BitVec 7) :
    FromOut o (execTcfg g t fmt rows1 rb s) :=
  h.onceLanes (fun _ _ _ _ ht => by dsimp only; split <;> exact ht) (fun _ _ _ _ ht => ht.writeTd ..) ..

theorem From.execCellp (h : From o s) (g : Guard) (a : Src) : FromOut o (execCellp g a s) :=
  h.onceLanes (fun _ _ _ _ ht => by split <;> exact ht) (fun _ _ _ _ ht => ht.writeProg ..) ..

theorem From.lanesExec (h : From o s) (os : List Opnd) (ds : List GReg) {k : Ctx → State → State} {c : Ctx} (hk : From o (k c s)) :
    From o (lanesExec os ds k c s) := by
  unfold Machine.lanesExec
  dsimp only
  split
  · exact h.faultAll ..
  · exact h.waitFor ..
  · exact hk

theorem From.execTpack (h : From o s) (g : Guard) (wc : WordCount) (t : TReg) (a : Src) (row0 : BitVec 7) (woff : BitVec 9) :
    FromOut o (execTpack g wc t a row0 woff s) := by
  unfold Machine.execTpack
  extract_lets
  refine FromOut.issue h (fun c t ht => ht.lanesExec _ _ ?_) ..
  split
  · exact ht.faultAll ..
  · exact ht.completeWith c ((ht.foldl (fun _ _ h => h.consumeOps ..) _).queueMop ..)

theorem From.unpack (h : From o s) (c : Ctx) (ds : List GReg) (t row0 woff : Nat) : From o (s.unpack c ds t row0 woff) := by
  unfold State.unpack
  extract_lets x bad read
  have hread : From o read := h.foldl (fun _ _ h => h.updLane ..) _
  exact .ite (hread.bump 1) hread

theorem From.execTunpk (h : From o s) (g : Guard) (wc : WordCount) (d : GReg) (t : TReg) (row0 : BitVec 7) (woff : BitVec 9) :
    FromOut o (execTunpk g wc d t row0 woff s) := by
  unfold Machine.execTunpk
  extract_lets
  refine FromOut.issue h (fun c v hv => hv.lanesExec _ _ ?_) ..
  have hgo (us : List Unpack) (ds : List GReg) : From o (State.completeWith { v with unpacks := us } c fun s =>
      s.unpack c ds t.toNat row0.toNat woff.toNat) :=
    From.completeWith (s := { v with unpacks := us }) hv c (From.unpack (s := { v with unpacks := us }) hv ..)
  dsimp only
  split
  · exact .ite (hv.waitFor ..) (hgo ..)
  · split
    · exact hv.faultAll ..
    · exact .ite (From.waitFor (hv.bump 1) ..) (hgo ..)

/-! ### The addresses of matrix instructions -/

theorem From.rowsCheck (h : From o s) (c : Ctx) (how : How) (rows : List (DWord × Nat)) :
    From o (State.rowsCheck c how s rows).1 := by
  induction rows generalizing s with
  | nil => exact h
  | cons x rows ih =>
    have hx := h.placeCheck c how x.1 x.2
    unfold State.rowsCheck
    split
    · next hc => rw [hc] at hx; exact hx
    · next hc => rw [hc] at hx; exact hx
    · next hc => rw [hc] at hx; exact ih hx
    · next hc => rw [hc] at hx; exact (ih hx).chkThen fun _ _ ht => ht

theorem From.tileCmd (h : From o s) (load q : Bool) (lease : BitVec 3) (d : GReg) (t : TReg) (m : MemArg) (stride : Src) (c : Ctx) :
    From o (tileCmd load q lease d t m stride c s) := by
  refine h.onceExec (fun _ v _ _ hv => .iteFst hv ((hv.acqCheck _).chkThen fun _ _ hw => hw)) (fun _ v _ _ hv => ?_) ..
  exact From.ite (From.issueCmd (hv.bump 1) ..) (From.issueCmd (hv.bump 1) ..)

theorem From.dropMopOf (h : From o s) (cmd : Nat) : From o (s.dropMopOf cmd) := by
  unfold State.dropMopOf
  split
  · exact h
  · exact .ite h h

theorem From.execTileLoadExecute (h : From o s) (cmd : Nat) : FromOut o (execTileLoadExecute cmd s) := by
  refine .next (From.dropMopOf (h.runCmd _ _ fun c u => ?_) _)
  split
  · exact .of_ok h.grain _
  · split
    · exact .of_ok h _
    · exact .ite (.of_ok h _) (.ite (.of_ok h _) (.of_ok (h.setTiles _) _))
  · exact .of_ok h _

theorem From.execTileStoreExecute (h : From o s) (cmd : Nat) : FromOut o (execTileStoreExecute cmd s) := by
  refine .next (From.dropMopOf (h.runCmd _ _ fun c u => ?_) _)
  split
  · split
    · exact .of_ok h _
    · exact .ite (.of_ok h _) (.of_ok h.grain _)
  · exact .of_ok h _

theorem From.accPlaces (h : From o s) (load : Bool) (off : BitVec 16) (m0 n0 m n : Nat) (c : Ctx) (x : LaneIn) :
    From o (accPlaces load off m0 n0 m n c s x).1 :=
  .iteFst h (.iteFst h (.iteFst h ((h.rowsCheck ..).chkThen fun _ _ ht => ht)))

theorem From.execAccld (h : From o s) (g : Guard) (lease : BitVec 3) (acc : AccReg) (m : MemArg) (stride : Src) (m0 : BitVec 6)
    (n0 : BitVec 7) (m1 : BitVec 6) (n1 : BitVec 7) : FromOut o (execAccld g lease acc m stride m0 n0 m1 n1 s) :=
  h.onceLanes (fun _ _ _ _ ht => ht.accPlaces ..) (fun _ _ _ _ ht => ht.queueMop ..) ..

theorem From.execAccst (h : From o s) (g : Guard) (lease : BitVec 3) (acc : AccReg) (m : MemArg) (stride : Src) (m0 : BitVec 6)
    (n0 : BitVec 7) (m1 : BitVec 6) (n1 : BitVec 7) : FromOut o (execAccst g lease acc m stride m0 n0 m1 n1 s) :=
  h.onceLanes (fun _ _ _ _ ht => ht.accPlaces ..) (fun _ _ _ _ ht => ht.queueMop ..) ..

theorem From.execAccsend (h : From o s) (g : Guard) (ty : Ty) (sat sint : Bool) (acc : AccReg) (a b : Src) (v : Src3) (m1 : BitVec 6)
    (n1 : BitVec 7) : FromOut o (execAccsend g ty sat sint acc a b v m1 n1 s) := by
  refine h.onceLanes (fun c t l x ht => ?_) (fun _ _ _ _ ht => ht.queueMop ..) ..
  dsimp only
  split
  · exact ht
  · exact (ht.acqCheck _).chkThen fun _ _ hv => hv

theorem From.execTsave (h : From o s) (g : Guard) (lease : BitVec 3) (m : MemArg) : FromOut o (execTsave g lease m s) := by
  refine h.onceLanes (fun c t l x ht => ?_) (fun _ _ _ _ ht => ht.queueMop ..) ..
  dsimp only
  split
  · exact ht
  · split
    · exact (ht.rowsCheck ..).chkThen fun _ _ hv => hv
    · exact ht.rowsCheck ..

theorem From.execTrest (h : From o s) (g : Guard) (lease : BitVec 3) (m : MemArg) : FromOut o (execTrest g lease m s) := by
  refine h.onceLanes (fun c t l x ht => From.chkThen (.iteFst ht ?_) fun _ _ hv => (hv.heldRead ..).chkThen fun _ _ hw => hw)
    (fun _ _ _ _ ht => From.queueMop (ht.setTiles _) ..) ..
  split
  · exact ht
  · split
    · exact (ht.rowsCheck ..).chkThen fun _ _ hv => hv
    · exact ht

/-! ### Performing tile instructions -/

theorem From.updMop (h : From o s) (id : Nat) (f : MOp → MOp) : From o (s.updMop id f) := h

theorem From.finishMop (h : From o s) (m : MOp) (u : DWord) (flags : BitVec 6) (bad : Bool) :
    From o (s.finishMop m u flags bad) := by
  unfold State.finishMop
  have hcounted := h.updAgent (f := fun a => { a.orFlags flags with tileTime := tmax a.tileTime u }) (fun _ => rfl) m.uid
  dsimp only
  split
  · exact hcounted
  · refine .ite (From.retireIfEmpty ?_ _) (.ite ?_ ?_) <;> exact hcounted

theorem From.readPlaces (h : From o s) (c : Cmd) (cls : Nat) (r : List (DWord × Seg)) (u : DWord) :
    FromE o (readPlaces c cls r s u) :=
  (h.eList (fun _ _ _ ht => ht.eReadSeg ..) ..).bind fun _ _ _ ht => .of_ok ht _

theorem From.writePlaces (h : From o s) (c : Cmd) (cls : Nat) (bad : Bool) (r : List (DWord × Seg)) (bs : List Byte) (u : DWord) :
    FromE o (writePlaces c cls bad r bs s u) := by
  induction r generalizing s bs u with
  | nil => exact .of_ok h _
  | cons x r ih => exact (h.eWriteSeg ..).bind fun _ _ _ ht => ih ht ..

theorem From.writeRows (h : From o s) (c : Cmd) (cls : Nat) (bad : Bool) (rows : List (List (DWord × Seg) × List Word)) (u : DWord) :
    FromE o (writeRows c cls bad rows s u) :=
  .ite ((From.eList (h.chooseNat 2) (fun _ _ _ ht => ht.writePlaces ..) ..).bind fun _ _ _ ht => .of_ok ht _)
    (From.anyOrder (h.chooseNat 2) (fun _ _ _ ht => ht.writePlaces ..) ..)

theorem From.accldWords (h : From o s) (c : Cmd) (cls : Nat) (xs : List (Nat × Nat × DWord × Seg)) (u : DWord) :
    FromE o (accldWords c cls xs s u) := by
  induction xs generalizing s u with
  | nil => exact .of_ok h _
  | cons x xs ih =>
    have hx := h.eReadSeg c cls x.2.2.1 x.2.2.2 u
    unfold Machine.accldWords
    split
    · next t u' bs ht => exact (ih (hx.ok t u' bs ht) _).bind fun _ _ _ hv => .of_ok hv _
    · next t u' k v ht => exact .of_ok (hx.fault t u' k v ht) _
    · exact .wait _

theorem From.memMop (h : From o s) (m : MOp) (x : Tiles) (u : DWord) : FromE o (memMop m x s u) := by
  unfold Machine.memMop
  dsimp only
  split
  · next a rows m0 n0 _ _ cls _ =>
    have hrows := h.eList (f := fun s t r => Machine.readPlaces m.asCmd cls r s t) (fun _ _ _ ht => ht.readPlaces ..) rows u
    split
    · next t u' bss ht => exact .of_ok (From.setTiles (hrows.ok t u' bss ht) _) _
    · exact (From.accldWords (h.shuffle ..) ..).bind fun _ _ _ ht => .of_ok (ht.setTiles _) _
    · exact .wait _
  · exact (h.writeRows ..).bind fun _ _ _ ht => .of_ok ht _
  · exact (h.eList (fun _ _ _ ht => ht.writePlaces ..) ..).bind fun _ _ _ ht => .of_ok ht _
  · exact .of_ok h _

theorem From.sendMop (h : From o s) (m : MOp) (dst : CoreId) (off : Nat) (acc : LAcc) (rel bad : Bool) :
    From o (s.sendMop m dst off acc rel bad) := .ite (From.count (h.bump 1) _) (h.bump 1)

theorem From.sendAcc (h : From o s) (m : MOp) (x : Tiles) (a : Nat) (ty : Ty) (sat sint : Bool) (cols : Nat) (dst : CoreId)
    (doff from_ n : Nat) : From o (s.sendAcc m x a ty sat sint cols dst doff from_ n).1 :=
  From.foldlFst (r := (s, (0 : BitVec 6))) h (fun _ _ hr => hr.sendMop ..) _

theorem From.execMatrixExecute (h : From o s) (mop : Nat) : FromOut o (execMatrixExecute mop s) := by
  unfold Machine.execMatrixExecute
  split
  · exact .next h
  · next m _ =>
    refine .ite (.next h) ?_
    have hmem (x : Tiles) : FromOut o (if !s.issuerReady m.uid m.id then .next s else
        match Machine.memMop m x s (s.mopTime m) with
        | .ok s t bad => .next (s.finishMop m t 0 bad)
        | .fault s t _ _ => .next (s.finishMop m t 0 true)
        | .wait h => .next (s.askHold m.asCmd h)) := by
      refine .ite (.next h) ?_
      have hx := h.memMop m x (s.mopTime m)
      split
      · next t u bad ht => exact .next (From.finishMop (hx.ok t u bad ht) ..)
      · next t u k v ht => exact .next (From.finishMop (hx.fault t u k v ht) ..)
      · exact .next (h.askHold ..)
    extract_lets x
    split
    · exact .next h
    · exact .next h
    · extract_lets left t n r u
      have hr : From o r.1 := h.sendAcc ..
      have hu : From o u := hr.updMop ..
      exact .ite (.next h) (.next (.ite hu hu))
    · exact hmem _
    · exact hmem _
    · exact hmem _
    · split
      · exact .next (From.finishMop (h.setTiles _) ..)
      · exact .next h

theorem From.execAccsendFlag (h : From o s) (mop : Nat) : FromOut o (execAccsendFlag mop s) := by
  unfold Machine.execAccsendFlag
  split
  · exact .next h
  · split
    · exact .ite (.next h) (.next ((h.sendMop ..).updMop ..))
    · exact .next (.ite h (h.finishMop ..))
    · exact .next h

theorem From.execTwait (h : From o s) (g : Guard) : FromOut o (execTwait g s) :=
  FromOut.issue h (fun c t ht => .ite (.ite (ht.faultAll ..) (ht.waitFor ..)) (.ite (ht.faultAll ..)
    (ht.completeWith c (From.liftPath (s := { t with mdone := t.mdone.filter (·.uid != c.uid) }) ht ..)))) ..

end Sys2Proof.Machine
end

section
/-! What every step keeps: Waymark slots, the control registers, physical memory (12_waymark.md, 06_registers.md, 19_traps.md). -/

namespace Sys2Proof.Machine

open Sys2Proof.Terms

variable {o : Origin} {s t : State}

/-! ### Waymark -/

/-- What the attempt of a lane gives, where it gives a state. -/
theorem Except.map_state {α : Type} {x : Except (BitVec 8) α} {f : α → State} (hx : x.map f = .ok t) : ∃ a, x = .ok a ∧ f a = t := by
  cases x with
  | error e => cases hx
  | ok a => cases hx; exact ⟨a, rfl, rfl⟩

theorem From.setWm (h : From o s) (x : WmSlot) : From o (s.setWm x) := h

theorem From.putG (h : From o s) (c : Ctx) (l : Nat) (d : GReg) (v : Word) : From o (s.putG c l d v) := h.updLane ..

theorem From.wmOpen (h : From o s) (c : Ctx) (l w lmin lmax : Nat) (win : List Word) (total : DWord) (r : State × Word)
    (hr : s.wmOpen c l w lmin lmax win total = .ok r) : From o r.1 := by
  unfold State.wmOpen at hr
  split at hr
  · cases hr
  · split at hr
    · cases hr
    · cases hr
      exact h.setWm _

theorem From.wmExec (h : From o s) {β : Type} {prep : Ctx → State → Nat → LaneIn → State × Chk β}
    {act : Ctx → State → Nat → LaneIn → β → Except (BitVec 8) State} (hprep : ∀ c t l x, From o t → From o (prep c t l x).1)
    (hact : ∀ c t l x b u, From o t → act c t l x b = .ok u → From o u) (os : List Opnd) (ds : List GReg) (c : Ctx) :
    From o (wmExec os ds prep act c s) := by
  unfold Machine.wmExec
  dsimp only
  split
  · exact h.waitFor ..
  · exact h.faultSome ..
  · have hc := h.checkLanes (check := fun s l => prep c s l (c.inputs l os [])) (fun t l ht => hprep c t l _ ht)
    split
    · exact .ite ((hc _).waitFor ..) (((hc _).moveWalks ..).faultSome ..)
    · have hs (ls : List Nat) := From.clearWalkFaults (hc ls) c.uid c.p.mask
      refine .ite ((hs _).completeWith c (From.noteFlight ?_ ..)) (From.faultSome (.ite (hs _) (From.noteFlight ?_ ..)) ..)
      all_goals
        refine From.foldlFst ?_ (fun r x hr => ?_) _
        · exact hs _
        split
        · next u hu => exact hact _ _ _ _ _ u (hr.consumeOps ..) hu
        · exact hr

theorem From.wmLanes (h : From o s) {β : Type} {prep : Ctx → State → Nat → LaneIn → State × Chk β}
    {act : Ctx → State → Nat → LaneIn → β → Except (BitVec 8) State} (hprep : ∀ c t l x, From o t → From o (prep c t l x).1)
    (hact : ∀ c t l x b u, From o t → act c t l x b = .ok u → From o u) (i : Instr) (g : Guard) (os : List Opnd) (ds : List GReg) :
    FromOut o (issue i g s (Machine.wmExec os ds prep act)) :=
  FromOut.issue h (fun _ _ ht => ht.wmExec hprep hact ..) ..

theorem From.wmAct {k : Nat} {f : Ctx → State → Nat → LaneIn → WmSlot → Except (BitVec 8) State} {c : Ctx} {l : Nat}
    {x : LaneIn} {b : Unit} (hf : ∀ w, f c s l x w = .ok t → From o t) (ht : wmAct k f c s l x b = .ok t) : From o t := by
  unfold Machine.wmAct at ht
  split at ht
  · cases ht
  · exact hf _ ht

theorem From.execWmopen (h : From o s) (g : Guard) (lmin lmax : BitVec 6) (d : GReg) (a : Src) :
    FromOut o (execWmopen g lmin lmax d a s) := by
  refine h.wmLanes (fun _ _ _ _ ht => ht) (fun c t l x b u ht hu => ?_) ..
  extract_lets w lo hi at hu
  split at hu
  · cases hu
  · obtain ⟨r, hr, rfl⟩ := Except.map_state hu
    exact (ht.wmOpen _ _ _ _ _ _ _ r hr).putG ..

theorem From.execWmclose (h : From o s) (g : Guard) (a : Src) : FromOut o (execWmclose g a s) :=
  h.wmLanes (fun _ _ _ _ ht => ht) (fun _ _ _ _ _ _ ht hu => From.wmAct (fun _ hw => by cases hw; exact ht.setWm _) hu) ..

theorem From.execWmapp (h : From o s) (g : Guard) (k1 : BitVec 3) (a b : Src) : FromOut o (execWmapp g k1 a b s) :=
  h.wmLanes (fun _ _ _ _ ht => ht) (fun _ _ _ _ _ _ ht hu => From.wmAct (fun _ hw => by cases hw; exact ht.setWm _) hu) ..

theorem From.execWmprop (h : From o s) (g : Guard) (dc1 : BitVec 3) (d : GReg) (a : Src) (b : GReg) :
    FromOut o (execWmprop g dc1 d a b s) := by
  unfold Machine.execWmprop
  extract_lets
  refine h.wmLanes (fun _ _ _ _ ht => ht) (fun _ _ _ _ _ _ ht hu => From.wmAct (fun _ hw => ?_) hu) ..
  cases hw
  exact (ht.updLane ..).bump 1

theorem From.execWmpropCompletion (h : From o s) (op : Nat) : FromOut o (execWmpropCompletion op s) := by
  unfold Machine.execWmpropCompletion
  split
  · split
    · exact .next (From.updLane (s := { s with pendings := _ }) h ..)
    · exact .next h
  · exact .next h

theorem From.execWmlen (h : From o s) (g : Guard) (f : WmField) (d : GReg) (a : Src) : FromOut o (execWmlen g f d a s) :=
  h.wmLanes (fun _ _ _ _ ht => ht) (fun _ _ _ _ _ _ ht hu => From.wmAct (fun _ hw => by cases hw; exact ht.putG ..) hu) ..

theorem From.wmownLane {q : Owned} (h : From o q.1) (a b : Src) (c : Ctx) (l : Nat) : From o (wmownLane a b c q l).1 := by
  unfold Machine.wmownLane
  extract_lets os x bad
  refine .iteFst h ?_
  split
  · exact h
  · split
    · exact h
    · exact h
    · exact h
    · exact .iteFst ((h.consumeOps ..).setWm _) h

theorem From.wmownExec (h : From o s) (a b : Src) (c : Ctx) : From o (wmownExec a b c s) := by
  have hq (ls : List Nat) : From o (ls.foldl (Machine.wmownLane a b c) (s, [], none)).1 :=
    From.foldlFst (r := (s, ([], none))) h (fun _ _ hr => From.wmownLane hr ..) ls
  unfold Machine.wmownExec
  dsimp only
  split
  · exact h.waitFor ..
  · exact h.faultSome ..
  · split
    · exact .ite (h.waitFor ..) (h.faultSome ..)
    · exact .ite (h.completeWith c (hq _)) (From.faultSome (.ite h (hq _)) ..)

theorem From.execWmown (h : From o s) (g : Guard) (a b : Src) : FromOut o (execWmown g a b s) :=
  FromOut.issue h (fun _ _ ht => ht.wmownExec ..) ..

theorem From.execWmsave (h : From o s) (g : Guard) (close : Bool) (lease : BitVec 3) (base : Src) (off : BitVec 16) (k : Src) :
    FromOut o (execWmsave g close lease base off k s) := by
  refine h.wmLanes (fun c t l x ht => ?_) (fun c t l x b u ht hu => ?_) ..
  · dsimp only
    split
    · exact ht
    · exact .iteFst ht ((ht.placeCheck ..).chkThen fun _ _ hv => (hv.writeCheck ..).chkThen fun _ _ hw => hw)
  · dsimp only at hu
    split at hu
    · cases hu
    · cases hu
      exact .ite ((ht.sendStore ..).setWm _) (ht.sendStore ..)

theorem From.wmRead (h : From o s) (c : Ctx) (l : Nat) (va : DWord) (lease n : Nat) : From o (State.wmRead c l va lease n s).1 := by
  induction n generalizing s with
  | zero => exact h
  | succ k ih =>
    unfold State.wmRead
    split
    · exact h
    · next r _ =>
      have hread (a : DWord) (n align : Nat) := (h.placeCheck c { need := .rd, align := align } a n).chkThen
        (f := fun s segs => s.poisonCheck c segs a (some l)) fun t segs ht => ht.poisonCheck ..
      extract_lets stop read fuel n
      have hstep (a : DWord) (n align : Nat) : From o (read a n align).1 := by
        have ht := hread a n align
        unfold read
        split
        · next heq => rw [heq] at ht; exact ht
        · next heq => rw [heq] at ht; exact ht
        · next heq => rw [heq] at ht; exact ht
        · next heq => rw [heq] at ht; exact ih (From.presentAll (From.updLoad (ht.elemPieces ..) ..) _)
      refine .iteFst (hstep ..) ?_
      split
      · exact h.presentAll _
      · exact h
      · next hd ps _ =>
        refine .iteFst h (.iteFst h (.iteFst (hstep ..) ?_))
        split
        · exact h.presentAll _
        · exact h
        · exact h

theorem From.execWmload (h : From o s) (g : Guard) (lease : BitVec 3) (d : GReg) (base : Src) (off : BitVec 16) :
    FromOut o (execWmload g lease d base off s) := by
  refine h.wmLanes (fun c t l x ht => ?_) (fun c t l x b u ht hu => ?_) ..
  · exact From.wmRead (ht.openWalk ..) ..
  · obtain ⟨r, hr, rfl⟩ := Except.map_state hu
    exact (ht.wmOpen _ _ _ _ _ _ _ r hr).putG ..

/-! ### The control registers -/

theorem From.execMfc (h : From o s) (g : Guard) (idx : BitVec 12) (d : MfcDst) : FromOut o (execMfc g idx d s) := by
  unfold Machine.execMfc
  extract_lets v
  refine FromOut.issue h (fun c t ht => ?_) ..
  dsimp only
  refine .ite (ht.waitFor ..) (.ite (ht.faultAll ..) ?_)
  split
  · exact ht.laneExec ..
  · exact ht.laneExec ..
  · exact ht.busyExec (fun _ _ hu => hu.laneExec ..) ..

theorem From.cregLane (h : From o s) (uid l idx : Nat) (v : DWord) : From o (s.cregLane uid l idx v) := by
  unfold State.cregLane
  split
  · exact h
  · exact h.updLane ..

theorem From.cregOnce (h : From o s) (uid : Nat) (act : Bool) (priv : Priv) (idx : Nat) (v : DWord) :
    From o (s.cregOnce uid act priv idx v) := by
  unfold State.cregOnce
  split
  · exact h
  · next a _ =>
    have hupd {f : Agent → Agent} (hf : ∀ a, (f a).tag = a.tag) := h.updAgent hf uid
    have hframe (f : Frame → Frame) := h.updAgent (f := fun a => { a with frame := f a.frame }) (fun _ => rfl) uid
    extract_lets upd frame job
    refine .ite (hupd fun a => tag_setLoops ..) (.ite ?_ ?_)
    · have htd := h.writeTd a.place.coreId (idx - 0x020) v
      generalize s.writeTd a.place.coreId (idx - 0x020) v = x at htd
      cases x with
      | ok t => exact htd
      | error e => exact h
    split
    · exact hupd fun _ => rfl
    · exact hupd fun _ => rfl
    · exact hupd fun _ => rfl
    · exact hupd fun _ => rfl
    · exact h
    · exact h
    · exact hupd fun a => tag_setLoops ..
    · have hprog := h.writeProg a.place.coreId v
      generalize s.writeProg a.place.coreId v = x at hprog
      cases x with
      | ok t => exact hprog
      | error e => exact h
    · exact h
    · exact hframe fun f => { f with epc := v }
    · exact hframe fun f => { f with cause := v.extractLsb' 0 8 }
    · exact hframe fun f => { f with tval := v }
    · exact hframe fun f => { f with srrb := v.extractLsb' 20 4, ppriv := if v.extractLsb' 0 2 = 0 then .user else if v.extractLsb' 0 2 = 1 then .super else f.ppriv }
    · exact hupd fun _ => rfl
    · exact h
    · exact h
    · exact h
    · exact .ite h h
    · exact .ite h h
    · exact h
    · exact h

theorem From.execMtc (h : From o s) (g : Guard) (w32 : Bool) (idx : BitVec 12) (a : Src) : FromOut o (execMtc g w32 idx a s) := by
  unfold Machine.execMtc
  extract_lets x n
  refine h.memLanes (fun _ _ _ _ ht => ?_) (fun _ _ _ _ ht => .ite ((ht.cregLane ..).cregOnce ..) (ht.cregLane ..)) ..
  split
  · exact ht
  · exact ht

theorem From.execRole (h : From o s) (g : Guard) (r : Role) : FromOut o (execRole g r s) :=
  FromOut.issue h (fun c _ ht => ht.completeWith c (ht.updAgent (fun a => by split <;> rfl) _)) ..

theorem From.execEvsel (h : From o s) (cluster k : Nat) (v : DWord) : FromOut o (execEvsel cluster k v s) := .next (h.evselWrite ..)

theorem From.execLtimeWrite (h : From o s) (unit lane : Nat) (v : DWord) :
    FromOut o (execLtimeWrite unit lane v s) := .next (h.cregLane ..)

theorem From.needJob (h : From o s) (j : Nat) : From o (s.needJob j) := .ite h h

theorem From.execClgrantWrite (h : From o s) (job : Nat) (v : DWord) :
    FromOut o (execClgrantWrite job v s) := .next ((h.needJob _).updJob ..)

theorem From.execClmaskWrite (h : From o s) (job : Nat) (v : DWord) : FromOut o (execClmaskWrite job v s) := .next (h.updJob ..)

theorem From.execLeasesWrite (h : From o s) (job : Nat) (hi : Bool) (v : DWord) : FromOut o (execLeasesWrite job hi v s) :=
  .next (h.updJob ..)

theorem From.jobReg (h : From o s) (job idx : Nat) (v : DWord) : From o (s.jobReg job idx v) := (h.needJob _).updJob ..

theorem From.execRegisterWrite (h : From o s) (unit lane : Nat) (idx : BitVec 12) (v : DWord) :
    FromOut o (execRegisterWrite unit lane idx v s) := by
  unfold Machine.execRegisterWrite
  extract_lets n
  refine .ite (.next h) (.ite (.next (h.jobReg ..)) ?_)
  split
  · exact .next h
  · exact .ite (.next h) (.next ((h.cregLane ..).cregOnce ..))

/-! ### Physical memory -/

theorem From.physReadLine (h : From o s) (cluster line : Nat) : FromAtFst o (s.physReadLine cluster line) := by
  unfold State.physReadLine
  split
  · exact .error _
  · next t _ _ _ ht => exact .ok ((h.loadNow ..).out t _ ht)

theorem From.physRead (h : From o s) (cluster line n : Nat) : FromAtFst o (State.physRead cluster line n s) := by
  induction n generalizing s line with
  | zero => exact .ok h
  | succ n ih =>
    unfold State.physRead
    split
    · exact .error _
    · next t x ht =>
      split
      · exact .error _
      · next u y hu => exact .ok ((ih ((h.physReadLine ..).out t _ ht) _).out u _ hu)

theorem FromAt.foldl {α : Type} {f : State → α → AtHome State} (h : From o s) (hf : ∀ t x, From o t → FromAt o (f t x)) (xs : List α) :
    FromAt o (xs.foldl (fun r x => match r with | .error l => .error l | .ok t => f t x) (.ok s)) := by
  suffices ∀ r, FromAt o r → FromAt o (xs.foldl (fun r x => match r with | .error l => .error l | .ok t => f t x) r) from this _ (.ok h)
  induction xs with
  | nil => exact fun r hr => hr
  | cons x xs ih =>
    intro r hr
    refine ih _ ?_
    cases r with
    | error l => exact .error l
    | ok t => exact hf t x (hr.out t rfl)

theorem From.physWriteLine (h : From o s) (cluster line : Nat) (xs : List (Nat × Chunk)) :
    FromAt o (s.physWriteLine cluster line xs) := by
  have hr := FromAt.foldl (f := fun t x => (t.storeNow cluster line (t.ctimeOf cluster) (16 * x.1) x.2.bytes x.2.bad).map (·.1)) h
    (fun t x ht => by
      rcases hq : t.storeNow cluster line (t.ctimeOf cluster) (16 * x.1) x.2.bytes x.2.bad with l | q
      · exact .error l
      · exact .ok ((ht.storeNow ..).out q.1 q.2 hq)) xs
  unfold State.physWriteLine
  refine .ite (.error _) (.ite (.ok h) ?_)
  extract_lets r
  replace hr : FromAt o r := hr
  clear_value r
  split
  · exact .error _
  · next t => exact .ok (.ite (hr.out t rfl) ((hr.out t rfl).writeBackNow ..))

theorem From.physWrite (h : From o s) (cluster pa : Nat) (xs : List (Nat × Chunk)) : FromAt o (s.physWrite cluster pa xs) :=
  FromAt.foldl h (fun _ _ ht => ht.physWriteLine ..) _

end Sys2Proof.Machine
end

section
/-! What every step keeps: slots, the Inn and moves (15_travellers.md R331-R345, 17_isa_control.md R370-R377). -/

namespace Sys2Proof.Machine

open Sys2Proof.Terms

variable {o : Origin} {s t : State}

/-! ### Slots -/

theorem From.writeCoachFaults (h : From o s) : From o s.writeCoachFaults := by
  refine From.foldl (s := { s with coachFaults := [] }) h (fun t u ht => ?_) _
  dsimp only
  split
  · exact ht
  · next a _ =>
    split
    · next r hr =>
      have hstored : From o r.1 := by
        split at hr
        · exact (ht.storeNow ..).out r.1 r.2 hr
        · cases hr
          exact ht
      exact .ite (hstored.writeBackNow ..) hstored
    · exact ht.nudge _

theorem From.claimSlot (h : From o s) (p : Place) (job : Nat) : From o (s.claimSlot p job) := .ite (h.zeroLocal ..) h

theorem From.pickContext (h : From o s) (c : CoreId) : From o (s.pickContext c).1 :=
  h.chooseNat (s.freeContexts c).length

theorem From.writeSwap (h : From o s) (uid area : Nat) : From o (s.writeSwap uid area) := by
  unfold State.writeSwap
  split
  · exact h
  · next a ha => exact (h.putLbytes ..).setAgent ((h.known ha).of_tag rfl)

/-! ### Gang calls -/

theorem From.noteRooms (h : From o s) (cluster : Nat) : From o (s.noteRooms cluster) := h

theorem From.seat (h : From o s) (w : RoomWait) : FromOpt o (s.seat w) := by
  unfold State.seat
  have hseated := h.updAgent (f := fun a => if a.wide then a else { a with status := .inInn }) (fun a => by split <;> rfl) w.caller.uid
  dsimp only
  split
  · exact .some hseated
  · split
    · exact .some hseated
    · exact .none

theorem From.seatWaiters (h : From o s) (cluster : Nat) : From o (s.seatWaiters cluster) := by
  refine h.foldl (fun t w ht => ?_) _
  split
  · next u hu => exact (ht.seat w).out u hu
  · exact ht

theorem From.leaveInn (h : From o s) (uid l : Nat) : From o (s.leaveInn uid l) := by
  unfold State.leaveInn
  extract_lets mine rooms freed seated left cleared out
  have hleft : From o cleared := From.updLane (s := left) h ..
  exact From.foldl (.ite (hleft.updAgent (fun a => tag_mapPaths ..) _) hleft) (fun _ _ h => h.seatWaiters _) _

theorem From.duePart (h : From o s) (c : Ctx) (l : Nat) : From o (s.duePart c l).1 := by
  refine .iteFst h ?_
  split
  · exact h
  · split
    · exact h
    · exact h

theorem From.lowReady (h : From o s) (c : Ctx) (l n : Nat) : From o (s.lowReady c l n).1 := h

theorem From.callCheck (h : From o s) (c : Ctx) (l : Nat) (addr : DWord) (key : Word) : From o (s.callCheck c l addr key).1 := by
  refine .iteFst h ((h.heldPeek ..).chkThen fun t bs ht => ?_)
  split
  · exact ht
  · exact .iteFst ht ((ht.duePart ..).chkThen fun _ _ hu => (hu.releaseCheck ..).chkThen fun _ _ hv => (hv.lowReady ..).chkThen fun _ _ hw => hw)

theorem From.park (h : From o s) (c : Ctx) (os : List Opnd) (l : Nat) (r : Leaf × Word) : From o (s.park c os l r) := by
  unfold State.park
  extract_lets dropped lane parked w
  have hparked : From o parked := (((h.dropHeld ..).acquireTokens ..).updLane ..).updPath ..
  split
  · next u hu => exact (hparked.seat w).out u hu
  · exact hparked

theorem From.gangExec (h : From o s) (same : Bool) (a b : Src) (c : Ctx) : From o (gangExec same a b c s) := by
  unfold Machine.gangExec
  extract_lets os st good addrs wait
  exact .ite (h.faultAll ..) (.ite (.ite (h.faultAll ..) (h.faultSome ..))
    ((h.parkExec _ _ _ (fun _ _ _ _ ht => ht.callCheck ..) (fun _ _ _ _ ht => ht.park ..) c).noteRooms _))

theorem From.execGcall (h : From o s) (g : Guard) (a b : Src) : FromOut o (execGcall g a b s) :=
  FromOut.issue h (fun _ _ ht => ht.gangExec ..) ..

theorem From.execGcalli (h : From o s) (g : Guard) (a b : Src) : FromOut o (execGcalli g a b s) :=
  FromOut.issue h (fun _ _ ht => ht.gangExec ..) ..

theorem From.execRoomLimit (h : From o s) (cluster room : Nat) :
    FromOut o (execRoomLimit cluster room s) := .next (.ite (h.noteRooms _) h)

/-! ### Returns -/

theorem tag_level (a : Agent) (m : Mask) : (a.level m).tag = a.tag := tag_of_pathsMoved (Laws.pathsMoved_level ..)

theorem From.finishCall (h : From o s) (uid : Nat) (b : Bool) : From o (s.finishCall uid b) := by
  unfold State.finishCall
  split
  · exact h
  · next a ha =>
    split
    · exact h
    · refine .ite ?_ h
      have hlevel (m : Mask) := (h.known ha).of_tag (tag_level a m)
      dsimp only
      refine .ite ((h.setAgent (hlevel _)).clashFault _) ?_
      exact ((h.setAgent ((hlevel _).of_tag (tag_of_pathsMoved (Laws.pathsMoved_backEdge ..)))).updPath ..).settle _

theorem From.giveBack (h : From o s) (cu cl : Nat) (vals : List Word) (t : DWord) : From o (s.giveBack cu cl vals t) := by
  unfold State.giveBack
  split
  · exact h
  · next c _ =>
    extract_lets lane back done
    have hback : From o back := by
      refine From.updAgent (s := lane) (h.updLane ..) (fun a => ?_) cu
      rfl
    have hdone : From o done := (hback.finishCall ..).finishCall ..
    refine .ite h (.ite ?_ hdone)
    split
    · exact hdone
    · split
      · next u hu => exact (hdone.physWrite ..).out u hu
      · exact hdone

theorem From.recordReady (h : From o s) (c : Ctx) (l : Nat) : From o (s.recordReady c l).1 := by
  unfold State.recordReady
  split
  · exact h
  · split
    · split
      · exact h
      · exact h.nudge _
    · exact h

theorem From.endExec (h : From o s) {check : Ctx → State → Nat → State × Chk Unit} {perform : Ctx → State → Nat → State} {c : Ctx}
    (hcheck : ∀ t l, From o t → From o (check c t l).1) (hperform : ∀ t l, From o t → From o (perform c t l)) :
    From o (endExec check perform c s) := by
  unfold Machine.endExec
  extract_lets r fs out m src c' dropped ended
  have hdropped : From o dropped := From.dropLanes (From.foldl (h.checkLanes hcheck _) (fun t l ht => hperform t l ht) _) ..
  refine From.retireIfEmpty (.ite hdropped (.ite (hdropped.faultSome ..) ?_)) _
  split
  · exact hdropped.waitFor ..
  · exact hdropped.completeWith c' hdropped

theorem From.endHandler (h : From o s) (uid : Nat) : From o (s.endHandler uid) := by
  refine h.updAgent (fun a => ?_) uid
  rfl

theorem From.execRetg (h : From o s) (g : Guard) : FromOut o (execRetg g s) := by
  refine FromOut.issue h (fun c t ht => ?_) ..
  extract_lets co f ended
  refine .ite (ht.faultAll ..) (.ite ?_ (ht.endExec (fun u l hu => ?_) fun u l hu => ?_))
  · have hended : From o ended := ht.endExec (fun _ _ hu => hu.releaseCheck ..) fun _ _ hu => hu.leaveCoach ..
    split
    · exact .ite (hended.endHandler _) hended
    · exact hended
  · exact (hu.duePart ..).chkThen fun _ _ hv => (hv.releaseCheck ..).chkThen fun _ _ hw =>
      .iteFst ((hw.lowReady ..).chkThen fun _ _ hx => hx.recordReady ..) hw
  · have hlevel := (hu.acquireTokens c l (lowRegs 8)).levelAll c.uid l
    dsimp only
    split
    · exact hlevel.giveBack ..
    · exact hlevel

theorem From.execInnflush (h : From o s) : FromOut o (execInnflush s) := FromOut.issue h (fun c _ ht => ht.completeWith c ht) ..

/-! ### Moves -/

theorem From.countRoute (h : From o s) (cluster : Nat) (e : Option Nat) : From o (s.countRoute cluster e) := by
  cases e with
  | none => exact h
  | some e => exact h

theorem From.maskCheck (h : From o s) (c : Ctx) (d : Nat) : From o (s.maskCheck c d).1 := h

theorem From.destCheck (h : From o s) (c : Ctx) (d : Nat) : From o (s.destCheck c d).1 := .iteFst h h

theorem From.homeCheck (h : From o s) (c : Ctx) : From o (s.homeCheck c).1 := .iteFst h h

theorem From.moveCheck (h : From o s) (c : Ctx) (l : Nat) : From o (s.moveCheck c l).1 :=
  (h.duePart ..).chkThen fun _ _ ht => ht.releaseCheck ..

theorem From.ship (h : From o s) (c : Ctx) (cluster : Nat) (toHome : Bool) (e : Option Nat) :
    From o (s.ship c cluster toHome e) := by
  have hleft := h.updAgent (f := fun a => { a with
    status := .travelling, carry := (List.range 128).map fun i => s.lword c.a.place.coreId (0x400 * c.a.place.ctx + i),
    slotA := a.slotA.map fun q => { q with buf := [] } }) (fun _ => rfl) c.uid
  exact hleft.bump 1

theorem From.moveTo (h : From o s) (c : Ctx) (l d : Nat) :
    From o (Machine.chkThen (s.moveCheck c l) fun s _ => s.destCheck c d).1 :=
  (h.moveCheck ..).chkThen fun _ _ ht => ht.destCheck ..

theorem From.execMigrate (h : From o s) (g : Guard) (a : Src) : FromOut o (execMigrate g a s) :=
  FromOut.issue h (fun c _ ht => .ite (ht.faultAll ..) (ht.memExec (fun _ _ _ _ hu => hu.moveTo ..)
    (fun _ _ _ _ hu => .ite hu (hu.ship ..)) _ _ _ c)) ..

theorem From.execRoute (h : From o s) (g : Guard) (a b : Src) : FromOut o (execRoute g a b s) := by
  unfold Machine.execRoute
  refine FromOut.issue h (fun c t ht => .ite (ht.faultAll ..) (ht.memExec (fun c u l x hu => ?_)
    (fun _ _ _ _ hu => .ite (hu.countRoute ..) (hu.ship ..)) ..)) ..
  dsimp only
  split
  · exact hu
  refine (hu.heldPeek ..).chkThen fun v bs hv => ?_
  split
  · exact hv.dropHeld ..
  have hmove := hv.moveTo c l (routeDest (wordAt bs 0) (x.w 0) (x.w 1))
  generalize Machine.chkThen (v.moveCheck c l) _ = q at hmove ⊢
  obtain ⟨w, r⟩ := q
  cases r with
  | wait k => exact hmove
  | ok d => exact From.dropHeld hmove ..
  | fault x t u => exact From.dropHeld hmove ..
  | due d => exact From.dropHeld hmove ..

theorem From.execRethome (h : From o s) (g : Guard) : FromOut o (execRethome g s) :=
  FromOut.issue h (fun c _ ht => .ite (ht.faultAll ..) (ht.memExec (fun _ _ _ _ hu => (hu.moveCheck ..).chkThen fun _ _ hv => hv.homeCheck _)
    (fun _ _ _ _ hu => .ite hu (hu.ship ..)) _ _ _ c)) ..

theorem From.settleIn (h : From o s) {a : Agent} (ha : Known o a) (p : Place) : From o (s.settleIn a p) := by
  unfold State.settleIn
  extract_lets claimed carried lanes
  have hcarried : From o carried := (h.claimSlot ..).foldl (fun _ _ h => h.setLword ..) _
  have hlanes : lanes.length = a.lanes.length := by
    unfold lanes
    split
    · exact List.length_map ..
    · exact List.length_map ..
  exact hcarried.setAgent (ha.of_tag (tag_lanes a hlanes))

theorem From.execMigrationArrival (h : From o s) (mig : Nat) : FromOut o (execMigrationArrival mig s) := by
  unfold Machine.execMigrationArrival
  split
  · exact .next h
  · next m _ =>
    extract_lets off queue
    have hoff {u : State} (hu : From o u) : From o (off u) := hu
    split
    · exact .next (hoff h)
    · next a ha =>
      have hknown := h.known ha
      refine .ite (.next ((hoff h).settleIn hknown _)) ?_
      split
      · exact .next (((hoff h).settleIn hknown _).countRoute ..)
      · split
        · exact .next (h.nudge _)
        · next u hu =>
          have harrived := (hoff ((h.physWrite ..).out u hu)).setAgent (hknown.of_tag (b := { a with status := .arrived }) rfl)
          refine .next (From.countRoute ?_ ..)
          exact harrived

theorem From.execArrivalPlacement (h : From o s) (cluster core slot : Nat) :
    FromOut o (execArrivalPlacement cluster core slot s) := by
  unfold Machine.execArrivalPlacement
  split
  · exact .next h
  · dsimp only
    refine .ite (.next h) ?_
    split
    · exact .next h
    · next a ha =>
      have hknown : Known o a := From.known (s := { s with arrivals := _ }) h ha
      split
      · refine .next (From.settleIn ?_ hknown _)
        exact h
      · refine .next (From.fillRegs (From.settleIn ?_ ?_ _) ..)
        · exact h
        · exact hknown.of_tag rfl

theorem From.execRouteset (h : From o s) (g : Guard) (a b : Src) : FromOut o (execRouteset g a b s) := by
  unfold Machine.execRouteset
  extract_lets x
  exact h.memLanes (fun _ _ _ _ ht => .iteFst ht ((ht.storeCheck ..).chkThen fun _ _ hu => hu)) (fun _ _ _ _ ht => ht.sendStore ..) ..

theorem From.execRcsnap (h : From o s) (g : Guard) (lease : BitVec 3) (base : Src) (off : BitVec 16) :
    FromOut o (execRcsnap g lease base off s) := by
  refine FromOut.issue h (fun c t ht => ?_) ..
  extract_lets l va lo core
  refine .ite (ht.completeWith c ht) (.ite (ht.waitFor ..) ?_)
  split
  · exact ht.waitFor ..
  · exact ht.faultAll ..
  · exact ht.faultAll ..
  · have hplace := (ht.placeCheck c { need := .wr, align := 16, localOnly := true } va 4096).chkThen
      (f := fun s segs => s.ownWriteCheck c segs) fun _ _ hu => hu.ownWriteCheck ..
    split
    · next heq => rw [heq] at hplace; exact hplace.waitFor ..
    · next heq => rw [heq] at hplace; exact hplace.faultAll ..
    · next heq => rw [heq] at hplace; exact hplace.faultAll ..
    · next u segs heq =>
      rw [heq] at hplace
      refine .ite (hplace.clashFault _) ?_
      extract_lets read bytes cleared
      have hcleared : From o cleared := hplace.consumeOps ..
      split
      · exact (hcleared.putLbytes ..).complete _
      · exact .ite ((hcleared.putLbytes ..).complete _) (((hcleared.sendRemote ..).updPath ..).waitFor ..)
      · exact hcleared.complete _

end Sys2Proof.Machine
end

section
/-! What every step keeps: levels, cancel, and the ends of units (18_scheduling.md R393-R405, 17_isa_control.md R378-R383). -/

namespace Sys2Proof.Machine

open Sys2Proof.Terms

variable {o : Origin} {s t : State}

/-! ### Counters and levels -/

theorem From.assignTurn (h : From o s) (num job : Nat) : From o (s.assignTurn num job) := .ite h (.ite h h)

theorem From.updCounter (h : From o s) (num : Nat) (f : Counter → Counter) : From o (s.updCounter num f) := h

theorem From.fire (h : From o s) (num : Nat) (cancelled : Bool) (t : DWord) : From o (s.fire num cancelled t) := h.updCounter ..

theorem From.updQueue (h : From o s) (q : Nat) (f : Queue → Queue) : From o (s.updQueue q f) := h

theorem From.interrupt (h : From o s) (q : Nat) : From o (s.interrupt q) := by
  unfold State.interrupt
  split
  · exact h
  · exact h

theorem From.finishCommand (h : From o s) (queue : Nat) (phase : Option Nat) (counter : Nat) (cancelled irq : Bool) (t : DWord) :
    From o (s.finishCommand queue phase counter cancelled irq t) := by
  have hfired := (h.fire counter cancelled t).updQueue queue fun q => { q with time := tmax q.time t }
  refine From.ite (From.interrupt ?_ _) ?_ <;> exact hfired

theorem From.tidy (h : From o s) : From o s.tidy := by
  unfold State.tidy
  extract_lets graphs phases
  have hgraphs : From o graphs := h.foldl (fun t g ht => .ite (by refine From.finishCommand ?_ ..; exact ht) ht) _
  have hphases : From o phases := by
    refine hgraphs.foldl (fun t p ht => ?_) _
    have hfired : From o (State.fire { t with phases := t.phases.filter (·.id != p.id) } p.counter p.cancelled p.time) := by
      refine From.fire ?_ ..
      exact ht
    exact .ite (.ite (hfired.interrupt _) hfired) ht
  refine hphases.foldl (fun t j ht => .ite ?_ ht) _
  have hfired (l : List Phase) := (ht.foldl (f := fun s p => s.fire p.counter true p.time) (fun _ _ h => h.fire ..) l)
  exact hfired _

/-! ### Cancel -/

theorem From.dropArrival (h : From o s) (w : Arrival) : From o (s.dropArrival w) := by
  unfold State.dropArrival
  extract_lets dropped told
  have htold : From o told := by
    unfold told
    split
    · exact From.fillRegs (s := dropped) h ..
    · exact h
  split
  · next a ha => exact htold.retire (htold.known ha)
  · exact htold

theorem From.cancelLaunches (h : From o s) (ns : List Nat) : From o (s.cancelLaunches ns) := by
  unfold State.cancelLaunches
  extract_lets hit marked dropped pc out
  have hdropped : From o dropped := From.foldl (s := marked) h (fun _ _ h => h.dropArrival _) _
  refine hdropped.mapUnits fun a => ?_
  split
  · exact tag_lanes a List.length_mapIdx
  · split
    · rfl
    · rfl

theorem From.cancelLevels (h : From o s) (inL : Launch → Bool) (inG : Graph → Bool) (inP : Phase → Bool) :
    From o (s.cancelLevels inL inG inP) := by
  refine From.cancelLaunches ?_ _
  exact h

theorem From.cancelLaunch (h : From o s) (n : Nat) : From o (s.cancelLaunch n) := h.cancelLevels ..

theorem From.cancelGraph (h : From o s) (n : Nat) : From o (s.cancelGraph n) := h.cancelLevels ..

theorem From.cancelPhase (h : From o s) (n : Nat) : From o (s.cancelPhase n) := h.cancelLevels ..

theorem From.cancelJob (h : From o s) (j : Nat) : From o (s.cancelJob j) := (h.updJob ..).cancelLevels ..

theorem From.execCancel (h : From o s) (g : Guard) (level : Level) : FromOut o (execCancel g level s) := by
  refine FromOut.issue h (fun c t ht => .ite (ht.faultAll ..) (.ite (ht.clashFault _) ?_)) ..
  refine From.complete (From.tidy ?_) _
  split
  · exact ht.cancelJob _
  · exact ht.cancelLaunch _
  · split
    · exact ht.cancelGraph _
    · exact ht.cancelLaunch _
  · split
    · exact ht.cancelPhase _
    · exact ht
  · exact ht

theorem From.actCancel (h : From o s) (uid : Nat) (b : Bool) : FromOpt o (s.actCancel uid b) := by
  unfold State.actCancel
  split
  · exact .none
  · next a0 _ =>
    refine .ite .none ?_
    have hleft (l : List Nat) := (h.withdraw uid a0.live).foldl (f := fun s l => s.leaveInn uid l) (fun _ _ h => h.leaveInn ..) l
    dsimp only
    split
    · next a pc _ _ =>
      refine .ite .none ?_
      split
      · exact .none
      · next a1 ha1 =>
        have hknown : Known o a1 := (hleft (Mask.list a.live)).known ha1
        refine .ite (.some (From.retire (From.setAgent ?_ ?_) ?_)) (.some (From.setAgent ?_ ?_))
        · exact hleft _
        · exact hknown.of_tag ((tag_setLoops ..).trans (tag_lanes a1 List.length_mapIdx))
        · exact hknown.of_tag ((tag_setLoops ..).trans (tag_lanes a1 List.length_mapIdx))
        · exact hleft _
        · exact hknown.of_tag ((tag_setLoops ..).trans (tag_lanes a1 List.length_mapIdx))
    · exact .none

theorem From.leaveAt (h : From o s) (uid : Nat) (pc : DWord) (m : Mask) : From o (s.leaveAt uid pc m) := by
  unfold State.leaveAt
  split
  · exact h
  · next a _ =>
    extract_lets left quiet cleared out
    have hleft : From o left := h.foldl (fun _ _ h => h.leaveInn ..) _
    have hcleared : From o cleared := by
      refine From.updAgent (s := quiet) hleft (fun a => ?_) uid
      rfl
    have hout : From o out := hcleared.foldl (fun _ _ h => h.leaveCoach ..) _
    exact (hout.dropLanes ..).retireIfEmpty _

theorem FromOpt.getD {r : Option State} (hr : FromOpt o r) (h : From o s) : From o (r.getD s) := by
  cases r with
  | none => exact h
  | some t => exact hr.out t rfl

theorem From.execCancelPoint (h : From o s) (unit slot : Nat) : FromOut o (execCancelPoint unit slot s) := by
  unfold Machine.execCancelPoint
  extract_lets b
  split
  · exact .next h
  · next a _ =>
    split
    · exact .next h
    · refine .ite (.next h) (.ite (.ite (.next h) ?_) (.ite (.next h) ?_))
      · dsimp only
        split
        · exact .next (h.withdraw ..)
        · exact .next ((h.withdraw ..).leaveAt ..)
      · dsimp only
        split
        · exact .next h
        · exact .ite (.next (h.withdraw ..)) (.next ((h.actCancel ..).getD h))

theorem From.execPoll (h : From o s) : FromOut o (execPoll s) :=
  FromOut.issue h (fun c _ ht => .ite (.ite (ht.completeWith c ht) (.ite (ht.waitFor ..) (.ite (ht.leaveAt ..) (.ite (ht.clashFault _)
    ((ht.complete _).leaveAt ..))))) (.ite (ht.completeWith c ht) ((ht.actCancel ..).getD (ht.waitFor ..)))) ..

theorem From.execYield (h : From o s) : FromOut o (execYield s) := by
  refine FromOut.issue h (fun c t ht => .ite (ht.clashFault _) (.ite ?_ ((ht.complete _).updPath ..))) ..
  refine (ht.complete c).updAgent (fun a => ?_) c.uid
  rfl

/-! ### Ends and beginnings -/

theorem From.endCheck (h : From o s) (c : Ctx) (l : Nat) : From o (s.endCheck c l).1 := by
  refine (h.duePart ..).chkThen fun t _ ht => ?_
  split
  · exact ht
  · refine .iteFst ht ?_
    split
    · exact .ite (ht.clearLost _) ht
    · exact ht

theorem From.execTaskend (h : From o s) : FromOut o (execTaskend s) := by
  refine FromOut.issue h (fun c t ht => .ite (ht.faultAll ..) ?_) ..
  have hended : From o (Machine.endExec (fun c s l => s.endCheck c l) (fun _ s _ => s) c t) :=
    ht.endExec (fun _ _ hu => hu.endCheck ..) fun _ _ hu => hu
  dsimp only
  split
  · exact .ite (hended.endHandler _) hended
  · exact hended

theorem From.knownNew (h : From o s) (hg : o.grows = true) {a : Agent} (ha : a.uid = s.nextId) (hn : a.partner = none) : Known o a :=
  ⟨fun _ => .inr ⟨hg, ha ▸ h.next, hn⟩⟩

theorem From.execSpawn (h : From o s) (hg : o.grows = true) (g : Guard) (d : GReg) (a b : Src) :
    FromOut o (execSpawn g d a b s) := by
  refine FromOut.issue h (fun c t ht => ht.busyExec (fun c u hu => hu.memExec (fun c v l x hv => ?_) (fun c v l r hv => ?_) ..) ..) ..
  · exact (hv.lowReady ..).chkThen fun w _ hw => .iteFst hw (.iteFst hw ((hw.maskCheck ..).chkThen fun _ _ hx => hx))
  · extract_lets la reg ch added queue
    have hadded : From o added := hv.addUnit hg rfl rfl
    refine .ite (hv.fillRegs ..) ?_
    split
    · refine From.fillRegs (hadded.settleIn ?_ _) ..
      exact (hv.knownNew hg (a := ch) rfl rfl).of_tag rfl
    · exact hadded.updLane ..

theorem From.execTaskmk (h : From o s) (g : Guard) (count : BitVec 16) (d : GReg) (a b : Src) :
    FromOut o (execTaskmk g count d a b s) := by
  unfold Machine.execTaskmk
  extract_lets arg
  refine h.onceLanes (fun c t l x ht => ?_) (fun _ _ _ _ ht => ht.sendStore ..) ..
  dsimp only
  split
  · exact ht
  · exact .iteFst ht ((ht.recordCheck ..).chkThen fun _ _ hu => .iteFst hu (.iteFst hu ((hu.writeCheck ..).chkThen fun _ _ hv => hv)))

theorem From.execCntw (h : From o s) (g : Guard) (d : GReg) (a b : Src) : FromOut o (execCntw g d a b s) := by
  refine FromOut.issue h (fun c t ht => ?_) ..
  dsimp only
  split
  · exact ht.waitFor ..
  · exact ht.faultAll ..
  · exact ht.faultAll ..
  · split
    · exact ht.faultAll ..
    · refine .ite (.ite (ht.faultAll ..) (From.waitFor (.ite ht (ht.foldl (fun u l hu => ?_) _)) ..)) (.ite (ht.clashFault _) ?_)
      · exact (hu.updLane ..).bump 1
      · refine From.complete (From.liftPath (From.foldl (From.consumeOps ?_ ..) (fun _ _ h => h.fillRegs ..) _) ..) _
        exact ht

end Sys2Proof.Machine
end

section
/-! What every step keeps: units that start, swapping, launches, graphs and queues (18_scheduling.md R395-R410). -/

namespace Sys2Proof.Machine

open Sys2Proof.Terms

variable {o : Origin} {s t : State}

/-! ### Units that start -/

theorem From.placeUnit (h : From o s) (hg : o.grows = true) (n cluster : Nat) : From o (s.placeUnit n cluster) := by
  unfold State.placeUnit
  split
  · next l p _ _ =>
    extract_lets claimed cleared a
    have hcleared : From o cleared := .ite (h.claimSlot ..) ((h.claimSlot ..).zeroLocal ..)
    exact hcleared.addUnit hg (a := a) rfl rfl
  · exact h

theorem From.swapWhere (h : From o s) {c : Prop} [Decidable c] (uid area : Nat) : From o (if c then s.writeSwap uid area else s) :=
  .ite (h.writeSwap ..) h

theorem From.placeWarp (h : From o s) (hg : o.grows = true) (n cluster core : Nat) : From o (s.placeWarp n cluster core) := by
  unfold State.placeWarp
  split
  · exact h
  · next l _ =>
    extract_lets k r st a src added
    have hadded : From o added := (h.pickContext k).addUnit hg (a := a) rfl rfl
    exact hadded.swapWhere ..

theorem From.execUnitDispatch (h : From o s) (hg : o.grows = true) (launch cluster core slot : Nat) :
    FromOut o (execUnitDispatch launch cluster core slot s) := by
  unfold Machine.execUnitDispatch
  split
  · exact .next h
  · exact .ite (.next h) (.ite (.next (.ite (h.placeWarp hg ..) h)) (.ite (.next h) (.next (h.foldl (fun _ _ h => h.placeUnit hg ..) _))))

theorem nextId_claimSlot (s : State) (p : Place) (job : Nat) : (s.claimSlot p job).nextId = s.nextId := by
  unfold State.claimSlot
  dsimp only
  split
  · rfl
  · rfl

theorem From.execCodeletStart (h : From o s) (hg : o.grows = true) (cluster core slot : Nat) :
    FromOut o (execCodeletStart cluster core slot s) := by
  unfold Machine.execCodeletStart
  extract_lets k p
  split
  · exact .next h
  · next e _ _ =>
    refine .ite (.next h) ?_
    extract_lets w la entry va t t' gv sv a0 a claimed
    have hclaimed : From o claimed := h.claimSlot ..
    have hadded := hclaimed.addUnit hg (a := a) (nextId_claimSlot ..).symm rfl
    exact .next hadded

/-! ### Swapping and quiescence -/

theorem From.swapIn (h : From o s) {a : Agent} (ha : Known o a) : From o (s.swapIn a) := h.setAgent (ha.of_tag rfl)

theorem From.member (h : From o s) {a : Agent} (ha : a ∈ s.agents) : Known o a := ⟨fun hp => (h.units hp).stand a ha⟩

theorem From.execWarpSwap (h : From o s) (cluster core ctxOut area : Nat) :
    FromOut o (execWarpSwap cluster core ctxOut area s) := by
  unfold Machine.execWarpSwap
  extract_lets k
  split
  · exact .next h
  · next b hb =>
    have hknown : Known o b := h.member (List.mem_of_find?_eq_some hb)
    refine .ite (.next (h.swapIn hknown)) ?_
    split
    · exact .next h
    · exact .ite (.next h) (.next ((h.writeSwap ..).swapIn hknown))

theorem From.execQuiescence (h : From o s) (launch : Nat) : FromOut o (execQuiescence launch s) := by
  unfold Machine.execQuiescence
  split
  · exact .next h
  · next l _ =>
    dsimp only
    refine .ite (.next (h.updLaunch ..)) ?_
    split
    · exact .next (h.updLaunch ..)
    · have hreported : From o { s.updLaunch launch fun l => { l with reported := true } with
          reports := (s.updLaunch launch fun l => { l with reported := true }).reports ++ [.quiescent l.queue l.counter] } := h
      have hinterrupted := (hreported.updQueue l.queue fun q => { q with quiet := l.counter }).interrupt l.queue
      refine .ite (.next h) (.next (.ite ?_ ?_)) <;> exact hinterrupted

theorem From.execQuiescenceReport (h : From o s) (cluster core : Nat) : FromOut o (execQuiescenceReport cluster core s) := by
  unfold Machine.execQuiescenceReport
  split
  · split
    · exact .next h
    · refine .ite (.next h) (.next (From.takeTrap ?_ ..))
      exact h
  · exact .next h

/-! ### Commands of queues -/

theorem From.edgeSettle (h : From o s) : From o s.edgeSettle := by
  refine h.foldl (fun t r ht => ?_) _
  dsimp only
  split
  · refine FromOpt.getD (From.homeWritebackAt ?_ ..) ?_ <;> exact ht
  · exact ht

theorem From.edgeRead (h : From o s) (c : Cmd) (va : DWord) (n : Nat) : FromE o (s.edgeRead c va n) := h.eRead ..

theorem From.queueError (h : From o s) (q : Nat) (code : BitVec 8) (head : Word) : From o (s.queueError q code head) := by
  unfold State.queueError
  extract_lets cleared failed
  have hcleared : From o cleared := by
    unfold cleared
    split
    · exact h.clearWalkFaults ..
    · exact h
  exact hcleared

theorem From.headBytes (h : From o s) (q : Queue) : FromAtFst o (s.headBytes q) := by
  unfold State.headBytes
  extract_lets pa
  split
  · exact .error _
  · next t _ _ _ ht => exact .ok ((h.loadNow ..).out t _ ht)

theorem From.finishNow (h : From o s) (x : Queue) (r : CRec) (t : DWord) (cancelled : Bool) :
    From o (s.finishNow x r t cancelled) :=
  (h.finishCommand ..).tidy

theorem From.command (h : From o s) (q op : Nat) {k : State → Queue → CRec → State} (hk : ∀ t x r, From o t → From o (k t x r)) :
    From o (State.command q op k s) := by
  unfold State.command
  split
  · exact h
  · next x _ =>
    refine .ite h ?_
    split
    · exact h.nudge _
    · next t bs bad ht =>
      have hread := (h.headBytes x).out t _ ht
      exact .ite (hread.queueError ..) (.ite hread (.ite (hread.updQueue ..) (.ite hread (.ite ((hread.updQueue ..).finishNow ..)
        (hk _ _ _ (hread.updQueue ..))))))

theorem From.addLaunch (h : From o s) (x : Queue) (phase : Option Nat) (graph : Option (Nat × Nat)) (r : CRec) (n : Nat)
    (clusters : DWord) (t : DWord) : From o (s.addLaunch x phase graph r n clusters t) := h.bump 1

theorem From.startLaunch (h : From o s) (x : Queue) (phase : Option Nat) (graph : Option (Nat × Nat)) (r : CRec) (head : Word)
    {wait : State → State} (hwait : ∀ t, From o t → From o (wait t)) : From o (s.startLaunch x phase graph r head wait) := by
  unfold State.startLaunch
  extract_lets t c
  refine .ite (h.addLaunch ..) ?_
  have hread := h.edgeRead c (r.x 3) 4
  split
  · next u v bs hu => exact (hread.ok u v bs hu).addLaunch ..
  · next u v e w hu => exact ((hread.fault u v e w hu).addLaunch ..).queueError ..
  · exact hwait _ (h.askHold ..)

theorem From.execLaunch (h : From o s) (queue : Nat) : FromOut o (execLaunch queue s) :=
  .next (h.command _ _ fun _ _ _ ht => ht.startLaunch _ _ _ _ _ fun _ hu => hu.updQueue ..)

/-! ### Graphs -/

theorem From.nodeDone (h : From o s) (g n : Nat) (x : NodeState) (t : DWord) : From o (s.nodeDone g n x t) := h

theorem From.readPredicates (h : From o s) (graph n : Nat) : FromE o (State.readPredicates graph n s) := by
  induction n generalizing s with
  | zero => exact .of_ok h _
  | succ n ih =>
    unfold State.readPredicates
    split
    · exact .of_ok h _
    · split
      · next g _ _ _ i ws x _ _ =>
        have hread := h.edgeRead (edgeClient x.id g.job s.edgeTime x.wins) (ws.getD 1 0) 4
        split
        · exact .wait _
        · next u v e w hu => exact ih (((hread.fault u v e w hu).nodeDone ..).queueError ..)
        · next u v bs hu => exact ih ((hread.ok u v bs hu).nodeDone ..)
      · exact .of_ok h _

theorem From.nodeOver (h0 : From o s) (h : From o t) (graph : Nat) {k : State → State} (hk : ∀ u, From o u → From o (k u)) :
    From o (s.nodeOver t graph k) := by
  unfold State.nodeOver
  split
  · exact hk _ h
  · next g _ =>
    have hread := h.readPredicates graph g.nodes.length
    split
    · exact h0.askHold ..
    · exact hk _ h
    · next u v x hu => exact hk _ ((hread.ok u v x hu).updQueue ..)
    · next u v e w hu => exact hk _ ((hread.fault u v e w hu).updQueue ..)

theorem From.execGraph (h : From o s) (queue : Nat) : FromOut o (execGraph queue s) := by
  refine .next (h.command _ _ fun t x r ht => ?_)
  have hback {u : State} (hu : From o u) := hu.updQueue queue fun q => { q with head := x.head, wins := x.wins }
  dsimp only
  refine .ite ((hback ht).queueError ..) ?_
  have hread := ht.edgeRead (edgeClient x.id x.job t.edgeTime x.wins) (r.x 0) (64 * (r.x 1).toNat)
  split
  · exact hback (ht.askHold ..)
  · next u v e w hu => exact (hback (hread.fault u v e w hu)).queueError ..
  · next u v bs hu =>
    have hbytes := hread.ok u v bs hu
    refine .ite ((hback hbytes).queueError ..) ?_
    have hpred (gs : List Graph) (g : Nat) := From.readPredicates (s := { u with graphs := gs, nextId := u.nextId + 1 }) (hbytes.bump 1) g
      (r.x 1).toNat
    split
    · exact hback (hbytes.askHold ..)
    · next w v x hw => exact ((hpred _ _).ok w v x hw).tidy
    · next w v e y hw => exact ((hpred _ _).fault w v e y hw).tidy

theorem From.execNodeRun (h : From o s) (graph node : Nat) : FromOut o (execNodeRun graph node s) := by
  unfold Machine.execNodeRun
  split
  · exact .next h
  · next g _ =>
    split
    · next ws x _ _ =>
      split
      · exact .next h
      · exact .next (h.nodeOver (h.nodeDone ..) _ fun _ hu => hu.tidy)
      · have hread := h.edgeRead (edgeClient x.id g.job s.edgeTime x.wins) (ws.getD 1 0) 64
        dsimp only
        split
        · refine .next ?_
          split
          · exact h.askHold ..
          · next u v e w hu => exact (((hread.fault u v e w hu).updQueue ..).nodeDone ..).queueError ..
          · next u v bs hu =>
            have hused := (hread.ok u v bs hu).updQueue g.queue fun q => { q with wins := [] }
            exact .ite ((hused.nodeDone ..).queueError ..) ((hused.nodeDone ..).startLaunch _ _ _ _ _ fun _ hw => (hw.nodeDone ..).updQueue ..)
        · exact .next (h.nodeOver h _ fun _ hu => hu.tidy)
        · exact .next (h.nodeOver (h.nodeDone ..) _ fun _ hu => hu.tidy)
    · exact .next h

theorem From.flushAll (h : From o s) : From o s.flushAll := h.foldl (fun _ _ h => h.evict ..) _

theorem From.execLaunchCompletion (h : From o s) (launch : Nat) : FromOut o (execLaunchCompletion launch s) := by
  unfold Machine.execLaunchCompletion
  split
  · exact .next h
  · next l _ =>
    refine .ite (.next h) (.ite (.next h.flushAll) ?_)
    extract_lets t s1
    have hleft : From o s1 := h.filterUnits _
    split
    · exact .next (hleft.finishCommand ..).tidy
    · exact .next (h.nodeOver (hleft.nodeDone ..) _ fun u hu => From.tidy (.ite ((hu.fire ..).interrupt _) (hu.fire ..)))

/-! ### The other commands -/

theorem From.execPhase (h : From o s) (queue : Nat) : FromOut o (execPhase queue s) := by
  refine .next (h.command _ _ fun t x r ht => ?_)
  extract_lets ended p opened current
  have hcurrent : From o current := ht.bump 1
  exact From.tidy (.ite (hcurrent.interrupt _) hcurrent)

theorem From.execWait (h : From o s) (queue : Nat) :
    FromOut o (execWait queue s) := .next (h.command _ _ fun _ _ _ ht => ht.finishNow ..)

theorem From.execSignal (h : From o s) (queue : Nat) : FromOut o (execSignal queue s) :=
  .next (h.command _ _ fun _ _ _ ht => (ht.updCounter ..).finishNow ..)

theorem From.execHostCancel (h : From o s) (queue : Nat) : FromOut o (execHostCancel queue s) := by
  refine .next (h.command _ _ fun t x r ht => ?_)
  extract_lets k mine launches graphs phases job
  have hlaunches : From o launches := ht.foldl (fun _ _ h => h.cancelLaunch _) _
  have hgraphs : From o graphs := hlaunches.foldl (fun _ _ h => h.cancelGraph _) _
  have hphases : From o phases := hgraphs.foldl (fun _ _ h => h.cancelPhase _) _
  exact From.finishNow (.ite (hphases.cancelJob _) hphases) ..

theorem From.execHostFence (h : From o s) (queue : Nat) : FromOut o (execHostFence queue s) :=
  .next (h.command _ _ fun _ _ _ ht => ht.finishNow ..)

theorem From.updHostCmd (h : From o s) (id : Nat) (f : HostCmd → HostCmd) : From o (s.updHostCmd id f) := h

theorem From.copyWork (h : From o s) (k : HostCmd) : From o (s.copyWork k).2 := h.grain.chooseNat 2

theorem From.workCopy (h : From o s) (id : Nat) : From o (s.workCopy id) := by
  unfold State.workCopy
  split
  · exact h
  · next k _ =>
    refine .ite h (.ite (.ite h (From.tidy (From.finishCommand ?_ ..))) ?_)
    · exact h
    · extract_lets c w n keep
      have hw : From o w.2 := by
        unfold w
        split
        · exact h
        · exact h.copyWork k
      have hsteps := From.steps (s := n.2) (hw.chooseNat _) c (2 * w.1.todo.length - n.1) w.1 c.time
      have hkeep {u : State} (hu : From o u) (t : DWord) (w : EWork) : From o (keep u t w) := hu.edgeSettle.updHostCmd ..
      split
      · next heq => rw [heq] at hsteps; exact hkeep hsteps ..
      · next heq => rw [heq] at hsteps; exact (hkeep hsteps ..).askHold ..
      · next heq => rw [heq] at hsteps; exact (((hkeep hsteps ..).updHostCmd ..).clearWalkFaults ..).queueError ..

theorem From.startCopy (h : From o s) (queue : Nat) : From o (State.startCopy queue s) := by
  refine h.command _ _ fun t x r ht => ?_
  extract_lets k added
  have hadded : From o added := ht.bump 1
  exact (hadded.workCopy _).workCopy _

theorem From.execHostCopy (h : From o s) (queue : Nat) : FromOut o (execHostCopy queue s) := by
  unfold Machine.execHostCopy
  split
  · exact .next (h.startCopy _)
  · extract_lets n
    have hn : From o n.2 := h.chooseNat _
    split
    · exact .next ((hn.workCopy _).workCopy _)
    · exact .next (hn.startCopy _)

theorem From.execMalformedRecord (h : From o s) (queue : Nat) : FromOut o (execMalformedRecord queue s) := by
  unfold Machine.execMalformedRecord
  split
  · exact .next h
  · next x _ =>
    refine .ite (.next h) ?_
    split
    · exact .next (h.nudge _)
    · next t bs bad ht =>
      have hread := (h.headBytes x).out t _ ht
      exact .next (.ite (hread.queueError ..) hread)

theorem From.execDbell (h : From o s) (queue : Nat) (tail : Word) : FromOut o (execDbell queue tail s) := by
  unfold Machine.execDbell
  split
  · exact .next h
  · exact .ite (.next h) (.ite (.next h) (.ite (.next (h.queueError ..)) (.next (h.updQueue ..))))

theorem From.execQueueEnable (h : From o s) (queue : Nat) (base : DWord) (size job vector : Nat) :
    FromOut o (execQueueEnable queue base size job vector s) := .ite (.next h) (.next (h.bump 1))

theorem From.execQueueReset (h : From o s) (queue : Nat) : FromOut o (execQueueReset queue s) := by
  unfold Machine.execQueueReset
  split
  · exact .next h
  · exact .ite (.next h) (.next h)

end Sys2Proof.Machine
end

section
/-! What every step keeps: units that come from those of a state pair as they do, and the spill engine (18_scheduling.md R408,
19_traps.md R422-R428). -/

namespace Sys2Proof.Machine

open Sys2Proof.Terms

variable {o : Origin} {s t u : State}

/-! ### Pairing -/

/-- What the pairing needs of a coach or shadow wave that has a partner. -/
def Agent.pairPart (a : Agent) : Option (UKind × Nat) :=
  if a.barrel || a.kind == .warp || a.partner.isNone then none else some (a.kind, a.lanes.length)

theorem tag_eq (a : Agent) : a.tag = (a.uid, a.partner, a.pairPart) := rfl

theorem pairPart_of_tag {a b : Agent} (h : a.tag = b.tag) : a.pairPart = b.pairPart := congrArg (·.2.2) h

theorem pairPart_of_pair {a : Agent} {n : Nat} (hk : a.kind = .shadow ∨ a.kind = .coach) (hp : a.partner = some n) :
    a.pairPart = some (a.kind, a.lanes.length) := by
  unfold Agent.pairPart Agent.barrel
  rcases hk with hk | hk <;> simp [hk, hp]

theorem of_pairPart {a : Agent} {x : UKind × Nat} (h : a.pairPart = some x) : a.kind = x.1 ∧ a.lanes.length = x.2 := by
  unfold Agent.pairPart at h
  split at h
  · cases h
  · cases h
    exact ⟨rfl, rfl⟩

theorem widened_tag {a b : Agent} (h : a.tag = b.tag) : a.widened.tag = b.widened.tag := by
  have hpair := pairPart_of_tag h
  rw [tag_eq, tag_eq, show a.widened.uid = a.uid from rfl, show b.widened.uid = b.uid from rfl, uid_of_tag h,
    show a.widened.partner = a.partner from rfl, show b.widened.partner = b.partner from rfl, partner_of_tag h]
  refine congrArg (fun x => (b.uid, b.partner, x)) ?_
  unfold Agent.pairPart at hpair ⊢
  show (if a.barrel || a.kind == .warp || a.partner.isNone then none else some (a.kind, (List.replicate 32 Lane.fresh).length))
    = if b.barrel || b.kind == .warp || b.partner.isNone then none else some (b.kind, (List.replicate 32 Lane.fresh).length)
  split at hpair <;> split at hpair
  · next ha hb => rw [if_pos ha, if_pos hb]
  · cases hpair
  · cases hpair
  · next ha hb =>
    rw [if_neg ha, if_neg hb]
    cases Prod.mk.inj (Option.some.inj hpair) with
    | intro hk _ => rw [hk]

theorem uid_of_tags {a b : Agent} (h : a.tag = b.tag ∨ a.tag = b.widened.tag) : a.uid = b.uid :=
  h.elim uid_of_tag fun h => uid_of_tag (b := b.widened) h

theorem partner_of_tags {a b : Agent} (h : a.tag = b.tag ∨ a.tag = b.widened.tag) : a.partner = b.partner :=
  h.elim partner_of_tag fun h => partner_of_tag (b := b.widened) h

theorem From.paired (h : From o s) (hp : Paired o.state) : Paired s := by
  have hu := h.units hp
  obtain ⟨_, hbound, hpairs⟩ := hp
  refine ⟨hu.nodup, fun a ha => ⟨hu.below a ha, fun n hn => ?_⟩, fun sh hsh co hco hk hn => ?_⟩
  · rcases hu.stand a ha with ⟨b, hb, hab⟩ | ⟨_, _, hnone⟩
    · exact Nat.lt_of_lt_of_le ((hbound b hb).2 n (partner_of_tags hab ▸ hn)) h.next
    · rw [hnone] at hn
      cases hn
  · obtain ⟨b, hb, hbuid, hbpartner, hbkind, hblanes⟩ : ∃ b ∈ o.state.agents, sh.uid = b.uid ∧ b.partner = some co.uid ∧ b.kind = .shadow ∧
        (sh.lanes.length = b.lanes.length ∨ sh.lanes.length = 32) := by
      rcases hu.stand sh hsh with ⟨b, hb, htag | htag⟩ | ⟨_, _, hnone⟩
      · obtain ⟨hkind, hlanes⟩ := of_pairPart ((pairPart_of_tag htag).symm.trans (pairPart_of_pair (.inl hk) hn))
        exact ⟨b, hb, uid_of_tag htag, (partner_of_tags (.inl htag)).symm.trans hn, hkind.trans hk, .inl hlanes.symm⟩
      · obtain ⟨hkind, hlanes⟩ := of_pairPart ((pairPart_of_tag htag).symm.trans (pairPart_of_pair (.inl hk) hn))
        exact ⟨b, hb, uid_of_tags (.inr htag), (partner_of_tags (.inr htag)).symm.trans hn, hkind.trans hk, .inr (hlanes.symm.trans List.length_replicate)⟩
      · rw [hnone] at hn
        cases hn
    rcases hu.stand co hco with ⟨c, hc, htag⟩ | ⟨_, hnew, _⟩
    · have huid : c.uid = co.uid := (uid_of_tags htag).symm
      obtain ⟨hckind, hcpartner, hclanes, hblanes'⟩ := hpairs b hb c hc hbkind (huid ▸ hbpartner)
      have hpart : co.pairPart = some (.coach, 32) := by
        rcases htag with htag | htag
        · rw [pairPart_of_tag htag, pairPart_of_pair (.inr hckind) hcpartner, hckind, hclanes]
        · rw [pairPart_of_tag htag, pairPart_of_pair (a := c.widened) (.inr hckind) hcpartner]
          rw [show c.widened.kind = .coach from hckind, show c.widened.lanes.length = 32 from List.length_replicate]
      obtain ⟨hcokind, hcolanes⟩ := of_pairPart hpart
      exact ⟨hcokind, (partner_of_tags htag).trans (hcpartner.trans (hbuid ▸ rfl)), hcolanes, hblanes.elim (·.trans hblanes') id⟩
    · exact absurd ((hbound b hb).2 _ hbpartner) (Nat.not_lt.2 hnew)

theorem Known.uid_lt {a : Agent} (ha : Known ⟨s, false⟩ a) (hp : Paired s) : a.uid < s.nextId := by
  rcases ha.stands hp with ⟨b, hb, htag⟩ | ⟨hg, _⟩
  · exact uid_of_tags htag ▸ (hp.2.1 b hb).1
  · cases hg

theorem Stands.trans {g : Bool} {a b : Agent} (hb : Stands o b) (hab : a.tag = b.tag ∨ a.tag = b.widened.tag) : Stands o a := by
  rcases hb with ⟨c, hc, hbc⟩ | ⟨hg, hnew, hnone⟩
  · refine .inl ⟨c, hc, ?_⟩
    rcases hab with hab | hab
    · exact hbc.imp hab.trans hab.trans
    · exact .inr (hab.trans (hbc.elim widened_tag widened_tag))
  · exact .inr ⟨hg, uid_of_tags hab ▸ hnew, (partner_of_tags hab).trans hnone⟩

/-- What comes from a state by adding no unit comes from what that state comes from. -/
theorem From.trans (h : From o s) (ht : From ⟨s, false⟩ t) : From o t := by
  refine ⟨fun hp => ?_, Nat.le_trans h.next ht.next, ht.mem ∘ h.mem, ht.lwords ∘ h.lwords, ht.homes ∘ h.homes⟩
  have hu := ht.units (h.paired hp)
  refine ⟨hu.nodup, hu.below, fun a ha => ?_⟩
  rcases hu.stand a ha with ⟨b, hb, hab⟩ | ⟨hg, _⟩
  · exact Stands.trans (g := false) ((h.units hp).stand b hb) hab
  · cases hg

end Sys2Proof.Machine
end

section
/-! What every step keeps: spilling, restoring, pre-empting and resuming units (19_traps.md R422-R428). -/

namespace Sys2Proof.Machine

open Sys2Proof.Terms

variable {o : Origin} {s t : State}

/-! ### Barrel slots -/

theorem From.spDone (h : From o s) (cluster : Nat) : From o (s.spDone cluster) := (h.setSpill _).tally ..

theorem From.spFail (h : From o s) (cluster : Nat) (code : BitVec 8) : From o (s.spFail cluster code) := h.setSpill _

theorem From.unpark (h : From o s) (a : Agent) : From o (s.unpark a) := by
  have hleft : From o ((Mask.list a.live).foldl (fun s l => if (a.lane l).chain.isSome then s else s.leaveInn a.uid l)
      (s.withdraw a.uid a.live)) := (h.withdraw ..).foldl (fun _ _ h => .ite h (h.leaveInn ..)) _
  refine From.updAgent ?_ (fun a => ?_) a.uid
  · exact hleft
  · rfl

theorem From.setSpilled (h : From o s) (uid : Nat) : From o (s.setSpilled uid) := by
  refine h.updAgent (fun a => ?_) uid
  rfl

theorem From.spillTrav (h : From o s) (cluster job : Nat) (a : Agent) : From o (s.spillTrav cluster job a) := by
  unfold State.spillTrav
  refine .ite (h.spFail ..) (.ite (h.spFail ..) (.ite h ?_))
  have hout := h.unpark a
  dsimp only
  split
  · exact hout
  · refine .ite hout ?_
    split
    · exact hout.nudge _
    · next u hu => exact (((hout.physWrite ..).out u hu).setSpilled _).spDone _

theorem From.execSpillSlot (h : From o s) (cluster core slot : Nat) : FromOut o (execSpillSlot cluster core slot s) := by
  unfold Machine.execSpillSlot
  extract_lets p
  split
  · exact .next h
  · split
    · exact .next (.ite h (.ite (h.spillTrav ..) (h.spDone _)))
    · split
      · exact .next (h.spillTrav ..)
      · refine .next ?_
        split
        · exact h.spDone _
        · exact .ite (h.spFail ..) (.ite (h.setSpill _) (h.spDone _))

theorem tag_of_barrel {a b : Agent} (ha : a.barrel = true) (hk : b.kind = a.kind) (hu : b.uid = a.uid) (hp : b.partner = a.partner) :
    b.tag = a.tag := by
  have hb : b.barrel = true := by
    unfold Agent.barrel at ha ⊢
    rwa [hk]
  unfold Agent.tag
  simp [ha, hb, hu, hp]

theorem tag_restored (s : State) {a : Agent} (ha : a.barrel = true) (p : Place) (xs : List Chunk) : (s.restored a p xs).tag = a.tag := by
  unfold State.restored
  extract_lets read ended b
  have hb : b.kind = a.kind ∧ b.uid = a.uid ∧ b.partner = a.partner := by
    unfold b
    split
    · exact ⟨rfl, rfl, rfl⟩
    · exact ⟨rfl, rfl, rfl⟩
  obtain ⟨hkind, huid, hpartner⟩ := hb
  exact tag_of_barrel ha hkind huid hpartner

theorem barrel_of_homedAt {p : Place} {job : Nat} {a : Agent} (h : s.homedAt p job = some a) : a.barrel = true ∧ a ∈ s.agents := by
  have hmem : a ∈ s.agents.filter fun a => a.barrel && !a.wide && a.home == p := by
    unfold State.homedAt at h
    extract_lets here at h
    cases hx : here.find? (·.job == job) with
    | some b =>
      rw [hx] at h
      cases h
      exact List.mem_of_find?_eq_some hx
    | none =>
      rw [hx] at h
      exact List.mem_of_find?_eq_some (show here.find? _ = some a from h)
  obtain ⟨ha, hb⟩ := List.mem_filter.1 hmem
  rw [Bool.and_eq_true, Bool.and_eq_true] at hb
  exact ⟨hb.1.1, ha⟩

theorem From.execRestoreSlot (h : From o s) (hg : o.grows = true) (cluster core slot : Nat) :
    FromOut o (execRestoreSlot cluster core slot s) := by
  unfold Machine.execRestoreSlot
  extract_lets p
  split
  · exact .next h
  · next job _ =>
    refine .ite (.next (h.spFail ..)) (.ite (.next (h.spFail ..)) (.ite (.next (h.spFail ..)) ?_))
    split
    · next a ha =>
      obtain ⟨hbarrel, hmem⟩ := barrel_of_homedAt ha
      have hknown : Known o a := h.member hmem
      refine .ite (.next (From.spDone (From.settleIn ?_ hknown _) _)) (.ite (.next (h.spFail ..)) ?_)
      · exact h
      · split
        · exact .next (h.nudge _)
        · next t xs ht =>
          have hread := (h.physRead ..).out t xs ht
          exact .ite (.next (hread.spFail ..)) (.next (((hread.claimSlot ..).setAgent (hknown.of_tag (tag_restored _ hbarrel _ _))).spDone _))
    · split
      · exact .next (h.nudge _)
      · next t xs ht =>
        have hread := (h.physRead ..).out t xs ht
        refine .ite (.next (hread.spFail ..)) ?_
        extract_lets a0 a claimed
        have htag := tag_restored claimed (a := a) rfl p xs
        have hadded := (hread.claimSlot p job).addUnit hg (a := claimed.restored a p xs)
          ((uid_of_tag htag).trans (nextId_claimSlot ..).symm) (partner_of_tag htag)
        exact .next (From.spDone hadded _)

/-! ### Warps -/

theorem From.writeWarps (h : From o s) (cluster : Nat) (as : List Agent) : FromAt o (State.writeWarps cluster as s) := by
  induction as generalizing s with
  | nil => exact .ok h
  | cons a as ih =>
    unfold State.writeWarps
    split
    · exact .error _
    · next t ht => exact ih ((h.physWrite ..).out t ht)

theorem From.execPreemptWarp (h : From o s) (cluster core ctx : Nat) : FromOut o (execPreemptWarp cluster core ctx s) := by
  unfold Machine.execPreemptWarp
  split
  · exact .next h
  · extract_lets ws out ws'
    have hout : From o out := h.foldl (fun _ _ h => h.unpark _) _
    refine .ite (.next (h.spDone _)) (.ite (.next (h.spFail ..)) (.ite (.next (h.spFail ..)) (.ite (.next h) (.ite (.next hout) ?_))))
    split
    · exact .next (hout.nudge _)
    · next t ht => exact .next ((((hout.writeWarps ..).out t ht).foldl (fun _ _ h => h.setSpilled _) _).spDone _)

theorem length_creepDue (s : State) (a : Agent) (p : Place) : (s.creepDue a p).length = a.lanes.length := List.length_map ..

theorem ofWarp_frame (a : Agent) (xs : List Chunk) : (a.ofWarp xs).lanes.length = 32 ∧ (a.ofWarp xs).uid = a.uid ∧
    (a.ofWarp xs).partner = a.partner ∧ (a.partner.isNone = false → (a.ofWarp xs).kind = a.kind) := by
  unfold Agent.ofWarp
  extract_lets rrb st role
  refine ⟨?_, rfl, rfl, fun hn => ?_⟩
  · rw [List.length_map, List.length_range]
  · simp only [hn, Bool.and_false, Bool.false_eq_true, if_false]

theorem tag_restoredWarp (s : State) (a : Agent) (xs : List Chunk) : (s.restoredWarp a xs).tag = a.widened.tag := by
  obtain ⟨hlen, huid, hpartner, hkind⟩ := ofWarp_frame a xs
  unfold State.restoredWarp
  generalize a.ofWarp xs = b at hlen huid hpartner hkind
  extract_lets c p
  generalize hl : s.creepDue _ p = lanes
  have hlanes : lanes.length = 32 := by
    rw [← hl, length_creepDue, List.length_mapIdx, hlen]
  have hwide : a.widened.lanes.length = 32 := List.length_replicate
  unfold Agent.tag
  rw [hwide]
  dsimp only
  rw [hlanes]
  show (b.uid, b.partner, if b.barrel || b.kind == .warp || b.partner.isNone then none else some (b.kind, 32))
    = (a.uid, a.partner, if a.barrel || a.kind == .warp || a.partner.isNone then none else some (a.kind, 32))
  rw [huid, hpartner]
  cases hn : a.partner.isNone with
  | true => simp
  | false =>
    unfold Agent.barrel
    rw [hkind hn]

theorem From.readWarps (h : From o s) (cluster : Nat) (as : List Agent) : FromAtFst o (State.readWarps cluster as s) := by
  induction as generalizing s with
  | nil => exact .ok h
  | cons a as ih =>
    unfold State.readWarps
    split
    · exact .error _
    · next t xs ht =>
      have hread := (h.physRead ..).out t xs ht
      refine .ite (.ok hread) ?_
      split
      · exact .error _
      · next u r hu => exact .ok ((ih hread).out u r hu)

/-- Each warp read is one of those asked for, with 32 lanes. -/
theorem tags_readWarps {cluster : Nat} {as bs : List Agent} (h : State.readWarps cluster as s = .ok (t, some bs)) :
    ∀ b ∈ bs, ∃ a ∈ as, b.tag = a.widened.tag := by
  induction as generalizing s bs with
  | nil =>
    cases h
    intro b hb
    cases hb
  | cons a as ih =>
    unfold State.readWarps at h
    split at h
    · cases h
    · next u xs _ =>
      split at h
      · cases h
      · split at h
        · cases h
        · next v r hv =>
          cases r with
          | none => cases h
          | some cs =>
            cases h
            intro b hb
            rcases List.mem_cons.1 hb with rfl | hb
            · exact ⟨a, List.mem_cons_self, tag_restoredWarp ..⟩
            · obtain ⟨c, hc, hbc⟩ := ih hv b hb
              exact ⟨c, List.mem_cons_of_mem _ hc, hbc⟩

/-- A unit goes to the end of the list. -/
theorem From.moveLast (h : From ⟨t, false⟩ s) {b : Agent} (hb : Known ⟨t, false⟩ b) :
    From ⟨t, false⟩ { s with agents := s.agents.filter (·.uid != b.uid) ++ [b] } := by
  refine ⟨fun hp => ?_, h.next, h.mem, h.lwords, h.homes⟩
  have hu := h.units hp
  refine ⟨?_, fun a ha => ?_, fun a ha => ?_⟩
  · rw [List.map_append]
    refine List.nodup_append.2 ⟨hu.nodup.sublist (List.filter_sublist.map _), nodup_singleton _, fun x hx y hy => ?_⟩
    obtain ⟨a, ha, rfl⟩ := List.mem_map.1 hx
    rw [show y = b.uid by simpa using hy]
    simpa using (List.mem_filter.1 ha).2
  · rcases List.mem_append.1 ha with ha | ha
    · exact hu.below a (List.mem_filter.1 ha).1
    · rw [List.mem_singleton.1 ha]
      exact Nat.lt_of_lt_of_le (hb.uid_lt hp) h.next
  · rcases List.mem_append.1 ha with ha | ha
    · exact hu.stand a (List.mem_filter.1 ha).1
    · rw [List.mem_singleton.1 ha]
      exact hb.stands hp

theorem From.admitWarp (h : From ⟨t, false⟩ s) {b : Agent} (hb : Known ⟨t, false⟩ b) : From ⟨t, false⟩ (s.admitWarp b) := by
  have hset := (h.moveLast hb).setAgent hb
  unfold State.admitWarp
  dsimp only
  split
  · exact hset
  · exact hset.writeSwap ..

theorem From.admitWarps (h : From ⟨t, false⟩ s) {bs : List Agent} (hb : ∀ b ∈ bs, Known ⟨t, false⟩ b) :
    From ⟨t, false⟩ (bs.foldl (fun s b => s.admitWarp b) s) := by
  induction bs generalizing s with
  | nil => exact h
  | cons b bs ih => exact ih (h.admitWarp (hb b List.mem_cons_self)) fun c hc => hb c (List.mem_cons_of_mem _ hc)

theorem mem_pairAt {p : Place} {ok : Agent → Bool} {a : Agent} (h : a ∈ s.pairAt p ok) : a ∈ s.agents := by
  unfold State.pairAt at h
  split at h
  · cases h
  · next b hb =>
    rcases List.mem_cons.1 h with rfl | h
    · exact List.mem_of_find?_eq_some hb
    · obtain ⟨n, -, hn⟩ := Option.bind_eq_some_iff.1 (Option.mem_toList.1 (List.mem_filter.1 h).1)
      exact (State.agent?_mem hn).1

/-- A new unit whose number was the next one of a state that the present one comes from with no unit more. -/
theorem From.addUnitOf (hs : From o s) (h : From ⟨s, false⟩ t) (hg : o.grows = true) {a : Agent} (ha : a.uid = s.nextId)
    (hn : a.partner = none) : From o { t with agents := t.agents ++ [a], nextId := t.nextId + 1 } := by
  have ht := hs.trans h
  refine ⟨fun hp => ?_, Nat.le_succ_of_le ht.next, ht.mem, ht.lwords, ht.homes⟩
  have hu := ht.units hp
  refine ⟨?_, fun b hb => ?_, fun b hb => ?_⟩
  · rw [List.map_append]
    refine List.nodup_append.2 ⟨hu.nodup, nodup_singleton _, fun x hx y hy => ?_⟩
    obtain ⟨b, hb, rfl⟩ := List.mem_map.1 hx
    rw [show y = s.nextId by simpa [ha] using hy]
    exact Nat.ne_of_lt ((h.member hb).uid_lt (hs.paired hp))
  · rcases List.mem_append.1 hb with hb | hb
    · exact Nat.lt_succ_of_lt (hu.below b hb)
    · rw [List.mem_singleton.1 hb, ha]
      exact Nat.lt_succ_of_le h.next
  · rcases List.mem_append.1 hb with hb | hb
    · exact hu.stand b hb
    · rw [List.mem_singleton.1 hb]
      exact .inr ⟨hg, ha ▸ hs.next, hn⟩

theorem Known.widened {a b : Agent} (ha : a ∈ s.agents) (hb : b.tag = a.widened.tag) : Known ⟨s, false⟩ b :=
  ⟨fun _ => .inl ⟨a, ha, .inr hb⟩⟩

theorem From.execResumeWarp (h : From o s) (hg : o.grows = true) (cluster core ctx : Nat) :
    FromOut o (execResumeWarp cluster core ctx s) := by
  unfold Machine.execResumeWarp
  extract_lets p found
  split
  · exact .next h
  · next job _ =>
    extract_lets _ ws _
    refine .ite (.next (h.spFail ..)) (.ite (.next (h.spFail ..)) (.ite (.next (h.spFail ..)) ?_))
    have hread := From.readWarps (.refl s false) cluster ws
    split
    · exact .next (h.nudge _)
    · next t ht => exact .next ((h.trans (hread.out t _ ht)).spFail ..)
    · next t bs ht =>
      have hself := hread.out t _ ht
      have htags := tags_readWarps ht
      refine .next (From.spDone ?_ _)
      by_cases hf : found.isEmpty = true
      · obtain ⟨new, hws, huid, hnone⟩ : ∃ new, ws = [new] ∧ new.uid = s.nextId ∧ new.partner = none := ⟨_, if_pos hf, rfl, rfl⟩
        clear_value ws
        subst hws
        have hadded := h.addUnitOf hself hg huid hnone
        rw [if_pos hf, if_pos hf]
        refine hadded.trans (From.admitWarps (.refl _ false) fun b hb => ?_)
        obtain ⟨c, hc, rfl⟩ := List.mem_map.1 hb
        obtain ⟨a, ha, hca⟩ := htags c hc
        exact Known.widened (a := a) (List.mem_append_right _ ha) (show Agent.tag c = _ from hca)
      · have hws : ws = found := if_neg hf
        rw [if_neg hf, if_neg hf]
        refine h.trans (From.admitWarps hself fun b hb => ?_)
        obtain ⟨a, ha, hba⟩ := htags b hb
        exact Known.widened (mem_pairAt (hws ▸ ha)) hba

end Sys2Proof.Machine
end

section
/-! What every step keeps: the host, the links and the scale-up window (02_lines_and_homes.md R55, 23_host_and_links.md R461-R469). -/

namespace Sys2Proof.Machine

open Sys2Proof.Terms

variable {o : Origin} {s t : State}

/-! ### The host's requests -/

theorem From.withLife (h : From o s) (x : Lifetime) : From o { s with life := x } := h

theorem From.logError (h : From o s) (place : LogPlace) (tier : Tier) (addr job : Nat) :
    From o (s.logError place tier addr job) := by
  unfold State.logError
  exact h.withLife _

theorem From.setDecoderTurn (h : From o s) (k base : Nat) : From o (s.setDecoderTurn k base) := by
  unfold State.setDecoderTurn
  split
  · exact .ite h h
  · exact h

theorem From.hostKeeps (h : From o s) (line : Nat) (sure : Bool) : From o (s.hostKeeps line sure) :=
  .ite h (.ite (h.choose.setHome ..) h.choose)

theorem From.writeBytes (h : From o s) (a : Nat) (bs : List Byte) : From o { s with mem := Memory.writeBytes s.mem a bs } :=
  h.withMem (Memory.wf_writeBytes _ _ _)

theorem From.homeStore (h : From o s) (line off : Nat) (bytes : List Byte) (bad : BitVec 8) :
    From o (s.homeStore line off bytes bad).1 :=
  ((h.writeBytes ..).setHome ..).noteStamp ..

theorem From.coverHost (h : From o s) (x : Stamp) : From o (s.coverHost x) := h

theorem From.hostStore (h : From o s) (line off : Nat) (bytes : List Byte) (bad : BitVec 8) :
    From o (s.hostStore line off bytes bad) :=
  (h.homeStore ..).coverHost _

theorem From.hostRecall (h : From o s) (line : Nat) : FromAt o (s.hostRecall line) := .ite (.error _) (h.recallAll _)

theorem From.tellHost (h : From o s) (line : Nat) : From o (s.tellHost line) := h

theorem FromOut.fault (f : Fault) : FromOut o (.fault f) := ⟨fun _ ht => nomatch ht⟩

theorem From.execHostRead (h : From o s) (line : Nat) : FromOut o (execHostRead line s) := by
  unfold Machine.execHostRead
  split
  · exact .fault _
  · extract_lets line
    split
    · exact .next h
    · next t r ht => exact .next ((((h.homeReadAt ..).out t r ht).hostKeeps ..).tellHost _)

theorem From.hostParts (h : From o s) (addr : Nat) (data : List Byte) (bad : Bool) : FromAt o (s.hostParts addr data bad) := by
  refine FromAt.foldl (f := fun t (x : Nat × Nat × Nat) => match t.hostRecall x.1 with
    | .error l => .error l
    | .ok u => .ok (u.hostStore x.1 x.2.1 ((data.drop (128 * x.1 + x.2.1 - addr)).take x.2.2)
        (if bad then sectorMask x.2.1 x.2.2 else 0))) h (fun t x ht => ?_) _
  split
  · exact .error _
  · next u hu => exact .ok (((ht.hostRecall _).out u hu).hostStore ..)

theorem From.execHostWrite (h : From o s) (addr : Nat) (data : HostBytes) : FromOut o (execHostWrite addr data s) := by
  unfold Machine.execHostWrite
  split
  · refine .ite (.fault _) ?_
    split
    · exact .next h
    · next t ht => exact .next ((h.hostParts ..).out t ht)
  · exact .fault _

theorem From.execHostOwnershipRequest (h : From o s) (line : Nat) : FromOut o (execHostOwnershipRequest line s) := by
  unfold Machine.execHostOwnershipRequest
  split
  · exact .fault _
  · split
    · exact .next h
    · next t ht => exact .next ((((h.hostRecall _).out t ht).hostKeeps ..).tellHost _)

theorem From.execBackInvalidateReply (h : From o s) (snoop : Nat) (dirty : Option DirtyLine) :
    FromOut o (execBackInvalidateReply snoop dirty s) := by
  unfold Machine.execBackInvalidateReply
  split
  · exact .next h
  · extract_lets forgotten src freed
    have hfreed : From o freed := From.setHome (s := forgotten) h ..
    refine .next ?_
    split
    · exact hfreed.hostStore ..
    · exact hfreed

theorem From.snooped (h : From o s) (line : Nat) {served : AtHome State} (hs : FromAt o served) :
    From o (s.snooped line served) := by
  unfold State.snooped
  refine .ite h ?_
  split
  · exact h
  · next t => exact ((hs.out t rfl).tellHost _).hostStore ..

theorem From.execSnoopInvalidate (h : From o s) (line : Nat) :
    FromOut o (execSnoopInvalidate line s) := .next (h.snooped _ (h.hostRecall _))

theorem FromAtFst.map_fst {β : Type} {r : AtHome (State × β)} (h : FromAtFst o r) : FromAt o (r.map (·.1)) := by
  cases r with
  | error l => exact .error l
  | ok x => exact .ok (h.out x.1 x.2 rfl)

theorem From.execSnoopData (h : From o s) (line : Nat) :
    FromOut o (execSnoopData line s) := .next (h.snooped _ (h.homeReadAt ..).map_fst)

/-! ### Links -/

theorem From.accept (h : From o s) (link seq ack : Nat) : FromOpt o (s.accept link seq ack) := by
  unfold State.accept
  split
  · exact .none
  · exact .ite (.some (h.updLink ..)) .none

theorem From.peerAct (h : From o s) (line off n : Nat) (f : List Byte → List Byte) : FromAtFst o (s.peerAct line off n f) := by
  unfold State.peerAct
  rcases hr : s.homeActAt line off n (s.htime[sliceOf line].setWidth 64) f with l | r
  · exact .error l
  · have ht := (h.homeActAt ..).out r.1 r.2 hr
    exact .ok (.ite ht (ht.coverHost _))

theorem From.peerRead (h : From o s) (l : List (Nat × Nat × Nat)) : FromAtFst o (State.peerRead l s) := by
  induction l generalizing s with
  | nil => exact .ok h
  | cons x l ih =>
    unfold State.peerRead
    split
    · exact .error _
    · next t r ht =>
      have hrest := ih ((h.homeReadAt ..).out t r ht)
      rcases hy : State.peerRead l t with e | y
      · exact .error e
      · exact .ok (hrest.out y.1 y.2 hy)

theorem From.servePeer (h : From o s) (q : Config.PeerReq) : FromAtFst o (s.servePeer q) := by
  cases q with
  | read a n =>
    have hread := h.peerRead (linesOf (n / 128 + 2) a n)
    unfold State.servePeer
    dsimp only
    rcases hy : State.peerRead (linesOf (n / 128 + 2) a n) s with e | y
    · exact .error e
    · exact .ok (hread.out y.1 y.2 hy)
  | write a bs bad =>
    unfold State.servePeer
    dsimp only
    split
    · exact .error _
    · rcases hy : s.hostParts a bs bad with e | y
      · exact .error e
      · exact .ok ((h.hostParts ..).out y hy)
  | element a n op v c => exact h.peerAct ..
  | header a k x y => exact h.peerAct ..

theorem From.execRequestFlit (h : From o s) (link seq ack : Nat) (bytes : List Byte) :
    FromOut o (execRequestFlit link seq ack bytes s) := by
  unfold Machine.execRequestFlit
  split
  · exact .next h
  · next s1 hs1 =>
    have haccept := (h.accept ..).out s1 hs1
    split
    · exact .next haccept
    · refine .ite (.next haccept) ?_
      split
      · exact .next (h.nudge _)
      · next s2 ty bs bad hs2 => exact .next (((haccept.servePeer _).out s2 _ hs2).sendFlit ..)

/-! ### Answers from the scale-up window -/

theorem From.dropWin (h : From o s) (id : Nat) : From o (s.dropWin id) := h

theorem From.addWin (h : From o s) (id addr : Nat) (x : Option (List Byte)) : From o (s.addWin id addr x) := h

theorem From.bindWin (h : From o s) (r : WinReq) (load : Nat) (bytes : List Byte) (bad lost : Bool) :
    From o (s.bindWin r load bytes bad lost) := (h.updLoad ..).finishLoad _

theorem From.winValue (h : From o s) (r : WinReq) (bytes : List Byte) (bad : Bool) : From o (s.winValue r bytes bad) := by
  have hdropped := h.dropWin r.id
  unfold State.winValue
  dsimp only
  split
  · exact From.bindWin (.ite (hdropped.liftPath ..) hdropped) ..
  · exact From.writeDest (.ite (hdropped.liftPath ..) hdropped) ..
  · exact hdropped.addWin ..
  · exact hdropped.addWin ..
  · exact hdropped.updPath ..
  · exact hdropped

theorem From.winDone (h : From o s) (r : WinReq) : From o (s.winDone r) := by
  have hacked : From o ((s.dropWin r.id).updAgent r.uid fun a => { a with acks := a.acks - 1 }) := by
    refine (h.dropWin r.id).updAgent (fun a => ?_) r.uid
    rfl
  unfold State.winDone
  dsimp only
  split
  · exact hacked
  · exact hacked
  · exact h.dropWin _

theorem From.execDataFlit (h : From o s) (link seq ack : Nat) (bytes : List Byte) :
    FromOut o (execDataFlit link seq ack bytes s) := by
  unfold Machine.execDataFlit
  split
  · exact .next h
  · next t ht =>
    have haccept := (h.accept ..).out t ht
    refine .next ?_
    split
    · exact .ite (haccept.winValue ..) haccept
    · exact haccept

theorem From.execResponseFlit (h : From o s) (link seq ack : Nat) (bytes : List Byte) :
    FromOut o (execResponseFlit link seq ack bytes s) := by
  unfold Machine.execResponseFlit
  split
  · exact .next h
  · next t ht =>
    have haccept := (h.accept ..).out t ht
    refine .next ?_
    split
    · refine .ite haccept ?_
      split
      · exact haccept.winDone _
      · exact haccept.winDone _
      · exact haccept.winDone _
      · exact haccept.winDone _
      · exact haccept.winValue ..
      · exact haccept.winValue ..
      · exact haccept
    · exact haccept

theorem From.execCreditFlit (h : From o s) (link seq ack : Nat) (bytes : List Byte) :
    FromOut o (execCreditFlit link seq ack bytes s) :=
  .next ((h.accept ..).getD h)

theorem From.execIdleFlit (h : From o s) (link seq ack : Nat) (bytes : List Byte) : FromOut o (execIdleFlit link seq ack bytes s) :=
  .next ((h.accept ..).getD h)

theorem From.countRetry (h : From o s) (link : Nat) : From o (s.countRetry link) := by
  unfold State.countRetry
  split
  · exact h
  · exact h

theorem From.execFlitReplay (h : From o s) (link : Nat) : FromOut o (execFlitReplay link s) := by
  unfold Machine.execFlitReplay
  split
  · exact .next h
  · have hreplaying := (h.countRetry link).updLink link fun x => { x with replaying := true }
    refine .ite (.next h) (.ite (.next ?_) (.next ?_)) <;> exact hreplaying

theorem From.loseAtomic (h : From o s) (r : WinReq) (dst : Dest) : From o (s.loseAtomic r dst) :=
  ((h.chooseNat _).writeDest ..).loseDest ..

theorem From.giveUp (h : From o s) (r : WinReq) : From o (s.giveUp r) := by
  have hlost : From o (s.updAgent r.uid fun a => { a with lost := a.lost.or (some r.va) }) := by
    refine h.updAgent (fun a => ?_) r.uid
    rfl
  unfold State.giveUp
  extract_lets job logged drawn src
  have hlogged {u : State} (hu : From o u) : From o (logged u) := hu.logError ..
  split
  · exact From.bindWin (From.dropWin (h.chooseNat _) _) ..
  · exact (h.dropWin _).loseAtomic ..
  · exact (h.dropWin _).addWin ..
  · exact (h.dropWin _).addWin ..
  · exact h.winValue ..
  · exact (hlogged hlost).winDone _
  · exact (hlogged hlost).winDone _
  · split
    · exact hlogged (hlost.dropWin r.id)
    · exact hlogged (hlost.dropWin r.id)
  · split
    · exact hlogged (hlost.dropWin r.id)
    · exact hlogged (hlost.dropWin r.id)

theorem From.execWindowRequestTimeout (h : From o s) (wreq : Nat) : FromOut o (execWindowRequestTimeout wreq s) := by
  unfold Machine.execWindowRequestTimeout
  split
  · exact .next h
  · split
    · exact .next h
    · exact .ite (.next h) (.next (h.giveUp _))

theorem From.setNumberTurn (h : From o s) (n : Nat) : From o (s.setNumberTurn n) := .ite h h

theorem From.setPeerTurn (h : From o s) (link peer : Nat) : From o (s.setPeerTurn link peer) := .ite h h

end Sys2Proof.Machine
end

section
/-! What every step keeps: lifecycle, reset, power, firmware and errors (24_security_power_health.md R470-R477, 19_traps.md R411-R431). -/

namespace Sys2Proof.Machine

open Sys2Proof.Terms

variable {o : Origin} {s t : State}

/-! ### Attestation and lifecycle -/

theorem From.respond (h : From o s) (code : Nat) (body : List Nat) : From o (s.respond code body) := h

theorem From.attested (h : From o s) (slot : Nat) {f : State → State} (hf : From o (f s)) : From o (s.attested slot f) :=
  .ite (h.respond ..) hf

theorem From.respondSigned (h : From o s) (code : Nat) (body : List Nat) : From o (s.respondSigned code body) := h.respond ..

theorem From.execGetDigests (h : From o s) : FromOut o (execGetDigests s) := .next (h.attested _ (h.respond ..))

theorem From.execGetCertificate (h : From o s) (slot off len : Nat) : FromOut o (execGetCertificate slot off len s) :=
  .next (h.attested _ (h.respond ..))

theorem From.execChallenge (h : From o s) (slot nonce : Nat) : FromOut o (execChallenge slot nonce s) :=
  .next (h.attested _ (h.respondSigned ..))

theorem From.execGetMeasurements (h : From o s) (index : BitVec 8) (nonce : Nat) : FromOut o (execGetMeasurements index nonce s) :=
  .next (h.attested _ (h.respondSigned ..))

theorem From.clearCluster (h : From o s) (cluster : Nat) : From o (s.clearCluster cluster) :=
  ⟨h.units, h.next, h.mem, fun hp => swf_filter _ _ _ (h.lwords hp), h.homes⟩

theorem From.ungateAll (h : From o s) : From o s.ungateAll := h.foldl (fun _ _ h => h.clearCluster _) _

theorem From.execDebugLevelChange (h : From o s) (level : Nat) (authorised : Bool) :
    FromOut o (execDebugLevelChange level authorised s) := by
  refine .ite (.next (h.logError ..)) (.ite (.next h) (.next ?_))
  have hlevel : From o (if noGating s.lifecycle level then s.ungateAll else s) := .ite h.ungateAll h
  exact hlevel

theorem From.execLifecycleChange (h : From o s) (level : Nat) : FromOut o (execLifecycleChange level s) := by
  unfold Machine.execLifecycleChange
  split
  · exact .next h
  · exact .ite (.next h) (.next (h.logError ..))

/-! ### Reset and power -/

/-- The stamps that a reset leaves keep their canonical form: only poison stays. -/
theorem swf_resetHomes (hs r : Sparse Home) (hr : swf Home.fresh r = true) :
    swf Home.fresh (hs.foldl (fun hs x => sput Home.fresh x.1 { Home.fresh with bad := x.2.bad } hs) r) = true := by
  induction hs generalizing r with
  | nil => exact hr
  | cons x hs ih => exact ih _ (swf_sput _ _ _ _ hr)

theorem From.cleared (h : From o s) : From o s.cleared :=
  ⟨fun _ => ⟨List.nodup_nil, fun _ ha => (nomatch ha), fun _ ha => nomatch ha⟩, h.next, h.mem, fun _ => rfl, fun _ => swf_resetHomes _ _ rfl⟩

theorem From.loadBank (h : From o s) (bank image : Nat) : From o (s.loadBank bank image) := .ite h (h.logError ..)

theorem From.takeLifecycle (h : From o s) : From o s.takeLifecycle := h

theorem From.execDeviceReset (h : From o s) (imageA imageB : Nat) : FromOut o (execDeviceReset imageA imageB s) := by
  have hfirst := h.cleared.takeLifecycle.loadBank 0 imageA
  refine .ite (.next hfirst) (.next (.ite (hfirst.loadBank ..) ?_))
  exact hfirst.loadBank 1 imageB

theorem From.bringUpFailsTurn (h : From o s) (image step : Nat) : From o (s.bringUpFailsTurn image step) :=
  have hfirst := h.cleared.takeLifecycle.loadBank 0 image
  .ite hfirst (hfirst.logError ..)

theorem From.execThrottle (h : From o s) : FromOut o (execThrottle s) := .next (.ite h h)

theorem From.execThrottleRecovery (h : From o s) : FromOut o (execThrottleRecovery s) := .next (.ite h h)

theorem From.execStandby (h : From o s) : FromOut o (execStandby s) := .next (.ite h h)

theorem From.execRecovery (h : From o s) : FromOut o (execRecovery s) := .next (.ite h h)

theorem From.turnOff (h : From o s) : From o s.turnOff :=
  ⟨h.cleared.units, h.next, fun hp => Memory.wf_filter _ _ (h.mem hp), fun _ => rfl, fun _ => rfl⟩

theorem From.execClusterGate (h : From o s) (cluster : Nat) : FromOut o (execClusterGate cluster s) := by
  refine .ite (.next h) (.next ?_)
  have hcopies (l : List Copy) := h.foldl (f := fun s c => if c.isU then s.recallU c.line else s.evict cluster c.line)
    (fun _ _ h => .ite (h.recallU _) (h.evict ..)) l
  exact (hcopies _).clearCluster cluster

theorem From.execClusterUngate (h : From o s) (cluster : Nat) : FromOut o (execClusterUngate cluster s) :=
  .ite (.next h) (.next (h.clearCluster cluster))

theorem From.execSupplySag (h : From o s) (die k : Nat) : FromOut o (execSupplySag die k s) := .ite (.next h) (.next h)

theorem From.updSag (h : From o s) (die : Nat) (f : Sag → Sag) : From o (s.updSag die f) := h

/-! ### Firmware at a context -/

theorem From.execFirmwareResume (h : From o s) (unit slot : Nat) (pc : DWord) : FromOut o (execFirmwareResume unit slot pc s) := by
  unfold Machine.execFirmwareResume
  extract_lets b
  split
  · exact .next h
  · next a ha =>
    refine .ite (.next h) (.next (From.settle (h.setAgent ((h.known ha).of_tag ((tag_setSlot ..).trans ?_))) _))
    rfl

theorem From.cancelStopped (h : From o s) (unit : Nat) (b : Bool) : From o (s.cancelStopped unit b) := by
  unfold State.cancelStopped
  split
  · exact h
  · next a ha =>
    extract_lets out src stopped
    have hstopped : From o stopped := h.setAgent ((h.known ha).of_tag rfl)
    refine .ite (hstopped.foldl (fun t p ht => ?_) _) ((hstopped.actCancel ..).getD hstopped)
    split
    · exact ht.leaveAt ..
    · exact ht

theorem From.execFirmwareJobCancel (h : From o s) (unit slot : Nat) : FromOut o (execFirmwareJobCancel unit slot s) := by
  unfold Machine.execFirmwareJobCancel
  split
  · exact .next h
  · exact .ite (.next h) (.next ((h.cancelJob _).cancelStopped ..).tidy)

theorem From.execHaltRestart (h : From o s) (unit slot : Nat) : FromOut o (execHaltRestart unit slot s) := by
  unfold Machine.execHaltRestart
  split
  · exact .next h
  · next a ha => exact .ite (.next h) (.next (h.setAgent ((h.known ha).of_tag (tag_mapPaths ..))))

theorem nextId_needJob (s : State) (j : Nat) : (s.needJob j).nextId = s.nextId := by
  unfold State.needJob
  split
  · rfl
  · rfl

theorem agents_needJob (s : State) (j : Nat) : (s.needJob j).agents = s.agents := by
  unfold State.needJob
  split
  · rfl
  · rfl

theorem agents_claimSlot (s : State) (p : Place) (job : Nat) : (s.claimSlot p job).agents = s.agents := by
  unfold State.claimSlot
  dsimp only
  split
  · rfl
  · rfl

theorem From.execSupervisorStart (h : From o s) (hg : o.grows = true) (job cluster core : Nat) (entry : DWord) :
    FromOut o (execSupervisorStart job cluster core entry s) := by
  unfold Machine.execSupervisorStart
  extract_lets p a0 a
  refine .ite (.next h) (.next ?_)
  have hadded := ((h.needJob job).claimSlot p job).addUnit hg (a := a)
    ((nextId_claimSlot ..).trans (nextId_needJob ..)).symm rfl
  rw [nextId_claimSlot, nextId_needJob, agents_claimSlot, agents_needJob] at hadded
  exact hadded

/-! ### Soft errors and records -/

theorem From.errOwner (h : From o s) (p : ErrPlace) : From o (s.errOwner p).1 := by
  have hany : From o (s.chooseNat (2 ^ 32)).2 := h.chooseNat _
  have haddr {u : State} (hu : From o u) : From o (u.chooseNat (2 ^ 48)).2 := hu.chooseNat _
  unfold State.errOwner
  extract_lets anyJob anyAddr known
  have hknown (job : Option Nat) : From o (known job).1 := by
    cases job with
    | some j => exact haddr h
    | none => exact haddr hany
  split
  · exact hany
  · exact hany
  · exact hknown _
  · exact hknown none
  · exact hknown none
  · exact hknown _
  · exact hknown _
  · exact hknown _

theorem From.poisonPlace (h : From o s) (p : ErrPlace) : From o (s.poisonPlace p) := by
  cases p with
  | home a => exact .ite (h.setHome ..) h
  | copy c a =>
    unfold State.poisonPlace
    dsimp only
    split
    · exact h
    · exact .ite (h.updCopy ..) (h.dropCopy ..)
  | store c k w => exact .ite (h.setLword ..) h
  | reg u l r => exact h.updLane ..
  | uniform u r =>
    refine h.updAgent (fun a => ?_) u
    rfl
  | preds u l => exact h.updLane ..
  | link k => exact h
  | tile c k n => exact h

theorem From.execSoftError (h : From o s) (place : ErrPlace) (correctable : Bool) : FromOut o (execSoftError place correctable s) :=
  .ite (.next ((h.tally ..).withLife _)) (.next (((h.errOwner _).poisonPlace _).logError ..))

theorem From.execLogClear (h : From o s) (whole : Bool) :
    FromOut o (execLogClear whole s) := .next (.ite (h.withLife _) (h.withLife _))

theorem From.hourTurn (h : From o s) (die temp volt : Nat) : From o (s.hourTurn die temp volt) := by
  unfold State.hourTurn
  exact h.withLife _

/-! ### The queue window -/

theorem From.mirror1 (h : From o s) (s0 : State) (co sh l : Nat) (r : Fin 64) : From o (State.mirror1 s0 s co sh l r) := by
  unfold State.mirror1
  dsimp only
  split
  · exact .ite h (.ite (h.updLane ..) (h.updLane ..))
  · exact h

theorem From.mirror (h : From o s) (s0 : State) : From o (State.mirror s0 s) := by
  refine h.foldl (fun t sh ht => ?_) _
  split
  · exact ht.foldl (fun _ _ hu => hu.foldl (fun _ _ hv => hv.mirror1 ..) _) _
  · exact ht

end Sys2Proof.Machine
end

section
/-! What every step keeps: the departure of a room, which adds a coach and its shadow wave (15_travellers.md R336, R337,
18_scheduling.md R408). -/

namespace Sys2Proof.Machine

open Sys2Proof.Terms

variable {o : Origin} {s t u : State}

/-! ### What a step keeps -/

/-- The invariants of `s` hold in `t`. -/
structure Keeps (s t : State) : Prop where
  paired : Paired s → Paired t
  mem : Memory.wf s.mem = true → Memory.wf t.mem = true
  lwords : swf LWord.fresh s.lwords = true → swf LWord.fresh t.lwords = true
  homes : swf Home.fresh s.homes = true → swf Home.fresh t.homes = true

theorem Keeps.refl (s : State) : Keeps s s := ⟨id, id, id, id⟩

theorem Keeps.trans (h : Keeps s t) (h' : Keeps t u) : Keeps s u :=
  ⟨h'.paired ∘ h.paired, h'.mem ∘ h.mem, h'.lwords ∘ h.lwords, h'.homes ∘ h.homes⟩

theorem From.keeps (h : From o s) : Keeps o.state s := ⟨h.paired, h.mem, h.lwords, h.homes⟩

/-- What an outcome goes to keeps the invariants of `s`. -/
structure KeepsOut (s : State) (r : Host.Outcome State Fault Refusal) : Prop where
  out : ∀ t, r = .next t → Keeps s t

theorem KeepsOut.next (h : Keeps s t) : KeepsOut s (.next t) := ⟨fun _ ht => by cases ht; exact h⟩

theorem FromOut.keeps {r : Host.Outcome State Fault Refusal} (h : FromOut o r) : KeepsOut o.state r := ⟨fun t ht => (h.out t ht).keeps⟩

/-! ### A coach's kind and lanes while its room departs -/

/-- The kind and the number of lanes of a unit. -/
def State.shape (s : State) (u : Nat) : Option (UKind × Nat) := (s.agent? u).map fun a => (a.kind, a.lanes.length)

theorem shape_updLane (s : State) (v l u : Nat) (f : Lane → Lane) : (s.updLane v l f).shape u = s.shape u := by
  unfold State.shape
  rw [State.agent?_updLane]
  split
  · cases s.agent? u with
    | none => rfl
    | some a => exact congrArg (fun n => some (a.kind, n)) (List.length_modify ..)
  · rfl

theorem shape_foldl_updLane {α : Type} (v l : α → Nat) (f : α → Lane → Lane) (u : Nat) (xs : List α) (s : State) :
    (xs.foldl (fun s x => s.updLane (v x) (l x) (f x)) s).shape u = s.shape u := by
  induction xs generalizing s with
  | nil => rfl
  | cons x xs ih => exact (ih _).trans (shape_updLane ..)

theorem agents_foldl {α : Type} {f : State → α → State} (hf : ∀ s x, (f s x).agents = s.agents) (xs : List α) (s : State) :
    (xs.foldl f s).agents = s.agents := by
  induction xs generalizing s with
  | nil => rfl
  | cons x xs ih => exact (ih _).trans (hf ..)

theorem agents_putLbytes (s : State) (c : CoreId) (off : Nat) (bs : List Byte) (bad : Bool) :
    (s.putLbytes c off bs bad).agents = s.agents := by
  refine (agents_foldl (fun s x => ?_) _ _).trans (agents_foldl (fun s x => ?_) _ _)
  · rfl
  · rfl

theorem shape_of_agents {s t : State} (h : t.agents = s.agents) (u : Nat) : t.shape u = s.shape u := by
  unfold State.shape State.agent?
  rw [h]

theorem shape_setAgent {a b : Agent} (ha : s.agent? b.uid = some a) (hk : b.kind = a.kind) (hl : b.lanes = a.lanes) (u : Nat) :
    (s.setAgent b).shape u = s.shape u := by
  unfold State.shape
  rw [State.agent?_setAgent s b a u ha]
  split
  · next hu => rw [hu, ha, Option.map_some, Option.map_some, hk, hl]
  · rfl

theorem shape_writeSwap (s : State) (v area u : Nat) : (s.writeSwap v area).shape u = s.shape u := by
  unfold State.writeSwap
  split
  · rfl
  · next a ha =>
    have hput := agents_putLbytes s a.place.coreId (0x54000 + 0x2800 * area) (s.warpBytes a) false
    dsimp only
    generalize s.putLbytes _ _ _ _ = p at hput ⊢
    refine (shape_setAgent (s := p) (a := a) ?_ ?_ ?_ u).trans (shape_of_agents hput u)
    · unfold State.agent?
      rw [hput, show _ = v from (State.agent?_mem ha).2]
      exact ha
    · rfl
    · rfl

/-- The unit of a shape. -/
theorem of_shape {u : Nat} {x : UKind × Nat} (hn : (s.agents.map (·.uid)).Nodup) (h : s.shape u = some x) {a : Agent} (ha : a ∈ s.agents)
    (hu : a.uid = u) : a.kind = x.1 ∧ a.lanes.length = x.2 := by
  unfold State.shape at h
  rw [← hu, State.agent?_of_mem hn ha] at h
  cases h
  exact ⟨rfl, rfl⟩

/-! ### A shadow wave beside its coach -/

/-- The coach gets its partner, and the shadow wave comes. -/
def State.addShadow (s : State) (u : Nat) (sh : Agent) : State :=
  { s.updAgent u fun a => { a with partner := some (u + 1) } with
    agents := (s.updAgent u fun a => { a with partner := some (u + 1) }).agents ++ [sh] }

/-- Where no unit and no partner has a number from `u` on but the coach of that number itself, its shadow wave pairs with it. -/
theorem paired_addShadow {u : Nat} {sh : Agent} (hp : Paired s) (hnext : u + 1 < s.nextId) (hshape : s.shape u = some (.coach, 32))
    (hold : ∀ a ∈ s.agents, a.uid ≤ u) (hpartner : ∀ a ∈ s.agents, ∀ n, a.partner = some n → n < u) (hsh : sh.uid = u + 1)
    (hshp : sh.partner = some u) (hshl : sh.lanes.length = 32) : Paired (s.addShadow u sh) := by
  obtain ⟨hnodup, hbound, hpairs⟩ := hp
  have huid (a : Agent) : (if a.uid = u then { a with partner := some (u + 1) } else a).uid = a.uid := by
    split <;> rfl
  have hmem : ∀ x ∈ (s.addShadow u sh).agents, x = sh ∨ (∃ a ∈ s.agents, a.uid = u ∧ x = { a with partner := some (u + 1) }) ∨
      (x ∈ s.agents ∧ x.uid ≠ u) := by
    intro x hx
    rcases List.mem_append.1 hx with hx | hx
    · obtain ⟨a, ha, rfl⟩ := List.mem_map.1 hx
      split
      · next hu => exact .inr (.inl ⟨a, ha, hu, rfl⟩)
      · next hu => exact .inr (.inr ⟨ha, hu⟩)
    · exact .inl (List.mem_singleton.1 hx)
  have hcoach {a : Agent} (ha : a ∈ s.agents) (hu : a.uid = u) := of_shape hnodup hshape ha hu
  refine ⟨?_, fun x hx => ?_, fun x hx y hy hk hn => ?_⟩
  · show (List.map (·.uid) (List.map _ s.agents ++ [sh])).Nodup
    rw [List.map_append, List.map_map, show ((·.uid) ∘ fun a : Agent => if a.uid = u then { a with partner := some (u + 1) } else a) =
      (·.uid) from funext huid]
    refine List.nodup_append.2 ⟨hnodup, nodup_singleton _, fun i hi j hj => ?_⟩
    obtain ⟨a, ha, rfl⟩ := List.mem_map.1 hi
    rw [show j = u + 1 by simpa [hsh] using hj]
    exact Nat.ne_of_lt (Nat.lt_succ_of_le (hold a ha))
  · show x.uid < s.nextId ∧ ∀ n, x.partner = some n → n < s.nextId
    rcases hmem x hx with rfl | ⟨a, ha, hu, rfl⟩ | ⟨ha, _⟩
    · exact ⟨hsh ▸ hnext, fun n hn => by rw [hshp] at hn; cases hn; omega⟩
    · exact ⟨(hbound a ha).1, fun n hn => by cases hn; exact hnext⟩
    · exact hbound x ha
  · rcases hmem x hx with rfl | ⟨a, ha, hu, rfl⟩ | ⟨ha, hxu⟩
    · rw [hshp] at hn
      have hyu : y.uid = u := (Option.some.inj hn).symm
      rcases hmem y hy with rfl | ⟨c, hc, hcu, rfl⟩ | ⟨_, hne⟩
      · omega
      · exact ⟨(hcoach hc hcu).1, congrArg some hsh.symm, (hcoach hc hcu).2, hshl⟩
      · exact absurd hyu hne
    · have hk' : a.kind = .shadow := hk
      rw [(hcoach ha hu).1] at hk'
      cases hk'
    · have hlt := hpartner x ha _ hn
      rcases hmem y hy with rfl | ⟨c, hc, hcu, rfl⟩ | ⟨hy', _⟩
      · omega
      · exact absurd hcu (Nat.ne_of_lt hlt)
      · exact hpairs x ha y hy' hk hn

/-! ### Departure -/

theorem length_coach (r : Room) (s : State) (uid : Nat) (place : Place) (st : UStatus) (who : Option Agent) :
    (r.coach s uid place st who).lanes.length = 32 := by
  unfold Room.coach
  dsimp only
  rw [List.length_take, List.length_append, List.length_replicate]
  omega

theorem shape_of_mem {a : Agent} (hp : Paired s) (ha : a ∈ s.agents) : s.shape a.uid = some (a.kind, a.lanes.length) := by
  unfold State.shape
  rw [State.agent?_of_mem hp.1 ha]
  rfl

/-- The coach's shadow wave is added to a state that comes from the one in which the coach has been added last. -/
theorem keeps_addShadow {co sh : Agent} (hp : From ⟨s, true⟩ t) (hco : co.uid = t.nextId) (hnone : co.partner = none)
    (hkind : co.kind = .coach) (hlanes : co.lanes.length = 32)
    (hu : From ⟨{ t with agents := t.agents ++ [co], nextId := t.nextId + 2 }, false⟩ u)
    (hshape : u.shape t.nextId = State.shape { t with agents := t.agents ++ [co], nextId := t.nextId + 2 } t.nextId)
    (hsh : sh.uid = t.nextId + 1) (hshp : sh.partner = some t.nextId) (hshl : sh.lanes.length = 32) :
    Keeps s (u.addShadow t.nextId sh) := by
  have hadded : From ⟨s, true⟩ { t with agents := t.agents ++ [co], nextId := t.nextId + 2 } := (hp.addUnit rfl hco hnone).bump 1
  have hall := hadded.trans hu
  refine ⟨fun hs => ?_, hall.mem, hall.lwords, hall.homes⟩
  have hpt := hp.paired hs
  have hpa := hadded.paired hs
  have hstand (a : Agent) (ha : a ∈ u.agents) : a.uid ≤ t.nextId ∧ ∀ n, a.partner = some n → n < t.nextId := by
    rcases (hu.units hpa).stand a ha with ⟨b, hb, htag⟩ | ⟨hg, _⟩
    · rw [uid_of_tags htag, partner_of_tags htag]
      rcases List.mem_append.1 hb with hb | hb
      · exact ⟨Nat.le_of_lt (hpt.2.1 b hb).1, (hpt.2.1 b hb).2⟩
      · rw [List.mem_singleton.1 hb, hco, hnone]
        exact ⟨Nat.le_refl _, fun n hn => nomatch hn⟩
    · cases hg
  refine paired_addShadow (hall.paired hs) (Nat.lt_of_lt_of_le (Nat.lt_succ_self _) hu.next) ?_ (fun a ha => (hstand a ha).1)
    (fun a ha => (hstand a ha).2) hsh hshp hshl
  have hcoach := shape_of_mem hpa (List.mem_append_right _ (List.mem_singleton_self co))
  rw [hkind, hlanes, hco] at hcoach
  exact hshape.trans hcoach

theorem keeps_depart (s : State) (r : Room) (core : Nat) : Keeps s (s.depart r core) := by
  unfold State.depart
  extract_lets k freed who ls noted q outer x u st co src added linked swap swapped y sh st' partnered departed
  have hx : From ⟨s, true⟩ x.1 := From.pickContext (From.chooseNat (s := noted) (.refl s true) r.callers.length) k
  have hlinked : From ⟨added, false⟩ linked := (From.refl added false).foldl (fun _ _ h => h.updLane ..) _
  have hswap {o : Origin} {t : State} (ht : From o t) (n : Nat) (st : UStatus) : From o (swap t n st) := .ite (ht.writeSwap ..) ht
  have hdeparted : Keeps s departed := by
    unfold departed
    split
    · exact (((hx.addUnit (a := co) rfl rfl rfl).bump 1).trans (hswap hlinked ..)).keeps
    · have hy : From ⟨added, false⟩ y.1 := (hswap hlinked ..).pickContext k
      have hshape : y.1.shape u = added.shape u := by
        have hlink : linked.shape u = added.shape u := shape_foldl_updLane (fun w : Caller × Nat => w.1.uid) (fun w => w.1.lane) _ u _ added
        refine Eq.trans ?_ hlink
        show swapped.shape u = _
        unfold swapped swap
        split
        · exact shape_writeSwap ..
        · rfl
      have hpair : Keeps s (y.1.addShadow u sh) := keeps_addShadow (co := co) hx rfl rfl rfl (length_coach ..) hy hshape rfl rfl
        ((List.length_map ..).trans (length_coach ..))
      exact hpair.trans (hswap (.refl (y.1.addShadow u sh) false) ..).keeps
  exact hdeparted.trans (From.seatWaiters (From.tally (.refl departed false) ..) _).keeps

theorem keeps_execRoomDepart (s : State) (cluster room core : Nat) : KeepsOut s (execRoomDepart cluster room core s) := by
  have hnoted : Keeps s (s.noteRooms cluster) := (From.noteRooms (.refl s false) cluster).keeps
  unfold Machine.execRoomDepart
  dsimp only
  split
  · next r k _ =>
    split
    · refine .next ?_
      have hgone := hnoted.trans (keeps_depart (s.noteRooms cluster) r k)
      exact ⟨hgone.paired, hgone.mem, hgone.lwords, hgone.homes⟩
    · exact .next hnoted
  · exact .next hnoted

end Sys2Proof.Machine
end

section
/-! What every step keeps: the instructions on registers, the loads and stores, the forms on local stores, engine commands and
tile instructions (09_isa_arrival.md, 10_isa_lane.md, 11_isa_tiles.md, 13_isa_return.md). -/

namespace Sys2Proof.Machine

open Sys2Proof.Terms

variable {o : Origin} {s t : State}

/-! ### Completion of producers, a uniform destination -/

theorem From.execDivCompletion (h : From o s) (op : Nat) : FromOut o (execDivCompletion op s) := by
  unfold Machine.execDivCompletion
  split
  · split
    · exact .next (From.fillRegs h ..)
    · exact .next h
  · exact .next h

theorem From.execMovs (h : From o s) (g : Guard) (t : ITy) (d : SReg) (a : Src) : FromOut o (execMovs g t d a s) := by
  unfold Machine.execMovs
  extract_lets x
  exact FromOut.issue h (fun _ _ ht => ht.busyExec (fun _ _ hu => hu.laneExec ..) ..) ..

/-! ### Loads -/

theorem From.execLdQ64 (h : From o s) (g : Guard) (size : Size) (sx acq : Bool) (lease : BitVec 3) (d : GReg) (m : MemArg) :
    FromOut o (execLdQ64 g size sx acq lease d m s) := FromOut.issue h (fun _ _ ht => ht.loadExec ..) ..

theorem From.execLdI32 (h : From o s) (d a : GReg) (imm : BitVec 10) : FromOut o (execLdI32 d a imm s) :=
  FromOut.issue h (fun _ _ ht => ht.loadExec ..) ..

theorem From.execLdu (h : From o s) (g : Guard) (size : Size) (sx acq : Bool) (lease : BitVec 3) (d : SReg) (m : MemArg) :
    FromOut o (execLdu g size sx acq lease d m s) :=
  FromOut.issue h (fun _ _ ht => ht.busyExec (fun _ _ hu =>
    hu.onceExec (fun _ _ _ _ hv => (hv.loadCheck ..).chkThen fun _ _ hw => hw) (fun _ _ _ _ hv => hv.sendLoad ..) ..) ..) ..

theorem From.execLdw (h : From o s) (g : Guard) (size : Size) (sx : Bool) (lease : BitVec 3) (d : GReg) (m : MemArg) :
    FromOut o (execLdw g size sx lease d m s) :=
  h.memLanes (fun _ _ _ _ ht => (ht.watchedCheck ..).chkThen fun _ _ hu => hu) (fun _ _ _ _ ht => ht.sendWatched ..) ..

/-! ### Stores, atomics, reductions -/

theorem From.execStQ64 (h : From o s) (g : Guard) (size : Size) (rel : Bool) (lease : BitVec 3) (d : Src) (m : MemArg) :
    FromOut o (execStQ64 g size rel lease d m s) := FromOut.issue h (fun _ _ ht => ht.storeExec ..) ..

theorem From.execStI32 (h : From o s) (d a : GReg) (imm : BitVec 10) : FromOut o (execStI32 d a imm s) :=
  FromOut.issue h (fun _ _ ht => ht.storeExec ..) ..

theorem From.execAtom (h : From o s) (g : Guard) (op : AtomOp) (w64 : Bool) (ord : Ord4) (d : GReg) (m : MemArg) (v k : Src) :
    FromOut o (execAtom g op w64 ord d m v k s) :=
  h.memLanes (fun _ _ _ _ ht => (ht.atomCheck ..).chkThen fun _ _ hu => hu) (fun _ _ _ _ ht => ht.sendAtomic ..) ..

theorem From.execRed (h : From o s) (g : Guard) (op : RedOp) (t : RedTy) (rel : Bool) (d : Src) (m : MemArg) :
    FromOut o (execRed g op t rel d m s) :=
  h.memLanes (fun _ _ _ _ ht => (ht.atomCheck ..).chkThen fun _ _ hu => hu) (fun _ _ _ _ ht => ht.sendRed ..) ..

/-! ### Forms on local stores, fences -/

theorem From.execSetf (h : From o s) (g : Guard) (w64 rel : Bool) (d : Src) (m : MemArg) : FromOut o (execSetf g w64 rel d m s) :=
  h.memLanes (fun _ _ _ _ ht => (ht.localCheck ..).chkThen fun _ _ hu => (hu.poisonCheck ..).chkThen fun _ _ hv =>
    (hv.writeCheck ..).chkThen fun _ _ hw => (hw.ackedCheck ..).chkThen fun _ _ hx => hx) (fun _ _ _ _ ht => ht.sendLocal ..) ..

theorem From.execClrf (h : From o s) (g : Guard) (w64 : Bool) (m : MemArg) : FromOut o (execClrf g w64 m s) :=
  h.memLanes (fun _ _ _ _ ht => (ht.localCheck ..).chkThen fun _ _ hu => (hu.poisonCheck ..).chkThen fun _ _ hv =>
    (hv.writeCheck ..).chkThen fun _ _ hw => hw) (fun _ _ _ _ ht => ht.sendLocal ..) ..

theorem From.execBarinit (h : From o s) (g : Guard) (d : Src) (m : MemArg) : FromOut o (execBarinit g d m s) :=
  h.memLanes (fun _ _ _ _ ht => (ht.barCheck ..).chkThen fun _ _ hu => hu) (fun _ _ _ _ ht => ht.sendLocal ..) ..

theorem From.execBararr (h : From o s) (g : Guard) (rel : Bool) (d : GReg) (m : MemArg) : FromOut o (execBararr g rel d m s) :=
  h.memLanes (fun _ _ _ _ ht => (ht.barCheck ..).chkThen fun _ _ hu => hu) (fun _ _ _ _ ht => ht.sendLocal ..) ..

theorem From.execBarexp (h : From o s) (g : Guard) (dir : BarDir) (rel : Bool) (d : Src) (scope : Scope) (base : Src) (off : BitVec 14) :
    FromOut o (execBarexp g dir rel d scope base off s) :=
  h.memLanes (fun _ _ _ _ ht => (ht.barCheck ..).chkThen fun _ _ hu => hu) (fun _ _ _ _ ht => ht.sendLocal ..) ..

theorem From.execDepdec (h : From o s) (g : Guard) (rel : Bool) (m : MemArg) : FromOut o (execDepdec g rel m s) :=
  h.memLanes (fun _ _ _ _ ht => (ht.recordCheck ..).chkThen fun _ _ hu => (hu.poisonCheck ..).chkThen fun _ _ hv =>
    (hv.writeCheck ..).chkThen fun _ _ hw => hw) (fun _ _ _ _ ht => ht.sendDec ..) ..

theorem From.execFence (h : From o s) (g : Guard) (kind : FenceKind) (ord : Ord4) (scope : Scope) :
    FromOut o (execFence g kind ord scope s) :=
  h.memLanes (fun _ _ _ _ ht => From.chkThen (.iteFst (ht.watchLost ..) ht) fun _ _ hu => (hu.lostCheck ..).chkThen fun _ _ hv =>
    hv.fenceWaits ..) (fun _ _ _ _ ht => ht.fenced ..) ..

theorem From.execDrain (h : From o s) : FromOut o (execDrain s) :=
  h.memLanes (fun _ _ _ _ ht => ht.releaseCheck ..) (fun _ _ _ _ ht => ht) ..

theorem From.execDrainArrive (h : From o s) (a : GReg) : FromOut o (execDrainArrive a s) :=
  h.memLanes (fun _ _ _ _ ht => (ht.releaseCheck ..).chkThen fun _ _ hu => (hu.barCheck ..).chkThen fun _ _ hv => hv)
    (fun _ _ _ _ ht => ht.sendLocal ..) ..

theorem From.execPref (h : From o s) (g : Guard) (lease : BitVec 3) (m : MemArg) : FromOut o (execPref g lease m s) :=
  h.memLanes (check := fun _ s _ x => (s, .ok (eaOf (x.v 0) m.off))) (fun _ _ _ _ ht => ht) (fun _ _ _ _ ht => (ht.bump 1).prefetch _) ..

theorem From.execProbe (h : From o s) (g : Guard) (kind : ProbeKind) (d : GReg) (m : MemArg) : FromOut o (execProbe g kind d m s) :=
  h.memLanes (fun _ _ _ _ ht => ht.probe ..) (fun _ _ _ _ ht => ht.fillRegs ..) ..

theorem From.execTinv (h : From o s) (g : Guard) (dev : Bool) (job a : GReg) (am : ReadMode) :
    FromOut o (execTinv g dev job a am s) :=
  h.memLanes (fun _ _ _ _ ht => .iteFst ht (ht.dropTlbs ..)) (fun _ _ _ _ ht => ht) ..

/-! ### HSIFT, BINS, TWALK -/

theorem From.execHsift (h : From o s) (g : Guard) (t : KeyTy) (bot : Bool) (k : BitVec 6) (d : GReg) (a b : Src) :
    FromOut o (execHsift g t bot k d a b s) := by
  refine h.memLanes (fun c u l x hu => (hu.acqCheck _).chkThen fun v _ hv => ?_) (fun _ _ _ _ ht => ht.produce ..) ..
  split
  · exact hv
  · split
    · exact hv
    · exact hv

theorem From.execHsiftCompletion (h : From o s) (op : Nat) : FromOut o (execHsiftCompletion op s) := by
  unfold Machine.execHsiftCompletion
  split
  · split
    · extract_lets before words r swept noted
      have hswept : From o swept := h.foldl (fun t i ht => .ite ht ((ht.putLword ..).putLword ..)) _
      refine .ite (.next h) (.next (From.fillRegs (s := { noted with pendings := _ }) ?_ ..))
      exact hswept.noteLrt ..
    · exact .next h
  · exact .next h

theorem From.execBins (h : From o s) (g : Guard) (t : KeyTy) (lt : Bool) (m : BitVec 8) (lease : BitVec 3) (d : GReg) (a b : Src) :
    FromOut o (execBins g t lt m lease d a b s) := by
  refine h.memLanes (fun c u l x hu => (hu.binsCheck ..).chkThen fun _ _ hv => hv) (fun c u l r hu => ?_) ..
  extract_lets dst pended id numbered q
  have hq : From o q.1 := by
    unfold q
    refine From.foldlFst (((hu.touch ..).pendDest ..).bump 1) (fun r x hr => ?_) _
    exact hr.elemPieces ..
  refine From.presentAll ?_ _
  exact hq

theorem From.execTwalk (h : From o s) (g : Guard) (lease : BitVec 3) (n : BitVec 16) (d : GReg) (a b : Src) :
    FromOut o (execTwalk g lease n d a b s) := by
  refine h.memLanes (fun _ _ _ _ ht => (ht.acqCheck _).chkThen fun _ _ hu => (hu.openWalk ..).walkCheck ..)
    (fun c u l r hu => ?_) ..
  extract_lets dst p
  exact hu.pendDestNext c.uid l dst

/-! ### Forms that park, engine commands, tile instructions -/

theorem From.sync (h : From o s) (i : Instr) (g : Guard) (kind : WaitKind) (os : List Opnd) (ds : List GReg) (d : Ctx → Dest)
    (rel acq sys : Bool) {check : Ctx → State → Nat → LaneIn → State × Chk SyncAcc}
    (hcheck : ∀ c t l x, From o t → From o (check c t l x).1) :
    FromOut o (issue i g s (Machine.syncExec kind os ds d rel acq sys check)) :=
  FromOut.issue h (fun _ _ ht => ht.syncExec _ _ _ _ _ _ _ hcheck _) ..

theorem From.execLdf (h : From o s) (g : Guard) (w64 acq : Bool) (d : GReg) (m : MemArg) : FromOut o (execLdf g w64 acq d m s) :=
  h.sync _ _ _ _ _ _ _ _ _ fun _ _ _ _ ht => ht.syncCheck ..

theorem From.execTake (h : From o s) (g : Guard) (w64 acq : Bool) (d : GReg) (m : MemArg) : FromOut o (execTake g w64 acq d m s) :=
  h.sync _ _ _ _ _ _ _ _ _ fun _ _ _ _ ht => ht.syncCheck ..

theorem From.execFill (h : From o s) (g : Guard) (w64 rel : Bool) (d : Src) (m : MemArg) : FromOut o (execFill g w64 rel d m s) :=
  h.sync _ _ _ _ _ _ _ _ _ fun _ _ _ _ ht => ht.syncCheck ..

theorem From.execBarwait (h : From o s) (g : Guard) (acq : Bool) (d : Src) (m : MemArg) : FromOut o (execBarwait g acq d m s) :=
  h.sync _ _ _ _ _ _ _ _ _ fun _ _ _ _ ht => ht.syncCheck ..

theorem From.engineCommand (h : From o s) (i : Instr) (g : Guard) (cls : Nat) (q : Bool) (d : GReg) (os : List Opnd)
    (op : Ctx → LaneIn → CmdOp) : FromOut o (issue i g s (Machine.cmdExec cls q d os op)) :=
  FromOut.issue h (fun _ _ ht => ht.cmdExec ..) ..

theorem From.tile (h : From o s) (i : Instr) (g : Guard) (os : List Opnd) (check : Tiles → LaneIn → Except (BitVec 8) MKind) :
    FromOut o (issue i g s (Machine.tileExec os check)) :=
  FromOut.issue h (fun _ _ ht => ht.tileExec ..) ..

theorem From.tileTransfer (h : From o s) (i : Instr) (g : Guard) (load q : Bool) (lease : BitVec 3) (d : GReg) (t : TReg) (m : MemArg)
    (stride : Src) : FromOut o (issue i g s (Machine.tileCmd load q lease d t m stride)) :=
  FromOut.issue h (fun _ _ ht => ht.tileCmd ..) ..

end Sys2Proof.Machine
end

section
/-! What every step keeps: every instruction and every event of the opcode table, one lemma for each or for its shape. -/

namespace Sys2Proof.Machine

open Sys2Proof.Terms

variable {o : Origin} {s t : State}

/-- The departure of a room adds two units and is `keeps_execRoomDepart`. -/
theorem From.exec (h : From o s) (hg : o.grows = true) {i : Instr} (hi : ∀ cluster room core, i ≠ .roomDepart cluster room core) :
    FromOut o (exec i s) :=
  match i with
  | .roomDepart cluster room core => absurd rfl (hi cluster room core)
  | .addZ32 .. | .subZ32 .. | .mulZ32 .. | .mulhZ32 .. | .minZ32 .. | .maxZ32 .. | .andZ32 .. | .orZ32 .. | .xorZ32 .. |
    .andnZ32 .. | .shlZ32 .. | .shrZ32 .. | .sarZ32 .. | .rotZ32 .. | .addQ64 .. | .subQ64 .. | .mulQ64 .. | .mulhQ64 .. |
    .minQ64 .. | .maxQ64 .. | .andQ64 .. | .orQ64 .. | .xorQ64 .. | .andnQ64 .. | .shlQ64 .. | .shrQ64 .. | .sarQ64 .. |
    .rotQ64 .. => h.int2 ..
  | .selZ32 .. | .moviI32 .. | .fminZ32 .. | .fmaxZ32 .. | .pnot .. | .mad .. | .bfe .. | .bfi .. | .selQ64 .. |
    .leaQ64 .. | .cmp .. | .fcmp .. | .ffma .. | .fminQ64 .. | .fmaxQ64 .. | .cvt .. | .pack .. | .upk .. | .dot4 .. |
    .dot8 .. | .shfl .. | .bcast .. | .vote .. | .redl .. | .scanl .. | .first .. | .rand .. | .tmask .. | .moviX96 .. |
    .leaX96 .. | .leaPc .. => h.lanes ..
  | .movZ32 .. | .notZ32 .. | .negZ32 .. | .absZ32 .. | .clzZ32 .. | .popcZ32 .. | .brevZ32 .. | .notQ64 .. | .negQ64 .. |
    .absQ64 .. | .clzQ64 .. | .popcQ64 .. | .brevQ64 .. | .movQ64 .. => h.int1 ..
  | .addI32 .. | .mulI32 .. | .minI32 .. | .maxI32 .. | .andI32 .. | .orI32 .. | .xorI32 .. | .shlI32 .. | .shrI32 .. |
    .sarI32 .. | .rotI32 .. => h.intImm ..
  | .faddZ32 .. | .fsubZ32 .. | .fmulZ32 .. | .faddQ64 .. | .fsubQ64 .. | .fmulQ64 .. => h.flt2 ..
  | .pand .. | .por .. | .pxor .. => h.prd2 ..
  | .div .. | .rem .. => h.divide ..
  | .frcp .. | .frsq .. | .fsqrt .. | .fexp2 .. | .flog2 .. => h.flt1 ..
  | .tzero .. | .accz .. | .mma .. | .mmas .. | .mmc .. | .acccvt .. => h.tile ..
  | .copy .. | .gather .. | .scadd .. | .quant .. | .tgenNew .. | .tgenApp .. | .tgenClose .. => h.engineCommand ..
  | .tld .. | .tst .. => h.tileTransfer ..
  | .negotiateAlgorithms .. | .getVersion | .getCapabilities => .next (h.respond ..)
  | .sagRecoveryStep .. | .supplyRecovery .. => .next (h.updSag ..)
  | .flitCrcFailure .. => .next h
  | .powerOff | .overTemperature => .next h.turnOff
  | .brJ32 .. => h.execBrJ32 ..
  | .callJ32 .. => h.execCallJ32 ..
  | .chk .. => h.execChk ..
  | .calli .. => h.execCalli ..
  | .calliTail .. => h.execCalliTail ..
  | .drainArrive .. => h.execDrainArrive ..
  | .trap .. => h.execTrap ..
  | .ldI32 .. => h.execLdI32 ..
  | .stI32 .. => h.execStI32 ..
  | .movs .. => h.execMovs ..
  | .hsift .. => h.execHsift ..
  | .bins .. => h.execBins ..
  | .twalk .. => h.execTwalk ..
  | .ldQ64 .. => h.execLdQ64 ..
  | .ldu .. => h.execLdu ..
  | .ldw .. => h.execLdw ..
  | .ldf .. => h.execLdf ..
  | .take .. => h.execTake ..
  | .fill .. => h.execFill ..
  | .setf .. => h.execSetf ..
  | .clrf .. => h.execClrf ..
  | .pref .. => h.execPref ..
  | .probe .. => h.execProbe ..
  | .tinv .. => h.execTinv ..
  | .stQ64 .. => h.execStQ64 ..
  | .fence .. => h.execFence ..
  | .barinit .. => h.execBarinit ..
  | .bararr .. => h.execBararr ..
  | .barwait .. => h.execBarwait ..
  | .barexp .. => h.execBarexp ..
  | .depdec .. => h.execDepdec ..
  | .waitt .. => h.execWaitt ..
  | .mfc .. => h.execMfc ..
  | .mtc .. => h.execMtc ..
  | .brc .. => h.execBrc ..
  | .bru .. => h.execBru ..
  | .brkd .. => h.execBrkd ..
  | .loop .. => h.execLoop ..
  | .loopr .. => h.execLoopr ..
  | .lsave .. => h.execLsave ..
  | .lrest .. => h.execLrest ..
  | .gcall .. => h.execGcall ..
  | .gcalli .. => h.execGcalli ..
  | .retg .. => h.execRetg ..
  | .migrate .. => h.execMigrate ..
  | .route .. => h.execRoute ..
  | .rethome .. => h.execRethome ..
  | .routeset .. => h.execRouteset ..
  | .rcsnap .. => h.execRcsnap ..
  | .spawn .. => h.execSpawn hg ..
  | .taskmk .. => h.execTaskmk ..
  | .cancel .. => h.execCancel ..
  | .cntw .. => h.execCntw ..
  | .role .. => h.execRole ..
  | .wmopen .. => h.execWmopen ..
  | .wmclose .. => h.execWmclose ..
  | .wmapp .. => h.execWmapp ..
  | .wmprop .. => h.execWmprop ..
  | .wmlen .. => h.execWmlen ..
  | .wmsave .. => h.execWmsave ..
  | .wmload .. => h.execWmload ..
  | .wmown .. => h.execWmown ..
  | .tcfg .. => h.execTcfg ..
  | .tpack .. => h.execTpack ..
  | .tunpk .. => h.execTunpk ..
  | .cellp .. => h.execCellp ..
  | .tsave .. => h.execTsave ..
  | .trest .. => h.execTrest ..
  | .twait .. => h.execTwait ..
  | .atom .. => h.execAtom ..
  | .red .. => h.execRed ..
  | .accld .. => h.execAccld ..
  | .accst .. => h.execAccst ..
  | .accsend .. => h.execAccsend ..
  | .brX96 .. => h.execBrX96 ..
  | .callX96 .. => h.execCallX96 ..
  | .illegalInstruction .. => h.execIllegalInstruction ..
  | .fetchFault .. => h.execFetchFault ..
  | .homeRead .. => h.execHomeRead ..
  | .homeRenewal .. => h.execHomeRenewal ..
  | .homeOwnership .. => h.execHomeOwnership ..
  | .homeWriteback .. => h.execHomeWriteback ..
  | .homeAtomic .. => h.execHomeAtomic ..
  | .homeUpdateJoin .. => h.execHomeUpdateJoin ..
  | .watchRenewal .. => h.execWatchRenewal ..
  | .fillReply .. => h.execFillReply ..
  | .ownershipGrant .. => h.execOwnershipGrant ..
  | .confirm .. => h.execConfirm ..
  | .strike .. => h.execStrike ..
  | .sweep .. => h.execSweep ..
  | .sweepNotice .. => h.execSweepNotice ..
  | .timeExchange .. => h.execTimeExchange ..
  | .creep .. => h.execCreep ..
  | .clusterEviction .. => h.execClusterEviction ..
  | .tableWalk .. => h.execTableWalk ..
  | .acknowledge .. => h.execAcknowledge ..
  | .remoteAccess .. => h.execRemoteAccess ..
  | .remoteReply .. => h.execRemoteReply ..
  | .remoteReissue .. => h.execRemoteReissue ..
  | .depdecResend .. => h.execDepdecResend ..
  | .waitLimit .. => h.execWaitLimit ..
  | .divCompletion .. => h.execDivCompletion ..
  | .wmpropCompletion .. => h.execWmpropCompletion ..
  | .copyExecute .. => h.execCopyExecute ..
  | .gatherExecute .. => h.execGatherExecute ..
  | .scaddExecute .. => h.execScaddExecute ..
  | .quantExecute .. => h.execQuantExecute ..
  | .tgenExecute .. => h.execTgenExecute ..
  | .tgenPublish .. => h.execTgenPublish ..
  | .tgenCloseExecute .. => h.execTgenCloseExecute ..
  | .tileLoadExecute .. => h.execTileLoadExecute ..
  | .tileStoreExecute .. => h.execTileStoreExecute ..
  | .commandCompletion .. => h.execCommandCompletion ..
  | .matrixExecute .. => h.execMatrixExecute ..
  | .accsendFlag .. => h.execAccsendFlag ..
  | .roomLimit .. => h.execRoomLimit ..
  | .migrationArrival .. => h.execMigrationArrival ..
  | .arrivalPlacement .. => h.execArrivalPlacement ..
  | .unitDispatch .. => h.execUnitDispatch hg ..
  | .codeletStart .. => h.execCodeletStart hg ..
  | .launchCompletion .. => h.execLaunchCompletion ..
  | .nodeRun .. => h.execNodeRun ..
  | .cancelPoint .. => h.execCancelPoint ..
  | .quiescence .. => h.execQuiescence ..
  | .quiescenceReport .. => h.execQuiescenceReport ..
  | .warpSwap .. => h.execWarpSwap ..
  | .launch .. => h.execLaunch ..
  | .graph .. => h.execGraph ..
  | .phase .. => h.execPhase ..
  | .wait .. => h.execWait ..
  | .signal .. => h.execSignal ..
  | .hostCancel .. => h.execHostCancel ..
  | .hostCopy .. => h.execHostCopy ..
  | .hostFence .. => h.execHostFence ..
  | .dbell .. => h.execDbell ..
  | .queueEnable .. => h.execQueueEnable ..
  | .queueReset .. => h.execQueueReset ..
  | .spillSlot .. => h.execSpillSlot ..
  | .restoreSlot .. => h.execRestoreSlot hg ..
  | .preemptWarp .. => h.execPreemptWarp ..
  | .resumeWarp .. => h.execResumeWarp hg ..
  | .evsel .. => h.execEvsel ..
  | .ltimeWrite .. => h.execLtimeWrite ..
  | .clgrantWrite .. => h.execClgrantWrite ..
  | .clmaskWrite .. => h.execClmaskWrite ..
  | .leasesWrite .. => h.execLeasesWrite ..
  | .registerWrite .. => h.execRegisterWrite ..
  | .hostRead .. => h.execHostRead ..
  | .hostWrite .. => h.execHostWrite ..
  | .hostOwnershipRequest .. => h.execHostOwnershipRequest ..
  | .backInvalidateReply .. => h.execBackInvalidateReply ..
  | .snoopInvalidate .. => h.execSnoopInvalidate ..
  | .snoopData .. => h.execSnoopData ..
  | .requestFlit .. => h.execRequestFlit ..
  | .responseFlit .. => h.execResponseFlit ..
  | .dataFlit .. => h.execDataFlit ..
  | .creditFlit link seq ack bytes => h.execCreditFlit link seq ack bytes
  | .idleFlit link seq ack bytes => h.execIdleFlit link seq ack bytes
  | .flitReplay .. => h.execFlitReplay ..
  | .windowRequestTimeout .. => h.execWindowRequestTimeout ..
  | .getCertificate .. => h.execGetCertificate ..
  | .challenge .. => h.execChallenge ..
  | .getMeasurements .. => h.execGetMeasurements ..
  | .deviceReset .. => h.execDeviceReset ..
  | .firmwareResume .. => h.execFirmwareResume ..
  | .firmwareJobCancel .. => h.execFirmwareJobCancel ..
  | .haltRestart .. => h.execHaltRestart ..
  | .clusterGate .. => h.execClusterGate ..
  | .clusterUngate .. => h.execClusterUngate ..
  | .supplySag .. => h.execSupplySag ..
  | .debugLevelChange .. => h.execDebugLevelChange ..
  | .lifecycleChange .. => h.execLifecycleChange ..
  | .logClear .. => h.execLogClear ..
  | .malformedRecord .. => h.execMalformedRecord ..
  | .softError .. => h.execSoftError ..
  | .hsiftCompletion .. => h.execHsiftCompletion ..
  | .supervisorStart .. => h.execSupervisorStart hg ..
  | .nop => h.execNop
  | .ret => h.execRet
  | .brk => h.execBrk
  | .yield => h.execYield
  | .poll => h.execPoll
  | .taskend => h.execTaskend
  | .innflush => h.execInnflush
  | .drain => h.execDrain
  | .isync => h.execIsync
  | .eret => h.execEret
  | .halt => h.execHalt
  | .getDigests => h.execGetDigests
  | .throttle => h.execThrottle
  | .throttleRecovery => h.execThrottleRecovery
  | .standby => h.execStandby
  | .recovery => h.execRecovery

theorem keeps_exec (s : State) (i : Instr) : KeepsOut s (exec i s) := by
  by_cases hi : ∃ cluster room core, i = .roomDepart cluster room core
  · obtain ⟨cluster, room, core, rfl⟩ := hi
    exact keeps_execRoomDepart ..
  · exact ((From.refl s true).exec rfl fun cluster room core he => hi ⟨cluster, room, core, he⟩).keeps

end Sys2Proof.Machine
end

section
/-! What every step keeps: fetching, the turns of the agenda, issue selection, and the step itself (18_scheduling.md R406-R408). -/

namespace Sys2Proof.Machine

open Sys2Proof.Terms

variable {o : Origin} {s t u : State}

/-! ### Fetching -/

theorem From.left {β : Type} {r : State × β} (h : From o r.1) {b : β} (he : r = (t, b)) : From o t := by
  rw [he] at h
  exact h

theorem From.fetchMem (h : From o s) (a : Agent) (p : Path) (va : DWord) : From o (s.fetchMem a p va).1 := by
  have hc := h.checkBlock ⟨a.uid, a.place.coreId, a.job, p.priv, p.mask⟩ { need := .x } va 4
  unfold State.fetchMem
  extract_lets w t
  split
  · exact h
  · split
    · next heq => exact hc.left heq
    · next heq => exact hc.left heq
    · next heq => exact hc.left heq
    · next v pa n leaf heq =>
      have hv : From o v := hc.left heq
      split
      · extract_lets b
        exact .iteFst hv (hv.sendWin ..)
      · extract_lets line hit
        have hload := hv.loadNow w.core.cluster w.job line t (leaf.extractLsb' 60 3).toNat
        split
        · exact .ite (hv.snoopHost _) hv
        · next u d bad _ hu =>
          have hread : From o u := hload.out _ _ hu
          extract_lets floored wts raised
          have hfloored : From o floored := hread.foldl (fun _ _ h => h.floorLane ..) _
          have hraised : From o raised := hfloored.foldl (fun _ _ h => h.raiseLane ..) _
          exact .iteFst hraised hraised
    · next heq => exact hc.left heq

theorem From.fetchWord (h : From o s) (a : Agent) (p : Path) (va : DWord) : From o (s.fetchWord a p va).1 := by
  unfold State.fetchWord
  split
  · exact h
  · exact h.fetchMem ..

theorem From.fetchWords (h : From o s) (a : Agent) (p : Path) : From o (s.fetchWords a p).1 := by
  have h0 := h.fetchWord a p p.pc
  unfold State.fetchWords
  split
  · next heq => exact h0.left heq
  · next heq => exact h0.left heq
  · next u w0 heq =>
    have hu : From o u := h0.left heq
    have h1 := hu.fetchWord a p (p.pc + 4)
    refine .iteFst hu (.iteFst hu ?_)
    split
    · next heq => exact h1.left heq
    · next heq => exact h1.left heq
    · next v w1 heq =>
      have hv : From o v := h1.left heq
      have h2 := hv.fetchWord a p (p.pc + 8)
      refine .iteFst hv ?_
      split
      · next heq => exact h2.left heq
      · next heq => exact h2.left heq
      · next heq => exact h2.left heq

theorem From.fetchInstr (h : From o s) (a : Agent) (p : Path) : From o (s.fetchInstr a p).1 := by
  have hw := h.fetchWords a p
  refine .iteFst h ?_
  dsimp only
  split
  · exact hw.updPath ..
  · exact hw

theorem From.countIssue (h : From o s) (a : Agent) (p : Path) : From o (s.countIssue a p) :=
  From.foldl (.ite (h.tally ..) h) (fun _ _ ht => .ite ht (ht.updLane ..)) _

theorem From.pendingTrap (h : From o s) : FromOpt o s.pendingTrap := by
  unfold State.pendingTrap
  split
  · exact .none
  · split
    · exact .none
    · split
      · exact .none
      · extract_lets other
        split
        · exact .some h
        · split
          · exact .some (h.doubleTrap ..)
          · exact .some (((h.withdraw ..).enterTrap ..).settle _)

/-! ### Turns that are no rows of the table -/

theorem From.clockTurn (h : From o s) (die n : Nat) : From o (s.clockTurn die n) := by
  refine .ite h (From.foldl ?_ (fun _ _ ht => ht.tally ..) _)
  exact h

theorem From.fetchAheadTurn (h : From o s) (uid : Nat) (b : Bool) (va : DWord) : From o (s.fetchAheadTurn uid b va) := by
  unfold State.fetchAheadTurn
  split
  · exact h
  · next a _ =>
    split
    · exact h
    · next p _ =>
      have hf := h.fetchMem a p va
      split
      · next heq => rw [heq] at hf; exact hf.updPath ..
      · exact h

theorem From.dropStampsTurn (h : From o s) (line : Nat) : From o (s.dropStampsTurn line) := .ite (h.setHome ..) h

theorem From.hostRegisterTurn (h : From o s) (r : HostReg) : From o (s.hostRegisterTurn r) := by
  unfold State.hostRegisterTurn
  split
  · exact h
  · exact h
  · exact h

theorem From.bar2WriteTurn (h : From o s) (off : Nat) (bytes : List Byte) : FromOut o (bar2WriteTurn off bytes s) :=
  .ite (h.execDbell ..) (.next h)

theorem From.flitInTurn (h : From o s) (link : Nat) (raw : List Byte) : FromOut o (flitInTurn link raw s) := by
  unfold Machine.flitInTurn
  split
  · exact .next h
  · next f _ =>
    extract_lets bytes
    split
    · exact h.execRequestFlit ..
    · exact h.execResponseFlit ..
    · exact h.execDataFlit ..
    · exact h.execCreditFlit _ _ _ bytes
    · exact h.execIdleFlit _ _ _ bytes

theorem From.debugReadTurn (h : From o s) (uid lane : Nat) (r : DebugReg) : From o (s.debugReadTurn uid lane r) := by
  unfold State.debugReadTurn
  split
  · exact .ite h h
  · exact h

theorem From.debugWriteTurn (h : From o s) (uid lane : Nat) (r : DebugReg) (v : DWord) :
    From o (s.debugWriteTurn uid lane r v) := by
  unfold State.debugWriteTurn
  split
  · exact h
  · refine .ite h ?_
    split
    · exact h.updLane ..
    · exact h.updAgent (fun a => tag_setSreg ..) _
    · exact h.updLane ..
    · exact .ite h ((h.cregLane ..).cregOnce ..)

theorem From.debugHaltTurn (h : From o s) (uid : Nat) : From o (s.debugHaltTurn uid) :=
  .ite h (h.updAgent (fun a => tag_mapPaths ..) uid)

/-! ### Issue selection -/

theorem From.noteReady (h : From o s) (c : CoreId) : From o (s.noteReady c) := h

theorem From.noteSelected (h : From o s) (c : CoreId) (x : Nat × Bool) : From o (s.noteSelected c x) := by
  have hm := h.mapUnits (f := fun a => if a.place.coreId = c then { a with behind := false } else a) fun a => by split <;> rfl
  exact hm

/-! ### The step -/

theorem KeepsOut.trans {r : Host.Outcome State Fault Refusal} (hst : Keeps s t) (h : KeepsOut t r) : KeepsOut s r :=
  ⟨fun u hu => hst.trans (h.out u hu)⟩

/-- What every outcome ends with keeps the invariants; the queue windows are read from any state. -/
theorem KeepsOut.mirrored {r : Host.Outcome State Fault Refusal} (h : KeepsOut s r) (s0 : State) : KeepsOut s (mirrored s0 r) := by
  cases r with
  | next t => exact .next ((h.out t rfl).trans (From.mirror (From.writeCoachFaults (From.dropOrphans (.refl t false))) s0).keeps)
  | _ => exact h

theorem keeps_issueStep (s : State) : KeepsOut s (issueStep s) := by
  have h := From.refl s false
  unfold Machine.issueStep
  split
  · next t ht => exact .next (h.pendingTrap.out t ht).keeps
  · split
    · exact .next h.keeps
    · next a p _ _ =>
      split
      · exact .next h.keeps
      · have hf := h.fetchInstr a p
        split
        · next t i heq =>
          have ht : From ⟨s, false⟩ t := hf.left heq
          exact .trans (ht.countIssue a p).keeps (keeps_exec ..)
        · next heq => exact .trans (hf.left heq).keeps (keeps_exec ..)
        · next heq => exact .trans (hf.left heq).keeps (keeps_exec ..)
        · next heq => exact .next (hf.left heq).keeps

theorem keeps_retryStep (xs : List (Nat × Bool)) (s : State) : KeepsOut s (retryStep xs s) := by
  induction xs generalizing s with
  | nil => exact .next (.refl s)
  | cons x xs ih =>
    have hfocus : From ⟨s, false⟩ { s with focus := some x } := From.refl s false
    have hx := KeepsOut.mirrored (.trans hfocus.keeps (keeps_issueStep _)) s
    unfold Machine.retryStep
    split
    · next t ht => exact .trans (hx.out t ht) (ih t)
    · exact hx

theorem keeps_coreStep (c : CoreId) (s : State) : KeepsOut s (coreStep c s) := by
  have hr := keeps_retryStep (s.waitingPaths c) s
  unfold Machine.coreStep
  split
  · next t ht =>
    extract_lets r
    refine .trans ((hr.out t ht).trans (From.noteReady (.refl t false) c).keeps) ?_
    split
    · next x _ => exact .mirrored (.trans (From.noteSelected (.refl r false) c x).keeps (keeps_issueStep _)) r
    · exact .next (.refl r)
  · exact hr

/-- An event at its turn is performed or passed over. -/
theorem turnStep_event (e : Instr) (s : State) : turnStep (.event e) s = exec e s ∨ turnStep (.event e) s = .next s := by
  have hite : turnStep (.event e) s = (if e.isEvent && s.answers e then exec e s else .next s) ∨
      turnStep (.event e) s = .next s := by
    cases e with
    | illegalInstruction | fetchFault => exact .inr rfl
    | _ => exact .inl rfl
  obtain hite | hnext := hite
  · rw [hite]
    split
    · exact .inl rfl
    · exact .inr rfl
  · exact .inr hnext

theorem keeps_turnStep (tn : Turn) (s : State) : KeepsOut s (turnStep tn s) := by
  have h := From.refl s false
  cases tn with
  | core c => exact keeps_coreStep ..
  | event e =>
    obtain hs | hs := turnStep_event e s
    · exact hs ▸ keeps_exec s e
    · exact hs ▸ .next (.refl s)
  | clock die n => exact .next (h.clockTurn ..).keeps
  | timebase n =>
    have ht : From ⟨s, false⟩ { s with timebase := s.timebase + n } := h
    exact .next ht.keeps
  | fetchAhead uid b va => exact .next (h.fetchAheadTurn ..).keeps
  | dropStamps line => exact .next (h.dropStampsTurn ..).keeps
  | assignCounter num job => exact .next (h.assignTurn ..).keeps
  | setPeer link peer => exact .next (h.setPeerTurn ..).keeps
  | hour die temp volt => exact .next (h.hourTurn ..).keeps
  | setDecoder k base => exact .next (h.setDecoderTurn ..).keeps
  | setNumber n => exact .next (h.setNumberTurn ..).keeps
  | hostRegister r => exact .next (h.hostRegisterTurn ..).keeps
  | bar2Write off bytes => exact (h.bar2WriteTurn ..).keeps
  | flitIn link raw => exact (h.flitInTurn ..).keeps
  | portRetry => exact .next (h.countRetry ..).keeps
  | bringUpFails image st => exact .next (h.bringUpFailsTurn ..).keeps
  | debugHalt uid => exact .next (h.debugHaltTurn ..).keeps
  | debugRead uid lane r => exact .next (h.debugReadTurn ..).keeps
  | debugWrite uid lane r v => exact .next (h.debugWriteTurn ..).keeps

theorem keeps_step (s : State) : KeepsOut s (step s) := by
  unfold Machine.step
  split
  · exact .mirrored (keeps_issueStep s) s
  · next tn rest _ =>
    have hrest : From ⟨s, false⟩ { s with agenda := rest } := From.refl s false
    exact .mirrored (.trans hrest.keeps (keeps_turnStep tn _)) s

/-- Settles O5: a next state comes from the state before it by the operations of `From`, and by the departure of a room; each of
them keeps the four invariants. -/
theorem stepKeepsInvariants : Obligations.StepKeepsInvariants := by
  intro s t hstep
  obtain ⟨hpaired, hmem, hlwords, hhomes⟩ := (keeps_step s).out t hstep
  exact ⟨hpaired, hmem, hlwords, hhomes⟩

end Sys2Proof.Machine
end
